-- ==== Sys2Proof/Word.lean ====
section
/-!
DEFINITION. The words of the model: bytes and words as the spec's fields have them (R5, R6: bit 0 is the least
significant, multi-byte fields are little-endian), the indices of the fixed numbers of units (R11), and the sparse
table by which State holds every large array of the device as plain data.
-/
namespace Sys2Proof

abbrev Byte := BitVec 8
abbrev Half := BitVec 16
abbrev Word := BitVec 32
abbrev DWord := BitVec 64

/-- Gather 0–63 of the half served (R11). -/
abbrev GIx := Fin 64
/-- Pin 0–15 of a gather, also one of its sixteen gather lines (R11, R318). -/
abbrev PIx := Fin 16
/-- Source/measure unit or time-interval unit 0–3 of a gather (R11). -/
abbrev UIx := Fin 4
/-- Sentinel, precision ADC channel or digitiser 0–1 of a gather (R11). -/
abbrev Two := Fin 2
/-- Tile 0–3 (R11). -/
abbrev TIx := Fin 4

/-- A sparse table: the value of an index that the list does not name is the table's default, which each reader gives. -/
abbrev Tab (α : Type) := List (Nat × α)

end Sys2Proof
end

