-- ==== Sys2Proof/Syntax.lean ====
section
/-!
DEFINITION. The commands of the block: one constructor of `Instr` for every row of spec/opcode_table.json.

A firmware command (Tables 16-7, 2-3, 3-11, …) carries a `Req`: the fields of the request header of Table 16-2 with the
mailbox that holds it, and its payload bytes; OPCODE is the row itself and LENGTH the number of payload bytes. Every other
row is an event of the hardware, and carries what comes from outside the block with it: which unit it concerns and what was
seen there (a comparator's sides, a converter's code, a stamp, a reading). A span of time that decides an outcome is given
with its event. Units are named by bounded indices, so no row can name a unit that does not exist.
-/
namespace Sys2Proof

/-- A request as R399 and Table 16-2 lay it out, OPCODE and LENGTH apart: `flags` is FLAGS at offset 12, `rsv` the reserved
half at offset 14. `mbx` is the mailbox that holds the request (R394; mailbox 7 takes no request). -/
structure Req where
  mbx : Fin 7
  tag : Half
  target : Word
  flags : Half
  rsv : Half
  payload : List Byte
  deriving DecidableEq, Repr

/-- A sequencer: a gather's own, or the device-level sequencer of one of the four broadcast programs (R109). -/
inductive Seqr where
  | gather (g : GIx)
  | prog (p : Fin 4)
  deriving DecidableEq, Repr

/-- What a comparator side reads: crossed, not crossed, or UNRESOLVED (R181). -/
inductive Side where
  | clear
  | crossed
  | unresolved
  deriving DecidableEq, Repr

/-- A comparator whose output follows its input (R146, R171, R174), with the voltage in µV that its input now has: a pin's window
comparator, or a sentinel. -/
inductive CmpEvent where
  | pin (g : GIx) (p : PIx) (uv : Int)
  | sentinel (g : GIx) (n : Two) (uv : Int)
  deriving DecidableEq, Repr

/-- The comparator states seen in one strobe window of the granule that begins: pin `p` of gather `g` in vector `vec`, the
2-bit states of Table 6-1 in order. A strobe for which nothing is given sees the comparator's present state throughout. -/
structure Obs where
  g : GIx
  vec : Fin 32
  p : PIx
  states : List (BitVec 2)
  deriving DecidableEq, Repr

/-- What raises a jump request (R61, Table 3-4): a failing strobe, a compliance comparator, a stream underrun, a sequencer
event input, a granule of a MATCH body in which every compare passes. -/
inductive Cause where
  | fail
  | compliance
  | underrun
  | evt (k : PIx)
  | matched
  deriving DecidableEq, Repr

/-- The level read at a ball whose receiver has hysteresis (R246, R337, R576). -/
inductive Lvl where
  | low
  | high
  | mid
  deriving DecidableEq, Repr

/-- The two chain-port paths (R387): SEL_N to the front registers, ASEL_N to the Ampoule window. -/
inductive Path where
  | front
  | window
  deriving DecidableEq, Repr

/-- The measured LEAD, LAG and GAP of a transfer, in ns (R384). -/
structure Delays where
  lead : Nat
  lag : Nat
  gap : Nat
  deriving DecidableEq, Repr

/-- A frame as its device latched it (Table 15-1, OP apart, which is the row), with the transfer it ended: the bits shifted,
the measured LEAD, LAG and GAP in ns (R384), whether both selects were low at the release (R387), and whether the transfer
overlapped a reset (R376). -/
structure Frame where
  cnt : Byte
  addr : BitVec 12
  data : DWord
  seq : Byte
  flags : Byte
  rsv : Byte
  crc : Half
  bits : Nat
  lead : Nat
  lag : Nat
  gap : Nat
  clash : Bool
  overReset : Bool
  deriving DecidableEq, Repr

/-- Why a received Ethernet frame is discarded (R422, R423, R426). -/
inductive FrameFault where
  | tagged
  | badFcs
  | fragment
  | misaddressed
  | foreignHost
  | pauseFrame
  deriving DecidableEq, Repr

/-- What a port sees of a received Ethernet frame: its length in bytes, whether it is VLAN-tagged, its FCS is right, it is a PAUSE frame, it carries an
IP fragment; the MAC address it is sent to, its IP destination or, for ARP and neighbour solicitation, the address it asks for, and its IP source. -/
structure EthFrame where
  length : Nat := 64
  tagged : Bool := false
  fcsOk : Bool := true
  pause : Bool := false
  fragment : Bool := false
  dstMac : BitVec 48 := 0
  dstIp : List Byte := []
  srcIp : List Byte := []
  deriving DecidableEq, Repr

/-- The requests a port answers for its own addresses (R423). -/
inductive EchoKind where
  | arp
  | neighbour
  | icmp
  | icmp6
  deriving DecidableEq, Repr

/-- A Sync (R435): the quarters of a ns past the last TSCLK edge at which it arrives, its origin in ns, its correction in 2^-16 ns, the log of its
interval, and whether a Follow_Up comes. [DESIGN CHOICE, unsafe: log 131.] -/
structure PtpSync where
  quarter : Fin 16
  origin : Nat
  corr : Int
  log : Int
  twoStep : Bool
  deriving DecidableEq, Repr

/-- What the clock inputs carry at start-up: REFCLK, and on TREF nothing, 10 MHz or 100 MHz. -/
structure Clocks where
  refclk : Bool
  tref : Option Bool
  deriving DecidableEq, Repr

/-- The PTP messages other than Sync (R435): with `corr` and `turn` in 2^-16 ns, `origin` and `received` in ns, the MAC's own stamp of a
message that Etwyn sent in quarters of a ns, and `quarter` the quarters of a ns past the last TSCLK edge at which a message arrives. [DESIGN CHOICE, unsafe: log 131.] -/
inductive PtpMsg where
  | announce (grandmaster : DWord) (better : Bool)
  | followUp (origin : Nat) (corr : Int)
  | delayResp (egress received : Nat) (corr : Int)
  | pdelayResp (egress : Nat) (quarter : Fin 16) (turn : Int)
  | pdelayReq (quarter : Fin 16) (egress : Nat)
  deriving DecidableEq, Repr

/-- The nine rails of Table 21-1. -/
inductive Rail where
  | vddao | vdd | vddm | vddio | vdda | vddamp | vddampa | vph | vpl
  deriving DecidableEq, Repr

/-- A trigger input of the Ampoule (R212): gather line G14 of a gather, device line D56–D63, or a time-compare match. -/
inductive AmpTrig where
  | g14 (g : GIx)
  | dline (k : Fin 8)
  | tcmp (n : Fin 16)
  deriving DecidableEq, Repr

/-- The classes of an element of a foreground calibration step (Table 14-1), with its index within the gather. -/
inductive CalEl where
  | tiu (u : UIx)
  | dig (d : Two)
  | smu (u : UIx)
  | level (p : PIx)
  | cmp (p : PIx)
  | timing (p : PIx)
  | ball (p : PIx)
  deriving DecidableEq, Repr

/-- What fires a digitiser's trigger (Table 12-3; CAP_FORCE is a command): the codes of base-rate samples k and k + 1, which bracket LEVEL, with
that of the sample that passes the trip point; a delay-line stamp on the line; one on the pattern, with the latest base-rate sample of
each of the gather's digitisers; or the DGCLK edge that registers a match. The number k, the stamp or the edge stands beside it in the row;
stamps and edges count from arming (R301). -/
inductive CapFire where
  | level (a b c : Int)
  | line
  | pattern (s0 s1 : Int)
  | time
  deriving DecidableEq, Repr

/-- The three PLLs of PLL_LOSS (Table 19-4). -/
inductive Pll where
  | timing | system | dram
  deriving DecidableEq, Repr

/-- What the twin's link traffic on mailbox 4 carries (R45, R458, R464, R469, R480; the frames themselves are internal, R451):
a forwarded part of a twin-spanning command, the report of one (its status at the twin, and by position whether a member fails and its record), a
mirrored checkpoint or marker, a shadow write, the return of a half as its writes and checkpoints, or a forwarded DORMANT request. -/
inductive LinkMsg where
  | forwarded (opcode : Half) (r : Req)
  | report (mbx : Fin 7) (tag : Half) (status : Half) (records : List (Nat × Bool × List Byte))
  | checkpoint (bytes : List Byte)
  | marker (bytes : List Byte)
  | shadow (opcode : Half) (r : Req)
  | halfBack (writes : List (Half × Req)) (checkpoints : List (List Byte))
  | dormant
  deriving DecidableEq, Repr

/-- The commands of the block, in the table's order: one constructor for each row of spec/opcode_table.json. -/
inductive Instr where
  -- mailboxes, chain port (chapters 15, 16)
  | mbxDoorbell (m : Fin 8)
  | responseAck (m : Fin 8) (offset : BitVec 12) (word : Word)
  | notifyBatchForm
  | notifyBatchAck (offset : BitVec 12) (word : Word)
  | mbxDataAccess (path : Path) (write : Option Word)
  | chnTimingWrite (value : Word)
  | holdingWordRead (path : Path) (addr : BitVec 12)
  | timeSnapRead (path : Path)
  | registerWrite (path : Path) (addr : BitVec 12) (value : Word)
  | chainNop (path : Path) (op : BitVec 4) (f : Frame)
  | chainRd (path : Path) (f : Frame)
  | chainWr (path : Path) (f : Frame)
  | chainRdb (path : Path) (f : Frame)
  | chainWrb (path : Path) (f : Frame)
  | chainByp (path : Path) (f : Frame)
  | chainBurstTransfer (bits sdi : Nat) (delays : Delays) (clash overReset : Bool)
  | chainStallTimeout
  -- Ethernet, time, result delivery (chapter 17)
  | udpRequest (port : Two) (frame : EthFrame) (mbx : Byte) (xseq : Word) (body : List Byte)
  | udpAck (port : Two) (frame : EthFrame) (mbx : Byte) (word : Word)
  | udpPoll (port : Two) (frame : EthFrame) (mbx : Byte)
  | responseResendTimer (m : Fin 8)
  | arpNeighbourEcho (port : Two) (frame : EthFrame) (kind : EchoKind)
  | ethLinkUp (port : Two)
  | ethLinkLoss (port : Two)
  | ptpSync (port : Two) (m : PtpSync)
  | syncTimeout
  | tcmpFire (n : Fin 16)
  | exportDatagramSend
  | exportAck (fromDest crcOk : Bool) (ackSeq : Word) (naks : List Word)
  | exportRto (seq : Word)
  -- Hatch and comparators (chapters 7, 13)
  | trigInEdge (j : Fin 4) (level : Lvl)
  | relayPulse (r : Fin 16)
  | stormLimit (line : Half)
  | ringDetect (line : Half)
  | notifyCoalesceEnd (line : Half)
  | evqLostPost
  | haltNReceive
  | comparatorChange (e : CmpEvent)
  | modeChangeHoldEnd (e : CmpEvent)
  | sentinelDwellEnd (g : GIx) (n : Two)
  -- pins (chapter 6)
  | driverOvercurrent (g : GIx) (p : PIx)
  | deglitchRelease (g : GIx) (p : PIx)
  | levelOrderedLatch (g : GIx) (p : PIx)
  | dacSettled (m : Fin 7)
  | clearNAssert (pulseNs : Nat)
  | headroomClamp (vphUv vplUv : Int)
  -- source/measure units (chapter 8)
  | complianceSwitch (g : GIx) (u : UIx) (value : Int)
  | openLoopDetect (g : GIx) (u : UIx)
  | rangeStepEnd (g : GIx) (u : UIx)
  | smuMeasureTrigger (m : Fin 7)
  | smuConversion (g : GIx) (u : UIx) (code : Int)
  | smuMeasureComplete (m : Fin 7)
  -- strokes (chapters 3, 4)
  | strokeStartTrigger (q : Seqr)
  | jumpRequest (q : Seqr) (cause : Cause) (cycle : Nat)
  | granuleBoundary (q : Seqr) (obs : List Obs)
  | checkpointEntryFree (g : GIx)
  | resolutionComplete (q : Seqr)
  | etchBeginMarkerDurable (g : GIx)
  | etchEndMarkerWrite (g : GIx)
  | streamGranulePresent (g : GIx)
  | stallResume (q : Seqr)
  | stallLimitExpiry (q : Seqr)
  | haltHoldExpiry (g : GIx)
  | bcastPrimeComplete (p : Fin 4)
  -- Ampoule, seal, background calibration (chapters 9, 10, 14)
  | ampTrigger (t : AmpTrig)
  | ampTriggerTimeout (g : GIx) (c : Two)
  | ampConversionEnd (g : GIx) (c : Two) (code : Int) (inj : Int)
  | ampAnswerPost (g : GIx) (c : Two)
  | claimGrant (g : GIx) (c : Two)
  | spanPhaseEnd (g : GIx)
  | excOutOfRange (g : GIx) (uv : Int)
  | modclkLockLoss
  | modclkLockReturn
  | ampRailLoss
  | ampouleStart (romOk : Bool)
  | refpCheckDue (g : GIx) (c : Two)
  | refpCheckEnd (g : GIx) (c : Two) (uv : Int) (residuals : List Int)
  | selfTraffic (g : GIx) (c : Two) (code : Int) (inj : Int)
  | codeDensityDue (g : GIx)
  | codeDensityEnd (g : GIx) (inlPpb : Nat)
  | calBlockStale (g : GIx) (c : Two) (range : Fin 4) (offset : Bool)
  | compensationUpdate (g : GIx) (c : Two) (range : Fin 4)
  | sealOpen
  | adjustmentGatherDone (g : GIx)
  | sealClose
  | signingIndexReserved (ok : Bool)
  | sheetSealed
  | level1TreeDone
  | adjustCommitDurable
  -- time-interval units (chapter 11)
  | tiuGate (g : GIx) (u : UIx) (asserted : Bool)
  | tiuGateTimeout (g : GIx) (u : UIx)
  | tiuWindowEnd (g : GIx) (u : UIx)
  | tiuEdgeStamp (g : GIx) (u : UIx) (stop : Bool) (place : Fin 768) (rising inWindow : Bool)
  | tiuServiceOverflow (g : GIx) (u : UIx)
  | trefLoss
  | trefReturn (mhz100 : Bool)
  | tuclkWrap
  -- capture (chapter 12)
  | capTrigger (g : GIx) (d : Two) (fire : CapFire) (place : Nat)
  | capArbitrationEnd (g : GIx) (d : Two)
  | capItemWrite (g : GIx) (d : Two) (samples : List Int) (drained : Nat)
  | capRecordEnd (g : GIx) (d : Two)
  | capHoldoffEnd (g : GIx) (d : Two)
  | capConverterReady (g : GIx) (d : Two)
  -- foreground calibration (chapter 14)
  | tempRead (t : TIx) (readings : List Int)
  | tjCrit (sensor : Fin 16) (reading : Int)
  | calStepStart (g : GIx) (e : CalEl)
  | calStepEnd (g : GIx) (e : CalEl) (figure : Int) (more : List Int)
  | calwinIsolationClose (g : GIx)
  | calOverdueTimer (t : TIx)
  | calStoreDataDone
  | calStoreCommitDone
  -- faults (chapter 19)
  | faultOccurrence (src scope : Half) (detail : Word)
  | faultLogWrite
  | safeReleaseCheck
  | replayStart (site : Fin 128)
  | vfyOutcomeWrite (g : GIx)
  | watchdogExpiry
  | fclkGap
  | collectorMismatch
  | refclkLoss
  | pllLoss (p : Pll)
  | railOutOfWindow (r : Rail) (mv : Int)
  | peRailArm
  -- counterproof (chapter 18)
  | linkPaired (matching shadows : Bool)
  | twinAbsentTimeout
  | heartbeatSend
  | heartbeatTimeout
  | mirrorAckTimeout
  | linkLoss
  | annealFrame
  | mirrorEntryAck (seq : Nat)
  | twinLinkFrame (m : LinkMsg)
  | dormantFrame
  | wakeLinkTimeout
  | hosOwnerWaitExpiry
  | hosSilenceExpiry
  | hosEdgeSeen
  | hosReadbackConflict
  | hosRefresh
  | hosBeacon
  | turnChange
  | turnSwapDone
  | turnLimitExpiry
  -- power, reset, start-up (chapter 21)
  | pfailAssert (pulseNs : Nat)
  | pfailHighExpiry
  | resetNAssert (pulseNs : Nat)
  | powerOnReset (vddaoLost : Bool)
  | resetTimer
  | startup (chainPos : BitVec 6) (chainLast twinId : Bool) (slotA slotB calNewer calOlder : Bool) (clocks : Clocks)
  | wipeEnd
  | dormantEntryDone
  | wakeNAssert (restored : Bool) (dormantNs : Nat)
  -- SYS (chapter 16)
  | sysPing (r : Req)
  | sysInfo (r : Req)
  | sysMbxInfo (r : Req)
  | sysFence (r : Req)
  | sysReset (r : Req)
  | sysPower (r : Req)
  -- UNIT/CANE (chapter 2)
  | unitInfo (r : Req)
  | caneDefine (r : Req)
  | caneDelete (r : Req)
  | caneQuery (r : Req)
  | caneMask (r : Req)
  | caneList (r : Req)
  -- STROKE (chapter 3)
  | strokeLoad (r : Req)
  | tsetLoad (r : Req)
  | strokeStart (r : Req)
  | strokeHalt (r : Req)
  | strokeStatus (r : Req)
  | strokeRead (r : Req)
  | seqConfig (r : Req)
  -- STREAM/STENCIL (chapter 4)
  | vmemWrite (r : Req)
  | vmemRead (r : Req)
  | vmemPin (r : Req)
  | streamOpen (r : Req)
  | streamClose (r : Req)
  | streamWrite (r : Req)
  | bcastLoad (r : Req)
  | bcastStart (r : Req)
  | bcastUnload (r : Req)
  | stencilLoad (r : Req)
  | stencilClear (r : Req)
  | streamStatus (r : Req)
  -- UCODE (chapter 5)
  | ucodeLoad (r : Req)
  | ucodeClear (r : Req)
  | ucodeQuery (r : Req)
  | ucodeRead (r : Req)
  -- PIN (chapters 6, 7)
  | pinConfig (r : Req)
  | pinLevels (r : Req)
  | pinLoad (r : Req)
  | pinClearCodes (r : Req)
  | pinComparator (r : Req)
  | pinRelease (r : Req)
  | pinStatus (r : Req)
  | pinRead (r : Req)
  | sentConfig (r : Req)
  | sentStatus (r : Req)
  | contactCheck (r : Req)
  -- SMU (chapter 8)
  | smuConfig (r : Req)
  | smuForce (r : Req)
  | smuSafe (r : Req)
  | smuTrip (r : Req)
  | smuMeasure (r : Req)
  | smuRelease (r : Req)
  | smuStatus (r : Req)
  | smuRead (r : Req)
  -- AMP (chapters 9, 10)
  | ampIdent (r : Req)
  | ampConnect (r : Req)
  | ampDisconnect (r : Req)
  | ampConvert (r : Req)
  | ampBridge (r : Req)
  | ampBridgeStatus (r : Req)
  | ampStatus (r : Req)
  | ampSheetClose (r : Req)
  | ampSheetRead (r : Req)
  | ampAdjust (r : Req)
  | ampCounter (r : Req)
  | ampRefcheck (r : Req)
  -- TIU (chapter 11)
  | tiuConfig (r : Req)
  | tiuStart (r : Req)
  | tiuAbort (r : Req)
  | tiuStamps (r : Req)
  | tiuStatus (r : Req)
  | tiuSelftest (r : Req)
  | tiuRead (r : Req)
  -- CAP (chapter 12)
  | capConfig (r : Req)
  | capLimits (r : Req)
  | capArm (r : Req)
  | capForce (r : Req)
  | capAbort (r : Req)
  | capStatus (r : Req)
  | capHeader (r : Req)
  | capRead (r : Req)
  | capReadCfg (r : Req)
  -- HATCH (chapter 13)
  | hatchLineConfig (r : Req)
  | hatchProducer (r : Req)
  | hatchForward (r : Req)
  | hatchTask (r : Req)
  | hatchBind (r : Req)
  | hatchGroup (r : Req)
  | hatchRestore (r : Req)
  | hatchPulse (r : Req)
  | hatchStatus (r : Req)
  -- CAL (chapter 14)
  | calConfig (r : Req)
  | calPinmask (r : Req)
  | calRun (r : Req)
  | calStatus (r : Req)
  | calQuality (r : Req)
  | calStore (r : Req)
  | calTemps (r : Req)
  -- TIME/NET (chapter 17)
  | netConfig (r : Req)
  | netStatus (r : Req)
  | ptpConfig (r : Req)
  | timeStatus (r : Req)
  | timeAdjust (r : Req)
  | timeStep (r : Req)
  | tcmpArm (r : Req)
  | tcmpStatus (r : Req)
  | exportOpen (r : Req)
  | exportClose (r : Req)
  | exportStatus (r : Req)
  | exportResend (r : Req)
  -- TWIN/JOURNAL (chapter 18)
  | twinConfig (r : Req)
  | twinStatus (r : Req)
  | twinHalf (r : Req)
  | twinRelease (r : Req)
  | jrnConfig (r : Req)
  | jrnCheckpoint (r : Req)
  | jrnMarkers (r : Req)
  | jrnReport (r : Req)
  -- FAULT (chapter 19)
  | fltRead (r : Req)
  | fltAck (r : Req)
  | fltForce (r : Req)
  | fltConfig (r : Req)
  | fltLog (r : Req)
  | fltRelease (r : Req)
  -- SEC/LIFECYCLE (chapter 20)
  | secCert (r : Req)
  | secAttest (r : Req)
  | imgWrite (r : Req)
  | imgCommit (r : Req)
  | imgActivate (r : Req)
  | imgStatus (r : Req)
  | lcChallenge (r : Req)
  | lcCsr (r : Req)
  | lcInstall (r : Req)
  | lcTransition (r : Req)
  -- the rows at the table's end
  | clearNRelease
  | haltNRelease
  | heartbeatReceive (state : BitVec 3) (mirrorSeq : Nat) (ownsBus : Bool)
  | counterproofLinkUp
  | ptpMessage (port : Two) (m : PtpMsg)
  | faultCauseClear (src scope : Half)
  | mpTick
  | jtagUpdateIr (ir : Byte)
  | jtagUpdateDr (cells : BitVec 39)
  | jtagTestLogicReset
  | clip (g : GIx) (uv : Int)
  | smuOutputSettled (m : Fin 7)
  | exportCloseTimeout
  deriving DecidableEq, Repr

end Sys2Proof
end

