-- ==== Sys2Proof/Decode.lean ====
section
/-!
DEFINITION. What a word spells by the bits of spec/opcode_table.json: its rows give no bits (their "fields" are empty), so no word spells a
command. The block takes its commands whole, from its queue.
-/
namespace Sys2Proof

/-- No row of the table gives bits, so no word spells a command. [DESIGN CHOICE, safe: log 20.] -/
def decodeTableWord (_nbits _w : Nat) : Option Instr := none

end Sys2Proof
end

