-- ==== Sys2Proof/Config.lean ====
section
/-!
DEFINITION. What the spec leaves open: uninterpreted constants, one for each kind of open value. None has a body, so no proof
can learn a value; a statement that mentions one holds whatever it is. Most are applied to `State.freeCount`, a counter that
each use advances, so that two uses are two values.
-/
namespace Sys2Proof.Config

/-- The FCLK tick of an occurrence (Table 19-6): the FCLK oscillator is independent (R23). [DESIGN CHOICE, safe: log 5, 112.] -/
opaque fclkTick : Nat → BitVec 32

/-- The ROM microword at an address 0x000–0xBFF (R128): fixed for stepping B0, and not listed. [DESIGN CHOICE, safe: log 35.] -/
opaque romWord : Nat → BitVec 24

/-- The ROM address at which an opcode's routine begins (R131, DISP); the argument is the opcode. [DESIGN CHOICE, safe: log 35.] -/
opaque romEntry : Nat → Nat

/-- The opcode in whose routine a ROM address stands (R128, R132). -/
opaque romRoutine : Nat → Nat

/-- The stroke-entry field that LDF's SEL names (R131); arguments SEL and the entry. [DESIGN CHOICE, safe: log 35.] -/
opaque ldField : Nat → BitVec 128 → BitVec 24

/-- The status flag or advisory that a JMP or SETF names by SEL (R131): 0–4 the flags WAIT_LATE to ETCH_OPEN of STROKE_STATUS, 5–8 the advisories
RDV_NONE, SEQ_LATE, CHECKPOINT_WAIT and the not-at-speed flag, any other a flag of its own. [DESIGN CHOICE, safe: log 35.] -/
opaque flagNumber : Nat → Nat

/-- The MAC address of a port, by the words of DEVICE_ID from which it is derived and the port (R423). [DESIGN CHOICE, safe: log 76.] -/
opaque macOf : List (BitVec 32) → Nat → BitVec 48

/-- The words ID_DEV0–ID_DEV3 of DEVICE_ID (Table 15-5): from OTP, one value per device. [DESIGN CHOICE, safe: log 76.] -/
opaque deviceId : Nat → BitVec 32

/-- The same words of the partner's DEVICE_ID, as it reports them (R481). [DESIGN CHOICE, safe: log 76, 94.] -/
opaque partnerId : Nat → BitVec 32

/-- The run epoch of the Marver's factory set (R361). [DESIGN CHOICE, unsafe: log 16.] -/
opaque factoryEpoch : BitVec 32

/-- T_LAST of each tile in the Marver's factory set (R361), in 0.01 K. [DESIGN CHOICE, unsafe: log 16.] -/
opaque factoryLast : Nat → Int

/-- A coefficient of an element in the Marver's factory set (R361), by element and index. [DESIGN CHOICE, safe: log 147.] -/
opaque factoryCoef : Nat → Nat → Int

/-- What a calibration measures as a coefficient, and what it chooses among redundant elements, by the count of open values used so far and the
index of the value. [DESIGN CHOICE, safe: log 147.] -/
opaque measured : Nat → Nat → Int
/-- The choice; see `measured`. [DESIGN CHOICE, safe: log 147.] -/
opaque chosen : Nat → Nat → Nat

/-- The level of SEAL_N's receiver between two dwells (Table 10-1), by the count of open values used so far and the time. [DESIGN CHOICE, safe: log 125.] -/
opaque sealLevel : Nat → Nat → Nat

/-- Any other open value, by the count of open values used so far. [DESIGN CHOICE, safe: log 5.] -/
opaque free : Nat → Nat

/-- An open choice between two allowed courses, by the count of open values used so far. [DESIGN CHOICE, safe: log 5.] -/
opaque choice : Nat → Bool

/-- The CRC-24 check over the value of an HSS ring word (R266), whose polynomial is not given. [DESIGN CHOICE, unsafe: log 135.] -/
opaque crc24 : Nat → BitVec 24

/-- The bytes of the Ampoule's ROM legal firmware (R257). [DESIGN CHOICE, safe: log 55.] -/
opaque ampRom : List Byte

/-- The configuration digest of a gather (chapter 18), the RESULT digest, MACs and other digests whose inputs are internal:
a function of the bytes the model gives it. [DESIGN CHOICE, safe: log 77.] -/
opaque digest : Nat → List Byte → List Byte

/-- A signature by the device's or the Ampoule's keys over some bytes; the first argument names the key. [DESIGN CHOICE, safe: log 76.] -/
opaque signature : Nat → List Byte → List Byte

/-- Does a signature verify? The first argument names the key or certificate, then the signed bytes, then the signature. [DESIGN CHOICE, safe: log 76.] -/
opaque verifies : Nat → List Byte → List Byte → Bool

end Sys2Proof.Config
end

