-- ==== Sys2Proof/Machine/Bytes.lean ====
section
/-!
DEFINITION. Bytes and tables: little-endian fields (R6), the sparse table's read and write, saturating counters, CRC-32C of
R400, CRC-16/CCITT of R373, and the SHA-384 of R261.
-/
namespace Sys2Proof

/-! ## Sparse tables -/

/-- The value of index `k`: that of the first entry naming it, else the default `d`. -/
def Tab.get {α : Type} (d : α) : Tab α → Nat → α
  | [], _ => d
  | (i, v) :: t, k => if i = k then v else Tab.get d t k

/-- Write `v` at index `k`, keeping the entries in the order of their indices. -/
def Tab.put {α : Type} : Tab α → Nat → α → Tab α
  | [], k, v => [(k, v)]
  | (i, w) :: t, k, v => if i = k then (k, v) :: t else if k < i then (k, v) :: (i, w) :: t else (i, w) :: Tab.put t k v

/-- Change the value of one index. -/
def Tab.upd {α : Type} (d : α) (t : Tab α) (k : Nat) (f : α → α) : Tab α := Tab.put t k (f (Tab.get d t k))

/-- Drop an index: it reads as the default again. -/
def Tab.del {α : Type} (t : Tab α) (k : Nat) : Tab α := t.filter (fun e => decide (e.1 ≠ k))

/-- Write consecutive values from index `k`. -/
def Tab.putAll {α : Type} (t : Tab α) (k : Nat) : List α → Tab α
  | [] => t
  | v :: vs => Tab.putAll (Tab.put t k v) (k + 1) vs

/-! ## Little-endian fields (R6) -/

/-- The byte at an offset of a byte list; 0 beyond its end. -/
def byteAt (l : List Byte) (o : Nat) : Byte := l.getD o 0

/-- The unsigned number in the first `n` bytes from offset `o`, least significant first. -/
def leNat (l : List Byte) (o : Nat) : Nat → Nat
  | 0 => 0
  | n + 1 => (byteAt l o).toNat + 256 * leNat l (o + 1) n

/-- The `n` bytes of a number, least significant first. -/
def toLE : Nat → Nat → List Byte
  | 0, _ => []
  | n + 1, v => BitVec.ofNat 8 v :: toLE n (v / 256)

def u8 (l : List Byte) (o : Nat) : Nat := leNat l o 1
def u16 (l : List Byte) (o : Nat) : Nat := leNat l o 2
def u32 (l : List Byte) (o : Nat) : Nat := leNat l o 4
def u64 (l : List Byte) (o : Nat) : Nat := leNat l o 8
def h16 (l : List Byte) (o : Nat) : Half := BitVec.ofNat 16 (u16 l o)
def w32 (l : List Byte) (o : Nat) : Word := BitVec.ofNat 32 (u32 l o)

/-- A number of `n` bits read as two's complement. -/
def signed (n v : Nat) : Int := if v < 2 ^ (n - 1) then (v : Int) else (v : Int) - 2 ^ n

/-- A signed number in `n` bytes, two's complement. -/
def toLEi (n : Nat) (v : Int) : List Byte := toLE n (v % (256 ^ n : Nat)).toNat

def i16 (l : List Byte) (o : Nat) : Int := signed 16 (u16 l o)
def i32 (l : List Byte) (o : Nat) : Int := signed 32 (u32 l o)
def i64 (l : List Byte) (o : Nat) : Int := signed 64 (u64 l o)

/-- Bits `[hi:lo]` of a number. -/
def bits (v hi lo : Nat) : Nat := v / 2 ^ lo % 2 ^ (hi + 1 - lo)
def bit (v i : Nat) : Bool := v.testBit i
def b2n (b : Bool) : Nat := if b then 1 else 0

/-- Are the bytes of a reserved field zero? -/
def zeros (l : List Byte) (o n : Nat) : Bool := leNat l o n == 0

/-- The bytes from `o`, `n` of them. -/
def slice {α : Type} (l : List α) (o n : Nat) : List α := (l.drop o).take n

/-- A list cut into pieces of `n` (the last may be shorter); `fuel` bounds the number of pieces. -/
def chunks {α : Type} (n : Nat) : Nat → List α → List (List α)
  | 0, _ => []
  | fuel + 1, l => if l.isEmpty then [] else l.take n :: chunks n fuel (l.drop n)

/-- A bitmap of `n` bytes: bit k of byte k div 8 set where `f k`. -/
def bitmap (n : Nat) (f : Nat → Bool) : List Byte :=
  (List.range n).map fun j => BitVec.ofNat 8 ((List.range 8).foldl (fun a i => a + b2n (f (8 * j + i)) * 2 ^ i) 0)

/-- Bit k of a bitmap held as bytes. -/
def mapBit (l : List Byte) (k : Nat) : Bool := (byteAt l (k / 8)).toNat.testBit (k % 8)

/-! ## Saturating counters -/

def satAdd (max a b : Nat) : Nat := min max (a + b)
/-- One more, saturating at 0xFFFF. -/
def sat16 (a : Nat) : Nat := satAdd 0xFFFF a 1
def sat32 (a : Nat) : Nat := satAdd 0xFFFF_FFFF a 1

/-! ## Checks of transport -/

/-- One bit of the reflected CRC-32C (R400): polynomial 0x1EDC6F41 reflected. -/
def crc32cBit (c : Word) : Word := if c.getLsbD 0 then (c >>> 1) ^^^ 0x82F63B78#32 else c >>> 1

def crc32cByte (c : Word) (b : Byte) : Word :=
  crc32cBit (crc32cBit (crc32cBit (crc32cBit (crc32cBit (crc32cBit (crc32cBit (crc32cBit (c ^^^ b.setWidth 32))))))))

/-- CRC-32C of R400: reflected, initial value and final XOR 0xFFFFFFFF. -/
def crc32c (l : List Byte) : Word := (l.foldl crc32cByte 0xFFFFFFFF#32) ^^^ 0xFFFFFFFF#32

/-- One bit of CRC-16/CCITT, most significant first: polynomial 0x1021. -/
def crc16Bit (c : Half) (b : Bool) : Half := if (c.getMsbD 0) != b then (c <<< 1) ^^^ 0x1021#16 else c <<< 1

/-- CRC-16/CCITT of R373 over the `n` bits of `v`, most significant first, initial value 0xFFFF. -/
def crc16 (n : Nat) (v : Nat) : Half := (List.range n).foldl (fun c i => crc16Bit c (v.testBit (n - 1 - i))) 0xFFFF#16

/-! ## SHA-384, the hash that R261 names -/

def sha512K : List DWord :=
  [0x428a2f98d728ae22#64, 0x7137449123ef65cd#64, 0xb5c0fbcfec4d3b2f#64, 0xe9b5dba58189dbbc#64,
   0x3956c25bf348b538#64, 0x59f111f1b605d019#64, 0x923f82a4af194f9b#64, 0xab1c5ed5da6d8118#64,
   0xd807aa98a3030242#64, 0x12835b0145706fbe#64, 0x243185be4ee4b28c#64, 0x550c7dc3d5ffb4e2#64,
   0x72be5d74f27b896f#64, 0x80deb1fe3b1696b1#64, 0x9bdc06a725c71235#64, 0xc19bf174cf692694#64,
   0xe49b69c19ef14ad2#64, 0xefbe4786384f25e3#64, 0x0fc19dc68b8cd5b5#64, 0x240ca1cc77ac9c65#64]
  ++ [0x2de92c6f592b0275#64, 0x4a7484aa6ea6e483#64, 0x5cb0a9dcbd41fbd4#64, 0x76f988da831153b5#64,
   0x983e5152ee66dfab#64, 0xa831c66d2db43210#64, 0xb00327c898fb213f#64, 0xbf597fc7beef0ee4#64,
   0xc6e00bf33da88fc2#64, 0xd5a79147930aa725#64, 0x06ca6351e003826f#64, 0x142929670a0e6e70#64,
   0x27b70a8546d22ffc#64, 0x2e1b21385c26c926#64, 0x4d2c6dfc5ac42aed#64, 0x53380d139d95b3df#64,
   0x650a73548baf63de#64, 0x766a0abb3c77b2a8#64, 0x81c2c92e47edaee6#64, 0x92722c851482353b#64]
  ++ [0xa2bfe8a14cf10364#64, 0xa81a664bbc423001#64, 0xc24b8b70d0f89791#64, 0xc76c51a30654be30#64,
   0xd192e819d6ef5218#64, 0xd69906245565a910#64, 0xf40e35855771202a#64, 0x106aa07032bbd1b8#64,
   0x19a4c116b8d2d0c8#64, 0x1e376c085141ab53#64, 0x2748774cdf8eeb99#64, 0x34b0bcb5e19b48a8#64,
   0x391c0cb3c5c95a63#64, 0x4ed8aa4ae3418acb#64, 0x5b9cca4f7763e373#64, 0x682e6ff3d6b2b8a3#64,
   0x748f82ee5defb2fc#64, 0x78a5636f43172f60#64, 0x84c87814a1f0ab72#64, 0x8cc702081a6439ec#64]
  ++ [0x90befffa23631e28#64, 0xa4506cebde82bde9#64, 0xbef9a3f7b2c67915#64, 0xc67178f2e372532b#64,
   0xca273eceea26619c#64, 0xd186b8c721c0c207#64, 0xeada7dd6cde0eb1e#64, 0xf57d4f7fee6ed178#64,
   0x06f067aa72176fba#64, 0x0a637dc5a2c898a6#64, 0x113f9804bef90dae#64, 0x1b710b35131c471b#64,
   0x28db77f523047d84#64, 0x32caab7b40c72493#64, 0x3c9ebe0a15c9bebc#64, 0x431d67c49c100d4c#64,
   0x4cc5d4becb3e42b6#64, 0x597f299cfc657e2a#64, 0x5fcb6fab3ad6faec#64, 0x6c44198c4a475817#64]

/-- A number from bytes, most significant first. -/
def beNat (l : List Byte) : Nat := l.foldl (fun a b => 256 * a + b.toNat) 0
/-- A number in `n` bytes, most significant first. -/
def toBE (n v : Nat) : List Byte := (toLE n v).reverse

/-- SHA-512's message schedule, newest word first. -/
def sha512Sched (block : List Byte) : List DWord :=
  let ws := ((chunks 8 16 block).map fun c => BitVec.ofNat 64 (beNat c)).reverse
  ((List.range 64).foldl (fun (w : List DWord) _ =>
    let a := w.getD 1 0
    let b := w.getD 14 0
    let s1 := a.rotateRight 19 ^^^ a.rotateRight 61 ^^^ (a >>> 6)
    let s0 := b.rotateRight 1 ^^^ b.rotateRight 8 ^^^ (b >>> 7)
    (s1 + w.getD 6 0 + s0 + w.getD 15 0) :: w) ws).reverse

/-- One round of SHA-512 on the working variables a–h. -/
def sha512Round (v : List DWord) (k w : DWord) : List DWord :=
  let a := v.getD 0 0
  let e := v.getD 4 0
  let s1 := e.rotateRight 14 ^^^ e.rotateRight 18 ^^^ e.rotateRight 41
  let ch := (e &&& v.getD 5 0) ^^^ (~~~e &&& v.getD 6 0)
  let t1 := v.getD 7 0 + s1 + ch + k + w
  let s0 := a.rotateRight 28 ^^^ a.rotateRight 34 ^^^ a.rotateRight 39
  let maj := (a &&& v.getD 1 0) ^^^ (a &&& v.getD 2 0) ^^^ (v.getD 1 0 &&& v.getD 2 0)
  [t1 + (s0 + maj), a, v.getD 1 0, v.getD 2 0, v.getD 3 0 + t1, e, v.getD 5 0, v.getD 6 0]

def sha512Block (h : List DWord) (block : List Byte) : List DWord :=
  let v := (List.zip sha512K (sha512Sched block)).foldl (fun v kw => sha512Round v kw.1 kw.2) h
  List.zipWith (· + ·) h v

/-- SHA-384 of a byte string (R261): 48 bytes. -/
def sha384 (m : List Byte) : List Byte :=
  let n := m.length
  let pad := (239 - n % 128) % 128
  let padded := m ++ [0x80#8] ++ List.replicate pad 0#8 ++ toBE 16 (8 * n)
  let iv : List DWord := [0xcbbb9d5dc1059ed8#64, 0x629a292a367cd507#64, 0x9159015a3070dd17#64, 0x152fecd8f70e5939#64,
    0x67332667ffc00b31#64, 0x8eb44a8768581511#64, 0xdb0c2e0d64f98fa7#64, 0x47b5481dbefa4fa4#64]
  ((((chunks 128 (n / 128 + 2) padded).foldl sha512Block iv).take 6).map fun w => toBE 8 w.toNat).flatten

end Sys2Proof
end

