-- ==== Sys2Proof/Machine/State.lean ====
section
/-!
DEFINITION. The state of the block: every register, buffer, queue, mode and counter that the spec gives ET6410, as plain data.

Each structure names the chapter it comes from; a field's default is its value after a device reset, as the spec gives it or
as INVENTORY.md says the model chose it. Large arrays are sparse tables (`Tab`): an index the table does not name holds the
default. The pending queue holds the commands that wait, first in, first out.
-/
namespace Sys2Proof.Machine

/-- The reasons a step can stop the machine. No command of the block stops it: every row of the table has an effect or, where
its condition does not hold, leaves the state as it is. The one constructor is raised by nothing; it keeps the type inhabited. -/
inductive Fault where
  /-- Raised by no command (safe). -/
  | never
  deriving DecidableEq, Repr

/-- A command for which the model has no meaning. -/
inductive Refusal where
  /-- Raised by an arm of `exec` whose row has no meaning yet (safe: nothing is claimed of it). -/
  | notModelled (mnemonic : String)
  deriving DecidableEq, Repr
/-! ## Memory -/

/-- Addressed storage: (address, byte) pairs, addresses strictly rising, no byte equal to 0, which an unlisted address reads
as (R516: the reset's wipe leaves zeros). -/
abbrev Mem := List Host.Cell

/-- The canonical form of `Mem`. -/
def Mem.wfFrom : Nat → Mem → Bool
  | _, [] => true
  | lo, (a, b) :: t => decide (lo ≤ a) && decide (b ≠ 0#8) && Mem.wfFrom (a + 1) t

def Mem.wf (m : Mem) : Bool := Mem.wfFrom 0 m

/-! ## Mailboxes (chapter 16) -/

/-- One part of a formed response: the header of Table 16-3 and the payload of this part. -/
structure Part where
  opcode : Half
  tag : Half
  status : Half
  part : Nat
  late : Bool
  elapsed : Word
  payload : List Byte
  deriving DecidableEq, Repr

/-- What a command that has released its checking phase waits for (R404). -/
inductive WaitKind where
  | checking
  | fence
  | smuSettle
  | rangeChange
  | dacSettle
  | measure
  | convert
  | tiuRun
  | selftest
  | bcastPrime
  | calStore
  | adjust
  | ampSheet
  | expClose
  | twinRelease
  | twinReport
  | otherHalf
  | signIndex
  | converter
  | ampTurn
  | ampClaim
  | ampSpan
  | ampRef
  deriving DecidableEq, Repr

/-- A command's target as it was accepted (R43): the cane, the class, the members' handles in member order, the local unit index of
each member held here (none for a member of the twin), and the masked positions. [See R12.] -/
structure Tgt where
  cane : Option Nat := none
  cls : Nat := 8
  handles : List Half := []
  locals : List (Option Nat) := []
  masked : List Nat := []
  perMember : Bool := false
  gang : Bool := false
  deriving DecidableEq, Repr

/-- How Table 2-2 derives a field of a cane's record over its live members: `greatest` and `least` as unsigned numbers, `highest` as a
two's complement one. -/
inductive Derive where
  | or
  | greatest
  | least
  | highest
  deriving DecidableEq, Repr

/-- How a command's record lays itself out (R49, R587): its length, the place of its own flag word, the value of SITE_SAFE in that word,
the fields (place, size) that derive by a rule of their own, the others as first failing, and, for one that holds records of its own (R409), their
size and what stands before them. [DESIGN CHOICE, unsafe: log 117.] -/
structure Layout where
  len : Nat := 0
  flag : Option Nat := none
  safe : Nat := 2 ^ 29
  rules : List (Nat × Nat × Derive) := []
  lead : Nat := 0
  grain : Nat := 0
  deriving DecidableEq, Repr

/-- A waiting command: its target, the unit indices it still waits for, what its members have reported in its record's layout, the
command's own numbers, and when an AMP_CONVERT came to the head of its channels and when it started (R241). -/
structure Wait where
  kind : WaitKind
  tgt : Tgt := {}
  lay : Layout := {}
  units : List Nat := []
  safe : List Nat := []
  reports : Tab (List Byte) := []
  failed : List Nat := []
  nums : List Nat := []
  headNs : Option Nat := none
  startNs : Option Nat := none
  deriving DecidableEq, Repr

/-- How far an outstanding command has come (R396, R403, R407): in the queue, executing or waiting since a time in ns, or
with response parts formed. -/
inductive Phase where
  | queued
  | running (w : Wait) (since : Nat)
  | formed (parts : List Part)
  deriving DecidableEq, Repr

/-- One place in a mailbox's doorbell order. `refusal` marks the MBX_FULL response of the single refusal slot (R397),
`woke` a command that returned the device from IDLE to ACTIVE (R543), `rungNs` the doorbell and `bound` the completion bound in ns, 0 where the
model counts none (R411). -/
structure Entry where
  opcode : Half
  req : Req
  xseq : Option Word := none
  phase : Phase := .queued
  refusal : Bool := false
  woke : Bool := false
  rungNs : Nat := 0
  bound : Nat := 0
  deriving DecidableEq, Repr

/-- A mailbox 0–6 (R395–R398): the request window, the commands in doorbell order, the counters of SYS_MBX_INFO, the
transaction numbers of R427 with the number of sends of the shown part (R428), the half it names in DOUBLE duty (R467), and when the
last command that executed had formed its response, at which the next is at the head (R403, R411). -/
structure Mailbox where
  window : Mem := []
  entries : List Entry := []
  accepted : Word := 0
  fulls : Word := 0
  ignored : Word := 0
  badCrc : Word := 0
  late : Word := 0
  doneXseq : List Word := []
  sends : Nat := 0
  sendNs : Nat := 0
  half : Nat := 0
  formedNs : Nat := 0
  deriving DecidableEq, Repr

/-- Mailbox 7 (R416, R417): the sequence number of the next batch, the entries of the batch shown with the time it was
formed, the batches formed, and the sends of the shown one with the time of the last. [See R19.] -/
structure Outbox where
  batch : Word := 0
  shown : Option (List (List Byte) × Nat) := none
  formed : Word := 0
  sends : Nat := 0
  sendNs : Nat := 0
  deriving DecidableEq, Repr

/-! ## Chain port (chapter 15) -/

/-- A response of Table 15-1: OP always reads NOP. [DESIGN CHOICE, unsafe: log 11.] -/
structure ChainResp where
  cnt : Byte := 0
  addr : BitVec 12 := 0
  data : DWord := 0
  seq : Byte := 0
  flags : Byte := 0
  deriving DecidableEq, Repr

/-- What the next transfer is for this device on a path (R377, R378). A read burst carries the words it read. -/
inductive ChainMode where
  | normal
  | bypass
  | burstRead (f : Byte) (addr : BitVec 12) (seq : Byte) (words : List Word) (flags : Byte)
  | burstWrite (f : Byte) (addr : BitVec 12) (seq : Byte)
  deriving DecidableEq, Repr

/-- One chain path (R387): its response register with what it held before its latest write (R385), RST still to be shown (R375, R376), what
the device of its own put on SDO in the latest transfer, as a value of so many bits sent most significant first (R370, R375, R378), what the
next transfer is, MBX_PTR, and the holding words of its 64-bit pairs by the address of HI (R389). -/
structure ChainPath where
  resp : ChainResp := { flags := 1 }
  earlier : ChainResp := { flags := 1 }
  sent : Option (Nat × Nat) := none
  shift : BitVec 128 := 0
  latch : BitVec 128 := 0
  rst : Bool := true
  mode : ChainMode := .normal
  ptrMbx : Nat := 0
  ptrWin : Bool := false
  ptrOff : Nat := 0
  holding : Tab Word := []
  deriving DecidableEq, Repr

/-- The chain port's own registers of Table 15-5 and the straps (R368). `gapNow` is the GAP against which the next transfer's
gap is checked (R383). [DESIGN CHOICE, unsafe: log 13, 31.] -/
structure Chain where
  front : ChainPath := {}
  window : ChainPath := {}
  devices : Nat := 0
  lead : Nat := 4
  lag : Nat := 4
  gap : Nat := 20
  gapNow : Nat := 20
  stall : Bool := false
  mismatch : Bool := false
  sticky : BitVec 6 := 0
  frames : Word := 0
  pos : BitVec 6 := 0
  last : Bool := false
  twinId : Bool := false
  readData : Word := 0
  deriving DecidableEq, Repr

/-! ## Canes (chapter 2) -/

/-- A cane descriptor (R38, R39) with its mask over the flattened member positions (R48). -/
structure Cane where
  cls : Nat := 0
  gang : Bool := false
  twinSpan : Bool := false
  members : List Half := []
  masked : List Nat := []
  deriving DecidableEq, Repr

/-! ## Hatch (chapter 13) -/

/-- HATCH_LCFG, HATCH_LSTORM and HATCH_LSTAT of one line (Table 13-5), the last notification's microsecond (R339) and the
events held for its end, and when the microsecond began. `recent` holds the times of its latest events, newest first, within the window
of its storm limiter. `events` counts the events that the line has presented (R319): a consumer that waits for a new one compares it
with the count it found, and with that of its `falls` one that waits for its deassertion; `eventNs` is when the last event came. -/
structure Line where
  notify : BitVec 2 := 0
  grpEn : Bool := false
  group : Nat := 0
  clk : Bool := true
  window : Nat := 938
  limit : Nat := 256
  merge : Nat := 0
  cause : Nat := 0
  off : Bool := false
  level : Bool := false
  busyUs : Bool := false
  busyNs : Nat := 0
  recent : List Nat := []
  held : Nat := 0
  heldAssert : Bool := false
  heldTime : Nat := 0
  events : Nat := 0
  falls : Nat := 0
  eventNs : Option Nat := none
  deriving DecidableEq, Repr

/-- A relay (R328), with when it took its pending pulse. -/
structure Relay where
  mode : Nat := 0
  out : Nat := 0
  delay : Nat := 0
  src : List Nat := []
  pending : Bool := false
  pendNs : Nat := 0
  merge : Nat := 0
  deriving DecidableEq, Repr

/-- A counter (R329). -/
structure Counter where
  mode : Nat := 0
  out : Nat := 0
  thresh : Nat := 0
  src : List Nat := []
  count : Nat := 0
  stopped : Bool := false
  merge : Nat := 0
  deriving DecidableEq, Repr

/-- A group switch input GRP_ON or GRP_OFF (R326). -/
structure Switch where
  on : Bool := false
  src : List Nat := []
  merge : Nat := 0
  deriving DecidableEq, Repr

/-- The device's part of Hatch: lines by identifier (gather lines by gather × 16 + line), forwards, tasks, groups, HATCH_HALTN,
the received HALT_N, the card's inputs, and the event notification queue with EVQ_LOST (R19). -/
structure Hatch where
  lines : Tab Line := []
  tileFwd : Tab DWord := []
  trigIn : Tab Half := []
  trigOut : Tab Half := []
  devProd : Tab DWord := []
  devProdOut : Nat := 0
  relays : Tab Relay := []
  counters : Tab Counter := []
  grpOn : Tab Switch := []
  grpOff : Tab Switch := []
  groupsOff : List Nat := []
  haltnOut : Bool := false
  haltnIn : Bool := false
  haltnLow : Bool := false
  trigBall : Tab Nat := []
  progEvt : Tab Nat := []
  inflight : Tab Nat := []
  queue : List (List Byte) := []
  evqLost : Nat := 0
  deriving DecidableEq, Repr

/-- A gather's part of Hatch: HATCH_GPROD (MASK, COND), HATCH_FWD, HATCH_HALT, the event-input selections and those that wait
for the next granule boundary (R340), the producers' present outputs, the halt input's level, and the canes that the last HATCH_BIND and the one
whose selections are in force named (R42). -/
structure GHatch where
  mask : Tab Half := []
  cond : Tab Nat := []
  up : Half := 0
  up16 : BitVec 15 := 0
  acc : BitVec 3 := 0
  evt : Tab Nat := []
  evtNext : Option (Tab Nat) := none
  out : Nat := 0
  haltIn : Bool := false
  cane : Option Nat := none
  evtCane : Option Nat := none
  deriving DecidableEq, Repr

/-! ## Faults (chapter 19) -/

/-- A fault record (Table 19-6). -/
structure Rec where
  src : Half
  scope : Half
  real : Bool := false
  injected : Bool := false
  ack : Bool := false
  logged : Bool := false
  react : Nat := 0
  count : Nat := 0
  time : Nat := 0
  tick : Word := 0
  detail : Word := 0
  seq : Nat := 0
  deriving DecidableEq, Repr

/-- The collector (R492–R504): records in SEQ order, FLT_CFG, FLT_STATUS.LOST, LAST_SRC, the causes now asserted, Anneal and
the processor held in reset; and, outside the reset's reach, the MRAM fault log, the class D latch with its records, and the
time of the last LOCKSTEP (R488, R493). -/
structure Faults where
  recs : List Rec := []
  nextSeq : Nat := 0
  wdog : Nat := 10
  replay : Bool := true
  alertEn : Bool := true
  lost : Nat := 0
  lastSrc : Half := 0
  causes : List (Half × Half) := []
  anneal : Bool := false
  held : Bool := false
  log : List Rec := []
  dLatch : List Rec := []
  lockstepS : Option Nat := none
  deriving DecidableEq, Repr
/-! ## Strokes (chapters 3, 4, 5) -/

/-- The timing of one pin in a timing set (Table 3-6). -/
structure PinTiming where
  fmt : Nat := 0
  dOn : Nat := 0
  dData : Nat := 0
  dRet : Nat := 0
  dOff : Nat := 0
  sOpen : Nat := 0
  sClose : Nat := 0
  deriving DecidableEq, Repr

/-- A loaded timing set: PERIOD in 1/65,536 of a unit, and the sixteen pins. -/
structure TSet where
  period : Nat := 0
  pins : List PinTiming := []
  deriving DecidableEq, Repr

/-- Where a resolution ends (R67, R68, R74, R134): a stroke that runs vectors, a HALT with its reason, the 16th zero-duration
stroke, or a microcode fault. -/
inductive ResOut where
  | vec
  | halt (reason : Nat)
  | spin
  | ucode (src : Half)
  deriving DecidableEq, Repr

/-- A resolved successor or target: the stroke reached, the microwords it cost, the loop counters, return stack and W as the
chain leaves them, how many COMMIT skips it passed (R68), how many RDV_NONE it met (R73), the flags that a patch's SETF named, and the
marker requests of its POST, each with its stroke (R131). -/
structure Resolved where
  idx : Nat
  out : ResOut
  cost : Nat
  loops : Tab Nat
  stack : List Nat
  w : Nat
  ckpts : Nat
  rdvNone : Nat
  setf : List Nat
  posts : List (Nat × Nat) := []
  deriving DecidableEq, Repr

/-- A pending jump (R62–R65): its target, the boundary it is due at, whether it is late, and the PCLK edge at which it was registered,
from which its resolution runs (R67). -/
structure Pend where
  target : Nat
  due : Nat
  late : Bool
  reg : Nat
  deriving DecidableEq, Repr

/-- A stroke that has ended with its branch condition still armed (R61): its execution, its COND and TARGET, the PCLK edge at which the last
of its strobes is registered, and the events its condition's line had presented when the granule began. -/
structure Armed where
  tag : Nat
  cond : Nat
  target : Nat
  last : Nat
  mark : Nat
  deriving DecidableEq, Repr

/-- Why a sequencer holds: full checkpoint entries (R20), resolution not complete (R67), the etch marker (R86), a stall (R106). -/
inductive HoldWhy where
  | checkpoint
  | resolve
  | etch
  | stall
  deriving DecidableEq, Repr

/-- The states of a sequencer of its own; SITE_SAFE and DIVERGED of STROKE_STATUS stand in the gather's safe state and its
broadcast membership. -/
inductive SeqSt where
  | idle
  | running
  | held
  | halted
  deriving DecidableEq, Repr

/-- What stands between the end of one stroke and the start of the next: the resolved stroke, checkpoints still to be posted
, whether resolution is still running and how many PCLK cycles it lacked at the boundary, and the marks the next stroke starts with. -/
structure Cont where
  res : Resolved
  ckpts : Nat := 0
  unresolved : Bool := false
  short : Nat := 0
  phaseReset : Bool := false
  slow : Bool := false
  marked : Bool := false
  stop : Bool := false
  deriving DecidableEq, Repr

/-- A sequencer: a gather's own, or a broadcast program's (R109). Times are in 1/65,536 of a unit on an axis that begins with the start,
24 PCLK edges before the first vector. `mark` and `startMark` are the events that the line of the running stroke's condition, or of
the awaited start, had presented when the granule began or the start was accepted (R90, R583); `holdNs` is when a hold began; `uflags`
holds the flags a patch has set that are none of those of STROKE_STATUS (R131); `succAt` is the PCLK edge at which the normal successor
began to resolve (R67); `bcastLen` is the length in granules of the broadcast stroke at whose position a member has halted (R84). [DESIGN CHOICE, unsafe: log 11.] -/
structure Seq where
  st : SeqSt := .idle
  why : Option HoldWhy := none
  cur : Nat := 0
  n : Nat := 0
  pend : Option Pend := none
  succ : Option Resolved := none
  succAt : Nat := 0
  loops : Tab Nat := []
  stack : List Nat := []
  w : Nat := 0
  raised : Bool := false
  armed : List Armed := []
  mark : Nat := 0
  start : Option (Nat × Nat) := none
  startMark : Nat := 0
  holdNs : Nat := 0
  uflags : List Nat := []
  begun : Bool := false
  startS : Nat := 0
  period : Nat := 0
  cont : Option Cont := none
  slow : Bool := false
  haltSrc : Nat := 0
  haltReason : Nat := 0
  bcastLen : Option Nat := none
  underrun : Bool := false
  retry : Bool := false
  jumpDrop : Nat := 0
  lateJump : Nat := 0
  seqLate : Nat := 0
  edgeDrop : Nat := 0
  fails : Nat := 0
  waitLate : Bool := false
  waitTimeout : Bool := false
  matchTimeout : Bool := false
  etchWait : Bool := false
  etchOpen : Bool := false
  deriving DecidableEq, Repr

/-- A leave of R122: its boundary, its local target, and the PCLK edge at which the failure was registered. -/
structure Leave where
  bnd : Nat
  target : Nat
  reg : Nat
  deriving DecidableEq, Repr

/-- A broadcast member (R112, R121–R124): following, diverged or gone; a leave, a late leave (target and PCLK edge of registration), the
boundary MUTE acts from, the fixed RENDEZVOUS strokes it joins (R124), and the executions whose policy has been invoked. -/
inductive BcMode where
  | following
  | diverged
  | left
  deriving DecidableEq, Repr

structure Bc where
  prog : Nat
  mode : BcMode := .following
  leave : Option Leave := none
  lateLeave : Option (Nat × Nat) := none
  mute : Option Nat := none
  joins : List Nat := []
  invoked : List Nat := []
  leftAt : Nat := 0xFFFF
  deriving DecidableEq, Repr

/-- The etch-begin marker of a stroke that is due (R86, R474): being written; being written behind a checkpoint whose
release of older records is awaited; durable with that release still awaited; durable; and still being written although its stroke is no longer due. -/
inductive EtchPhase where
  | writing
  | writingHeld
  | waitRelease
  | durable
  | adrift
  deriving DecidableEq, Repr

structure Etch where
  idx : Nat
  bcast : Bool
  phase : EtchPhase
  run : Nat
  deriving DecidableEq, Repr

/-- An etch-end marker still to be written (R87): its stroke (plus 4,096 in the broadcast table), the PCLK edge at which the last strobes of
the stroke are registered, and the CSEQ before which no later checkpoint may become durable. -/
structure EtchEnd where
  stroke : Nat
  last : Nat
  cseq : Nat
  deriving DecidableEq, Repr

/-- What a strobe gives (R61, R146): a compare's outcome with the bit a stencil expected (R477), the state a C captures, or an E's marker. -/
inductive StrobeKind where
  | compare (ok : Bool) (filled : Option Bool)
  | capture (state : Nat)
  | mark
  deriving DecidableEq, Repr

/-- A strobe on its way: the PCLK edge at which it is registered, the unit at which it closes, the execution and vector it belongs to, its
pin, what it gives, and whether its stroke is a MATCH, whose compares are not recorded (R72). -/
structure Strobe where
  reg : Nat
  shut : Nat
  tag : Nat
  vec : Nat
  pin : Nat
  kind : StrobeKind
  silent : Bool := false
  deriving DecidableEq, Repr

/-- A stroke's result in the gather's result store: the stroke, its compare failures, its flags and what C symbols captured
(vector, pin, 2-bit state); the compares filled from a stencil by expected bit and outcome (R477), and the pins its flags name. -/
structure StrokeRes where
  tag : Nat := 0
  idx : Nat := 0
  bcast : Bool := false
  passes : Nat := 0
  fails : Nat := 0
  flags : Nat := 0
  captured : List (Nat × Nat × Nat) := []
  plainFails : Nat := 0
  pass0 : Nat := 0
  fail0 : Nat := 0
  pass1 : Nat := 0
  fail1 : Nat := 0
  pinMask : Nat := 0
  deriving DecidableEq, Repr

/-- A pinned loop body (R98, R99): its strokes' indices with the local granules each one's body was copied to. -/
structure Pinned where
  bcast : Bool
  first : Nat
  len : Nat
  strokes : Tab (List Nat)
  deriving DecidableEq, Repr

/-- A gather's stroke resources beside its sequencer: tables, timing sets, vector memory, pinned bodies, stream buffer fill,
stencils with the snapshot of the running stroke (R118), SEQ_CONFIG, and the counters and flags of STREAM_STATUS (R127). `tag` numbers
the strokes executed; `nowS` is the last boundary; `strobes` and `hits` (matches) are not yet registered, `closing` holds the results that wait for them; `etches` are the
begin markers asked, `etchOn` is the ETCH stroke that runs, `etchEnds` the end markers owed; `isoEnd` is when the switches of pins that the Marver isolated close (R346); `pulses` are events of pulse producers that Hatch has not yet taken, with their PCLK edges; `eWins` are the pins of E symbols with the unit
at which their window opens (R276). [DESIGN CHOICE, unsafe: log 11.] -/
structure Play where
  table : Tab (BitVec 128) := []
  tsets : Tab TSet := []
  vmem : Tab (List Byte) := []
  pinned : List Pinned := []
  fill : Nat := 0
  stencils : Tab (BitVec 288) := []
  stSnap : Tab (BitVec 288) := []
  sPos : Tab Nat := []
  startS : Nat := 0
  period : Nat := 0
  nowS : Nat := 0
  isoEnd : Option Nat := none
  haltHold : Nat := 0
  haltState : Word := 0
  holding : Bool := false
  haltNs : Nat := 0
  bc : Option Bc := none
  etches : List Etch := []
  etchOn : Option Nat := none
  etchEnds : List EtchEnd := []
  tag : Nat := 0
  resOpen : Bool := false
  cur : StrokeRes := {}
  strobes : List Strobe := []
  hits : List (Nat × Nat) := []
  closing : List StrokeRes := []
  pulses : List (Nat × Nat) := []
  results : List StrokeRes := []
  rsvSym : Nat := 0
  stcShort : Nat := 0
  stcUnfilled : Nat := 0
  stallTime : Nat := 0
  stallSince : Nat := 0
  idleGran : Nat := 0
  lateDiverge : Nat := 0
  lateRejoin : Nat := 0
  streamRange : Bool := false
  underrunAbort : Bool := false
  etchMissed : Option Nat := none
  eWins : List (Nat × Nat) := []
  deriving DecidableEq, Repr

/-- A stream context (R101): MODE 0 BROADCAST or 1 PER_SITE, its region and reservation, the members of a PER_SITE cane (local
gathers by member position) and redirects. -/
structure Ctx where
  isOpen : Bool := false
  mode : Nat := 0
  stallLimit : Nat := 0
  reserve : Nat := 0
  base : Nat := 0
  length : Nat := 0
  stride : Nat := 0
  idle : DWord := 0
  members : List Nat := []
  redirects : Nat := 0
  deriving DecidableEq, Repr

/-- A broadcast program (R109): its cane, its context, its entries' range, its member gathers and its sequencer. -/
structure Prog where
  loaded : Bool := false
  cane : Nat := 0
  ctx : Nat := 0
  first : Nat := 0
  count : Nat := 0
  members : List Nat := []
  priming : Bool := false
  seq : Seq := {}
  deriving DecidableEq, Repr

/-- A tile's patch set (R131, R133, R138). -/
structure Patch where
  words : List (BitVec 24) := []
  regs : List Word := []
  version : Word := 0
  digest : DWord := 0
  deriving DecidableEq, Repr
/-! ## Pins, sentinels, source/measure units (chapters 6, 7, 8) -/

/-- One level DAC (R149–R153): the code its register holds at the latch, the code whose level the output has or moves to, a
deglitcher hold, and the code of an ordered second latch still to come. -/
structure Dac where
  code : Nat := 0x38E4
  out : Nat := 0x38E4
  hold : Bool := false
  next : Option Nat := none
  deriving DecidableEq, Repr

/-- What the driver does at the ball. -/
inductive Drive where
  | off
  | low
  | high
  | vt
  deriving DecidableEq, Repr

/-- The five level codes VIH, VIL, VT, VOH, VOL. -/
structure Levels where
  vih : Nat := 0x38E4
  vil : Nat := 0x38E4
  vt : Nat := 0x38E4
  voh : Nat := 0x38E4
  vol : Nat := 0x38E4
  deriving DecidableEq, Repr

/-- What an edge of a vector does at a pin (R78, R79, R145): enable or disable the driver, set the level with the data of a symbol or by its
format, terminate to VT, connect or disconnect the active load; `shut` closes the switch of a pin that the Marver has isolated (R346). -/
inductive EdgeAct where
  | on
  | off
  | data (d : Bool)
  | level (b : Bool)
  | vt
  | load (b : Bool)
  | shut
  deriving DecidableEq, Repr

/-- An edge placed (R80): its unit, the unit at which its vector starts, what it does, and whether it is of the stroke before a phase reset
(R82). -/
structure PinEdge where
  t : Nat
  born : Nat
  act : EdgeAct
  old : Bool := false
  deriving DecidableEq, Repr

/-- A pin (Tables 6-1, 6-4): PIN_CFG, the level codes written, the load codes, the clear codes, PIN_CMP, the status bits, the
five DACs, the PIN_CMP image in force (R84), the comparator's output with the input it last read (R181) and a mode-change hold (R172), and the driver with the
last driven level (R79). `clearHold` is the hold of R154, which outlasts the safe state. The pattern's side of the driver: the edges still
to come, the driver as they leave it (`want`, `lev`), the load of a Z vector, and of the latest vector whether it drives and the level and
driven-since-reset that its symbol leaves. -/
structure Pin where
  cfg : Word := 0
  lvl : Levels := {}
  ioh : Nat := 0
  iol : Nat := 0
  clr : Levels := {}
  ref : Nat := 0
  hyst : Nat := 0
  mode : Nat := 3
  cmpNow : Nat := 3
  parked : Bool := true
  cleared : Bool := false
  clearHold : Bool := false
  oc : Bool := false
  tripped : Bool := false
  clamped : Bool := false
  vih : Dac := {}
  vil : Dac := {}
  vt : Dac := {}
  voh : Dac := {}
  vol : Dac := {}
  hi : Side := .unresolved
  lo : Side := .unresolved
  seen : Option Int := none
  modeHold : Bool := false
  drive : Drive := .off
  last : Bool := false
  driven : Bool := false
  want : Drive := .off
  lev : Bool := false
  edges : List PinEdge := []
  loadZ : Nat := 0
  vDrive : Bool := false
  vLast : Bool := false
  vDriven : Bool := false
  iso : Bool := false
  claimed : Bool := false
  deriving DecidableEq, Repr

/-- A dwelled state (Table 7-4, STATE). -/
inductive Dwell where
  | inactive
  | active
  | unresolved
  | off
  deriving DecidableEq, Repr

/-- A sentinel (Table 7-4): SENT_CFG, SENT_THR, its raw side with the input it last read and the mode-change hold, its dwelled state with the dwell timer
with its start, and the time the state last changed, WOKE, and whether DORMANT has powered it down (R180). -/
structure Sent where
  cfg : Word := 0xC#32
  dwell : Nat := 100
  thr : Nat := 0x38E4
  raw : Side := .unresolved
  seen : Option Int := none
  modeHold : Bool := false
  state : Dwell := .off
  timing : Bool := false
  timeNs : Nat := 0
  since : Nat := 0
  woke : Bool := false
  asleep : Bool := false
  frozen : Bool := false
  deriving DecidableEq, Repr

/-- The six force and clamp codes of a unit. -/
structure SmuCodes where
  v : Nat := 0xE38E
  i : Int := 0
  vclHi : Nat := 0x5555
  vclLo : Nat := 0x1C72
  iclHi : Nat := 0x1000
  iclLo : Nat := 0x1000
  deriving DecidableEq, Repr

/-- A range-change sequence (Table 8-4): its step 1–5, the old and new RANGE, and whether it is the safe state's own (R494:
steps 1–4 at 0 V to ±256 nA, then the switch opens) or the return from it (R495); `charge` is the charge of the old settings
(R202). -/
inductive RangeKind where
  | change
  | safe
  | back
  deriving DecidableEq, Repr

structure RangeRun where
  kind : RangeKind := .change
  step : Nat := 1
  old : Nat
  new : Nat
  charge : Nat := 0
  deriving DecidableEq, Repr

/-- A measurement in progress (R203, R204): its mode and source, whether its start has come, N, the limits, and the running
count, sum, extremes and flags. `mark` is what its awaited line or unit had presented at acceptance (R90), `startNs` when it started. -/
structure SmuMeas where
  mode : Nat
  source : Nat
  started : Bool
  mark : Nat := 0
  startNs : Nat := 0
  n : Nat
  lo : Int
  hi : Int
  count : Nat := 0
  sum : Int := 0
  min : Int := 0
  max : Int := 0
  flags : Nat := 0
  deriving DecidableEq, Repr

/-- A source/measure unit (Table 8-3): SMU_CFG, the written codes, SAFE_LEVEL, SMU_TRIP, the clear codes, the status bits, the
RANGE in force, a range sequence, the raw compliance comparator, the backup clamp of R193 and a measurement. `dac` holds the codes at the
force and clamp DACs, which are those written unless CLEAR_N or a trip keeps them (R190, R199); `oldCharge` is the charge of the settings that a
RANGE written while tripped has replaced (R202). -/
structure Smu where
  cfg : Word := 0
  set : SmuCodes := {}
  dac : SmuCodes := {}
  safe : Nat := 0xE38E
  trip : Word := 0
  clr : SmuCodes := {}
  rcCompl : Bool := false
  pmux : Bool := false
  cleared : Bool := false
  clearHold : Bool := false
  tripped : Bool := false
  openSeen : Bool := false
  complSeen : Bool := false
  compl : Bool := false
  parked : Bool := true
  rangeNow : Nat := 0
  run : Option RangeRun := none
  oldCharge : Option Nat := none
  aborted : Bool := false
  raw : Bool := false
  backup : Bool := false
  meas : Option SmuMeas := none
  gangPos : Option (Nat × Nat) := none
  deriving DecidableEq, Repr

/-! ## Time-interval units (chapter 11) -/

/-- TIU_STATUS.STATE. -/
inductive TiuSt where
  | idle
  | waitGate
  | armed
  | service
  deriving DecidableEq, Repr

/-- A measurement (R279–R288): its limits and bounds, the network time of arming, REF_FALLBACK seen, the START and STOP stamps of the
running value, each channel's last stamp (dead time, R274), the first START stamp and the last stamp used, the STOP edges, the
samples closed and those in the statistics, and the counts of Table 11-8. `atNs` is when it began to wait for its gate, or was armed. -/
structure TiuMeas where
  timeout : Nat
  window : Nat
  mark : Nat := 0
  lo : Int
  hi : Int
  atNs : Nat := 0
  armedNs : Nat := 0
  fallback : Bool := false
  start : Option Nat := none
  stop : Option Nat := none
  deadStart : Option Nat := none
  deadStop : Option Nat := none
  first : Nat := 0
  last : Nat := 0
  edges : Nat := 0
  samples : Nat := 0
  sum : Int := 0
  sumSq : Nat := 0
  min : Int := 0
  max : Int := 0
  deadMiss : Nat := 0
  nOrder : Nat := 0
  nCoincident : Nat := 0
  nRestart : Nat := 0
  deriving DecidableEq, Repr

/-- A time-interval unit (Table 11-4): TIU_CFG, TIU_SRC, TIU_COUNT, its state, the measurement, the record of the one that has closed
while its start still waits (with FAIL), whether its gate timed out, and the stamp buffer (R286). -/
structure Tiu where
  cfg : Word := 0
  src : Word := 0
  count : Nat := 1
  st : TiuSt := .idle
  meas : Option TiuMeas := none
  result : Option (List Byte × Bool) := none
  timedOut : Bool := false
  stamps : List DWord := []
  deriving DecidableEq, Repr

/-- TIU_REF, with when the coarse counter was zero (R272), when the interval PLL last began to relock to REFCLK, and when TREF was last lost or, at
a start, found absent (R278). [See R289.] [DEDUCED, unsafe: log 40.] -/
structure TiuRef where
  epoch : Nat := 0
  freq : Nat := 0
  locked : Bool := false
  fallback : Bool := false
  present : Bool := false
  relockNs : Option Nat := none
  lossNs : Nat := 0
  zeroNs : Nat := 0
  deriving DecidableEq, Repr

/-! ## Digitisers and capture (chapter 12) -/

/-- A stored item (R306) with the base-rate samples it was made of: the index of its first sample since arming, the D or M it was
taken at, whether its FIFO half was full (R308), and the flags of Table 12-8 whose conditions held while it was taken (R312). -/
structure CapItem where
  first : Nat
  rate : Nat
  samples : List Int
  gap : Bool
  held : Nat
  deriving DecidableEq, Repr

/-- A trigger as it is registered (R301, R305): TRIG_TIME, TRIG_KIND, the member position that fired, the network time. -/
structure CapTrig where
  time : Nat
  kind : Nat
  by_ : Nat
  net : Nat
  deriving DecidableEq, Repr

/-- An arming of CAP_ARM (R303–R307): the region and reservation it holds with the other members of its arming (local digitisers by
position), this member's place, the record parameters, the records ended and the ITEMS of each, and the record that is being taken. `mark` is what the trigger's line or
time-compare unit had presented when the digitiser armed or last fired, `endNs` when its last record ended; `minmax` is the MODE its records are stored in, `held` the
flags of Table 12-8 whose conditions have held since the last item, and `failed` whether one of its records has failed (R310). -/
structure CapArm where
  base : Nat
  size : Nat
  reserve : Nat
  group : List Nat
  cane : Option Nat := none
  pos : Nat := 0
  master : Bool := false
  len : Nat
  pre : Nat
  records : Nat
  holdoff : Nat
  stored : List Nat := []
  items : List CapItem := []
  next : Nat := 0
  rate : Nat
  since : Nat := 0
  steps : Nat := 0
  mark : Nat := 0
  endNs : Nat := 0
  seen : Option CapTrig := none
  trig : Option CapTrig := none
  lost : Nat := 0
  minmax : Bool := false
  held : Nat := 0
  failed : Bool := false
  deriving DecidableEq, Repr

/-- DIG_STATUS.STATE. -/
inductive DigSt where
  | idle
  | armed
  | capturing
  | holdoff
  deriving DecidableEq, Repr

/-- A digitiser (Table 12-2): its registers, the offset DAC's present code, its state, the limits of CAP_LIMITS, the fill of its FIFO half, and the arming last made.
`warming` is the converter powered and not yet ready; `clearHold` the DAC's hold of R296; `latest` is the latest base-rate sample known, `patHeld` says that the pattern has been true
and its terms still hold (R302), `lvlReady` that the samples have returned past the other trip point of LEVEL (R171, R300). -/
structure Dig where
  cfg : Word := 0
  interval : Nat := 0
  offClr : Nat := 0x8000
  offset : Nat := 0x8000
  out : Nat := 0x8000
  trig : Word := 0
  pat0 : Word := 0
  pat1 : Word := 0
  meas : Word := 0
  st : DigSt := .idle
  parked : Bool := true
  warming : Bool := false
  cleared : Bool := false
  clearHold : Bool := false
  overs : Bool := false
  opened : Bool := false
  enable : Nat := 0
  limits : List (Int × Int) := []
  fill : Nat := 0
  patHeld : Bool := false
  lvlReady : Bool := true
  latest : Option Int := none
  arm : Option CapArm := none
  deriving DecidableEq, Repr

/-! ## The Ampoule (chapters 9, 10, 14) -/

/-- An exact fraction, not reduced. -/
structure Frac where
  num : Int
  den : Nat
  deriving DecidableEq, Repr

/-- An accepted request of one channel: the mailbox and member position it answers to, and the half it was accepted for (R468); `sel` is the source
of an AMP_CONNECT or AMP_DISCONNECT, none for an AMP_CONVERT with its fields (Table 9-8) and SEAL_OPENS at its acceptance (R258). -/
structure AmpReq where
  mbx : Nat
  pos : Nat
  half : Nat
  sel : Option Nat := none
  range : Nat := 0
  rate : Nat := 0
  mode : Nat := 0
  trig : Nat := 0
  n : Nat := 0
  timeout : Nat := 0
  receipt : Bool := false
  context : List Byte := []
  opens : Nat := 0
  deriving DecidableEq, Repr

/-- The request at a channel's head that converts: whether its first period still runs on the internal zero (R224), the counts of
Table 9-9, the flags of Table 9-10, the network time of its first conversion's start, COMP_STEP at that time, the full scale in nA of the
unit whose current it measures (R585; 0 on another source), and its last two codes with the sign of their injection, newest first (R355). -/
structure AmpRun where
  zero : Bool := false
  count : Nat := 0
  sum : Int := 0
  min : Int := 0
  max : Int := 0
  flags : Nat := 0
  firstNs : Nat := 0
  step : Nat := 0
  scale : Nat := 0
  codes : List (Int × Int) := []
  own : Nat := 0
  deriving DecidableEq, Repr

/-- A finished answer that its channel holds until it is posted (R228): the request, its status, the record of Table 9-9 without its
entry index, the code sum, the flags, N, the COMP_STEP of its conversions, whether it changed meanwhile, and what its sheet entry takes from
the gather. -/
structure AmpAns where
  req : AmpReq
  status : Half := 0
  body : List Byte := []
  flags : Nat := 0
  n : Nat := 0
  step : Nat := 0
  stepChanged : Bool := false
  entry : List Byte := []
  deriving DecidableEq, Repr

/-- A block of R355: its triplets' number, sum and sum of squares, and when it was begun. -/
structure CalBlock where
  n : Nat := 0
  since : Nat := 0
  sum : Frac := { num := 0, den := 1 }
  sumSq : Frac := { num := 0, den := 1 }
  excluded : Nat := 0
  deriving DecidableEq, Repr

/-- The compensation of a channel in one range: the gain and offset in force relative to the sealed set, the blocks that collect, an
update that waits for the gap between two requests (R255), what its latest closed blocks gave with the squares of U, whether a calibration
record of it is to be posted (R354), and the latest result of the internal zero (R224). -/
structure Comp where
  gain : Frac := { num := 1, den := 1 }
  offset : Frac := { num := 0, den := 1 }
  gBlock : CalBlock := {}
  oBlock : CalBlock := {}
  gNew : Option Frac := none
  oNew : Option Frac := none
  eps : Frac := { num := 0, den := 1 }
  epsU2 : Frac := { num := 0, den := 1 }
  off : Frac := { num := 0, den := 1 }
  offU2 : Frac := { num := 0, den := 1 }
  post : Bool := false
  zero : Int := 0
  deriving DecidableEq, Repr

/-- A precision ADC channel (R222–R228): its source and the source it asks a claim for (with the mailbox and position that asked), its
last range, its requests, the one that converts, the code and injection of its latest conversion (R225), the answers it holds, TRIG_EARLY, its
REFP check (due, when its 600 s began, running, asked by a mailbox, time and result of the latest), self-traffic, its compensation by range, and how many updates of it have been applied (R258). [DESIGN CHOICE, unsafe: log 11.] -/
structure Chan where
  source : Nat := 0
  asks : Option (Nat × Nat × Nat) := none
  lastRange : Option Nat := none
  queue : List AmpReq := []
  run : Option AmpRun := none
  last : Option (Int × Int) := none
  held : List AmpAns := []
  trigEarly : Nat := 0
  refDue : Bool := false
  refAt : Nat := 0
  refRun : Bool := false
  refFor : Option Nat := none
  refNs : Nat := 0
  refUv : Option Int := none
  self : List (Int × Int) := []
  comps : Tab Comp := []
  steps : Nat := 0
  deriving DecidableEq, Repr

/-- A span change (R232): whether it leaves OPEN, goes to OPEN or stays closed, and its phase 1–4. -/
inductive SpanKind where
  | leave
  | go
  | stay
  deriving DecidableEq, Repr

structure Span where
  kind : SpanKind
  phase : Nat
  deriving DecidableEq, Repr

/-- A bridge emulator (R229–R235): its settings, whether its excitation sink is closed, the latest measured excitation in µV, the flags, whether
its output stands at zero, a span change, a RATIO output held by R211, and the code-density run of R359 with when its 3,600 s began. [DESIGN CHOICE, unsafe: log 11.] -/
structure Bridge where
  mode : Nat := 0
  imped : Nat := 0
  value : Int := 0
  sink : Bool := false
  exc : Option Int := none
  excRange : Bool := false
  trackLost : Bool := false
  clip : Bool := false
  cleared : Bool := false
  atZero : Bool := false
  span : Option Span := none
  density : Bool := false
  densAt : Nat := 0
  deriving DecidableEq, Repr

/-- A gather's Ampoule share. -/
structure AmpG where
  chans : Tab Chan := []
  bridge : Bridge := {}
  deriving DecidableEq, Repr

/-- A sheet (R260–R265): its number, its predecessor with PREV_STATE, its entries in order, and, once its close has begun, CLOSE and
the time and counters of its header; then the reserved HSS index and the sealed block. -/
structure Sheet where
  num : Nat
  prev : Nat
  prevState : Nat
  entries : List (List Byte) := []
  close : Option Nat := none
  closeNs : Nat := 0
  lec : Nat := 0
  intAdj : Bool := false
  index : Option Nat := none
  block : Option (List Byte) := none
  deriving DecidableEq, Repr

/-- One gather's part of a set of the Ampoule's calibration (R250, R360): of its two channels the reference capacitor left out of the 17, the ratios of
the three divider taps and the gain and offset of each range, channel 0 first; and its emulator's DIRECT and RATIO gains. -/
structure AmpSet where
  caps : List Nat := []
  ratios : List Int := []
  gains : List Int := []
  offsets : List Int := []
  direct : Int := 0
  ratio : Int := 0
  deriving DecidableEq, Repr

/-- An Ampoule commit in progress (R250, R524): the mailbox that answers when it is durable, REFP_CERT, CONTEXT and the candidate set of an adjustment,
or the extension slot of IMG_ACTIVATE with its FLOOR. -/
structure AmpCommit where
  mbx : Nat
  refp : Nat := 0
  context : List Byte := []
  set : Tab AmpSet := []
  slot : Option (Nat × Bool) := none
  deriving DecidableEq, Repr

/-- The Ampoule. In reset until its ROM has started it; without a valid extension it serves no request (R521). The seal monitor's
state, the stop reasons, the counters, the finished gathers of the candidate set, the set that the last adjustment sealed, the sheet store, the HSS index ring and the level-1
trees, whether a device reset has come since its state failed (R256), when each answer in the answer queue came (R15), and the refusals' count. [See R213.] [DESIGN CHOICE, unsafe: log 15.] -/
structure Amp where
  inReset : Bool := true
  railLow : Bool := false
  noImage : Bool := false
  pllLost : Bool := false
  gathers : Tab AmpG := []
  legal : Nat := 2
  sealRaw : Nat := 2
  sealNs : Nat := 0
  opens : Nat := 0
  opensPending : Nat := 0
  stopLms : Bool := false
  stopExhausted : Bool := false
  stopNoAdjust : Bool := true
  stopComp : Bool := false
  intAdj : Bool := false
  lec : Nat := 0
  starts : Nat := 0
  compStep : Nat := 0
  refpCert : Nat := 0
  adjustContext : List Byte := []
  commits : List AmpCommit := []
  torn : Bool := false
  adjusting : Bool := false
  candidate : Tab AmpSet := []
  sealedSet : Tab AmpSet := []
  sheets : List Sheet := []
  nextSheet : Nat := 1
  prevSheet : Nat := 0
  prevState : Nat := 2
  hssRing : Tab Nat := []
  lmsRetry : Bool := false
  answers : List Nat := []
  treeBusy : Bool := false
  trees : Nat := 1
  refusals : Nat := 0
  deriving DecidableEq, Repr

/-! ## The Marver (chapter 14) -/

/-- A step's outcome (R354). -/
inductive CalOut where
  | done
  | precond
  | preempt
  | limit
  deriving DecidableEq, Repr

/-- A quality figure of an element or, for a channel's range, its latest calibration record: the outcome of the step that last ended, the
figures of Table 14-2 in thousandths of their units with their time and temperature, and the mark FAILED. -/
structure Figure where
  out : CalOut
  values : List Int := []
  atNs : Nat := 0
  temp : Int := 0
  failed : Bool := false
  deriving DecidableEq, Repr

/-- A gather's calibration: CAL_PINMASK, the elements by number (TIU u, DIG 4+d, SMU 8+u, LEVEL 16+p, CMP 32+p, TIMING 48+p, BALL 64+p)
whose step has ended in the present run, those of them whose LEVEL ended DONE, those a step runs on with its start, the units that TIMING steps hold,
those owed, the figures; whether the running stroke is a CALWIN stroke in which the Marver may work, its scheduled end, the units that met their
preconditions when it started, and the pins that CAL_RAN and CAL_OVERRUN name. -/
structure CalG where
  pinMask : Nat := 0
  window : Bool := false
  winEnd : Nat := 0
  winUnits : List Nat := []
  ended : List Nat := []
  leveled : List Nat := []
  running : Tab Nat := []
  loops : Tab Nat := []
  owed : List Nat := []
  figures : Tab Figure := []
  ran : Nat := 0
  overrun : Nat := 0
  deriving DecidableEq, Repr

/-- A tile's calibration: its sensors' latest readings and exclusions, TEMP and T_LAST in 0.01 K, DUE since a time, with BALL, the
temperature at which the run started, CAL_OVERDUE and TJ_HIGH posted, and the last run's counts of outcomes. -/
structure CalTile where
  readings : List Int := []
  excluded : Nat := 0
  temp : Int := 0
  tLast : Int := 0
  due : Bool := false
  dueNs : Nat := 0
  ball : Bool := false
  started : Bool := false
  startTemp : Int := 0
  overdue : Bool := false
  tjHigh : Bool := false
  counts : List Nat := [0, 0, 0, 0]
  deriving DecidableEq, Repr

/-- What a step of the foreground engine leaves of an element (Table 14-1): the choice among its redundant elements, and its coefficients. -/
structure Coef where
  choice : List Nat := []
  values : List Int := []
  deriving DecidableEq, Repr

/-- What a half of the Marver's store holds (R361), its check and MAC apart: the run epoch, T_LAST of each tile, and the coefficients by element,
80 times the gather plus the element's number, with those of the factory set for an element that is not listed where `factory`. -/
structure CalSet where
  epoch : Nat := 0
  last : List Int := [0, 0, 0, 0]
  factory : Bool := false
  coefs : Tab Coef := []
  deriving DecidableEq, Repr

/-- The Marver's device state: CAL_CFG, the store's phase (0 none, 1 data, 2 commit), whether another store is to follow, STORE_INT, FACTORY, the set
that the half in force holds, the other half where that holds a set, what the store in progress writes, the coefficients now in use with where
unlisted ones come from, and the latest calibration record of each precision channel and range (R354). [See R342, R361.] [DESIGN CHOICE, unsafe: log 16.] -/
structure Cal where
  cfg : Word := 0x3C11#32
  tiles : Tab CalTile := []
  gathers : Tab CalG := []
  storing : Nat := 0
  again : Bool := false
  storeInt : Bool := false
  factory : Bool := false
  held : CalSet := {}
  other : Option CalSet := none
  draft : CalSet := {}
  coefs : Tab Coef := []
  base : Bool := false
  recs : Tab Figure := []
  deriving DecidableEq, Repr

/-! ## Journal (chapter 18) -/

/-- A checkpoint (Table 18-5), CRC apart, which is computed when it is read out; `mirrored` marks one that the
partner mirrored here (R458). -/
structure Ckpt where
  site : Nat := 0
  succ : Nat := 0
  bcast : Bool := false
  run : Nat := 0
  cseq : Nat := 0
  prog : Nat := 0xFF
  mode : Nat := 2
  leftAt : Nat := 0xFFFF
  loops : List Nat := []
  stack : List Nat := []
  pend : Nat := 0
  pendTarget : Nat := 0
  tileDigest : DWord := 0
  cfgDigest : DWord := 0
  result : List Byte := []
  time : Nat := 0
  fails : Nat := 0
  flags : Nat := 0
  mirrored : Bool := false
  deriving DecidableEq, Repr

/-- An etch marker (Table 18-6) with whether its record is released (R474). -/
structure Marker where
  kind : Nat := 0
  outcome : Nat := 0
  site : Nat := 0
  stroke : Nat := 0
  run : Nat := 0
  cseq : Nat := 0
  released : Bool := false
  deriving DecidableEq, Repr

/-- A report record (Table 18-7). -/
structure Report where
  site : Nat := 0
  result : Nat := 0
  reason : Nat := 0
  etch : Nat := 0
  trigger : Nat := 0
  stroke : Nat := 0xFFFF
  run : Nat := 0
  cseq : Nat := 0
  time : Nat := 0
  deriving DecidableEq, Repr

/-- A site's journal: RUN and the CSEQ of its newest posted checkpoint, the checkpoints still in its four entries (R20), its
ring of 256 (R470), and the running RESULT digest (R473). -/
structure SiteJrn where
  run : Nat := 0
  cseq : Nat := 0
  queue : List Ckpt := []
  ring : List Ckpt := []
  result : List Byte := []
  deriving DecidableEq, Repr

/-- A replay in progress on a gather (R475–R477): mirror or local knowledge, the checkpoint's RUN and CSEQ, the trigger code, and
the ETCH stroke whose VFY stroke now runs in its place, that stroke's execution and what it gave; and the RENDEZVOUS at which a diverged member joins (an index
no stroke has where there is none). -/
structure Replay where
  mirror : Bool := false
  run : Nat := 0
  cseq : Nat := 0
  trigger : Nat := 0
  etch : Option Nat := none
  vfyTag : Option Nat := none
  vfyDone : Option StrokeRes := none
  joinAt : Option Nat := none
  deriving DecidableEq, Repr

/-- The journal: the sites by twin-wide number, the marker ring with its next record, the reports with REPORT_LOST, and JRN_CONFIG
BLANK per site. [DESIGN CHOICE, unsafe: log 11.] -/
structure Journal where
  sites : Tab SiteJrn := []
  markers : Tab Marker := []
  nextMarker : Nat := 0
  reports : List Report := []
  reportLost : Nat := 0
  blank : BitVec 128 := 0
  deriving DecidableEq, Repr
/-! ## Network time, ports and export (chapter 17) -/

/-- The network time counter (R430, in 2^-32 ns), TIME_INCR as written and as in force (R431), TIME_CFG, TIME_STATUS's own bits, the PTP
clock's configuration, and the servo's state (R432, R436): whether a step has been made since SYNC NONE, whether a Sync has come, when, and
how long three of its intervals are, the consecutive small offsets, and SYNC as it was before a refused step. `pathDelay`, the ingress stamp of a two-step Sync
that awaits its Follow_Up, and the last Sync's stamp less its origin are in twentieths of a ns. [DESIGN CHOICE, unsafe: log 131; DEDUCED, unsafe: log 133.] -/
structure NetTime where
  net : Nat := 0
  incr : Nat := 0x400000000
  incrNow : Nat := 0x400000000
  host : Bool := false
  thresh : Nat := 1000
  forced : Bool := false
  refused : Bool := false
  sync : Nat := 0
  ptpPort : Nat := 3
  domain : Nat := 0
  ptpMode : Nat := 0
  transport : Nat := 0
  stepped : Bool := false
  synced : Bool := false
  syncNs : Nat := 0
  syncSpan : Nat := 0
  syncIn : Option Int := none
  syncDiff : Option Int := none
  good : Nat := 0
  syncBefore : Option Nat := none
  offset : Int := 0
  pathDelay : Int := 0
  grandmaster : DWord := 0
  deriving DecidableEq, Repr

/-- A time-compare unit (Table 17-6); `fires` counts its matches, so that a start that waits for one knows a new one (R90). -/
structure Tcmp where
  mode : Nat := 0
  armed : Bool := false
  late : Bool := false
  stepped : Bool := false
  aborted : Bool := false
  skipped : Nat := 0
  target : Nat := 0
  period : Nat := 0
  fires : Nat := 0
  deriving DecidableEq, Repr

/-- What a port sends, in order of sending: a response part of a mailbox with its XSEQ, a batch of mailbox 7, an answer to ARP, neighbour
solicitation or echo, an export datagram, or an answer to Pdelay_Req. -/
inductive Sent1 where
  | response (mbx : Nat) (xseq : Word) (part : Part)
  | batch (bytes : List Byte)
  | echo (kind : EchoKind)
  | datagram (bytes : List Byte)
  | pdelayResp (received sent : Int) (twoStep : Bool)
  deriving DecidableEq, Repr

/-- An Ethernet port (R422–R425): NET_CONFIG, the link, the counters of NET_STATUS, what it has sent, and what is held while the link is down. [DESIGN CHOICE, unsafe: log 17.] -/
structure Port where
  enable : Bool := false
  fec : Bool := false
  mailbox : Bool := false
  ipv6 : Bool := false
  mtu : Nat := 0
  address : List Byte := []
  host : List Byte := []
  hostPort : Nat := 0
  egr : Nat := 0
  ing : Nat := 0
  up : Bool := false
  tagged : Nat := 0
  badFcs : Nat := 0
  fragments : Nat := 0
  misaddressed : Nat := 0
  foreign : Nat := 0
  pauses : Nat := 0
  ackDiscards : Nat := 0
  sent : List Sent1 := []
  held : List Sent1 := []
  deriving DecidableEq, Repr

/-- An export datagram that has been sent and is held: its SEQ, its records, the network time of its first send, its sends, and when it was last sent. -/
structure Dgram where
  seq : Nat
  records : List (List Byte)
  firstNs : Nat
  sends : Nat := 1
  sendNs : Nat := 0
  stale : Bool := false
  deriving DecidableEq, Repr

/-- The export context (R441–R445): EXPORT_OPEN's fields, when its close began, the next SEQ with the datagrams sent in all, the records collecting and since when, the
datagrams held oldest first, EXP_LOST with the count the next GAP record carries, and the counts of EXPORT_STATUS. [DESIGN CHOICE, unsafe: log 48.] -/
structure Exporter where
  isOpen : Bool := false
  closing : Bool := false
  closeNs : Nat := 0
  port : Nat := 0
  classes : Nat := 0
  dgramMax : Nat := 0
  flush : Nat := 0
  reserve : Nat := 0
  rto : Nat := 0
  dest : List Byte := []
  destPort : Nat := 0
  next : Nat := 0
  records : List (List Byte) := []
  firstNs : Nat := 0
  held : List Dgram := []
  lost : Nat := 0
  gap : Nat := 0
  resent : Nat := 0
  stale : Nat := 0
  deriving DecidableEq, Repr

/-! ## Power (chapter 21) -/

/-- A change that waits for its response to be acknowledged (R420): the CAUSE of a reset or the PSTATE that it brings, the mailbox of the
response, and when it was formed. -/
structure Due where
  code : Nat
  mbx : Nat
  ns : Nat
  deriving DecidableEq, Repr

/-- Power and reset: PSTATE 0 STARTING, 1 ACTIVE, 2 IDLE, 3 DORMANT; the park of R533 and PFAIL_N; WIPE and IMG of BEACON; PE_ARMED,
the time of the last device reset, CAUSE and WAKE_SRC; the rails as measured; the resets and the changes of power state that wait for their
responses to be acknowledged (R420); a DORMANT entry in progress, the source of a wake request held or made, the time of the last wake and of the
park; and BEACON.MP_TICK. [DESIGN CHOICE, unsafe: log 12.] -/
structure Power where
  pstate : Nat := 0
  parked : Bool := false
  pfail : Bool := false
  wipe : Bool := true
  img : Nat := 3
  peArmed : Bool := false
  resetNs : Nat := 0
  cause : Nat := 0
  wakeSrc : Nat := 0
  vphUv : Int := 8000000
  vplUv : Int := -2000000
  resetDue : List Due := []
  stateDue : List Due := []
  entering : Bool := false
  wakeHeld : Option Nat := none
  wakeNs : Option Nat := none
  parkNs : Nat := 0
  mpTick : Nat := 0
  deriving DecidableEq, Repr

/-! ## Identity, images and lifecycle (chapter 20) -/

/-- A root or certificate: as installed at manufacture, or as LC_INSTALL brought it. -/
inductive Installed where
  | factory
  | given (bytes : List Byte)
  deriving DecidableEq, Repr

/-- An image slot (R517–R523): whether it is VALID, its bytes, and the VERSION and SECURITY_VERSION of its header. [DESIGN CHOICE, unsafe: log 18.] -/
structure Slot where
  valid : Bool := false
  data : Mem := []
  version : Nat := 0
  secVersion : Nat := 0
  deriving DecidableEq, Repr

/-- Identity and lifecycle: the state of Table 20-3, the root and the certificates by ROLE, the seeds' erasure, the slots (management A
and B, Ampoule A and B), ACTIVE and FLOOR by TARGET, the running slots, BOOT_FALLBACK, the open session by TARGET with its mailbox, the
CHALLENGE in force, the MRAM ring of the device HSS index (R508), a lifecycle reset that is due, and BOOTS. [DESIGN CHOICE, unsafe: log 18.] -/
structure Sec where
  life : Nat := 1
  root : Option Installed := some .factory
  certs : Tab Installed := [(1, .factory), (2, .factory)]
  erased : Bool := false
  slots : Tab Slot := [(0, { valid := true, version := 0x30001 }), (2, { valid := true, version := 0x20004 })]
  active : List Nat := [0, 0]
  floors : List Nat := [0, 0]
  running : List (Option Nat) := [none, none]
  fallback : Bool := false
  sessions : List (Option Nat) := [none, none]
  challenge : Option (List Byte) := none
  hssRing : Tab Nat := []
  boots : Nat := 0
  deriving DecidableEq, Repr

/-! ## JTAG (chapter 23) -/

/-- The TAP: its instruction and the boundary register's update latch, one bit for each of the 39 cells. [DESIGN CHOICE, unsafe: log 78.] -/
structure Jtag where
  ir : Byte := 0x01
  cells : BitVec 39 := 0
  deriving DecidableEq, Repr

/-! ## The whole device -/

/-- The safe state of a gather (R494–R496): whether it stands, the reactions of this RUN, whether R496 holds it, the source
that put it there, and whether it replays on release. [DEDUCED, unsafe: log 100.] -/
structure SafeSt where
  on : Bool := false
  reacts : Nat := 0
  held : Bool := false
  src : Half := 0
  replay : Bool := false
  replayDue : Bool := false
  deriving DecidableEq, Repr

/-- A gather; `cane` is the cane that its last STROKE_START named (R42). -/
structure Gather where
  seq : Seq := {}
  play : Play := {}
  pins : Tab Pin := []
  sents : Tab Sent := []
  smus : Tab Smu := []
  tius : Tab Tiu := []
  digs : Tab Dig := []
  hatch : GHatch := {}
  safe : SafeSt := {}
  contact : Bool := false
  replay : Option Replay := none
  cane : Option Nat := none
  deriving DecidableEq, Repr

/-- The context of a half that is not in service (R464, R465): its gathers, broadcast table, programs, stream contexts,
canes, gather lines and patch sets. [DESIGN CHOICE, unsafe: log 19.] -/
structure HalfCtx where
  gathers : Tab Gather := []
  bcTable : Tab (BitVec 128) := []
  progs : Tab Prog := []
  ctxs : Tab Ctx := []
  canes : Tab Cane := []
  lines : Tab Line := []
  patches : Tab Patch := []
  deriving DecidableEq, Repr

/-- The twin (chapter 18): the state of Table 18-2 with MODE, SETTLE and TURN_LIMIT; the link, the partner's state and bus ownership as it
reports them, and the messages sent over it; what each holds of the other (R455, R458): the writes the partner has repeated here and whether that shadow is
whole, the accepted writes this device has yet to repeat there, its mirror entries not acknowledged with their sequence and the time of their sending, and the
sequences sent, acknowledged and received; DORMANT frames, the ANNEAL frame, a wake awaited, and the time of the last heartbeat received (R452, R457); the bus (R459–R463): owner,
the wait after a reset or the watch after a declaration with its start, the chain content last written (0 OPEN, 1 HOME, 2 AWAY by site) and the writes
and beacons made with the time of the last of each; TWIN_DOWN; DOUBLE duty (R464–R469): the half in service, a requested turn with the end of its TURN_LIMIT, whether it is forced, whether gathers halt
at the end of their ETCH stroke, a swap in progress and its start, a takeover whose first swap is due, the sites that owe a replay, and the other
half's context; and the heartbeats sent with what the last one carried and when. [DESIGN CHOICE, unsafe: log 19, 86; DEDUCED, unsafe: log 83, 87.] -/
structure Twin where
  st : Nat := 1
  solo : Bool := false
  settle : Nat := 1000
  turnLimit : Nat := 100
  link : Bool := false
  partner : Nat := 7
  partnerOwns : Bool := false
  absent : Bool := false
  out : List LinkMsg := []
  shadow : List (Half × Req) := []
  shadowHeld : Bool := false
  owed : List (Half × Req) := []
  unacked : List (Nat × Nat × LinkMsg) := []
  sentSeq : Nat := 0
  ackSeq : Nat := 0
  gotSeq : Nat := 0
  losses : Nat := 0
  resends : Nat := 0
  dormantTold : Bool := false
  dormantSent : Bool := false
  annealTold : Bool := false
  waking : Bool := false
  beatNs : Nat := 0
  owner : Bool := false
  hosWait : Bool := true
  hosNs : Nat := 0
  watching : Bool := false
  chain : List Nat := []
  writes : Nat := 0
  writeNs : Nat := 0
  beacons : Nat := 0
  beaconNs : Nat := 0
  down : Bool := false
  otherIn : Bool := false
  turnWanted : Bool := false
  turnDueNs : Nat := 0
  forced : Bool := false
  etchStop : Bool := false
  swapping : Bool := false
  swapNs : Nat := 0
  takeover : Bool := false
  replayOwed : List Nat := []
  shelf : HalfCtx := {}
  beats : Nat := 0
  beat : Option (Nat × Nat × Bool × Nat) := none
  deriving DecidableEq, Repr

/-- The block. -/
structure State where
  pending : List Instr := []
  gathers : Tab Gather := []
  bcTable : Tab (BitVec 128) := []
  ctxs : Tab Ctx := []
  progs : Tab Prog := []
  patches : Tab Patch := []
  canes : Tab Cane := []
  mbx : Tab Mailbox := []
  outbox : Outbox := {}
  chain : Chain := {}
  hatch : Hatch := {}
  faults : Faults := {}
  upNs : Nat := 0
  freeCount : Nat := 0
  dram : Mem := []
  clearLow : Bool := false
  tref : TiuRef := {}
  time : NetTime := {}
  tcmps : Tab Tcmp := []
  ports : Tab Port := []
  exporter : Exporter := {}
  amp : Amp := {}
  cal : Cal := {}
  twin : Twin := {}
  journal : Journal := {}
  power : Power := {}
  sec : Sec := {}
  jtag : Jtag := {}
  deriving DecidableEq, Repr

/-- The block right after a device reset. [DESIGN CHOICE, unsafe: log 11, 14.] -/
def State.reset : State := {}

end Sys2Proof.Machine
end

