-- ==== Sys2Proof/Machine/Flags.lean ====
section
/-!
DEFINITION. Codes and flags: the statuses of Table 16-6, the fault sources of Tables 19-2 to 19-5, the flag bits of results,
and the comparator states and outcomes of Table 6-1.
-/
namespace Sys2Proof.Machine

/-! ## Statuses (Table 16-6) -/

/-- [See R418.] -/
def stOK : Half := 0x0000
def stMore : Half := 0x0001
def stBadCrc : Half := 0x0101
def stBadEnvelope : Half := 0x0102
def stMbxFull : Half := 0x0104
def stWrongMailbox : Half := 0x0105
def stStarting : Half := 0x0201
def stSeqBusy : Half := 0x0202
def stMemberBusy : Half := 0x0203
def stCaneFull : Half := 0x0204
def stCaneBusy : Half := 0x0205
def stNotLocal : Half := 0x0206
def stTwinDown : Half := 0x0207
def stTsetEmpty : Half := 0x0208
def stBwFull : Half := 0x0209
def stCtxBusy : Half := 0x020A
def stHeadroom : Half := 0x020B
def stClearActive : Half := 0x020C
def stPinPower : Half := 0x020D
def stSmuPower : Half := 0x020E
def stRangeBusy : Half := 0x020F
def stAmpOwned : Half := 0x0210
def stQueueFull : Half := 0x0211
def stAmpOffline : Half := 0x0212
def stSafeState : Half := 0x0213
def stPadBusy : Half := 0x0214
def stNotConnected : Half := 0x0215
def stAmpBusy : Half := 0x0216
def stTiuBusy : Half := 0x0217
def stCapBusy : Half := 0x0218
def stCapParked : Half := 0x0219
def stHatchLoop : Half := 0x021A
def stBadHandle : Half := 0x0301
def stWrongClass : Half := 0x0302
def stCaneMixed : Half := 0x0303
def stCaneCycle : Half := 0x0304
def stCaneDuplicate : Half := 0x0305
def stBadLength : Half := 0x0306
def stBadField : Half := 0x0307
def stBadRange : Half := 0x0308
def stBadOpcode : Half := 0x0309
def stBadCond : Half := 0x030A
def stBadFlags : Half := 0x030B
def stNoTimeout : Half := 0x030C
def stLoopPair : Half := 0x030D
def stStackDepth : Half := 0x030E
def stVerifyLink : Half := 0x030F
def stBadEdge : Half := 0x0310
def stBadSymbol : Half := 0x0311
def stBadWidth : Half := 0x0312
def stPeriodMixed : Half := 0x0313
def stCtxClash : Half := 0x0314
def stBadLevel : Half := 0x0315
def stUnknownOpcode : Half := 0x0316
def stAmpUnknown : Half := 0x0401
def stPathRefused : Half := 0x0402
def stReceiptsStopped : Half := 0x0403
def stNotReceipted : Half := 0x0404
def stSealClosed : Half := 0x0405
def stNoCandidate : Half := 0x0406
def stCounterFull : Half := 0x0407
def stSheetEmpty : Half := 0x0408
def stSheetUnknown : Half := 0x0409
def stSigFail : Half := 0x0501
def stRollback : Half := 0x0502
def stLifecycle : Half := 0x0503
def stAuthFail : Half := 0x0504
def stSlotBusy : Half := 0x0505
def stTrigTimeout : Half := 0x0601
def stInAnneal : Half := 0x0701
def stAnnealAbort : Half := 0x0702

/-! ## Fault sources (Tables 19-2 to 19-5) -/

def fCheckpointWait : Half := 0xA001
def fSeqLate : Half := 0xA002
def fRdvNone : Half := 0xA003
def fPinOc : Half := 0xA004
def fClearSeen : Half := 0xA005
def fSmuOpen : Half := 0xA006
def fAmpRail : Half := 0xA007
def fAmpPll : Half := 0xA008
def fAmpRefRange : Half := 0xA009
def fAmpCompBound : Half := 0xA00A
def fAmpInl : Half := 0xA00B
def fAmpLmsState : Half := 0xA00C
def fAmpStore : Half := 0xA00D
def fTrefLoss : Half := 0xA00E
def fTrefBack : Half := 0xA00F
def fCalSensor : Half := 0xA010
def fCalOverdue : Half := 0xA011
def fCalElement : Half := 0xA012
def fCalFactory : Half := 0xA013
def fChainPos : Half := 0xA014
def fCmdLate : Half := 0xA015
def fNetLink : Half := 0xA016
def fTimeStep : Half := 0xA017
def fExpStale : Half := 0xA018
def fPairClash : Half := 0xA019
def fTwinAbsent : Half := 0xA01A
def fTwinTakeover : Half := 0xA01B
def fJrnReportFull : Half := 0xA01C
def fTjHigh : Half := 0xA01D
def fTurnForced : Half := 0xA01E
def fSeqZeroSpin : Half := 0xB001
def fUcodeAddr : Half := 0xB002
def fUcodeRunaway : Half := 0xB003
def fUcodeStack : Half := 0xB004
def fHatchStorm : Half := 0xB005
def fHatchRing : Half := 0xB006
def fTiuSelftest : Half := 0xB007
def fMemUe : Half := 0xB008
def fRefclkLoss : Half := 0xC001
def fWdog : Half := 0xC002
def fLockstep : Half := 0xC003
def fPllLoss : Half := 0xC004
def fDramUe : Half := 0xC005
def fMramFail : Half := 0xC006
def fJrnUe : Half := 0xC007
def fRailLogic : Half := 0xC008
def fRailPe : Half := 0xC009
def fAmpStoreMac : Half := 0xD001
def fLockstepRepeat : Half := 0xD002
def fTjCrit : Half := 0xD003
def fFltSelf : Half := 0xD004

/-- The class of a source: 0xA to 0xD (R483). -/
def srcClass (f : Half) : Nat := f.toNat / 4096

/-- The sources of Tables 19-2 to 19-5; no other code is defined. -/
def srcDefined (f : Half) : Bool :=
  let n := f.toNat % 4096
  match srcClass f with
  | 0xA => 1 ≤ n && n ≤ 0x1E
  | 0xB => 1 ≤ n && n ≤ 8
  | 0xC => 1 ≤ n && n ≤ 9
  | 0xD => 1 ≤ n && n ≤ 4
  | _ => false

/-- Table 19-3's Replay column: TIU_SELFTEST and MEM_UE do not replay. -/
def srcReplays (f : Half) : Bool := srcClass f == 0xB && f != fTiuSelftest && f != fMemUe

/-- The sources for which Table 19-9 holds the management processor in reset. -/
def srcHoldsProcessor (f : Half) : Bool :=
  f == fWdog || f == fLockstep || f == fLockstepRepeat || f == fRefclkLoss || f == fPllLoss || f == fFltSelf

/-! ## Comparators (Table 6-1, R181) -/

def sideOn (x : Side) : Bool := x == .crossed

/-- The 2-bit state of Table 6-1: LOW 0, MID 1, HIGH 2, BOTH 3. An UNRESOLVED side is not crossed. -/
def cmpCode (hi lo : Side) : Nat :=
  match sideOn hi, sideOn lo with
  | true, true => 3
  | true, false => 2
  | false, true => 0
  | false, false => 1

/-- Does a strobe with symbol L, H, Z or W (Table 4-1 codes 2, 3, 5, 0xA) pass in a comparator state (Table 6-1)? -/
def strobePass (sym state : Nat) : Bool :=
  match sym with
  | 0x2 => state == 0
  | 0x3 => state == 2
  | 0x5 => state == 1
  | 0xA => state == 1
  | _ => true

/-- The trip and producer conditions OFF, ABOVE, BELOW, OUTSIDE on a window comparator (R160). An UNRESOLVED side meets none. -/
def condHolds (cond : Nat) (hi lo : Side) : Bool :=
  match cond with
  | 1 => sideOn hi
  | 2 => sideOn lo
  | 3 => sideOn hi || sideOn lo
  | _ => false

/-- Is a sentinel's raw output on its active side: above for DIR 0, below for DIR 1 (R175)? UNRESOLVED is not. -/
def rawActive (dir : Bool) (above : Side) : Bool := if dir then above == .clear else above == .crossed

/-! ## Result flags

The spec names the flags of a stroke's result and gives them no bit places but bit 31 MASKED (R587); the places below are the
model's (log entry 7). -/

/-- [See R139.] [DESIGN CHOICE, unsafe: log 7.] -/
def rfPatched : Nat := 2 ^ 0
def rfRsvSymbol : Nat := 2 ^ 1
def rfStcUnfilled : Nat := 2 ^ 2
def rfStcShort : Nat := 2 ^ 3
def rfEdgeDrop : Nat := 2 ^ 4
def rfNotAtSpeed : Nat := 2 ^ 5
def rfIdleInserted : Nat := 2 ^ 6
def rfUnderrunAbort : Nat := 2 ^ 7
def rfStreamRange : Nat := 2 ^ 8
def rfPinOc : Nat := 2 ^ 9
def rfLevelsCleared : Nat := 2 ^ 10
def rfPinParked : Nat := 2 ^ 11
def rfTripped : Nat := 2 ^ 12
def rfPinRate : Nat := 2 ^ 13
def rfHeadroom : Nat := 2 ^ 14
def rfReplayed : Nat := 2 ^ 15
def rfCalDue : Nat := 2 ^ 17
def rfCalRan : Nat := 2 ^ 18
def rfCalConflict : Nat := 2 ^ 19
def rfCalOverrun : Nat := 2 ^ 20
def rfAmpPin : Nat := 2 ^ 21
def rfSiteSafe : Nat := 2 ^ 29
def rfTwinDown : Nat := 2 ^ 30
/-- [DESIGN CHOICE, unsafe: log 7.] -/
def rfMasked : Nat := 2 ^ 31

/-- Set flag bits in a word. -/
def orFlags (a b : Nat) : Nat := a ||| b

end Sys2Proof.Machine
end

