-- ==== Sys2Proof/Machine/Ops.lean ====
section
/-!
DEFINITION. The named operations over State: gathers and their units, DRAM, free values, fault records, the forming of
responses, and the event notification queue. Reactions to faults stand in Reaction.lean, Hatch's propagation in Fabric.lean.
-/
namespace Sys2Proof.Machine

/-! ## Units -/

def State.gather (s : State) (g : Nat) : Gather := Tab.get {} s.gathers g
def State.setG (s : State) (g : Nat) (G : Gather) : State := { s with gathers := Tab.put s.gathers g G }
def State.modG (s : State) (g : Nat) (f : Gather → Gather) : State := s.setG g (f (s.gather g))

def Gather.pin (G : Gather) (p : Nat) : Pin := Tab.get {} G.pins p
def Gather.setPin (G : Gather) (p : Nat) (x : Pin) : Gather := { G with pins := Tab.put G.pins p x }
def Gather.smu (G : Gather) (u : Nat) : Smu := Tab.get {} G.smus u
def Gather.setSmu (G : Gather) (u : Nat) (x : Smu) : Gather := { G with smus := Tab.put G.smus u x }
def Gather.sent (G : Gather) (n : Nat) : Sent := Tab.get {} G.sents n
def Gather.setSent (G : Gather) (n : Nat) (x : Sent) : Gather := { G with sents := Tab.put G.sents n x }

def State.pin (s : State) (g p : Nat) : Pin := (s.gather g).pin p
def State.setPin (s : State) (g p : Nat) (x : Pin) : State := s.modG g (·.setPin p x)
def State.smu (s : State) (g u : Nat) : Smu := (s.gather g).smu u
def State.setSmu (s : State) (g u : Nat) (x : Smu) : State := s.modG g (·.setSmu u x)
def State.sent (s : State) (g n : Nat) : Sent := (s.gather g).sent n
def State.setSent (s : State) (g n : Nat) (x : Sent) : State := s.modG g (·.setSent n x)
def Gather.dig (G : Gather) (d : Nat) : Dig := Tab.get {} G.digs d
def State.dig (s : State) (g d : Nat) : Dig := (s.gather g).dig d
def State.setDig (s : State) (g d : Nat) (x : Dig) : State := s.modG g fun G => { G with digs := Tab.put G.digs d x }

def State.mailbox (s : State) (m : Nat) : Mailbox := Tab.get {} s.mbx m
def State.setMbx (s : State) (m : Nat) (x : Mailbox) : State := { s with mbx := Tab.put s.mbx m x }
def State.prog (s : State) (p : Nat) : Prog := Tab.get {} s.progs p
def State.setProg (s : State) (p : Nat) (x : Prog) : State := { s with progs := Tab.put s.progs p x }
def State.ctx (s : State) (c : Nat) : Ctx := Tab.get {} s.ctxs c
def State.setCtx (s : State) (c : Nat) (x : Ctx) : State := { s with ctxs := Tab.put s.ctxs c x }

/-- The patch set of an unpatched tile: all zeros (R131, R138). -/
def Patch.empty : Patch := { words := List.replicate 64 0, regs := List.replicate 16 0 }
def State.patch (s : State) (t : Nat) : Patch := Tab.get Patch.empty s.patches t

/-- A gather's tile (R11). -/
def tileOf (g : Nat) : Nat := g / 16

/-- Apply an update to each of a list of indices in turn. -/
def forAll {α : Type} (xs : List α) (f : State → α → State) (s : State) : State := xs.foldl f s

def State.setFaults (s : State) (f : Faults) : State := { s with faults := f }
def State.setHatch (s : State) (h : Hatch) : State := { s with hatch := h }
def State.modSeq (s : State) (g : Nat) (f : Seq → Seq) : State := s.modG g fun G => { G with seq := f G.seq }
def State.modPlay (s : State) (g : Nat) (f : Play → Play) : State := s.modG g fun G => { G with play := f G.play }

/-! ## Free values -/

/-- The next free value, and the state in which it has been used. [DESIGN CHOICE, safe: log 5.] -/
def State.fresh (s : State) : Nat × State := (Config.free s.freeCount, { s with freeCount := s.freeCount + 1 })
/-- The next free choice. [DESIGN CHOICE, safe: log 5.] -/
def State.choose (s : State) : Bool × State := (Config.choice s.freeCount, { s with freeCount := s.freeCount + 1 })

/-! ## DRAM and the other byte stores (R6) -/

/-- One byte; an unlisted address reads 0. [DESIGN CHOICE, unsafe: log 14.] -/
def Mem.read : Mem → Nat → Byte
  | [], _ => 0#8
  | (a, b) :: t, k => if a = k then b else Mem.read t k

/-- Write one byte, keeping the canonical form: writing 0 removes the entry. -/
def Mem.write : Mem → Nat → Byte → Mem
  | [], k, v => if v = 0#8 then [] else [(k, v)]
  | (a, b) :: t, k, v =>
    if k < a then (if v = 0#8 then (a, b) :: t else (k, v) :: (a, b) :: t)
    else if k = a then (if v = 0#8 then t else (k, v) :: t)
    else (a, b) :: Mem.write t k v

def Mem.writeAll : Mem → Nat → List Byte → Mem
  | m, _, [] => m
  | m, k, v :: vs => Mem.writeAll (Mem.write m k v) (k + 1) vs

def Mem.readAll (m : Mem) (k n : Nat) : List Byte := (List.range n).map fun i => Mem.read m (k + i)

/-- The DRAM's size: 8 GiB (R11); no byte exists at or above it. -/
def dramBytes : Nat := 8 * 1024 * 1024 * 1024

/-! ## Time -/

/-- Network time in whole ns (R430). -/
def State.netNs (s : State) : Nat := s.time.net / 2 ^ 32 % 2 ^ 64

/-! ## Sites (R34) -/

/-- The half in service: this device's TWIN_ID, or the twin's while the other half's context is in service (R465). -/
def State.halfIx (s : State) : Nat := if s.twin.otherIn then 1 - b2n s.chain.twinId else b2n s.chain.twinId

/-- The twin-wide site number of a gather of the half in service. -/
def State.siteOf (s : State) (g : Nat) : Nat := s.halfIx * 64 + g

/-- A gather's handle (R33). -/
def State.gHandle (s : State) (g : Nat) : Half := BitVec.ofNat 16 (0x6000 + s.siteOf g)

def State.tcmp (s : State) (n : Nat) : Tcmp := Tab.get {} s.tcmps n
def State.setTcmp (s : State) (n : Nat) (x : Tcmp) : State := { s with tcmps := Tab.put s.tcmps n x }
def State.setPstate (s : State) (p : Nat) : State := { s with power := { s.power with pstate := p } }
def State.setTwin (s : State) (t : Twin) : State := { s with twin := t }
/-- A command for the half not in turn asks for a turn change (R468). -/
def State.requestTurn (s : State) : State :=
  if s.twin.turnWanted then s else s.setTwin { s.twin with turnWanted := true, turnDueNs := s.upNs + s.twin.turnLimit * 10 ^ 6 }

/-- A reset follows a response (R420). -/
def Power.resetBy (p : Power) (cause mbx now : Nat) : Power := { p with resetDue := p.resetDue ++ [{ code := cause, mbx := mbx, ns := now }] }

def hDevice : Half := 0x8000

/-! ## Fault records (R484, R492, R501) -/

/-- An occurrence reaching a record. An acknowledged record starts its REAL and INJECTED afresh (R501). -/
def Rec.hit (r : Rec) (real react : Bool) (tick detail : Word) : Rec :=
  let r := if r.ack then { r with ack := false, real := false, injected := false } else r
  { r with real := r.real || real, injected := r.injected || !real, react := satAdd 0xFF r.react (b2n react)
           count := sat16 r.count, tick := tick, detail := detail }

/-- Drop the oldest record of class A, if there is one. -/
def dropOldestA : List Rec → Option (List Rec)
  | [] => none
  | r :: rs => if srcClass r.src == 0xA then some rs else (dropOldestA rs).map (r :: ·)

/-- A new record takes a free slot, else that of the oldest class A record; with neither it is counted in LOST (R492). -/
def Faults.keep (f : Faults) (r : Rec) : Faults :=
  let r := { r with seq := f.nextSeq }
  if f.recs.length < 256 then { f with recs := f.recs ++ [r], nextSeq := f.nextSeq + 1 }
  else match dropOldestA f.recs with
    | some rs => { f with recs := rs ++ [r], nextSeq := f.nextSeq + 1 }
    | none => { f with lost := sat16 f.lost }

/-- The pair of source and SCOPE that a record stands for. -/
def Rec.names (r : Rec) (src scope : Half) : Bool := r.src == src && r.scope == scope

/-- The record of a source and SCOPE, formed or updated (R492). -/
def Faults.enter (f : Faults) (src scope : Half) (detail : Word) (real react : Bool) (tick : Word) (ns : Nat) : Faults :=
  let f := if srcClass src == 0xA then f else { f with lastSrc := src }
  if f.recs.any (·.names src scope) then { f with recs := f.recs.map fun r => if r.names src scope then r.hit real react tick detail else r }
  else f.keep { (({ src := src, scope := scope } : Rec).hit real react tick detail) with time := ns }

/-- An occurrence of a source and SCOPE comes to its record (R492). [DESIGN CHOICE, safe: log 112.] -/
def State.record (s : State) (src scope : Half) (detail : Word) (real react : Bool) : State :=
  { s with freeCount := s.freeCount + 1
           faults := s.faults.enter src scope detail real react (Config.fclkTick s.freeCount) s.netNs }

/-- A class A advisory: record only (Table 19-1). -/
def State.advise (s : State) (src scope : Half) (detail : Word := 0) : State := s.record src scope detail true false

/-! ## Responses (R406–R411) -/

/-- What a command answers: a status and its payload in blocks that a part boundary never cuts (R409). -/
structure Reply where
  status : Half := 0
  blocks : List (List Byte) := []

def Reply.ok (bs : List Byte) : Reply := { blocks := [bs] }
def Reply.err (st : Half) : Reply := { status := st }

/-- Fill parts of at most 4,076 bytes with whole blocks. -/
def packParts : List (List Byte) → List Byte → List (List Byte)
  | [], cur => [cur]
  | b :: bs, cur => if cur.length + b.length ≤ 4076 then packParts bs (cur ++ b) else cur :: packParts bs b

/-- The refusals of R406 that carry a payload: STROKE_LOAD and BCAST_LOAD refused with a status of Table 3-3 or R110. -/
def carriesIndex (opcode st : Half) : Bool :=
  (opcode == 0x0301 || opcode == 0x0407) &&
    [stBadOpcode, stBadLength, stBadRange, stNoTimeout, stBadCond, stBadFlags, stBadField].contains st

/-- Does a response with this status carry a payload (R406)? -/
def hasPayload (opcode st : Half) : Bool := st.toNat < 0x100 || st == stNotReceipted || carriesIndex opcode st

/-- The parts of a response (R409): every part but the last carries OK_MORE. -/
def mkParts (opcode tag st : Half) (late : Bool) (elapsed : Word) (payloads : List (List Byte)) : List Part :=
  let n := payloads.length
  (List.range n).map fun i =>
    { opcode := opcode, tag := tag, status := if i + 1 < n then stMore else st, part := i, late := late, elapsed := elapsed
      payload := payloads.getD i [] }

/-- Has a span of ns gone by since an instant? [DESIGN CHOICE, unsafe: log 130.] -/
def State.passed (s : State) (since span : Nat) : Bool := decide (since + span ≤ s.upNs)

/-- ELAPSED in µs since a time in ns, saturating (Table 16-3). -/
def State.elapsedUs (s : State) (since : Nat) : Word := BitVec.ofNat 32 (min 0xFFFF_FFFF ((s.upNs - since) / 1000))

/-- An entry with its response formed. A bound of 0 stands for a command whose bound the model does not count. [DESIGN CHOICE, unsafe: log 9.] -/
def Entry.respond (e : Entry) (since now bound : Nat) (elapsed : Word) (r : Reply) : Entry :=
  let ps := if hasPayload e.opcode r.status then packParts r.blocks [] else [[]]
  let late := bound != 0 && now - since > bound
  { e with phase := .formed (mkParts e.opcode e.req.tag r.status late elapsed ps) }

/-- Change the first entry of a list that meets a test. -/
def updFirst {α : Type} (t : α → Bool) (f : α → α) : List α → List α
  | [] => []
  | x :: xs => if t x then f x :: xs else x :: updFirst t f xs

def Entry.isFormed (e : Entry) : Bool := match e.phase with | .formed _ => true | _ => false
def Entry.isRunning (e : Entry) : Bool := match e.phase with | .running _ _ => true | _ => false
def Entry.isQueued (e : Entry) : Bool := e.phase == .queued

/-- When a command came to the head of its mailbox: rung, or the response of the command before it formed (R403, R411). -/
def Mailbox.headSince (x : Mailbox) (e : Entry) : Nat := max e.rungNs x.formedNs

/-- The command now executing or waiting in a mailbox (R403: at most one). -/
def Mailbox.runningEntry (x : Mailbox) : Option Entry := x.entries.find? Entry.isRunning

/-! ## Ports -/

def State.port (s : State) (p : Nat) : Port := Tab.get {} s.ports p
def State.setPort (s : State) (p : Nat) (x : Port) : State := { s with ports := Tab.put s.ports p x }

/-- Hand something to a port: it is sent, or held while the link is down (R425). [DEDUCED, unsafe: log 107.] -/
def State.send (s : State) (p : Nat) (x : Sent1) : State :=
  let t := s.port p
  s.setPort p (if t.up then { t with sent := t.sent ++ [x] } else { t with held := t.held ++ [x] })

/-- The part readable in a mailbox: of its first outstanding command, where that has one formed (R407). -/
def Mailbox.shown (x : Mailbox) : Option (Entry × Part) :=
  match x.entries with
  | e :: _ => match e.phase with | .formed (p :: _) => some (e, p) | _ => none
  | [] => none

/-- On mailboxes 2 and 3 a part is sent once it becomes readable (R428). -/
def State.pumpMbx (s : State) (m : Nat) : State :=
  if m == 2 || m == 3 then
    let x := s.mailbox m
    match x.shown with
    | some (e, p) =>
      if x.sends == 0 then (s.setMbx m { x with sends := 1, sendNs := s.upNs }).send (m - 2) (.response m (e.xseq.getD 0) p) else s
    | none => s
  else s

/-- Form the response of the running command of a mailbox; one formed after its bound, 50 µs more for a command that woke the device (R543), carries
LATE and posts CMD_LATE (R411). [DESIGN CHOICE, unsafe: log 9.] -/
def State.respondOne (s : State) (m bound : Nat) (r : Reply) : State :=
  let x := s.mailbox m
  match x.runningEntry with
  | none => s
  | some e =>
    match e.phase with
    | .running _ since =>
      let bound := if bound != 0 && e.woke then bound + 50000 else bound
      let late := bound != 0 && s.upNs - since > bound
      let x := { x with entries := updFirst Entry.isRunning (fun e => e.respond since s.upNs bound (s.elapsedUs since) r) x.entries
                        formedNs := s.upNs, late := if late then x.late + 1 else x.late }
      let s := s.setMbx m x
      let s := if late then s.advise fCmdLate hDevice (BitVec.ofNat 32 e.opcode.toNat) else s
      s.pumpMbx m
    | _ => s

/-- Let the running command of a mailbox wait (R404). -/
def State.await (s : State) (m : Nat) (w : Wait) : State :=
  let x := s.mailbox m
  let f := fun (e : Entry) => match e.phase with | .running _ since => { e with phase := .running w since } | _ => e
  s.setMbx m { x with entries := updFirst Entry.isRunning f x.entries }

/-- What the running command of a mailbox waits for. -/
def State.waiting (s : State) (m : Nat) : Option (Entry × Wait) :=
  match (s.mailbox m).runningEntry with
  | some e => match e.phase with | .running w _ => some (e, w) | _ => none
  | none => none

/-- The mailboxes whose running command waits with a kind. -/
def State.waiters (s : State) (k : WaitKind) : List Nat :=
  (List.range 7).filter fun m => match s.waiting m with | some (_, w) => w.kind == k | none => false

/-! ## SYS_FENCE (R405) -/

/-- Has every command that a mailbox had accepted by a count formed its response? Those accepted since are the last of its order. -/
def Mailbox.passed (x : Mailbox) (count : Nat) : Bool :=
  let since := (x.accepted - BitVec.ofNat 32 count).toNat
  let es := x.entries.filter (!·.refusal)
  (es.take (es.length - since)).all Entry.isFormed

/-- Answer a waiting fence whose mailboxes have passed: `units` are the mailboxes, `nums` what each had accepted. -/
def State.fenceTry (s : State) (m : Nat) : State :=
  match s.waiting m with
  | some (e, w) =>
    if w.kind == .fence && ((w.units.zip w.nums).all fun un => (s.mailbox un.1).passed un.2) then s.respondOne m e.bound (Reply.ok []) else s
  | none => s

/-- Let every fence that may complete do so; one fence may wait for another. -/
def State.fencesDone (s : State) : State :=
  if (s.waiters .fence).isEmpty then s
  else (List.range 7).foldl (fun s _ => (List.range 7).foldl State.fenceTry s) s

/-- Form the response of the running command of a mailbox (R411), and answer the fences that waited for it. -/
def State.respond (s : State) (m bound : Nat) (r : Reply) : State := (s.respondOne m bound r).fencesDone

/-- Form the response of a command whose bound runs from a start of its own (R208, R241). -/
def State.respondFrom (s : State) (m start bound : Nat) (r : Reply) : State :=
  match (s.mailbox m).runningEntry with
  | some e => match e.phase with | .running _ since => s.respond m (start - since + bound) r | _ => s
  | none => s

/-! ## Event notification queue (R19, R339) -/

/-- A notification entry, Table 13-6. -/
def noteEntry (kind sub : Nat) (source : Half) (assert : Bool) (count time : Nat) : List Byte :=
  toLE 1 kind ++ toLE 1 sub ++ toLE 2 source.toNat ++ toLE 2 (b2n assert) ++ toLE 2 (min 0xFFFF count) ++ toLE 8 time

/-- Put an entry into the queue: at its end, or among the last entries of its time in ascending SOURCE (R339). -/
def queueNote (e : List Byte) (q : List (List Byte)) : List (List Byte) :=
  let after := fun (x : List Byte) => x.drop 8 == e.drop 8 && u16 e 2 < u16 x 2
  let tail := (q.reverse.takeWhile after).length
  q.take (q.length - tail) ++ e :: q.drop (q.length - tail)

/-- Post one entry, or count it in EVQ_LOST when the queue holds 512 (R19). [See R15.] -/
def State.note (s : State) (e : List Byte) : State :=
  let h := s.hatch
  if h.queue.length < 512 then s.setHatch { h with queue := queueNote e h.queue } else s.setHatch { h with evqLost := sat16 h.evqLost }

/-! ## Journal records and the link (chapter 18) -/

/-- Send a message over the counterproof link: it leaves with the outgoing traffic (R450). -/
def State.linkSend (s : State) (m : LinkMsg) : State := s.setTwin { s.twin with out := s.twin.out ++ [m] }

/-- Send a mirror entry, which awaits the partner's acknowledgement (R452, R458). -/
def State.mirrorSend (s : State) (m : LinkMsg) : State :=
  let t := s.twin
  (s.setTwin { t with sentSeq := t.sentSeq + 1, unacked := t.unacked ++ [(t.sentSeq + 1, s.upNs, m)] }).linkSend m

def State.setJournal (s : State) (j : Journal) : State := { s with journal := j }
def State.site (s : State) (n : Nat) : SiteJrn := Tab.get {} s.journal.sites n
def State.setSite (s : State) (n : Nat) (x : SiteJrn) : State := s.setJournal { s.journal with sites := Tab.put s.journal.sites n x }
/-- The journal of a gather's site. -/
def State.gSite (s : State) (g : Nat) : SiteJrn := s.site (s.siteOf g)

/-! ## Reports (R478) -/

/-- Add a report record; beyond 1,024 they are counted, and the first of these posts JRN_REPORT_FULL. -/
def State.report (s : State) (r : Report) : State :=
  let j := s.journal
  if j.reports.length < 1024 then s.setJournal { j with reports := j.reports ++ [r] }
  else
    let s' := s.setJournal { j with reportLost := satAdd 0xFFFF_FFFF j.reportLost 1 }
    if j.reportLost == 0 then s'.advise fJrnReportFull hDevice else s'

/-! ## The ring of an HSS key (R266, R267, R508) -/

/-- A ring word: a value in [39:0] with its CRC-24 check in [63:40]. Which CRC it is, is open. [DESIGN CHOICE, unsafe: log 135.] -/
def ringWord (v : Nat) : Nat := v % 2 ^ 40 + (Config.crc24 (v % 2 ^ 40)).toNat * 2 ^ 40

/-- Is a word's check intact? -/
def ringIntact (w : Nat) : Bool := w / 2 ^ 40 == (Config.crc24 (w % 2 ^ 40)).toNat

/-- A word whose check fails, with some value in it. -/
def ringTorn (v : Nat) : Nat := v % 2 ^ 40 + ((Config.crc24 (v % 2 ^ 40)).toNat + 1) % 2 ^ 24 * 2 ^ 40

/-- The next free index: the largest value in a word whose check is intact (R267). -/
def ringNext (ring : Tab Nat) : Nat := ring.foldl (fun m e => if ringIntact e.2 then max m (e.2 % 2 ^ 40) else m) 0

/-- Reserve the next index q: q + 1 goes into word q mod 64. After the last index, 2^40 - 1, the value does not fit into [39:0], and the ring
stays as it is. [DESIGN CHOICE, unsafe: log 135.] -/
def ringReserve (ring : Tab Nat) : Tab Nat :=
  if ringNext ring + 1 < 2 ^ 40 then Tab.put ring (ringNext ring % 64) (ringWord (ringNext ring + 1)) else ring

/-- A reservation that failed or was torn leaves its word with a failing check. -/
def ringTear (ring : Tab Nat) (v : Nat) : Tab Nat := Tab.put ring (ringNext ring % 64) (ringTorn v)

end Sys2Proof.Machine
end

