-- ==== Sys2Proof/Machine/Operands.lean ====
section
/-!
DEFINITION. Operand forms: unit handles (R33–R36), canes and their flattened membership (R39–R43), the members of a command's
target with their states (R48), and the answers of commands over members, with the derivation of R49 and the records of R48, R410
and R587.
-/
namespace Sys2Proof.Machine

/-! ## Handles (Table 2-1) -/

def hClass (h : Half) : Nat := h.toNat / 4096
def hIndex (h : Half) : Nat := h.toNat % 4096

/-- The number of units of a class; 0 for a class that Table 2-1 does not list. -/
def classSize : Nat → Nat
  | 0 => 1024 | 1 => 256 | 2 => 64 | 3 => 128 | 4 => 128 | 5 => 256 | 6 => 128 | 7 => 4 | 8 => 2 | 9 => 1 | 0xC => 256
  | _ => 0

/-- Does a handle name a unit of Table 2-1 (R33)? -/
def handleOk (h : Half) : Bool := hIndex h < classSize (hClass h)

/-- The classes by name. -/
def cPin : Nat := 0
def cSmu : Nat := 1
def cBridge : Nat := 2
def cAdc : Nat := 3
def cDig : Nat := 4
def cTiu : Nat := 5
def cGather : Nat := 6
def cTile : Nat := 7
def cDevice : Nat := 8

/-- The gather of a local unit index of a class. -/
def unitGather (cls u : Nat) : Nat :=
  match cls with
  | 0 => u / 16 | 1 => u / 4 | 2 => u | 3 => u / 2 | 4 => u / 2 | 5 => u / 4 | _ => u

/-! ## Canes -/

def State.cane (s : State) (i : Nat) : Option Cane := (s.canes.find? (·.1 == i)).map (·.2)

/-- A cane's flattened membership, depth first in descriptor order (R40). Nesting cannot exceed the 256 descriptors (R41). -/
def flatten (canes : Tab Cane) : Nat → Nat → List Half
  | 0, _ => []
  | fuel + 1, i =>
    match canes.find? (·.1 == i) with
    | none => []
    | some (_, c) => (c.members.map fun h => if hClass h == 0xC then flatten canes fuel (hIndex h) else [h]).flatten

def State.flat (s : State) (i : Nat) : List Half := flatten s.canes 257 i

/-! ## Targets -/

/-- The local index of a handle: a gather handle of the half in service by its gather, one of the other half none. [DEDUCED, unsafe: log 84.] -/
def State.localIx (s : State) (h : Half) : Option Nat :=
  if hClass h == cGather then (if hIndex h / 64 == s.halfIx then some (hIndex h % 64) else none) else some (hIndex h)

/-- Does this device serve both halves (R35, R467)? [DEDUCED, unsafe: log 84.] -/
def State.double (s : State) : Bool := s.twin.st == 3

/-- Step 7 of R402 (R33–R37): the status of a target for the classes a command takes. -/
def State.targetStatus (s : State) (target : Word) (accept : List Nat) : Half :=
  let h : Half := target.setWidth 16
  if target.toNat ≥ 65536 then stBadHandle
  else if !handleOk h then stBadHandle
  else if h == 0x8001 then stNotLocal
  else if hClass h == 0xC then
    if !accept.contains 0xC then stWrongClass
    else match s.cane (hIndex h) with
    | none => stBadHandle
    | some c => if accept.contains c.cls then stOK else stWrongClass
  else if !accept.contains (hClass h) then stWrongClass
  else if hClass h == cGather && (s.localIx h).isNone && !s.double then stNotLocal
  else stOK

/-- The members of a target that `targetStatus` has passed. -/
def State.target (s : State) (r : Req) : Tgt :=
  let h : Half := r.target.setWidth 16
  if hClass h == 0xC then
    match s.cane (hIndex h) with
    | none => {}
    | some c =>
      let hs := s.flat (hIndex h)
      { cane := some (hIndex h), cls := c.cls, handles := hs, locals := hs.map s.localIx, masked := c.masked
        perMember := r.flags.getLsbD 0, gang := c.gang }
  else { cls := hClass h, handles := [h], locals := [s.localIx h] }

/-- Member positions with their local unit index: not masked and held here. -/
def Tgt.here (t : Tgt) : List (Nat × Nat) :=
  (t.locals.zipIdx.filterMap fun (u, p) => match u with | some u => if t.masked.contains p then none else some (p, u) | none => none)

/-- The local unit indices of the members not masked. -/
def Tgt.units (t : Tgt) : List Nat := t.here.map (·.2)

/-- The positions held by the twin and not masked. -/
def Tgt.twins (t : Tgt) : List Nat :=
  t.locals.zipIdx.filterMap fun (u, p) => match u with | some _ => none | none => if t.masked.contains p then none else some p

/-- Is a member in a gather's safe state (R48)? -/
def State.unitSafe (s : State) (cls u : Nat) : Bool := cls < 7 && (s.gather (unitGather cls u)).safe.on

/-- The members that are neither masked nor site-safe. -/
def State.liveUnits (s : State) (t : Tgt) : List Nat := t.units.filter fun u => !s.unitSafe t.cls u

/-- The status of a member that cannot accept a change: on a cane MEMBER_BUSY stands for the unit's own busy status (R47). -/
def Tgt.busy (t : Tgt) (st : Half) : Half := if t.cane.isSome then stMemberBusy else st

/-- The first status other than OK that a check gives over the members. -/
def firstStatus (us : List Nat) (f : Nat → Half) : Half := ((us.map f).find? (· != stOK)).getD stOK

/-! ## Answers over members -/

/-- A member's record: its bytes and whether it fails. -/
structure MemRec where
  bytes : List Byte
  failed : Bool := false
  deriving DecidableEq, Repr

/-- Put a 32-bit flag word into a record. -/
def setFlags (b : List Byte) (o flags : Nat) : List Byte := b.take o ++ toLE 4 flags ++ b.drop (o + 4)

/-- Where a cane's entry holds its flag word: R49 gives each position one result and one flag word, so a layout that has none is followed
by one. -/
def Layout.flagAt (l : Layout) : Nat := l.flag.getD l.len

/-- The size of a cane's entry; a command that returns no record has no entries. -/
def Layout.size (l : Layout) : Nat := if l.len == 0 then 0 else if l.flag.isSome then l.len else l.len + 4

/-- A member's record as a cane's entry. [DESIGN CHOICE, unsafe: log 117.] -/
def Layout.wide (l : Layout) (b : List Byte) : List Byte := if l.len != 0 && l.flag.isNone then b ++ toLE 4 0 else b

/-- The record of zeros with one flag set (R48, R587). [DESIGN CHOICE, unsafe: log 117.] -/
def Layout.zero (l : Layout) (flag : Nat) : List Byte := if l.len == 0 then [] else setFlags (List.replicate l.size 0#8) l.flagAt flag

/-- A member's own record, where it has one to give. -/
def recOf (recs : List (Nat × MemRec)) (p : Nat) : Option MemRec := (recs.find? (·.1 == p)).map (·.2)

/-- The entry of a position: its own record, or the masked or site-safe zero record, or that of a twin member that has not reported (R46). [DESIGN CHOICE, unsafe: log 117.] -/
def posRec (recs : List (Nat × MemRec)) (masked safe : List Nat) (lay : Layout) (p : Nat) : List Byte :=
  if masked.contains p then lay.zero rfMasked
  else if safe.contains p then lay.zero lay.safe
  else match recOf recs p with | some r => lay.wide r.bytes | none => lay.zero rfTwinDown

/-- Is a position live (R48): neither masked nor site-safe, with a record of its own? -/
def posLive (recs : List (Nat × MemRec)) (masked safe : List Nat) (p : Nat) : Bool :=
  !masked.contains p && !safe.contains p && (recOf recs p).isSome

/-- Does a position fail (R49): site-safe, its limits failed or an error, or a twin member that has not reported (R46)? -/
def posFails (recs : List (Nat × MemRec)) (masked safe : List Nat) (p : Nat) : Bool :=
  !masked.contains p && (safe.contains p || match recOf recs p with | some r => r.failed | none => true)

/-- A field of a size in bytes derived over the live members. -/
def Derive.over : Derive → Nat → List Nat → Nat
  | .or, _, vs => vs.foldl (· ||| ·) 0
  | .greatest, _, vs => vs.foldl max 0
  | .least, _, vs => vs.foldl min (vs.headD 0)
  | .highest, size, vs => (vs.foldl (fun a v => if signed (8 * size) a < signed (8 * size) v then v else a) (vs.headD 0))

/-- The derived record of Table 2-2: the first failing member's, or the lowest live position's, with the flags of the live members ORed
and the layout's own rules applied. -/
def deriveRec (recs : List (Nat × MemRec)) (masked safe : List Nat) (n : Nat) (lay : Layout) : List Byte :=
  if lay.len == 0 then []
  else
    let live := (List.range n).filter (posLive recs masked safe)
    let pick := (((List.range n).filter (posFails recs masked safe)) ++ live).head?
    let base := match pick with | some p => posRec recs masked safe lay p | none => lay.zero 0
    let rs := live.map (posRec recs masked safe lay)
    let base := setFlags base lay.flagAt (rs.foldl (fun a b => a ||| u32 b lay.flagAt) (u32 base lay.flagAt))
    lay.rules.foldl (fun b r => b.take r.1 ++ toLE r.2.1 (r.2.2.over r.2.1 (rs.map fun x => leNat x r.1 r.2.1)) ++ b.drop (r.1 + r.2.1)) base

/-- The preamble of Table 16-4. -/
def preamble (recs : List (Nat × MemRec)) (masked safe : List Nat) (n : Nat) : List Byte :=
  let fails := (List.range n).filter (posFails recs masked safe)
  toLE 2 fails.length ++ toLE 2 (fails.head?.getD 0xFFFF) ++ toLE 2 masked.length ++ toLE 2 n

/-- A record cut where a response may be cut (R409): before each of the records that it holds, or nowhere. -/
def Layout.pieces (l : Layout) (b : List Byte) : List (List Byte) :=
  if l.grain == 0 then [b] else b.take l.lead :: chunks l.grain (b.length / l.grain + 1) (b.drop l.lead)

/-- Put bytes in front of the first piece. -/
def leadWith (a : List Byte) : List (List Byte) → List (List Byte)
  | [] => [a]
  | b :: bs => (a ++ b) :: bs

/-- A reply over a target's members (R410): a single unit's record alone; for a cane the preamble, the derived record (`derived`
where the command derives in its own way) and, with PER_MEMBER, one record for each position. -/
def memberReply (t : Tgt) (safe : List Nat) (recs : List (Nat × MemRec)) (lay : Layout) (st : Half := 0)
    (derived : Option (List Byte) := none) : Reply :=
  match t.cane with
  | none =>
    let one := match recs with | (_, r) :: _ => r.bytes | [] => if safe.isEmpty then [] else (lay.zero lay.safe).take lay.len
    { status := st, blocks := lay.pieces one }
  | some _ =>
    let n := t.handles.length
    let head := leadWith (preamble recs t.masked safe n) (lay.pieces (derived.getD (deriveRec recs t.masked safe n lay)))
    { status := st, blocks := head ++ (if t.perMember then (List.range n).flatMap fun p => lay.pieces (posRec recs t.masked safe lay p) else []) }

/-- The site-safe positions of a target. -/
def State.safePos (s : State) (t : Tgt) : List Nat := (t.here.filter fun pu => s.unitSafe t.cls pu.2).map (·.1)

/-- What a command's own part decides: its reply, the records of its members from which the reply is formed (R49, and R45 where
members of the twin report too), or that it waits. -/
inductive Act where
  | done (r : Reply)
  | members (t : Tgt) (safe : List Nat) (recs : List (Nat × MemRec)) (lay : Layout)
  | wait (w : Wait)

def Act.st (st : Half) : Act := .done (Reply.err st)
def Act.ok (b : List Byte := []) : Act := .done (Reply.ok b)

/-- The answer of a command that reads one record from each member. A cane's site-safe member answers its zero record (R48), and so does
a single unit where the command measures. [DEDUCED, unsafe: log 118.] -/
def State.readMembers (s : State) (t : Tgt) (f : Nat → MemRec) (lay : Layout) (measures : Bool := false) : Act :=
  let safe := if t.cane.isSome || measures then s.safePos t else []
  .members t safe ((t.here.filter fun pu => !safe.contains pu.1).map fun pu => (pu.1, f pu.2)) lay

/-- The answer of a configuration command with no record of its own: nothing for a unit, the preamble for a cane, in which the
site-safe members count as failing (R48). -/
def State.configAct (s : State) (t : Tgt) : Act :=
  .members t (s.safePos t) (t.here.map fun pu => (pu.1, { bytes := [] })) {}

/-- µs in ns. -/
def us (n : Nat) : Nat := n * 1000

/-- A check as a status. -/
def unless' (ok : Bool) (st : Half) : Half := if ok then stOK else st

end Sys2Proof.Machine
end

