-- ==== Sys2Proof/Machine/Sentinels.lean ====
section
/-!
DEFINITION. Comparator inputs and sentinels (chapter 7): thresholds and hysteresis (R169, R171), sides without history (R181), the probes
of sentinels (R178), their dwell (R177), CONTACT (R179) and the wake they request (R180).
-/
namespace Sys2Proof.Machine

/-! ## Thresholds (R147, R169–R171), in 1/65,536 µV -/

/-- A level of −2.0 V + code × 9.0 V / 65,536 (R147). -/
def levelUv (code : Nat) : Int := (code : Int) * 9000000 - 2000000 * 65536

/-- A threshold code by its reference (R169): the pin-level span, or the tile reference with 100 µV for each step. -/
def thresholdUv (tile : Bool) (code : Nat) : Int := if tile then (code : Int) * (100 * 65536) else levelUv code

/-- Half the hysteresis of a step (Table 7-1). -/
def halfHyst (step : Nat) : Int := ([0, 1250, 2500, 5000, 7500, 10000, 15000, 20000].getD step 0 : Int) * 65536

/-- One side of a comparator whose input lies `d` beyond its threshold (R171), where it lay `before`. A side without history resolves
unless its input lies within the band of R181; an UNRESOLVED one waits for its input to pass a trip point; a resolved one never becomes
UNRESOLVED again. -/
def sideRead (old : Side) (before : Option Int) (d half : Int) : Side :=
  match before, old with
  | none, _ => if (d.natAbs : Int) ≤ max half (1000 * 65536) then .unresolved else if 0 < d then .crossed else .clear
  | some b, .unresolved => if b ≤ half ∧ half < d then .crossed else if -half ≤ b ∧ d < -half then .clear else .unresolved
  | some _, _ => if half < d then .crossed else if d < -half then .clear else old

/-- A pin's window comparator with its input at a voltage in µV: VOH above, VOL mirrored, by the codes at the DACs and the PIN_CMP image in
force. A mode-change hold has ended. -/
def Pin.read (x : Pin) (uv : Int) : Pin :=
  let half := halfHyst (bits x.cmpNow 4 2)
  let at_ := fun (d : Dac) (v : Int) => v * 65536 - thresholdUv (bit x.cmpNow 5) d.out
  { x with hi := sideRead x.hi (x.seen.map (at_ x.voh)) (at_ x.voh uv) half
           lo := sideRead x.lo (x.seen.map fun v => -at_ x.vol v) (-at_ x.vol uv) half, seen := some uv, modeHold := false }

/-! ## Fields of SENT_CFG (Table 7-4) -/

def sentEn (c : Word) : Bool := c.getLsbD 0
def sentMode (c : Word) : Nat := bits c.toNat 3 2
/-- [See R169, R170.] -/
def sentRef (c : Word) : Bool := c.getLsbD 7
def sentProbe (c : Word) : Nat := bits c.toNat 9 8
def sentContact (c : Word) : Bool := c.getLsbD 10
def sentDir (c : Word) : Bool := c.getLsbD 11
def sentSrc (c : Word) : Nat := bits c.toNat 15 12
def sentWake (c : Word) : Bool := c.getLsbD 16
def sentNotify (c : Word) : Bool := c.getLsbD 17

/-- A sentinel with its input at a voltage in µV. -/
def Sent.read (x : Sent) (uv : Int) : Sent :=
  let at_ := fun (v : Int) => v * 65536 - thresholdUv (sentRef x.cfg) x.thr
  { x with raw := sideRead x.raw (x.seen.map at_) (at_ uv) (halfHyst (bits x.cfg.toNat 6 4)), seen := some uv, modeHold := false }

/-! ## Probes (R178) -/

/-- Is the active load of a pin connected: only with the driver off, where LOAD_EN is set or a Z vector has it (R145)? -/
def Pin.loaded (x : Pin) : Bool := x.drive == .off && !x.parked && (x.cfg.getLsbD 3 || x.loadZ != 0)

/-- Is the driver or the active load of a pin connected to its ball? -/
def Pin.connected (x : Pin) : Bool := x.drive != .off || x.loaded

/-- Drivers and loads are off whatever the registers hold: in the safe state, in DORMANT and in the power-fail park. -/
def State.pinsOff (s : State) (g : Nat) : Bool := (s.gather g).safe.on || s.power.pstate == 3 || s.power.parked

/-- A sentinel's probe is off: disconnected because its ball is driven or loaded, or claimed (R216). -/
def State.probeOff (s : State) (g n : Nat) : Bool :=
  let p := s.pin g (sentSrc (s.sent g n).cfg)
  (p.connected && !s.pinsOff g) || p.claimed

/-! ## Images -/

/-- The code of a dwelled state in SENT_STATUS.STATE. -/
def Dwell.code : Dwell → Nat
  | .inactive => 0
  | .active => 1
  | .unresolved => 2
  | .off => 3

/-- SENT_STATUS.CONTACT: CONTACT, NONE, UNRESOLVED, or not in CONTACT role. -/
def Sent.contactCode (x : Sent) : Nat :=
  if !sentEn x.cfg || !sentContact x.cfg then 3
  else match x.state with | .active => 1 | .unresolved => 2 | _ => 0

/-- SENT_STATUS of sentinel n of a gather. -/
def State.sentStatus (s : State) (g n : Nat) : Nat :=
  let x := s.sent g n
  x.state.code * 64 + x.contactCode * 16 + b2n (s.probeOff g n) * 8 + b2n x.woke * 4

/-! ## Dwell and CONTACT -/

/-- A gather's CONTACT event: at least one enabled sentinel in CONTACT role, and each of them reports CONTACT (R179); one that DORMANT has
powered down reports nothing. -/
def Gather.contactNow (G : Gather) : Bool :=
  let ns := (List.range 2).filter fun n => sentEn (G.sent n).cfg && sentContact (G.sent n).cfg
  !ns.isEmpty && ns.all fun n => (G.sent n).state == .active && !(G.sent n).asleep

/-- A sentinel's change to active in DORMANT, or while it is entered, requests the wake and sets WOKE (R180, R544). [DEDUCED, unsafe: log 63.] -/
def State.sentWakes (s : State) (g n : Nat) : State :=
  let x := s.sent g n
  if sentWake x.cfg && (s.power.pstate == 3 || s.power.entering) then
    let s := s.setSent g n { x with woke := true }
    { s with power := { s.power with wakeHeld := s.power.wakeHeld.orElse fun _ => some 2 } }
  else s

/-- Change the dwelled state of a sentinel: one notification when NOTIFY_EN (R177), the CONTACT event re-evaluated. -/
def State.setDwelled (s : State) (g n : Nat) (act : Bool) : State :=
  let x := s.sent g n
  let s := s.setSent g n { x with state := if act then .active else .inactive, timing := false, since := s.upNs }
  let s := if sentNotify x.cfg then s.note (noteEntry 2 n (s.gHandle g) act 1 s.netNs) else s
  let s := s.modG g fun G => { G with contact := G.contactNow }
  if act then s.sentWakes g n else s

/-- The dwelled state has not the value of the raw side: its dwell starts, or with DWELL 0 it follows at once (R177). The first
resolution makes an UNRESOLVED state inactive before its dwell. [DESIGN CHOICE, unsafe: log 144.] -/
def State.startDwell (s : State) (g n : Nat) : State :=
  let x := s.sent g n
  if !sentEn x.cfg || x.asleep || x.raw == .unresolved || x.frozen then s
  else
    let act := rawActive (sentDir x.cfg) x.raw
    let x := if x.state == .unresolved || x.state == .off then { x with state := .inactive, since := s.upNs } else x
    let s := s.setSent g n x
    if (x.state == .active) == act then s.setSent g n { x with timing := false }
    else if x.dwell == 0 then s.setDwelled g n act
    else s.setSent g n { x with timing := true, timeNs := if x.timing then x.timeNs else s.upNs }

/-- Freeze a sentinel in CONTACT role as its probe disconnects; one whose probe reconnects resumes with a fresh dwell (R178). -/
def State.probe (s : State) (g n : Nat) : State :=
  let x := s.sent g n
  let off := s.probeOff g n && sentEn x.cfg && sentContact x.cfg
  if off == x.frozen then s
  else if off then s.setSent g n { x with frozen := true, timing := false }
  else (s.setSent g n { x with frozen := false }).startDwell g n

/-- The ball of a sentinel has been driven or loaded in between: one in CONTACT role has been frozen, and resumes with a fresh dwell (R178). -/
def State.probeBlip (s : State) (g n : Nat) : State :=
  let x := s.sent g n
  if x.frozen || !sentEn x.cfg || !sentContact x.cfg then s else (s.setSent g n { x with frozen := true, timing := false }).probe g n

/-- Both sentinels of a gather after a change of its pins' drivers or loads. -/
def State.probes (s : State) (g : Nat) : State := (s.probe g 0).probe g 1

/-! ## Configuration, DORMANT -/

/-- A sentinel under SENT_CONFIG (R172, R177, R181). -/
def Sent.configure (x : Sent) (cfg : Word) (dwell thr now : Nat) : Sent :=
  let y := { x with cfg := cfg, dwell := dwell, thr := thr }
  if !sentEn cfg then
    { y with raw := .unresolved, seen := none, state := .off, timing := false, frozen := false, modeHold := false
             since := if x.state == .off then x.since else now }
  else if !sentEn x.cfg then
    { y with raw := .unresolved, seen := none, state := .unresolved, timing := false, frozen := false, modeHold := false, since := now }
  else if sentMode x.cfg != sentMode cfg then { y with modeHold := true }
  else y

/-- A sentinel at entry to DORMANT (R180): one with WAKE_EN switches to SENTINEL mode and keeps its dwell; every other is powered down. -/
def Sent.sleep (x : Sent) : Sent :=
  if sentEn x.cfg && sentWake x.cfg then { x with modeHold := x.modeHold || sentMode x.cfg != 3 } else { x with asleep := true, timing := false }

/-- A sentinel on exit: back in its configured mode, with the hold of R172; one that was powered down starts as after EN goes to 1. -/
def Sent.wake (x : Sent) (now : Nat) : Sent :=
  if x.asleep then
    if sentEn x.cfg then
      { x with asleep := false, raw := .unresolved, seen := none, state := .unresolved, timing := false, modeHold := false, since := now }
    else { x with asleep := false }
  else { x with modeHold := sentEn x.cfg }

end Sys2Proof.Machine
end

