-- ==== Sys2Proof/Machine/Export.lean ====
section
/-!
DEFINITION. The Ethernet ports' sending side (R425) and the writing of export records (R441, R442, R444).

The 256 MiB ring is held as the list of records that fill it; no command reads its DRAM addresses.
-/
namespace Sys2Proof.Machine

/-! ## Export -/

def ringBytes : Nat := 256 * 1024 * 1024

/-- A record with its header (R442). -/
def expRecord (type site time : Nat) (body : List Byte) : List Byte :=
  toLE 2 type ++ toLE 2 body.length ++ toLE 2 site ++ toLE 2 0 ++ toLE 8 time ++ body

def recordsLen (rs : List (List Byte)) : Nat := (rs.map List.length).sum

/-- The ring's fill: the records collecting and those of the datagrams not yet acknowledged. [DESIGN CHOICE, unsafe: log 48.] -/
def Exporter.fill (x : Exporter) : Nat := recordsLen x.records + (x.held.map fun d => recordsLen d.records).sum

/-- A datagram's bytes; FLAGS bit 0 is RETRANSMIT. -/
def Dgram.bytes (d : Dgram) (again : Bool) : List Byte :=
  let b := toLE 2 0x5845 ++ toLE 1 1 ++ toLE 1 (b2n again) ++ toLE 4 d.seq ++ toLE 2 d.records.length ++ List.replicate 6 0#8
    ++ toLE 8 d.firstNs ++ d.records.flatten
  b ++ toLE 4 (crc32c b).toNat

/-- Send the datagram of the records that have collected; with none there is nothing to send. -/
def State.sendDgram (s : State) : State :=
  let x := s.exporter
  if x.records.isEmpty then s
  else
    let d : Dgram := { seq := x.next % 2 ^ 32, records := x.records, firstNs := s.netNs, sendNs := s.upNs }
    ({ s with exporter := { x with records := [], held := x.held ++ [d], next := x.next + 1 } }).send x.port (.datagram (d.bytes false))

/-- Put one record into the ring, sending first what it would take beyond DGRAM_MAX. [DESIGN CHOICE, unsafe: log 48.] -/
def State.ringRecord (s : State) (r : List Byte) : State :=
  let s := if recordsLen s.exporter.records + r.length > s.exporter.dgramMax then s.sendDgram else s
  let x := s.exporter
  { s with exporter := { x with records := x.records ++ [r], firstNs := if x.records.isEmpty then s.upNs else x.firstNs } }

/-- A result is formed (R441): while its class is exported, one record is written to the ring. A record that does not fit is counted
in EXP_LOST; when space has returned, a GAP record with the count precedes the next (R444). -/
def State.emitRec (s : State) (type site : Nat) (body : List Byte) : State :=
  let x := s.exporter
  if !x.isOpen || x.closing || !bit x.classes (type - 1) then s
  else
    let r := expRecord type site s.netNs body
    let g := if x.gap == 0 then [] else [expRecord 0xFF 0xFFFF s.netNs (toLE 4 x.gap)]
    if x.fill + r.length + recordsLen g > ringBytes then
      { s with exporter := { x with lost := sat32 x.lost, gap := sat32 x.gap } }
    else (g ++ [r]).foldl State.ringRecord { s with exporter := { x with gap := 0 } }

end Sys2Proof.Machine
end

