-- ==== Sys2Proof/Machine/Tius.lean ====
section
/-!
DEFINITION. Time-interval units at work (R271–R288): which edges qualify, stamps and samples, and how a measurement closes.
-/
namespace Sys2Proof.Machine

def Gather.tiu (G : Gather) (u : Nat) : Tiu := Tab.get {} G.tius u
def State.tiu (s : State) (g u : Nat) : Tiu := (s.gather g).tiu u
def State.setTiu (s : State) (g u : Nat) (x : Tiu) : State := s.modG g fun G => { G with tius := Tab.put G.tius u x }

/-! ## Fields of Table 11-4 -/

def tiuMode (c : Word) : Nat := bits c.toNat 2 0
def tiuSub (c : Word) : Bool := c.getLsbD 5
def tiuEdgeGate (c : Word) : Bool := c.getLsbD 6
def tiuGateIx (c : Word) : Nat := bits c.toNat 11 7

/-- A channel's KIND, SRC and EDGE. -/
def tiuKind (stop : Bool) (v : Word) : Nat := if stop then bits v.toNat 29 27 else bits v.toNat 13 11
def tiuSrc (stop : Bool) (v : Word) : Nat := if stop then bits v.toNat 20 16 else bits v.toNat 4 0
def tiuEdge (stop : Bool) (v : Word) : Nat := if stop then bits v.toNat 31 30 else bits v.toNat 15 14

def TiuSt.code : TiuSt → Nat
  | .idle => 0
  | .waitGate => 1
  | .armed => 2
  | .service => 3

/-- The interval PLL as the device starts (R278): locked to the TREF that is present, with 100 MHz or 10 MHz, else to REFCLK. The coarse counter is
zero as TUCLK starts (R272). -/
def TiuRef.atStart (tref : Option Bool) (now : Nat) : TiuRef :=
  { locked := true, present := tref.isSome, fallback := tref.isNone, lossNs := now, zeroNs := now
    freq := match tref with | some mhz100 => if mhz100 then 2 else 1 | none => 0 }

/-- The device's coarse counter of TUCLK cycles, three in each ns (R271, R272). -/
def State.coarse (s : State) : Nat := 3 * (s.upNs - s.tref.zeroNs) % 2 ^ 48

/-- TREF_FREQ as the monitor measures it, 0 without TREF (R277). While the PLL runs on REFCLK, a TREF that is back for less than the 100 ms of R278 may
be measured already: whether it is, is open. [DESIGN CHOICE, safe: log 150.] -/
def State.trefSeen (s : State) : Nat := if s.tref.present then s.tref.freq else Config.free (s.freeCount + s.upNs) % 3

/-- Is the interval PLL locked? It relocks to REFCLK at some instant within 200 µs of a loss (R278). -/
def State.pllLocked (s : State) : Bool :=
  s.tref.locked && match s.tref.relockNs with
    | some t => decide (t + 200000 ≤ s.upNs) || Config.choice (s.freeCount + s.upNs)
    | none => true

/-- TIU_REF. -/
def State.trefImage (s : State) : Nat :=
  let r := s.tref
  r.epoch * 65536 + s.trefSeen * 8 + b2n s.pllLocked * 4 + b2n r.fallback * 2 + b2n (s.trefSeen != 0)

/-! ## Rounding -/

/-- The whole part of a square root. [DESIGN CHOICE, safe: log 39.] -/
def isqrt (n : Nat) : Nat := (List.range 96).reverse.foldl (fun r i => if (r + 2 ^ i) * (r + 2 ^ i) ≤ n then r + 2 ^ i else r) 0

/-- n / d rounded to nearest, halves away from zero (R285). -/
def roundDiv (n : Int) (d : Nat) : Int :=
  let q : Int := ((2 * n.natAbs + d) / (2 * d) : Nat)
  if n < 0 then -q else q

/-- n / d where the spec does not say how it is rounded: down, or up where `up` and there is a remainder. [DESIGN CHOICE, safe: log 39.] -/
def openDiv (n d : Nat) (up : Bool) : Nat := n / d + b2n (up && n % d != 0)

/-! ## Result flags (Table 11-9) -/

def tfCoincident : Nat := 1
def tfOrder : Nat := 2
def tfFallback : Nat := 4
def tfOverflow : Nat := 8
def tfNoEdge : Nat := 16
def tfShort : Nat := 32
def tfDeadMiss : Nat := 64
def tfAborted : Nat := 128
def tfSiteSafe : Nat := 256
def tfPatched : Nat := 512
def tfFail : Nat := 1024

/-! ## Closing (R282–R288) -/

/-- The difference of two stamps, signed; the coarse counter wraps after 2^48 cycles (R272). -/
def stampDiff (stop start : Nat) : Int := signed 54 ((stop + 2 ^ 54 - start % 2 ^ 54) % 2 ^ 54)

/-- What a mode's value is: the value, and its flags; ORDER is not set with COINCIDENT (R283). `up` is the open rounding. [DESIGN CHOICE, safe: log 39; DEDUCED, unsafe: log 132.] -/
def Tiu.value (x : Tiu) (m : TiuMeas) (up : Bool) : Int × Nat :=
  let two := match m.start, m.stop with | some a, some b => some (stampDiff b a) | _, _ => none
  match tiuMode x.cfg with
  | 0 => match two with
    | some d => if d == 0 then (0, tfCoincident) else (256 * d, if d < 0 then tfOrder else 0)
    | none => (0, tfNoEdge)
  | 1 => match two with
    | some d => if d == 0 then (0, tfCoincident) else if d < 0 then (0, tfOrder) else ((openDiv (256 * d.toNat) x.count up : Nat), 0)
    | none => (0, tfNoEdge)
  | 2 => if m.edges < 2 then (0, tfNoEdge)
         else ((openDiv ((m.edges - 1) * 192 * 10 ^ 15) (stampDiff m.last m.first).toNat up : Nat), 0)
  | 3 => ((x.stamps.length : Nat), if x.stamps.isEmpty then tfNoEdge else 0)
  | _ =>
    let fl := (if m.nCoincident != 0 then tfCoincident else b2n (m.nOrder != 0) * tfOrder) + b2n (m.edges == 0) * tfNoEdge
      + b2n (m.edges < x.count) * tfShort
    (if m.samples == 0 then 0 else roundDiv (256 * m.sum) m.samples, fl)

/-- SD in 1/256 LSB: the sample standard deviation, 0 when n is 1 (R285); its rounding is open. [DESIGN CHOICE, safe: log 39.] -/
def TiuMeas.sd (m : TiuMeas) (up : Bool) : Nat :=
  if m.samples < 2 then 0
  else
    let n := m.samples
    let num := 65536 * (n * m.sumSq - (m.sum * m.sum).toNat)
    let v := num / (n * (n - 1))
    let r := isqrt v
    r + b2n (up && (r * r != v || num % (n * (n - 1)) != 0))

/-- The 96-byte record of Table 11-8 and whether it fails (R287). -/
def Tiu.record (x : Tiu) (m : TiuMeas) (handle epoch early : Nat) (patched up : Bool) : List Byte × Bool :=
  let mode := tiuMode x.cfg
  let stats := mode == 4
  let (v, f) := x.value m up
  let f := f ||| early ||| b2n m.fallback * tfFallback ||| b2n (m.deadMiss != 0) * tfDeadMiss ||| b2n patched * tfPatched
  let noValue := f &&& tfOverflow != 0
  let v := if noValue then 0 else v
  let unsignedMode := mode == 1 || (stats && tiuSub x.cfg)
  let bad := f &&& (tfNoEdge ||| tfOverflow ||| tfShort ||| tfAborted ||| tfSiteSafe) != 0 || (unsignedMode && f &&& tfOrder != 0) ||
    decide (v < m.lo) || decide (m.hi < v)
  let f := f ||| b2n bad * tfFail
  let st := fun (n : Int) => toLEi 8 (if stats then n else 0)
  (toLE 2 handle ++ toLE 1 mode ++ toLE 1 (b2n (tiuSub x.cfg)) ++ toLE 4 f ++ toLEi 8 v ++ toLE 8 m.first ++ toLE 8 m.last
    ++ toLE 4 m.edges ++ toLE 2 epoch ++ toLE 2 0 ++ toLE 8 m.armedNs ++ st v ++ st (m.sd up) ++ st m.min ++ st m.max
    ++ toLE 4 m.deadMiss ++ toLE 4 m.nOrder ++ toLE 4 m.nCoincident ++ toLE 4 m.nRestart, bad)

/-- The record of Table 11-8 in an answer over members; that of a site-safe member fails (R287). -/
def tiuLayout : Layout := { len := 96, flag := some 4, safe := tfSiteSafe ||| tfFail }

/-- Answer the starts whose units have all ended: TRIG_TIMEOUT where a gate never came (R279), else the records (R294). [DEDUCED, unsafe: log 41.] -/
def State.tiusDone (s : State) : State :=
  forAll (s.waiters .tiuRun) (fun s m =>
    match s.waiting m with
    | some (e, w) =>
      if w.units.any fun u => (s.tiu (u / 4) (u % 4)).st != .idle then s
      else
        let t := w.tgt
        let bound := (w.nums.getD 0 0 + w.nums.getD 1 0 + 100) * 1000
        let late := w.units.any fun u => (s.tiu (u / 4) (u % 4)).timedOut
        let recs := t.here.filterMap fun pu =>
          if w.units.contains pu.2 then (s.tiu (pu.2 / 4) (pu.2 % 4)).result.map fun r => (pu.1, ({ bytes := r.1, failed := r.2 } : MemRec)) else none
        let s := forAll w.units (fun s u => s.setTiu (u / 4) (u % 4) { s.tiu (u / 4) (u % 4) with result := none, timedOut := false }) s
        s.respond m bound (if late then Reply.err stTrigTimeout else memberReply t w.safe recs tiuLayout)
    | none => s) s

/-- A unit under SERVICE arming, which needs no gate and has no window (R281). -/
def Tiu.serve (x : Tiu) (now up : Nat) (fallback : Bool) : Tiu :=
  { x with st := .service, meas := some { timeout := 0, window := 0, lo := 0, hi := 0, atNs := up, armedNs := now, fallback := fallback } }

/-- Close a unit's measurement with further flags; a unit in SERVICE becomes IDLE with nothing to answer, and with a result by OVERFLOW alone. -/
def State.closeTiu (s : State) (g u early : Nat) : State :=
  let x := s.tiu g u
  match x.meas with
  | none => if x.st == .idle then s else s.setTiu g u { x with st := .idle }
  | some m =>
    if x.st == .service && early != tfOverflow then s.setTiu g u { x with st := .idle, meas := none }
    else
    let (up, s) := s.choose
    let r := x.record m (0x5000 + 4 * g + u) s.tref.epoch early ((s.patch (tileOf g)).version != 0) up
    ((s.setTiu g u { x with st := .idle, meas := none, result := some r }).emitRec 3 (s.siteOf g) r.1).tiusDone

/-- Every unit of a gather that is not idle ends early (R288). -/
def State.endTius (s : State) (g flag : Nat) : State :=
  forAll (List.range 4) (fun s u => if (s.tiu g u).st == .idle then s else s.closeTiu g u flag) s

end Sys2Proof.Machine
end

