-- ==== Sys2Proof/Machine/Marver.lean ====
section
/-!
DEFINITION. The Marver's foreground engine at work (R344–R353): the elements of a step, where a run may work, preconditions, preempted
steps, CALWIN strokes and the flags it puts on stroke results.
-/
namespace Sys2Proof.Machine

def State.calG (s : State) (g : Nat) : CalG := Tab.get {} s.cal.gathers g
def State.setCalG (s : State) (g : Nat) (x : CalG) : State := { s with cal := { s.cal with gathers := Tab.put s.cal.gathers g x } }
def State.calTile (s : State) (t : Nat) : CalTile := Tab.get {} s.cal.tiles t
/-- The elements that a step runs on. -/
def CalG.steps (x : CalG) : List Nat := x.running.map (·.1)
def State.setCalTile (s : State) (t : Nat) (x : CalTile) : State := { s with cal := { s.cal with tiles := Tab.put s.cal.tiles t x } }

/-- Fields of SMU_CFG (Table 8-3). -/
def cfgConnect (c : Word) : Bool := c.getLsbD 0
def cfgMode (c : Word) : Nat := bits c.toNat 5 4

/-! ## Elements -/

/-- An element's number within its gather. -/
def elNum : CalEl → Nat
  | .tiu u => u.val
  | .dig d => 4 + d.val
  | .smu u => 8 + u.val
  | .level p => 16 + p.val
  | .cmp p => 32 + p.val
  | .timing p => 48 + p.val
  | .ball p => 64 + p.val

/-- The pin of an element number, for the pin steps. -/
def elPin (n : Nat) : Option Nat := if n < 16 then none else some (n % 16)

/-- The elements whose step a run performs, in table order (Table 14-1). -/
def runElements (ball : Bool) : List Nat :=
  [0, 1, 2, 3, 4, 5, 8, 9, 10, 11] ++ (List.range 16).flatMap (fun p => [16 + p, 32 + p, 48 + p])
    ++ (if ball then (List.range 16).map (64 + ·) else [])

/-- How long a step lasts (Table 14-1), in ns. -/
def elSpan (n : Nat) : Nat :=
  us (if n < 4 then 500 else if n < 8 then 100 else if n < 16 then 200 else if n < 32 then 40 else if n < 48 then 20 else if n < 64 then 60 else 30)

/-- How many figures of Table 14-2 an element has: one of a unit's 64 phases, one for each range, level DAC and side, the eye width with the
deskew of six edges, and the delay of the path to the ball. -/
def elFigures (n : Nat) : Nat :=
  if n < 4 then 1 else if n < 8 then 3 else if n < 16 then 4 else if n < 32 then 5 else if n < 48 then 2 else if n < 64 then 7 else 1

/-- Do figures lie inside the limits of Table 14-2, in thousandths of their units? The path to the ball has none. -/
def figuresIn (n : Nat) (vs : List Int) : Bool :=
  let most := fun (k : Nat) (l : List Int) => l.all fun v => decide (v.natAbs ≤ k)
  if n < 4 then most 1500 vs else if n < 8 then most 2000 vs else if n < 16 then most 100000 vs else if n < 32 then most 500000 vs
  else if n < 48 then most 1000000 vs
  else if n < 64 then decide (250000 ≤ vs.headD 0) && most 3000 vs.tail
  else true

/-! ## Coefficients (R342, R353, Table 14-1) -/

/-- How many coefficients an element has: a correction for each of a unit's 64 phases and each KIND and SRC of Table 11-1; offset and gain of each range of a
digitiser; of force and of measure of each range of a source/measure unit; of each level DAC; the offset of each side; the deskew of six edges; the
delay of the path to the ball. -/
def elCoefs (n : Nat) : Nat :=
  if n < 4 then 64 + 256 else if n < 8 then 6 else if n < 16 then 16 else if n < 32 then 10 else if n < 48 then 2 else if n < 64 then 6 else 1

/-- k different elements of a list, picked by a number. -/
def pickOut : Nat → List Nat → Nat → List Nat
  | 0, _, _ => []
  | k + 1, xs, f =>
    let x := xs.getD (f % xs.length) 0
    x :: pickOut k (xs.filter (· != x)) (f / xs.length)

/-- The choice among an element's redundant elements (Table 14-1), by the numbers c i: which of two sense resistors each range has; the 4 of the 35
unit cells of each level DAC, and the 8 of the 72 delay taps, that are left out. -/
def elChoice (n : Nat) (c : Nat → Nat) : List Nat :=
  if n < 8 then [] else if n < 16 then (List.range 4).map fun i => c i % 2
  else if n < 32 then (List.range 5).flatMap fun i => pickOut 4 (List.range 35) (c i)
  else if 48 ≤ n && n < 64 then pickOut 8 (List.range 72) (c 0) else []

/-- What a step that ends DONE has measured and chosen: free values. [DESIGN CHOICE, safe: log 147.] -/
def elMeasured (n k : Nat) : Coef :=
  { choice := elChoice n (Config.chosen k), values := (List.range (elCoefs n)).map (Config.measured k) }

/-- A coefficient in use of an element of a gather. -/
def Cal.coef (c : Cal) (g n i : Nat) : Int :=
  match c.coefs.find? (·.1 == 80 * g + n) with
  | some (_, x) => x.values.getD i 0
  | none => if c.base then Config.factoryCoef (80 * g + n) i else 0

/-- The coefficients of an element take effect (R353). -/
def State.putCoef (s : State) (g n : Nat) : State :=
  { s with freeCount := s.freeCount + 1, cal := { s.cal with coefs := Tab.put s.cal.coefs (80 * g + n) (elMeasured n s.freeCount) } }

/-- The handle of an element's unit. -/
def elHandle (g n : Nat) : Half :=
  BitVec.ofNat 16 (if n < 4 then 0x5000 + 4 * g + n else if n < 8 then 0x4000 + 2 * g + (n - 4) else if n < 16 then 0x1000 + 4 * g + (n - 8)
    else 16 * g + n % 16)

/-! ## Ends of steps (R351, R352, R354) -/

def CalOut.code : CalOut → Nat
  | .done => 0
  | .precond => 1
  | .preempt => 2
  | .limit => 3

/-- Start a store of the foreground set as it stands; while one is in progress another is to follow, and while PFAIL_N is asserted none starts (R362).
What the data phase writes is the set at its start. [DESIGN CHOICE, unsafe: log 148.] -/
def State.startStore (s : State) : State :=
  if s.cal.storing != 0 || s.power.pfail then { s with cal := { s.cal with again := true } }
  else
    let draft : CalSet := { epoch := (s.cal.held.epoch + 1) % 2 ^ 32, last := (List.range 4).map fun t => (s.calTile t).tLast
                            factory := s.cal.base, coefs := s.cal.coefs }
    { s with cal := { s.cal with storing := 1, again := false, other := none, draft := draft } }

/-- A tile's run is complete when every step has ended once in each of its gathers: T_LAST takes the temperature at which it started, DUE
clears, and a store starts (R345, R362). [DESIGN CHOICE, unsafe: log 56.] -/
def State.runComplete (s : State) (t : Nat) : State :=
  let x := s.calTile t
  let done := x.due && x.started && (List.range 16).all fun i => (runElements x.ball).all ((s.calG (16 * t + i)).ended.contains ·)
  if !done then s
  else
    let s := s.setCalTile t { x with due := false, ball := false, started := false, overdue := false, tLast := x.startTemp }
    let s := forAll (List.range 16) (fun s i => s.setCalG (16 * t + i) { s.calG (16 * t + i) with ended := [] }) s
    s.startStore

/-- A step ends with an outcome: it is owed unless DONE; the first in the tile's run ends the element's turn there and is counted. -/
def State.endStep (s : State) (g n : Nat) (out : CalOut) : State :=
  let x := s.calG g
  let f := match x.figures.find? (·.1 == n) with | some (_, f) => { f with out := out } | none => { out := out }
  let t := s.calTile (tileOf g)
  let first := t.due && t.started && (runElements t.ball).contains n && !x.ended.contains n
  let x := { x with
    running := Tab.del x.running n
    loops := Tab.del x.loops n
    leveled := if 16 ≤ n && n < 32 then (x.leveled.filter (· != n)) ++ (if out == .done then [n] else []) else x.leveled
    ended := if first then x.ended ++ [n] else x.ended
    owed := if out == .done then x.owed.filter (· != n) else if x.owed.contains n then x.owed else x.owed ++ [n]
    figures := Tab.put x.figures n f }
  let counts := if first then t.counts.zipIdx.map fun c => if c.2 == out.code then c.1 + 1 else c.1 else t.counts
  ((s.setCalG g x).setCalTile (tileOf g) { t with counts := counts }).runComplete (tileOf g)

/-- The time-interval units under SERVICE for a step: its own element, or the one that a TIMING step's loopback takes. -/
def CalG.serves (x : CalG) (n : Nat) : List Nat := if n < 4 then [n] else (x.loops.filter (·.1 == n)).map (·.2)

/-- Units leave SERVICE. -/
def State.freeService (s : State) (g : Nat) (us : List Nat) : State :=
  forAll us (fun s u =>
    let x := s.tiu g u
    if x.st == .service then s.setTiu g u { x with st := .idle, meas := none } else s) s

/-- An event reaches elements of a gather: each step in progress on one of them ends at once with CAL_PREEMPT (R349). A pin it had
isolated stays isolated until its switch closes. -/
def State.preempt (s : State) (g : Nat) (hits : Nat → Bool) : State :=
  forAll ((s.calG g).steps.filter hits) (fun s n =>
    let us := (s.calG g).serves n
    let s := s.endStep g n .preempt
    s.freeService g us) s

/-- The number of a pin's steps. -/
def hitsPin (p n : Nat) : Bool := elPin n == some p

/-! ## CALWIN strokes (R346–R349) -/

/-- Pins that the Marver has isolated. -/
def Gather.isolated (G : Gather) : List Nat := (List.range 16).filter fun p => (G.pin p).iso

def maskOf (ps : List Nat) : Nat := ps.foldl (fun a p => a ||| 2 ^ p) 0

/-- Has a gather anything for the Marver to do: its tile is due, or an element of it is owed? [See R89.] -/
def State.calWanted (s : State) (g : Nat) : Bool := (s.calTile (tileOf g)).due || !(s.calG g).owed.isEmpty

/-- A gather that is IDLE or HALTED. One in the safe state is neither. [DEDUCED, unsafe: log 128.] -/
def Gather.calFree (G : Gather) : Bool := !G.safe.on && (G.seq.st == .idle || G.seq.st == .halted)

/-- Is a step on an element still to come in the run of its tile? -/
def State.calPlanned (s : State) (g n : Nat) : Bool :=
  let t := s.calTile (tileOf g)
  let x := s.calG g
  t.due && (runElements t.ball).contains n && !x.ended.contains n && !x.steps.contains n

/-- May a step on an element be started: in its tile's run, or because it is owed (R351)? -/
def State.calTodo (s : State) (g n : Nat) : Bool :=
  s.calPlanned g n || ((s.calG g).owed.contains n && !(s.calG g).steps.contains n)

/-- The precondition of a step (Table 14-1). `own` is set at the second check, when the step itself holds a unit under SERVICE or has its pin
isolated. -/
def State.calReady (s : State) (g n : Nat) (own : Bool) : Bool :=
  let G := s.gather g
  let x := s.calG g
  let level := fun p => let y := G.pin p; y.drive == .off && !y.loaded && !y.claimed && !s.clearLow && (!own || y.iso)
  let held := (x.serves n).any fun u => (G.tiu u).st == .service
  if n < 4 then (if own then held else (G.tiu n).st == .idle) && s.pllLocked
  else if n < 8 then (G.dig (n - 4)).st == .idle && !(G.dig (n - 4)).parked
  else if n < 16 then
    let u := G.smu (n - 8)
    (cfgMode u.cfg == 0 || !cfgConnect u.cfg) && !u.pmux && u.run.isNone
  else
    let p := n % 16
    if n < 32 then level p
    else if n < 48 then level p && x.leveled.contains (16 + p)
    else if n < 64 then level p && s.pllLocked && (if own then held else (List.range 4).any fun u => (G.tiu u).st == .idle)
    else
      let ns := (List.range 2).filter fun i => sentEn (G.sent i).cfg && sentContact (G.sent i).cfg
      G.calFree && !ns.isEmpty && ns.all fun i => (G.sent i).contactCode == 0

/-- A span in ns in 1/65,536 of a unit of 5.208 ps, 64 of which are 1/3 ns. -/
def nsU (ns : Nat) : Nat := ns * 192 * 65536

/-- The pins that a CALWIN stroke lets the Marver isolate (R346): those of CAL_PINMASK and parked ones, on which a step is to come whose
precondition holds. -/
def State.calPins (s : State) (g : Nat) : List Nat :=
  (List.range 16).filter fun p =>
    ((s.calG g).pinMask.testBit p || (s.pin g p).parked) && [16 + p, 32 + p, 48 + p].any fun n => s.calTodo g n && s.calReady g (16 + p) false

/-- When the switches of a window's pins have closed: 0.5 µs before its scheduled end (R346). -/
def CalG.isoEnd (x : CalG) : Option Nat := if x.window then some (x.winEnd - nsU 500) else none

/-- Boundary 0 of a CALWIN stroke: the Marver opens the switches of the pins it works on, to close 0.5 µs before the scheduled end (R346); which of
those it may take it takes is open. [DESIGN CHOICE, safe: log 129.] -/
def State.isolate (s : State) (g : Nat) : State :=
  let ps := s.calPins g
  if ps.isEmpty then s
  else
    let (k, s) := s.fresh
    let ps := ps.filter fun p => k.testBit p
    let shut : PinEdge := { t := ((s.calG g).winEnd - nsU 500) / 65536, born := 0, act := .shut }
    let s := forAll ps (fun s p => let x := s.pin g p; s.setPin g p { x with iso := true, edges := x.edges ++ [shut] }) s
    s.setCalG g { s.calG g with ran := maskOf ps }

/-- A stroke starts on a gather at `st`: pins still isolated make its result CAL_OVERRUN; a CALWIN stroke whose scheduled duration reaches
20 µs opens a window with the CAL_PINMASK now written. -/
def State.calStroke (s : State) (g : Nat) (calwin : Bool) (st duration : Nat) : State :=
  let x := s.calG g
  let iso := maskOf (s.gather g).isolated
  let win := calwin && s.calWanted g && duration ≥ nsU 20000
  let units := if win then (runElements false).filter fun n => n < 16 && s.calReady g n false else []
  let x' := { x with window := win, winEnd := if win then st + duration else 0, winUnits := units, ran := 0, overrun := iso }
  let s := if x' == x then s else s.setCalG g x'
  if win then s.isolate g else s

/-- The stroke ends: each step then in progress in its window ends with CAL_PREEMPT (R348). By its scheduled end the switches have closed. -/
def State.calStrokeEnd (s : State) (g : Nat) : State :=
  let x := s.calG g
  if x.window then
    let s := s.preempt g fun _ => true
    let s := s.setCalG g { s.calG g with window := false, winUnits := [] }
    let s := s.modG g fun G => { G with pins := G.pins.map fun p => (p.1, { p.2 with edges := p.2.edges.filter (·.act != .shut) })
                                        play := { G.play with isoEnd := none } }
    let ps := (s.gather g).isolated
    if (s.gather g).play.nowS < x.winEnd then s else forAll ps (fun s p => s.setPin g p { s.pin g p with iso := false }) s
  else s

/-- The Marver's flags on a gather's stroke results: CAL_DUE while its tile is due or an element owed, CAL_RAN, CAL_OVERRUN. -/
def State.extraFlags (s : State) (g : Nat) : Nat :=
  let x := s.calG g
  b2n (s.calWanted g) * rfCalDue + b2n (x.ran != 0) * rfCalRan + b2n (x.overrun != 0) * rfCalOverrun

/-- The pins that CAL_RAN and CAL_OVERRUN name; bit 16 of `ran` marks that a step ran in the stroke. -/
def State.extraMask (s : State) (g : Nat) : Nat := let x := s.calG g; x.ran % 65536 ||| x.overrun

end Sys2Proof.Machine
end

