-- ==== Sys2Proof/Machine/Strobe.lean ====
section
/-!
DEFINITION. What is on its way from the vectors that have left: the edges still to reach a pin (R78–R80), the strobes still to be
registered (R61), the results that wait for them, and the instant at which a halt cuts all of it off (R83, R87).

Times are in 1/65,536 of a unit of 1/192 ns on the sequencer's axis; a PCLK cycle is 256 units.
-/
namespace Sys2Proof.Machine

/-! ## The grid -/

/-- A PCLK cycle in 1/65,536 unit. -/
def pclkU : Nat := 256 * 65536

/-- PCLK cycles in a span of ns. -/
def pclkOfNs (n : Nat) : Nat := n * 3 / 4

/-- The PCLK edge of granule boundary b: the last at or before S + 32·b·PERIOD (R60). -/
def boundaryEdge (startS period b : Nat) : Nat := (startS + 32 * b * period) / pclkU

/-- Halves rounded up to a whole unit (R80). -/
def roundUnit (t : Nat) : Nat := (t + 32768) / 65536

/-- The PCLK edge at which a strobe that closes at a unit is registered: the third after it closes (R61). -/
def regEdge (shut : Nat) : Nat := shut / 256 + 3

/-! ## Edges at a pin -/

/-- The driver at a level. -/
def driveOf (b : Bool) : Drive := if b then .high else .low

/-- An edge reaches a pin (R77–R79). A level edge moves an enabled driver; a tripped pin ignores drive edges (R161): what the pattern wants
of the driver, and the last driven level, which its symbols set, go on beside it. [DEDUCED, unsafe: log 26.] -/
def Pin.edge (x : Pin) (a : EdgeAct) : Pin :=
  let y : Pin := match a with
    | .on => { x with want := driveOf x.lev }
    | .off => { x with want := .off }
    | .vt => { x with want := .vt }
    | .load b => { x with loadZ := if b then x.loadZ + 1 else x.loadZ - 1 }
    | .shut => { x with iso := false }
    | .level b => { x with lev := b, want := if x.want == .low || x.want == .high then driveOf b else x.want }
    | .data d => { x with lev := d, want := if x.want == .off then .off else driveOf d, last := d, driven := true }
  match a with
  | .load _ => y
  | _ => if x.tripped then y else { y with drive := y.want }

/-- Put an edge into a list in rising time; of two at one unit the one placed first stays first. -/
def insertEdge (e : PinEdge) : List PinEdge → List PinEdge
  | [] => [e]
  | x :: xs => if e.t < x.t then e :: x :: xs else x :: insertEdge e xs

/-- Does an edge fall before an instant? -/
def PinEdge.before (e : PinEdge) (t : Nat) : Bool := decide (e.t * 65536 < t)

/-- The edges before an instant reach the pin in their order. -/
def Pin.advance (x : Pin) (t : Nat) : Pin :=
  if x.edges.isEmpty then x
  else
    let due := (x.edges.filter (·.before t)).foldl (fun es e => insertEdge e es) []
    let x := { x with edges := x.edges.filter fun e => !e.before t }
    due.foldl (fun x e => x.edge e.act) x

/-- Is the ball driven or loaded at some time up to an instant? -/
def Pin.connectedUntil (x : Pin) (t : Nat) : Bool :=
  let due := (x.edges.filter (·.before t)).foldl (fun es e => insertEdge e es) []
  (due.foldl (fun (a : Pin × Bool) e => let y := a.1.edge e.act; (y, a.2 || y.connected)) (x, x.connected)).2

/-- No edge comes any more: the next vector that drives meets the driver as it stands. [DESIGN CHOICE, unsafe: log 144.] -/
def Pin.stopEdges (x : Pin) : Pin :=
  { x with edges := [], loadZ := 0, vDrive := x.want != .off, vLast := x.last, vDriven := x.driven }

/-- A change to each of a gather's pins; one that stays as it was is not listed anew. -/
def Gather.mapPins (G : Gather) (f : Nat → Pin → Pin) : Gather :=
  { G with pins := (List.range 16).foldl (fun t p =>
      let x := Tab.get {} t p
      let y := f p x
      if y == x then t else Tab.put t p y) G.pins }

/-! ## Strobes and results -/

/-- A registered strobe enters its stroke's result: the compares of a MATCH body do not (R72). -/
def StrokeRes.take (c : StrokeRes) (x : Strobe) : StrokeRes :=
  match x.kind with
  | .compare ok filled =>
    if x.silent then c
    else
      let c := if ok then c else { c with fails := satAdd 0xFFFF c.fails 1, plainFails := c.plainFails + b2n filled.isNone }
      match filled with
      | some false => if ok then { c with pass0 := c.pass0 + 1 } else { c with fail0 := c.fail0 + 1 }
      | some true => if ok then { c with pass1 := c.pass1 + 1 } else { c with fail1 := c.fail1 + 1 }
      | none => c
  | .capture st => { c with captured := c.captured ++ [(x.vec, x.pin, st)] }
  | .mark => c

/-- Is a strobe a compare that fails, of a stroke whose compares are recorded? -/
def Strobe.fails (x : Strobe) : Bool := match x.kind with | .compare ok _ => !ok && !x.silent | _ => false

/-- A registered strobe goes to the result of its own execution, which runs or has ended. -/
def Play.put (y : Play) (x : Strobe) : Play :=
  if y.resOpen && x.tag == y.tag then { y with cur := y.cur.take x }
  else { y with closing := y.closing.map fun c => if c.tag == x.tag then c.take x else c }

/-- The strobes registered before a PCLK edge. -/
def Play.due (y : Play) (edge : Nat) : List Strobe := y.strobes.filter fun x => decide (x.reg < edge)

/-- The results of ended strokes all of whose strobes are registered are formed; that of a VFY stroke run in place of an ETCH stroke
is its outcome's (R477). -/
def Gather.flush (G : Gather) : Gather :=
  let y := G.play
  let waits := fun (c : StrokeRes) => y.strobes.any (·.tag == c.tag)
  let done := y.closing.filter fun c => !waits c
  if done.isEmpty then G
  else { G with play := { y with closing := y.closing.filter waits, results := y.results ++ done }
                replay := G.replay.map fun r => match done.find? fun c => r.vfyTag == some c.tag with
                  | some c => { r with vfyDone := some c }
                  | none => r }

/-- Register every strobe before a PCLK edge: results and the gather's failure count (R61). -/
def Gather.register (G : Gather) (edge : Nat) : Gather :=
  let y := G.play
  let due := y.due edge
  let y := due.foldl Play.put { y with strobes := y.strobes.filter fun x => !decide (x.reg < edge) }
  Gather.flush { G with play := y, seq := { G.seq with fails := satAdd 0xFFFF G.seq.fails (due.filter Strobe.fails).length } }

/-- The events that strobes present, with the PCLK edges at which a clocked line registers them (Table 13-2): SEQ_FAIL at each edge at which
a compare fails, the marker of each E symbol at the edge that follows it. -/
def strobePulses (xs : List Strobe) : List (Nat × Nat) :=
  (xs.filterMap fun x => match x.kind with
    | .mark => some (x.shut / 256 + 1, 16 + x.pin)
    | _ => if x.fails then some (x.reg, 39) else none).eraseDups

/-! ## The cut of a halt (R83, R87) -/

/-- From an instant on, no edge changes a pin and no strobe is registered. An etch-end marker whose strobes are not registered by then is
never written, and ETCH_OPEN is set; a VFY stroke in place of an ETCH stroke has then no outcome. The matches and branch
conditions still armed go with them. -/
def Gather.cut (G : Gather) (t : Nat) : Gather :=
  let edge := t / pclkU + 1
  let pulses := strobePulses (G.play.due edge)
  let G := (G.mapPins fun _ x => (x.advance t).stopEdges).register edge
  let y := G.play
  let lost := y.strobes.map (·.tag)
  let opened := y.etchEnds.any fun e => !decide (e.last < edge)
  Gather.flush { G with
    seq := { G.seq with etchOpen := G.seq.etchOpen || opened }
    play := { y with nowS := max y.nowS t, strobes := [], hits := [], eWins := y.eWins.filter fun w => decide (w.2 * 65536 < t), pulses := y.pulses ++ pulses, etchEnds := y.etchEnds.filter fun e => decide (e.last < edge) }
    replay := G.replay.map fun r => match r.vfyTag with
      | some v => if lost.contains v then { r with vfyTag := none } else r
      | none => r }

/-- Has a gather anything on its way? -/
def Gather.underWay (G : Gather) : Bool :=
  G.pins.any (fun p => !p.2.edges.isEmpty) || !G.play.strobes.isEmpty || !G.play.etchEnds.isEmpty

/-! ## The end of a stroke's result -/

/-- Close the running stroke's result on a gather with further flags: it is formed once its last strobes are registered (R473 takes it into
the next checkpoint's RESULT). -/
def State.closeResult (s : State) (g flags : Nat) : State :=
  let G := s.gather g
  let y := G.play
  if !y.resOpen then s
  else
    let c := { y.cur with flags := y.cur.flags ||| flags ||| s.extraFlags g, pinMask := y.cur.pinMask ||| s.extraMask g }
    let s := s.setG g (Gather.flush { G with play := { y with cur := {}, resOpen := false, closing := y.closing ++ [c] } })
    s.calStrokeEnd g

end Sys2Proof.Machine
end

