-- ==== Sys2Proof/Machine/Fabric.lean ====
section
/-!
DEFINITION. Hatch at work (R318–R337): the levels of the lines, the events they present and carry upward, the tasks, the
halting of gathers, and the halt of a sequencer itself (R83).

Lines are named inside the model by the identifiers of Table 13-1 with the local gather in place of the site. A change of a
producer is followed wave by wave: a wave is one hop (one PCLK cycle on clocked lines), so the lines of one wave present their
events together and n events at one line in one wave merge (R319). Waves go on until none is left or `waveLimit` is spent;
what is still moving then stays in `Hatch.inflight` and goes on with each edge of the time base (R331).
-/
namespace Sys2Proof.Machine

/-! ## Lines -/

def lineG (g k : Nat) : Nat := g * 16 + k
def lineT (t k : Nat) : Nat := 0x1000 + t * 32 + k
def lineD (d : Nat) : Nat := 0x2000 + d
def lineC (c : Nat) : Nat := 0x3000 + c

/-- G15, T15 and D15 (R318). -/
def isHaltLine (key : Nat) : Bool :=
  match key / 0x1000 with
  | 0 => key % 16 == 15
  | 1 => key % 32 == 15
  | 2 => key == 0x200F
  | _ => false

/-- A line after reset (R320): clocked, but for the halt lines and TRIG_OUT. -/
def lineReset (key : Nat) : Line := { clk := !isHaltLine key && !(0x3004 ≤ key) }

def State.line (s : State) (key : Nat) : Line := Tab.get (lineReset key) s.hatch.lines key
def State.setLine (s : State) (key : Nat) (l : Line) : State := s.setHatch { s.hatch with lines := Tab.put s.hatch.lines key l }

/-- The identifier a line shows outside: gather lines by twin-wide site (Table 13-1). -/
def State.lineId (s : State) (key : Nat) : Half :=
  BitVec.ofNat 16 (if key < 0x1000 then s.siteOf (key / 16) * 16 + key % 16 else key)

/-- Hatch is frozen: in Anneal and in the power-fail park (Tables 19-9, 21-2). -/
def State.frozen (s : State) : Bool := s.faults.anneal || s.power.parked

/-- A line that is forced off, whose group is disabled, or that Anneal freezes, holds level 0 and presents nothing (R325, R333,
Table 19-9). -/
def State.lineDead (s : State) (l : Line) : Bool :=
  l.off || (l.grpEn && s.hatch.groupsOff.contains l.group) || s.frozen

/-! ## Producers (Table 13-2) -/

/-- The outputs of a gather's level producers as a bit mask over the producer indices. -/
def Gather.producers (G : Gather) (frozen : Bool) : Nat :=
  if G.safe.on || frozen then 0 else
  let pinBits := (List.range 16).foldl (fun a p =>
    a + b2n (condHolds (Tab.get 0 G.hatch.cond p) (G.pin p).hi (G.pin p).lo) * 2 ^ p) 0
  let sentBits := (List.range 2).foldl (fun a n =>
    let x := G.sent n
    a + b2n (x.cfg.getLsbD 0 && !x.asleep && rawActive (x.cfg.getLsbD 11) x.raw) * 2 ^ (32 + n)) 0
  let complBits := (List.range 4).foldl (fun a u => a + b2n (G.smu u).compl * 2 ^ (34 + u)) 0
  pinBits + sentBits + complBits + b2n G.contact * 2 ^ 38 + b2n (G.seq.st == .halted) * 2 ^ 40

/-- Device producers 16–20: broadcast programs halted, TWIN_DOWN. -/
def State.devProducers (s : State) : Nat :=
  if s.frozen then 0 else
  (List.range 4).foldl (fun a p => a + b2n ((s.prog p).loaded && (s.prog p).seq.st == .halted) * 2 ^ (16 + p)) 0
    + b2n s.twin.down * 2 ^ 20

/-! ## Levels -/

def State.lvl (s : State) (key : Nat) : Bool := (s.line key).level

/-- A task source code (Table 13-9) as a line. -/
def srcKey (code : Nat) : Nat :=
  if code < 128 then 0x1000 + code else if code < 192 then 0x2000 + (code - 128) else 0x3000 + (code - 192)

/-- D15 as this device's own tile lines drive it (R335); nothing drives it while it is forced off or frozen. -/
def State.d15Own (s : State) : Bool :=
  !s.lineDead (s.line (lineD 15)) && (List.range 4).any fun t => (Tab.get 0#64 s.hatch.tileFwd t).getLsbD 15 && s.lvl (lineT t 15)

/-- The OR of what holds a line active: its enabled level producers and incoming links (R319, R322, R328, R335). -/
def State.lineInput (s : State) (key : Nat) : Bool :=
  match key / 0x1000 with
  | 0 =>
    let G := s.gather (key / 16)
    (List.range 43).any fun i => G.hatch.out.testBit i && (Tab.get 0#16 G.hatch.mask i).getLsbD (key % 16)
  | 1 =>
    let t := (key - 0x1000) / 32
    let k := key % 32
    (List.range 16).any fun i =>
      let g := 16 * t + i
      let h := (s.gather g).hatch
      if k < 16 then h.up.getLsbD k && s.lvl (lineG g k) else h.up16.getLsbD (k - 16) && s.lvl (lineG g (k - 16))
  | 2 =>
    let d := key - 0x2000
    ((List.range 4).any fun t => (Tab.get 0#64 s.hatch.tileFwd t).getLsbD d && s.lvl (lineT t (d % 32)))
      || ((Tab.get 0#16 s.hatch.trigIn (d % 4)).getLsbD (d / 4) && s.lvl (lineC (d % 4)) && d != 15)
      || ((List.range 21).any fun i => s.hatch.devProdOut.testBit i && (Tab.get 0#64 s.hatch.devProd i).getLsbD d)
      || (s.hatch.relays.any fun r => r.2.mode == 2 && r.2.out == d && r.2.src.any fun c => s.lvl (srcKey c))
      || (d == 15 && s.hatch.haltnIn && s.hatch.haltnLow)
  | _ =>
    let c := key - 0x3000
    if c < 4 then Tab.get 0 s.hatch.trigBall c == 1
    else (List.range 16).any fun i =>
      let d := 4 * i + (c - 4)
      d != 15 && (Tab.get 0#16 s.hatch.trigOut (c - 4)).getLsbD i && s.lvl (lineD d)

/-! ## Events -/

/-- An event on a line with NOTIFY: one entry, or held to the end of the line's microsecond (R339). -/
def State.noteLine (s : State) (key : Nat) (assert : Bool) : State :=
  let l := s.line key
  if l.busyUs then s.setLine key { l with held := l.held + 1, heldAssert := assert, heldTime := s.netNs }
  else (s.setLine key { l with busyUs := true, busyNs := s.upNs }).note (noteEntry 1 0 (s.lineId key) assert 1 s.netNs)

/-- Four cycles of a line's slowest consumer, in ns (R25, R319): of ACLK, 200 MHz, for the Ampoule's trigger inputs G14 and D56–D63 (R212), else of
TSCLK, 250 MHz. -/
def mergeNs (key : Nat) : Nat := if (key < 0x1000 && key % 16 == 14) || (0x2038 ≤ key && key ≤ 0x203F) then 20 else 16

/-- Is an event of an asynchronous line merged into the one before it (R25, R319)? It may be where the two can lie less than 4 cycles of the
slowest consumer apart; how far they do lie apart is open. [DESIGN CHOICE, safe: log 127.] -/
def State.mergesEvent (s : State) (key : Nat) (l : Line) (rises : Bool) : State × Bool :=
  let near := match l.eventNs with | some t => decide (s.upNs < t + mergeNs key) | none => false
  if rises && !l.clk && near then
    let (b, s) := s.choose
    (s, b)
  else (s, false)

/-- The times of a line's latest events with one more: those within WINDOW × 8 PCLK cycles, at most one beyond LIMIT (R332). -/
def Line.stormTimes (l : Line) (now : Nat) : List Nat :=
  if l.limit == 0 then [] else now :: (l.recent.filter fun t => decide (pclkOfNs (now - t) < 8 * l.window)).take l.limit

/-- One line in one wave: its level becomes that of its input with the wave's events, of which `n` producers or links present one (R319). Answers
the state, whether the line presents an event, whether its level changed, and whether the events alone hold it, so that it falls with the next cycle. -/
def State.settleLine (s : State) (key n : Nat) : State × Bool × Bool × Bool :=
  let l := s.line key
  let dead := s.lineDead l
  let input := s.lineInput key
  let lv := !dead && (input || n != 0)
  let rises := !dead && (if l.clk then n != 0 || (lv && !l.level) else !l.level && lv)
  let (s, merged) := s.mergesEvent key l rises
  let fires := rises && !merged
  let more := if merged then 1 else if fires && l.clk then n - 1 else 0
  let l' := { l with level := lv, merge := satAdd 0xFFFF l.merge more, events := l.events + b2n fires, falls := l.falls + b2n (l.level && !lv)
                     eventNs := if rises then some s.upNs else l.eventNs, recent := if fires then l.stormTimes s.upNs else l.recent }
  let s := if l' == l then s else s.setLine key l'
  let s := if fires && (l.notify == 1 || l.notify == 2) then s.noteLine key true else s
  let s := if l.level && !lv && l.notify == 2 && !dead then s.noteLine key false else s
  (s, fires, lv != l.level, lv && !input)

/-- The lines that a line's events and level reach by forwarding (R322). -/
def State.forwards (s : State) (key : Nat) : List Nat :=
  match key / 0x1000 with
  | 0 =>
    let g := key / 16
    let k := key % 16
    let h := (s.gather g).hatch
    (if h.up.getLsbD k then [lineT (tileOf g) k] else []) ++
      (if k < 15 && h.up16.getLsbD k then [lineT (tileOf g) (k + 16)] else [])
  | 1 =>
    let t := (key - 0x1000) / 32
    let k := key % 32
    let m := Tab.get 0#64 s.hatch.tileFwd t
    (if m.getLsbD k then [lineD k] else []) ++ (if m.getLsbD (k + 32) && k != 15 then [lineD (k + 32)] else [])
  | 2 =>
    let d := key - 0x2000
    if d != 15 && (Tab.get 0#16 s.hatch.trigOut (d % 4)).getLsbD (d / 4) then [lineC (4 + d % 4)] else []
  | _ =>
    let c := key - 0x3000
    if c < 4 then ((List.range 16).filter fun i => 4 * i + c != 15 && (Tab.get 0#16 s.hatch.trigIn c).getLsbD i).map
      fun i => lineD (4 * i + c)
    else []

/-- Add one event for each of some lines to a wave's counts. -/
def addEvents (w : Tab Nat) (keys : List Nat) : Tab Nat := keys.foldl (fun w k => Tab.upd 0 w k (· + 1)) w

/-- Touch lines without an event. -/
def touch (w : Tab Nat) (keys : List Nat) : Tab Nat := keys.foldl (fun w k => Tab.upd 0 w k id) w

/-- The line of an event-input selection of a gather (Table 13-9); none where it is not bound. -/
def evtKey (g code : Nat) : Option Nat :=
  if !code.testBit 7 then none
  else
    let c := code % 128
    some (if c < 16 then lineG g c else if c < 48 then lineT (tileOf g) (c - 16) else if c < 112 then lineD (c - 48) else lineC (c - 112))

/-- The line of event input k of a gather. -/
def State.gatherEvt (s : State) (g k : Nat) : Option Nat := evtKey g (Tab.get 0 (s.gather g).hatch.evt k)

/-- The events that a bound line has presented. -/
def State.eventsOf (s : State) (key : Option Nat) : Nat := match key with | some k => (s.line k).events | none => 0

/-- What a start of a unit of a gather awaits has presented so far: events of an event input, or matches of a time-compare unit (R90, R203). -/
def State.presented (s : State) (g mode src : Nat) : Nat :=
  match mode with
  | 1 => s.eventsOf (s.gatherEvt g src)
  | 2 => (s.tcmp src).fires
  | _ => 0

/-- A measurement that waits for an event as a gather's event-input selections change (R203, R340): one whose event the old line has presented has
started; else, where its line changes, it counts the new line's from now on. -/
def SmuMeas.reselect (q : SmuMeas) (before after : State) (g : Nat) : SmuMeas :=
  if q.mode != 1 || q.started then q
  else if q.mark < before.presented g 1 q.source then { q with started := true, startNs := after.upNs }
  else if before.gatherEvt g q.source == after.gatherEvt g q.source then q
  else { q with mark := after.presented g 1 q.source }

/-- The waiting measurements of a gather whose selections have changed. -/
def State.smuReselect (s before : State) (g : Nat) : State :=
  s.modG g fun G => { G with smus := G.smus.map fun u => (u.1, { u.2 with meas := u.2.meas.map (·.reselect before s g) }) }

/-- How many of a task's bound lines present an event in this wave (R327). -/
def taskE (fired : List Nat) (src : List Nat) : Nat := (src.eraseDups.filter fun c => fired.contains (srcKey c)).length

/-- Relays in one wave (R328): a SYNC relay takes a pending pulse or counts in TASK_MERGE; an ASYNC relay is a link. -/
def relayStep (fired changed : List Nat) (acc : State × Tab Nat) (ir : Nat × Relay) : State × Tab Nat :=
  let (s, w) := acc
  let r := ir.2
  let e := taskE fired r.src
  if r.mode == 1 then
    if e == 0 then acc
    else
      let r' := if r.pending then { r with merge := satAdd 0xFFFF r.merge e }
        else { r with pending := true, pendNs := s.upNs, merge := satAdd 0xFFFF r.merge (e - 1) }
      (s.setHatch { s.hatch with relays := Tab.put s.hatch.relays ir.1 r' }, w)
  else if r.mode == 2 then
    if e != 0 then (s, addEvents w [lineD r.out])
    else if r.src.any (fun c => changed.contains (srcKey c)) then (s, touch w [lineD r.out]) else acc
  else acc

/-- Counters in one wave (R329): add e; at THRESH present one pulse on OUT in the next wave, and wrap or stop. -/
def counterStep (fired : List Nat) (acc : State × Tab Nat) (ic : Nat × Counter) : State × Tab Nat :=
  let (s, w) := acc
  let c := ic.2
  if c.mode == 0 || c.stopped then acc
  else
    let n := c.count + taskE fired c.src
    if n ≥ c.thresh then
      let c' := if c.mode == 1 then { c with count := n - c.thresh } else { c with count := n, stopped := true }
      (s.setHatch { s.hatch with counters := Tab.put s.hatch.counters ic.1 c' }, addEvents w [lineD c.out])
    else if n == c.count then acc
    else (s.setHatch { s.hatch with counters := Tab.put s.hatch.counters ic.1 { c with count := n % 2 ^ 32 } }, w)

/-- The lines that belong to a group. -/
def State.groupLines (s : State) (g : Nat) : List Nat :=
  (s.hatch.lines.filter fun l => l.2.grpEn && l.2.group == g).map (·.1)

/-- Enable or disable a group; its lines are settled in the next wave. -/
def State.setGroup (s : State) (g : Nat) (on : Bool) : State :=
  let off := s.hatch.groupsOff.filter (· != g)
  s.setHatch { s.hatch with groupsOff := if on then off else off ++ [g] }

/-- Group switches in one wave (R326, R327): when both of a group execute, it ends disabled. -/
def switchStep (fired : List Nat) (acc : State × Tab Nat) (g : Nat) : State × Tab Nat :=
  let (s, w) := acc
  let on := Tab.get {} s.hatch.grpOn g
  let off := Tab.get {} s.hatch.grpOff g
  let eOn := if on.on then taskE fired on.src else 0
  let eOff := if off.on then taskE fired off.src else 0
  if eOn == 0 && eOff == 0 then acc
  else
    let h := s.hatch
    let h := if eOn != 0 then { h with grpOn := Tab.put h.grpOn g { on with merge := satAdd 0xFFFF on.merge (eOn - 1) } } else h
    let h := if eOff != 0 then { h with grpOff := Tab.put h.grpOff g { off with merge := satAdd 0xFFFF off.merge (eOff - 1) } } else h
    let s := (s.setHatch h).setGroup g (eOff == 0)
    (s, touch w (s.groupLines g))

/-- One wave: settle every touched line, then forwards and tasks. Answers the lines of the next wave. -/
def State.wave (s : State) (w : Tab Nat) : State × Tab Nat :=
  let (s, fired, changed, pulses) := w.foldl (fun (acc : State × List Nat × List Nat × List Nat) kn =>
    let (s, f, c, p) := acc
    let (s, fi, ch, pu) := s.settleLine kn.1 kn.2
    (s, if fi then f ++ [kn.1] else f, if ch then c ++ [kn.1] else c, if pu then p ++ [kn.1] else p)) (s, [], [], [])
  let next := touch [] pulses
  let next := changed.foldl (fun w k => touch w (s.forwards k)) next
  let next := fired.foldl (fun w k => addEvents w (s.forwards k)) next
  let (s, next) := s.hatch.relays.foldl (relayStep fired changed) (s, next)
  let (s, next) := s.hatch.counters.foldl (counterStep fired) (s, next)
  (List.range 32).foldl (switchStep fired) (s, next)

/-- How many waves one change is followed for at once; what is still moving then stays in flight. [DESIGN CHOICE, unsafe: log 21.] -/
def waveLimit : Nat := 24

/-- [DESIGN CHOICE, unsafe: log 21.] -/
def State.waves (s : State) : Nat → Tab Nat → State
  | 0, w => s.setHatch { s.hatch with inflight := w }
  | n + 1, w => if w.isEmpty then s else
    let (s, w) := s.wave w
    s.waves n w

/-- Follow a wave, with what was left in flight. [DESIGN CHOICE, unsafe: log 21.] -/
def State.propagate (s : State) (w : Tab Nat) : State :=
  let left := s.hatch.inflight
  let w := left.foldl (fun (w : Tab Nat) e => Tab.upd 0 w e.1 (· + e.2)) w
  if w.isEmpty then s else (if left.isEmpty then s else s.setHatch { s.hatch with inflight := [] }).waves waveLimit w

/-! ## A gather's producers onto its lines -/

/-- Re-evaluate a gather's level producers: each that turns active, and each pulse, is one event on every line its mask enables. Answers the
wave with these lines added. -/
def State.collect (acc : State × Tab Nat) (g : Nat) (pulses : List Nat) : State × Tab Nat :=
  let (s, w) := acc
  let G := s.gather g
  let now := G.producers s.frozen
  let old := G.hatch.out
  let ev := ((List.range 43).filter fun i => now.testBit i && !old.testBit i) ++ (if G.safe.on || s.frozen then [] else pulses)
  let ch := (List.range 43).filter fun i => now.testBit i != old.testBit i
  let linesOf := fun i => ((List.range 16).filter fun k => (Tab.get 0#16 G.hatch.mask i).getLsbD k).map (lineG g)
  let w := ch.foldl (fun w i => touch w (linesOf i)) w
  let w := ev.foldl (fun w i => addEvents w (linesOf i)) w
  (if now == old then s else s.setG g { G with hatch := { G.hatch with out := now } }, w)

/-- What a wave has collected, if anything, is followed. -/
def State.follow (s : State) (w : Tab Nat) : State := if w.isEmpty then s else s.propagate w

/-- Put a number into a list in rising order, once. -/
def insertNat (n : Nat) : List Nat → List Nat
  | [] => [n]
  | x :: xs => if n < x then n :: x :: xs else if n == x then x :: xs else x :: insertNat n xs

/-- The events of some gathers' pulse producers at one PCLK edge are one wave. -/
def State.presentAt (gs : List Nat) (s : State) (edge : Nat) : State :=
  let acc := gs.foldl (fun (acc : State × Tab Nat) g =>
    State.collect acc g ((acc.1.gather g).play.pulses.filterMap fun p => if p.1 == edge then some p.2 else none)) (s, [])
  acc.1.follow acc.2

/-- Present what some gathers' pulse producers have waiting, edge by edge. -/
def State.present (s : State) (gs : List Nat) : State :=
  let edges := (gs.flatMap fun g => (s.gather g).play.pulses.map (·.1)).foldl (fun l n => insertNat n l) []
  if edges.isEmpty then s
  else forAll gs (fun s g => s.modPlay g fun y => { y with pulses := [] }) (edges.foldl (State.presentAt gs) s)

/-- The level producers of some gathers, as one wave. -/
def State.syncProducers (s : State) (gs : List Nat) : State :=
  let acc := gs.foldl (fun (acc : State × Tab Nat) g => State.collect acc g []) (s, [])
  acc.1.follow acc.2

/-- Re-evaluate the device's level producers and present device pulses (time-compare matches). -/
def State.syncDevice (s : State) (pulses : List Nat) : State :=
  let now := s.devProducers
  let old := s.hatch.devProdOut
  if now == old && pulses.isEmpty then s
  else
    let ev := ((List.range 21).filter fun i => now.testBit i && !old.testBit i) ++ pulses
    let ch := (List.range 21).filter fun i => now.testBit i != old.testBit i
    let linesOf := fun i => ((List.range 64).filter fun d => (Tab.get 0#64 s.hatch.devProd i).getLsbD d && d != 15).map lineD
    let w := ch.foldl (fun w i => touch w (linesOf i)) []
    let w := ev.foldl (fun w i => addEvents w (linesOf i)) w
    (s.setHatch { s.hatch with devProdOut := now }).propagate w

/-! ## Halting (R83, R84, R87, R112, R125, R334, R336) -/

/-- A pin's HALT_STATE applied (R83): OFF, KEEP or TERM. A tripped pin or one with its driver off stays as it is (R162), and an isolated one
until its switch has closed (R348). [DEDUCED, unsafe: log 61.] -/
def Pin.toHaltState (x : Pin) (hs : Nat) : Pin :=
  let powered := !(x.parked || x.oc || x.claimed || !x.cfg.getLsbD 2)
  let want := match hs with | 0 => Drive.off | 2 => if powered then .vt else .off | _ => x.want
  let x := { x with want := want, vDrive := want != .off }
  if x.tripped || x.iso then x else { x with drive := want }

/-- Every pin of a gather to its HALT_STATE. -/
def Gather.applyHaltState (G : Gather) : Gather :=
  let G := G.mapPins fun p x => x.toHaltState (bits G.play.haltState.toNat (2 * p + 1) (2 * p))
  { G with play := { G.play with holding := false } }

/-- A sequencer halts: the pending jump is discarded, a waiting start ends, nothing is held any more. -/
def Seq.halt (q : Seq) (src reason : Nat) : Seq :=
  { q with st := .halted, why := none, pend := none, succ := none, armed := [], start := none, cont := none, retry := false
           haltSrc := src, haltReason := reason }

/-- A begin marker whose stroke is no longer due: a write that has started completes all the same (R86). -/
def Etch.letGo (m : Etch) : Option Etch :=
  match m.phase with
  | .writing => some { m with phase := .adrift }
  | .writingHeld => some { m with phase := .adrift }
  | .adrift => some m
  | _ => none

/-- Keep the begin markers of the strokes still due. -/
def Play.keepEtches (y : Play) (due : Etch → Bool) : Play :=
  { y with etches := y.etches.filterMap fun m => if m.phase != .adrift && due m then some m else m.letGo }

/-- Is a gather's sequencer running, holding or waiting to start? -/
def Seq.live (q : Seq) : Bool := q.st == .running || q.st == .held

/-- Event-input selections written to a running gather are in force once it runs no longer (R340). -/
def GHatch.settled (h : GHatch) (cane : Option Nat) : GHatch :=
  match h.evtNext with | some t => { h with evt := t, evtNext := none, evtCane := cane } | none => h

/-- A gather halts with a source and a reason; an ETCH stroke that runs leaves ETCH_OPEN (R87), and the stream buffer holds nothing
further. Each pin keeps its level for HALT_HOLD, then goes to its HALT_STATE; with HALT_HOLD 0 it goes at once (R83). -/
def Gather.halt (G : Gather) (src reason : Nat) : Gather :=
  let G := { G with seq := { G.seq.halt src reason with etchOpen := G.seq.etchOpen || G.play.etchOn.isSome }
                    hatch := G.hatch.settled G.hatch.cane
                    play := { G.play.keepEtches (fun _ => false) with etchOn := none, holding := true, stallSince := 0, fill := 0 } }
  if G.play.haltHold == 0 then G.applyHaltState else G

/-- Has the gather left its program for its own strokes? -/
def Gather.isDiverged (G : Gather) : Bool := match G.play.bc with | some b => b.mode == BcMode.diverged | none => false

/-- STATE of STROKE_STATUS: IDLE 0, RUNNING 1, HELD 2, HALTED 3, SITE_SAFE 4, DIVERGED 5. -/
def Gather.stateCode (G : Gather) : Nat :=
  if G.safe.on then 4
  else match G.seq.st with
    | .idle => 0
    | .halted => 3
    | .running => if G.isDiverged then 5 else 1
    | .held => if G.isDiverged then 5 else 2

/-- The sequencer whose position a gather shows, and whether it runs broadcast strokes: its program's while it follows; one that has halted in
a broadcast stroke keeps that position when its program goes. -/
def State.shownSeq (s : State) (g : Nat) : Seq × Bool :=
  let q := (s.gather g).seq
  match (s.gather g).play.bc with
  | some b => if b.mode == .following then ((s.prog b.prog).seq, true) else (q, q.bcastLen.isSome)
  | none => (q, q.bcastLen.isSome)

/-- A member keeps its program's position as its own (R84). -/
def State.keepPosition (s : State) (p g : Nat) : State :=
  let q := (s.prog p).seq
  s.modG g fun G => { G with seq := { G.seq with cur := q.cur, n := q.n, bcastLen := some (bits (Tab.get 0#128 s.bcTable q.cur).toNat 96 79) } }

/-- The record of STROKE_STATUS (R92), 36 bytes; its flags are the word at 32, in bits 0–6 as R92 lists them, PATCHED (R139) in bit 7,
ETCH_MISSED (R113) in bit 8 with its stroke at 30, and what a cane ORs beside them (R49), DIVERGED in bit 9 and LATE_JUMP in bit 10. After a HALT opcode the
position stays that of the stroke that ended. [DESIGN CHOICE, unsafe: log 7, 8, 119.] -/
def State.strokeBytes (s : State) (g : Nat) : List Byte :=
  let G := s.gather g
  let q := G.seq
  let (p, bcast) := s.shownSeq g
  let e := if bcast then Tab.get 0#128 s.bcTable p.cur else Tab.get 0#128 G.play.table p.cur
  let len := if bcast then q.bcastLen.getD (bits e.toNat 96 79) else bits e.toNat 96 79
  let waits := p.start.isSome && (p.st == .running || p.st == .held)
  let flags := b2n q.waitLate + 2 * b2n q.waitTimeout + 4 * b2n q.matchTimeout + 8 * b2n q.etchWait + 16 * b2n q.etchOpen
    + 32 * b2n q.slow + 64 * b2n waits + 128 * b2n ((s.patch (tileOf g)).version != 0) + 256 * b2n G.play.etchMissed.isSome
    + 512 * b2n G.isDiverged + 1024 * b2n (q.lateJump != 0)
  toLE 1 G.stateCode ++ toLE 1 q.haltSrc ++ toLE 1 q.haltReason ++ toLE 1 (b2n bcast) ++ toLE 2 p.cur ++ toLE 2 0
    ++ toLE 4 (p.n / max 1 len) ++ toLE 8 p.n ++ toLE 2 q.fails ++ toLE 2 q.jumpDrop ++ toLE 2 q.lateJump
    ++ toLE 2 q.seqLate ++ toLE 2 q.edgeDrop ++ toLE 2 (G.play.etchMissed.getD 0) ++ toLE 4 flags

/-- How long a sequencer has held, in PCLK cycles. [DEDUCED, unsafe: log 25.] -/
def State.heldFor (s : State) (q : Seq) : Nat := if q.st == .held then pclkOfNs (s.upNs - q.holdNs) else 0

/-- A halt inside a granule, or so long after a hold began: what is on its way is cut off at an instant that the rows leave open (R83, R87). [DESIGN CHOICE, safe: log 122.] -/
def State.cutFree (s : State) (g : Nat) : State :=
  if !(s.gather g).underWay then s
  else
    let (k, s) := s.fresh
    let held := s.heldFor (s.shownSeq g).1 * pclkU
    s.modG g fun G => G.cut (G.play.nowS + held + k % (32 * G.play.period + 1))

/-- Halt a gather: cut off what is on its way, close the running result with further flags, and write its STROKE_STATUS record to the export
where it ran (Table 17-4). A replay whose VFY stroke is halted before its last strobes are registered reports the ETCH stroke OPEN (R478). -/
def State.haltG (s : State) (g src reason : Nat) (flags : Nat := 0) : State :=
  let s := (s.cutFree g).closeResult g flags
  let s := match (s.gather g).replay with
    | some r =>
      match r.etch with
      | some e =>
        if r.vfyDone.isSome then s
        else
          let s := s.report { site := s.siteOf g, etch := 4, trigger := r.trigger, stroke := e, run := r.run, cseq := r.cseq, time := s.netNs }
          s.modG g fun G => { G with replay := some { r with etch := none, vfyTag := none } }
      | none => s
    | none => s
  let live := (s.gather g).seq.live
  let s := ((s.modG g fun G => let G := G.halt src reason; { G with play := { G.play with haltNs := s.upNs } }).smuReselect s g).probes g
  if live then s.emitRec 7 (s.siteOf g) (s.strokeBytes g) else s

/-- The gathers of a program that follow it, by local gather. -/
def State.followers (s : State) (p : Nat) : List Nat :=
  (s.prog p).members.filter fun g =>
    match (s.gather g).play.bc with | some b => b.prog == p && b.mode == .following | none => false

/-- A diverged member's current local stroke is a RENDEZVOUS. -/
def Gather.inRendezvous (G : Gather) : Bool :=
  G.seq.live && bits (Tab.get 0#128 G.play.table G.seq.cur).toNat 127 124 == 8

/-- A program halts with its following members, and with the diverged members that run a local RENDEZVOUS (R112, R125); a
replay's join is owed no longer. [DEDUCED, unsafe: log 101.] -/
def State.haltProgram (s : State) (p src reason : Nat) (flags : Nat := 0) : State :=
  let fs := s.followers p
  let ds := (s.prog p).members.filter fun g =>
    match (s.gather g).play.bc with | some b => b.prog == p && b.mode == .diverged && (s.gather g).inRendezvous | none => false
  let s := forAll fs (fun s g => (s.keepPosition p g).haltG g src reason flags) s
  let s := forAll ds (fun s g => s.haltG g src reason) s
  let s := forAll (s.prog p).members (fun s g => s.modG g fun G => { G with replay := G.replay.map fun r => { r with joinAt := none } }) s
  let P := s.prog p
  s.setProg p { P with priming := false, seq := P.seq.halt src reason }

/-- A following member that halts by itself leaves its program and does not rejoin (R112, R336); the program halts with the
source when no member follows any more, and with it the diverged members in a local RENDEZVOUS (R125). [DEDUCED, unsafe: log 101.] -/
def State.leaveProgram (s : State) (g src reason : Nat) : State :=
  match (s.gather g).play.bc with
  | some b =>
    if b.mode == .left then s
    else
      let wasFollowing := b.mode == .following
      let s := if wasFollowing then s.keepPosition b.prog g else s
      let s := s.modPlay g fun y => { y with bc := some { b with mode := .left, leave := none, lateLeave := none, joins := [] } }
      if wasFollowing && (s.followers b.prog).isEmpty && (s.prog b.prog).seq.live then s.haltProgram b.prog src reason else s
  | none => s

/-- A gather's halt input (R334): G15, T15 of its tile and D15, each where HATCH_HALT takes it. -/
def State.haltInput (s : State) (g : Nat) : Bool :=
  let a := (s.gather g).hatch.acc
  (a.getLsbD 0 && s.lvl (lineG g 15)) || (a.getLsbD 1 && s.lvl (lineT (tileOf g) 15)) || (a.getLsbD 2 && s.lvl (lineD 15))

/-- Register the halt inputs of all gathers; each assertion halts its gather with source HATCH (R334). -/
def State.checkHalts (s : State) : State :=
  forAll (s.gathers.map (·.1)) (fun s g =>
    let G := s.gather g
    let a := s.haltInput g
    if a == G.hatch.haltIn then s
    else
      let s := s.modG g fun G => { G with hatch := { G.hatch with haltIn := a } }
      if a && G.seq.live then (s.leaveProgram g 2 0).haltG g 2 0 else s) s

/-- What follows a wave: halts, and the SEQ_HALTED and program-halted producers that the halts in turn assert (none of which can reach a halt line,
R321). -/
def State.syncAfter (s : State) : State :=
  let s := s.checkHalts
  (s.syncProducers (s.gathers.map (·.1))).syncDevice []

/-- After a change of some gathers' producers, on one PCLK edge. -/
def State.syncMany (s : State) (gs : List Nat) : State := ((s.present gs).syncProducers gs).syncAfter

/-- After a change of one gather's producers, with pulses of its own. -/
def State.sync (s : State) (g : Nat) (pulses : List Nat := []) : State :=
  let acc := State.collect (s.present [g], []) g pulses
  (acc.1.follow acc.2).syncAfter

/-- The same after a change of device lines or producers, or of any configuration of Hatch. -/
def State.syncAll (s : State) (w : Tab Nat) (pulses : List Nat := []) : State :=
  ((s.syncDevice pulses).propagate w).syncAfter

/-- Settle every line that the tables name again (after Anneal, a group or a configuration change). -/
def State.syncLines (s : State) : State := s.syncAll (touch [] (s.hatch.lines.map (·.1)))

end Sys2Proof.Machine
end

