-- ==== Sys2Proof/Machine/Caps.lean ====
section
/-!
DEFINITION. Digitisers at work (R300–R313): registers, triggers, items, the measurements of a record, its header, and how a record
ends.
-/
namespace Sys2Proof.Machine

/-- The line of a gate input (Table 11-2). -/
def gateKey (g i : Nat) : Nat :=
  if i < 16 then lineG g i else if i < 24 then lineT (tileOf g) (i + 8) else if i < 28 then lineD (i + 24) else lineC (i - 28)

/-! ## Fields of Table 12-2 -/

def digSrc (c : Word) : Nat := bits c.toNat 19 16
def digInput (c : Word) : Nat := bits c.toNat 15 14
def digRange (c : Word) : Nat := bits c.toNat 13 12
def digMinmax (c : Word) : Bool := c.getLsbD 11
def digDec (c : Word) : Nat := bits c.toNat 9 5
def digKind (t : Word) : Nat := bits t.toNat 31 30
/-- HYST's codes. -/
def digHyst (t : Word) : Nat := match bits t.toNat 20 18 with | 0 => 0 | n => 2 ^ n
def digLevel (t : Word) : Int := signed 14 (bits t.toNat 13 0)
def digTop (m : Word) : Int := signed 14 (bits m.toNat 29 16)
def digBase (m : Word) : Int := signed 14 (bits m.toNat 13 0)

def DigSt.code : DigSt → Nat
  | .idle => 0
  | .armed => 1
  | .capturing => 2
  | .holdoff => 3

/-- D in NORMAL or M in MINMAX as configured: the base-rate samples of one item. -/
def Dig.rate (x : Dig) : Nat := if digMinmax x.cfg then x.interval else 2 ^ digDec x.cfg

/-- Bytes of an item (R306). -/
def itemWidth (minmax : Bool) : Nat := if minmax then 4 else 2
def Dig.itemBytes (x : Dig) : Nat := itemWidth (digMinmax x.cfg)

/-- AMP_PIN: the pin tap is isolated by an Ampoule claim (R295). -/
def Gather.ampPin (G : Gather) (x : Dig) : Bool := digInput x.cfg == 3 && (G.pin (digSrc x.cfg)).claimed

/-- DIG_STATUS. -/
def Gather.digStatus (G : Gather) (x : Dig) : Nat :=
  x.st.code * 64 + b2n x.parked * 32 + b2n x.cleared * 16 + b2n (G.ampPin x) * 8 + b2n x.overs * 4

/-- The bytes of one record of L items, header included (R306). -/
def recordBytes (len itemBytes : Nat) : Nat := 256 + 256 * ((len * itemBytes + 255) / 256)

/-! ## Items -/

/-- Samples at +8,191 or −8,192 set OVERRANGE (R295). -/
def overSample (c : Int) : Bool := c == 8191 || c == -8192

def minOf (xs : List Int) : Int := xs.foldl min (xs.headD 0)
def maxOf (xs : List Int) : Int := xs.foldl max (xs.headD 0)

/-- The stored bytes of an item (R306). -/
def CapItem.bytes (it : CapItem) (minmax : Bool) : List Byte :=
  if minmax then (if it.gap then toLE 2 0x8000 ++ toLE 2 0x8000 else toLEi 2 (minOf it.samples) ++ toLEi 2 (maxOf it.samples))
  else if it.gap then toLE 2 0x8000 else toLEi 2 (roundDiv (2 * it.samples.sum) it.samples.length)

/-! ## Measurements (R309, Table 12-6) -/

/-- Round a fraction to nearest, halves up. -/
def roundUp (n : Int) (d : Nat) : Int := (2 * n + d) / (2 * d)

/-- The instant at which a rising pair of samples passes a level, in 1/256 sample (R301). -/
def interpolate (k : Nat) (a b v : Int) : Int := 256 * k + roundUp (256 * (v - a)) (b - a).toNat

/-- Rising crossings of a level with hysteresis h, given as 16 h: a crossing counts once the signal, having been at or below the level
less h/2, reaches the level plus h/2; its time is where it passed the level. -/
structure Scan where
  prev : Option Int := none
  low : Bool := false
  mark : Option Int := none
  out : List Int := []

def Scan.next (v h16 : Int) (s : Scan) (k : Nat) (x : Int) : Scan :=
  let mark := match s.prev with | some a => if a < v ∧ v ≤ x then some (interpolate (k - 1) a x v) else s.mark | none => s.mark
  let up := s.low && decide (32 * (x - v) ≥ h16)
  let out := match up, mark with | true, some m => s.out ++ [m] | _, _ => s.out
  { prev := some x, low := (s.low && !up) || decide (32 * (x - v) ≤ -h16), mark := mark, out := out }

def crossings (first : Nat) (xs : List Int) (v h16 : Int) : List Int :=
  (xs.zipIdx.foldl (fun s xk => Scan.next v h16 s (first + xk.2) xk.1) {}).out

/-- The first crossing of the upper level with the last crossing of the lower level before it. -/
def transition (lo hi : List Int) : Option Int :=
  (hi.filterMap fun t => (lo.filter (· ≤ t)).getLast?.map (t - ·)).head?

/-- The ten measurements over the window's samples, of which the first is sample `first`. `up k` is the open rounding of the k-th. [DESIGN CHOICE, safe: log 47; DEDUCED, unsafe: log 82.] -/
def measurements (first : Nat) (xs : List Int) (base top : Int) (up : Nat → Bool) : List (Option Int) :=
  if xs.isEmpty then List.replicate 10 none
  else
    let n := xs.length
    let d := top - base
    let low := base + roundUp d 10
    let mid := base + roundUp d 2
    let high := base + roundUp (9 * d) 10
    let h16 := max 128 d
    let neg := xs.map (- ·)
    let mids := crossings first xs mid h16
    let span := mids.getLastD 0 - mids.headD 0
    let open_ := fun (k : Nat) (a : Int) (b : Nat) => if up k && a % b != 0 then a / b + 1 else a / b
    let mn := minOf xs
    let mx := maxOf xs
    let sq : Int := (xs.map fun x => x * x).sum
    let r2 := (65536 * 65536 * sq).toNat / n
    let r := isqrt r2
    let edges := mids.length
    [some mn, some mx, some (open_ 2 (65536 * xs.sum) n),
      some ((r : Int) + b2n (up 3 && (r * r != r2 || (65536 * 65536 * sq).toNat % n != 0))),
      if edges < 2 then none else some (open_ 4 span (edges - 1)),
      if edges < 2 then none else some (open_ 5 ((edges - 1) * 64 * 10 ^ 15) span.toNat),
      some (mx - mn),
      if d ≤ 0 then none else transition (crossings first xs low h16) (crossings first xs high h16),
      if d ≤ 0 then none else transition (crossings first neg (-high) h16) (crossings first neg (-low) h16),
      if d ≤ 0 then none else some (if mx ≤ top then 0 else open_ 9 ((mx - top) * 65536) d.toNat)]

/-! ## Record flags (Table 12-8) -/

def cfOver : Nat := 1
def cfNoTrig : Nat := 2
def cfPreShort : Nat := 4
def cfRateStep : Nat := 8
def cfGap : Nat := 16
def cfRateCeil : Nat := 32
def cfAborted : Nat := 64
def cfSiteSafe : Nat := 128
def cfCleared : Nat := 256
def cfAmpPin : Nat := 512
def cfPatched : Nat := 1024
def cfFail : Nat := 2048

/-- The flags whose conditions hold for a digitiser now (R295, R296, R139). -/
def Gather.digFlags (G : Gather) (x : Dig) (patched : Bool) : Nat :=
  b2n x.cleared * cfCleared + b2n (G.ampPin x) * cfAmpPin + b2n patched * cfPatched

/-- Does a gather's tile carry a patch? -/
def State.tilePatched (s : State) (g : Nat) : Bool := (s.patch (tileOf g)).version != (0 : Word)

/-- A condition of Table 12-8 holds while a digitiser records: its record will carry the flag, however soon it ends (R312). -/
def Dig.during (x : Dig) (fl : Nat) : Dig :=
  if x.st == .armed || x.st == .capturing then { x with arm := x.arm.map fun a => { a with held := a.held ||| fl } } else x

/-- What holds now for both digitisers of a gather. -/
def State.holdDigs (s : State) (g : Nat) : State :=
  s.modG g fun G => { G with digs := G.digs.map fun d => (d.1, d.2.during (G.digFlags d.2 (s.tilePatched g))) }

/-! ## Records -/

/-- Items that begin before the trigger point (R303). -/
def CapArm.before (a : CapArm) : List CapItem :=
  match a.trig with | some t => a.items.filter fun it => decide (256 * it.first < t.time) | none => a.items
def CapArm.after (a : CapArm) : List CapItem :=
  match a.trig with | some t => a.items.filter fun it => decide (t.time ≤ 256 * it.first) | none => []

/-- The pre-trigger items that the ring of P items holds. -/
def CapArm.ring (a : CapArm) : List CapItem := a.before.drop (a.before.length - a.pre)
/-- The record's items. -/
def CapArm.record (a : CapArm) : List CapItem := a.ring ++ a.after.take (a.len - a.pre)
/-- Has the record its L − P items at or after the trigger point? -/
def CapArm.full (a : CapArm) : Bool := a.trig.isSome && a.after.length ≥ a.len - a.pre

/-- The samples of the measurement window: from the first sample at or after the trigger point, in whichever item it lies, to the last of the record's
last item. [DEDUCED, unsafe: log 82.] -/
def CapArm.window (a : CapArm) : Nat × List Int :=
  match a.trig, a.items.head?, a.record.getLast? with
  | some t, some f, some l =>
    let k := (t.time + 255) / 256
    (k, ((a.items.flatMap (·.samples)).take (l.first + l.samples.length - f.first)).drop (k - f.first))
  | _, _, _ => (0, [])

/-- The indices, within a record, of the first item at each new rate (R307). -/
def stepIndices (its : List CapItem) : List Nat :=
  (its.zip its.tail).zipIdx.filterMap fun e => if e.1.1.rate != e.1.2.rate then some (e.2 + 1) else none

/-- log₂ of a power of two up to 2^20. -/
def log2of (n : Nat) : Nat := ((List.range 21).find? fun i => decide (n ≤ 2 ^ i)).getD 20

/-- The 256-byte header (Table 12-7) with the flags given for how the record ends. TRIG_TIME, the trigger's network time and FIRED_BY of
a record that ended before its trigger are open (`open_`). Answers with it whether the record fails (R310). [DESIGN CHOICE, unsafe: log 45.] -/
def Dig.header (x : Dig) (a : CapArm) (handle site early now : Nat) (open_ : List Nat) (up : Nat → Bool) : List Byte × Bool :=
  let its := a.record
  let mm := digMinmax x.cfg
  let r0 := (its.head?.map (·.rate)).getD x.rate
  let steps := stepIndices its
  let (k, xs) := a.window
  let ms := if a.trig.isSome then measurements k xs (digBase x.meas) (digTop x.meas) up else List.replicate 10 none
  let bad := (List.range 10).filter fun i =>
    x.enable.testBit i && match ms.getD i none with
      | none => true
      | some v => let l := x.limits.getD i (0, 0); decide (v < l.1 ∨ l.2 < v)
  let has := fun (f : CapItem → Bool) => b2n (its.any f)
  let fl := early ||| now ||| a.held ||| its.foldl (fun v it => v ||| it.held) 0 ||| b2n (xs.any overSample) * cfOver
    ||| has (·.samples.any overSample) * cfOver ||| b2n a.trig.isNone * cfNoTrig
    ||| b2n (a.trig.isSome && a.ring.length < a.pre) * cfPreShort ||| b2n (!steps.isEmpty) * cfRateStep ||| has (·.gap) * cfGap
  let fails := !bad.isEmpty || fl &&& (cfAborted ||| cfSiteSafe) != 0
  let fl := fl ||| b2n fails * cfFail
  let tr := a.trig.getD { time := open_.getD 0 0, kind := 0xFF, by_ := open_.getD 1 0, net := open_.getD 2 0 }
  (toLE 4 a.stored.length ++ toLE 2 handle ++ toLE 2 site ++ toLE 1 (b2n mm) ++ toLE 1 (digRange x.cfg)
    ++ toLE 1 (if mm then 0 else log2of r0) ++ toLE 1 steps.length ++ toLE 4 (if mm then r0 else 0) ++ toLE 4 its.length
    ++ toLE 4 a.ring.length ++ toLE 4 (if a.trig.isSome then a.ring.length else 0xFFFF_FFFF) ++ toLE 4 fl ++ toLE 8 tr.time
    ++ toLE 8 tr.net ++ toLE 2 (if a.cane.isSome then tr.by_ else 0xFFFF) ++ toLE 1 tr.kind ++ toLE 1 0
    ++ toLE 4 ((its.filter (·.gap)).length)
    ++ (ms.flatMap fun m => toLEi 8 (m.getD 0))
    ++ toLE 2 ((List.range 10).foldl (fun v i => v + b2n (bad.contains i) * 2 ^ i) 0)
    ++ toLE 2 ((List.range 10).foldl (fun v i => v + b2n (ms.getD i none).isNone * 2 ^ i) 0)
    ++ ((List.range 20).flatMap fun i => toLE 4 (steps.getD i 0xFFFF_FFFF)) ++ List.replicate 36 0#8, fails)

/-- Where a record of this member begins (R306). -/
def CapArm.recordAt (a : CapArm) (r : Nat) : Nat := a.base + (a.pos * a.records + r) * recordBytes a.len (itemWidth a.minmax)

/-- Items as they stand in DRAM, from item `first` of the record in progress (R303). -/
def CapArm.flow (a : CapArm) (m : Mem) (first : Nat) (its : List CapItem) : Mem :=
  Mem.writeAll m (a.recordAt a.stored.length + 256 + first * itemWidth a.minmax) (its.flatMap (·.bytes a.minmax))

/-- End the record in progress with the flags of how it ends (0 where it ended by itself): its header is written before its items, it
is exported, and CAP_DONE is pulsed (R311, R314, R441). [DESIGN CHOICE, unsafe: log 45, 46; DESIGN CHOICE, safe: log 47.] -/
def State.closeRecord (s : State) (g d early : Nat) : State :=
  let x := s.dig g d
  match x.arm with
  | none => s
  | some a =>
    let (o1, s) := s.fresh
    let (o2, s) := s.fresh
    let (o3, s) := s.fresh
    let base := s.freeCount
    let s := { s with freeCount := base + 10 }
    let now := (s.gather g).digFlags x (s.tilePatched g)
    let (h, fails) := x.header a (0x4000 + 2 * g + d) (s.siteOf g) early now [o1, o2, o3] fun k => Config.choice (base + k)
    let its := a.record
    let a' := { a with stored := a.stored ++ [its.length], items := [], trig := none, seen := none, held := 0, endNs := s.upNs
                       failed := a.failed || fails }
    let last := early != 0 || a'.stored.length ≥ a.records
    let x' := { x with arm := some a', st := if last then .idle else .holdoff, opened := x.opened || early == cfSiteSafe }
    let s := { s with dram := Mem.writeAll (a.flow s.dram 0 its) (a.recordAt a.stored.length) h }
    ((s.setDig g d x').emitRec 4 (s.siteOf g) h).sync g [41 + d]

/-- End whatever a digitiser does (R313): a record in progress ends early; in HOLDOFF and IDLE there is none. Where the gather goes
site-safe the input switch opens. -/
def State.endDig (s : State) (g d early : Nat) : State :=
  let x := s.dig g d
  match x.st with
  | .idle | .holdoff => s.setDig g d { x with st := .idle, opened := x.opened || early == cfSiteSafe }
  | _ => s.closeRecord g d early

def State.endDigs (s : State) (g early : Nat) : State := forAll (List.range 2) (fun s d => s.endDig g d early) s

/-! ## Arming and triggers -/

/-- The line of a capture line input (Table 12-4). -/
def capKey (g i : Nat) : Nat :=
  if i < 16 then lineG g i else if i < 24 then lineT (tileOf g) i else if i < 28 then lineD (i + 16) else lineC (i - 28)

/-- IDX and SLOPE of DIG_TRIG. -/
def digIdx (t : Word) : Nat := bits t.toNat 25 21
def digFalling (t : Word) : Bool := t.getLsbD 29

/-- What the trigger's own source has presented so far: assertions or, by SLOPE, deassertions of its line, or matches of its time-compare unit. -/
def State.capPresented (s : State) (g : Nat) (t : Word) : Nat :=
  match digKind t with
  | 1 => let l := s.line (capKey g (digIdx t)); if digFalling t then l.falls else l.events
  | 3 => (s.tcmp (digIdx t)).fires
  | _ => 0

/-- The counted pin terms of a pattern hold (R302): each pin's comparator state equals STATE[p]. -/
def Gather.pinTerms (G : Gather) (x : Dig) : Bool :=
  (List.range 16).all fun p => !x.pat1.getLsbD p || cmpCode (G.pin p).hi (G.pin p).lo == bits x.pat0.toNat (2 * p + 1) (2 * p)

/-- A digitiser's term of a pattern: its latest sample lies above, or below, its own LEVEL. -/
def Dig.term (x : Dig) (term : Nat) (v : Int) : Bool :=
  match term with | 1 => decide (digLevel x.trig < v) | 2 => decide (v < digLevel x.trig) | _ => true

/-- PATTERN is true when every counted term holds (R302). -/
def Gather.pattern (G : Gather) (x : Dig) (s0 s1 : Int) : Bool :=
  G.pinTerms x && (G.dig 0).term (bits x.pat1.toNat 17 16) s0 && (G.dig 1).term (bits x.pat1.toNat 19 18) s1

/-- The pattern as the latest samples known have it. -/
def Gather.patternNow (G : Gather) (x : Dig) : Bool :=
  let holds := fun (d term : Nat) => term == 0 || match (G.dig d).latest with | some v => (G.dig d).term term v | none => false
  G.pinTerms x && holds 0 (bits x.pat1.toNat 17 16) && holds 1 (bits x.pat1.toNat 19 18)

/-- The digitiser whose samples LEVEL looks at: its own, or by LSRC the gather's other one. -/
def Dig.levelOf (x : Dig) (d : Nat) : Nat := if x.trig.getLsbD 28 then 1 - d else d

/-- Has a sample returned past the other trip point of LEVEL (R171, R300)? -/
def Dig.returned (x : Dig) (c : Int) : Bool :=
  if digFalling x.trig then decide (2 * digLevel x.trig + digHyst x.trig < 2 * c) else decide (2 * c < 2 * digLevel x.trig - digHyst x.trig)

/-- A digitiser of number d after samples of number e of its gather: a pattern's term that one of them breaks is no longer true, and LEVEL is ready
again where one of them has returned. -/
def Gather.sampled (G : Gather) (d e : Nat) (cs : List Int) (x : Dig) : Dig :=
  let term := bits x.pat1.toNat (17 + 2 * e) (16 + 2 * e)
  { x with patHeld := x.patHeld && cs.all ((G.dig e).term term)
           lvlReady := x.lvlReady || (x.levelOf d == e && cs.any x.returned) }

/-- Base-rate samples of a digitiser: OVERRANGE is live (R295), and both triggers of the gather follow. -/
def State.samplesTaken (s : State) (g e : Nat) (cs : List Int) : State :=
  match cs.getLast? with
  | none => s
  | some c =>
    let s := s.setDig g e { s.dig g e with overs := overSample c, latest := some c }
    forAll [0, 1] (fun s d => s.setDig g d ((s.gather g).sampled d e cs (s.dig g d))) s

/-- A code of 14 bits. -/
def code14 (c : Int) : Int := signed 14 (c % 16384).toNat

/-- The TRIG_TIME of a trigger where its source, as DIG_TRIG selects it, does fire (Table 12-3, R301): LEVEL passes its trip point in the
direction of SLOPE after they have returned past the other one, the line asserts or deasserts, the pattern changes from false to true, the unit matches. -/
def State.fireTime (s : State) (g d : Nat) (fire : CapFire) (place : Nat) : Option Nat :=
  let G := s.gather g
  let x := G.dig d
  let v := digLevel x.trig
  let h : Int := digHyst x.trig
  let came := decide (((x.arm.map (·.mark)).getD 0) < s.capPresented g x.trig)
  match fire, digKind x.trig with
  | .level a b c, 0 =>
    let (a, b, c) := (code14 a, code14 b, code14 c)
    if !(x.lvlReady || x.returned a) then none
    else if digFalling x.trig then
      if b ≤ v ∧ v ≤ a ∧ b < a ∧ 2 * c < 2 * v - h then some (interpolate place (-a) (-b) (-v)).toNat else none
    else if a ≤ v ∧ v ≤ b ∧ a < b ∧ 2 * v + h < 2 * c then some (interpolate place a b v).toNat else none
  | .line, 1 =>
    if came then some place else none
  | .pattern s0 s1, 2 => if G.pattern x (code14 s0) (code14 s1) && !x.patHeld then some place else none
  | .time, 3 => if came then some (256 * place) else none
  | _, _ => none

/-- A pattern whose pin terms no longer hold has become false. -/
def State.patternsDrop (s : State) (g : Nat) : State :=
  let G := s.gather g
  if G.digs.any fun d => d.2.patHeld && !G.pinTerms d.2 then
    s.modG g fun G => { G with digs := G.digs.map fun d => (d.1, { d.2 with patHeld := d.2.patHeld && G.pinTerms d.2 }) }
  else s

/-- A fresh pre-trigger ring at the configured rate (R303, R304); TRIG_TIME counts from this edge. -/
def Dig.rearm (x : Dig) : Dig :=
  { x with st := .armed, arm := x.arm.map fun a =>
      { a with items := [], next := 0, rate := x.rate, since := 0, steps := 0, seen := none, trig := none, held := 0 } }

/-- Arm a digitiser: what its trigger's source has presented before is no trigger, nor a pattern or a level that stands already. -/
def State.armDig (s : State) (g d : Nat) : State :=
  let x := (s.dig g d).rearm
  let G := s.gather g
  let mark := s.capPresented g x.trig
  let ready := match (G.dig (x.levelOf d)).latest with | some c => x.returned c | none => true
  s.setDig g d { x with patHeld := digKind x.trig == 2 && G.patternNow x, lvlReady := ready
                        arm := x.arm.map fun a => { a with mark := mark, held := G.digFlags x (s.tilePatched g) } }

/-- Digitisers now armed or recording, with their armings, by local index. -/
def State.armings (s : State) : List (Nat × CapArm) :=
  s.gathers.flatMap fun g => g.2.digs.filterMap fun d =>
    if d.2.st == .idle then none else d.2.arm.map fun a => (2 * g.1 + d.1, a)

/-- A trigger is registered on an armed digitiser (R304, R305): alone it is the trigger point; in a cane it opens the arbitration window
or competes in it, where SCOPE lets it fire. In HOLDOFF and CAPTURING it counts in TRIG_LOST. -/
def State.registerTrigger (s : State) (g d kind time : Nat) : State :=
  let x := s.dig g d
  match x.arm, x.st with
  | some a, .armed =>
    let t : CapTrig := { time := time, kind := kind, by_ := a.pos, net := s.netNs }
    if a.cane.isNone then s.setDig g d { x with st := .capturing, arm := some { a with trig := some t } }
    else if a.master && a.pos != 0 then s
    else
      let seen := match a.seen with | some u => if u.time ≤ time then u else t | none => t
      s.setDig g d { x with arm := some { a with seen := some seen } }
  | some a, .capturing => s.setDig g d { x with arm := some { a with lost := sat32 a.lost } }
  | some a, .holdoff => s.setDig g d { x with arm := some { a with lost := sat32 a.lost } }
  | _, _ => s

/-- The competitor with the earliest TRIG_TIME, at equal times the lowest member position. -/
def earliest (ts : List CapTrig) : Option CapTrig :=
  ts.foldl (fun b t => match b with
    | none => some t
    | some u => if t.time < u.time || (t.time == u.time && t.by_ < u.by_) then some t else some u) none

/-! ## DRAM regions and bandwidth (R102, R316, R458) -/

/-- The DRAM range of the twin's shadow (R458). -/
def shadowBase : Nat := 0x1EC000000
def shadowEnd : Nat := 0x1F0000000

/-- A region that exists and does not overlap the shadow. -/
def dramRegionOk (base size : Nat) : Bool := decide (base + size ≤ dramBytes) && (decide (base + size ≤ shadowBase) || decide (shadowEnd ≤ base))

/-- The armings by one member each: the first of each group that is not IDLE. -/
def State.armedGroups (s : State) : List CapArm :=
  s.armings.foldl (fun l a => if l.any fun b => b.group == a.2.group then l else l ++ [a.2]) []

/-- Reserved bandwidth in MB/s: streams, capture and export (R102, R303, R441). -/
def State.bandwidth (s : State) : Nat :=
  (s.ctxs.filter (·.2.isOpen)).foldl (fun a c => a + c.2.reserve) 0 + (s.armedGroups.map (·.reserve)).sum
    + (if s.exporter.isOpen then s.exporter.reserve else 0)

/-- 61.47 GB/s. -/
def bandwidthCap : Nat := 61470

/-- Do two ranges overlap? -/
def overlap (a n b m : Nat) : Bool := decide (a < b + m ∧ b < a + n)

end Sys2Proof.Machine
end

