-- ==== Sys2Proof/Machine/Entry.lean ====
section
/-!
DEFINITION. Stroke entries (Table 3-1), the checks at load (Table 3-3) and at start (R75), the resolution of successors with its
cost (R67–R70, Table 5-3), and the microcode of a patched tile (R129–R134).
-/
namespace Sys2Proof.Machine

/-! ## The entry -/

/-- The fields of a stroke entry. -/
structure Ent where
  op : Nat
  addr : Nat
  len : Nat
  rep : Nat
  tset : Nat
  next : Nat
  cond : Nat
  target : Nat
  commit : Bool
  etch : Bool
  vfy : Bool
  stream : Bool
  stencil : Bool
  atomic : Bool
  calwin : Bool
  div : Nat
  und : Nat
  rsv : Nat
  deriving DecidableEq, Repr

/-- Table 3-1's bit places. An ETCH stroke always behaves as ATOMIC (R86), which `Ent.isAtomic` says. [See R54.] -/
def entOf (b : BitVec 128) : Ent :=
  let v := b.toNat
  { op := bits v 127 124, addr := bits v 123 97, len := bits v 96 79, rep := bits v 78 55, tset := bits v 54 50
    next := bits v 49 38, cond := bits v 37 34, target := bits v 33 22, commit := bit v 21, etch := bit v 20, vfy := bit v 19
    stream := bit v 18, stencil := bit v 17, atomic := bit v 16, calwin := bit v 15, div := bits v 14 13, und := bits v 12 11
    rsv := bits v 10 0 }

def opHalt : Nat := 0
def opRun : Nat := 1
def opLoopOpen : Nat := 2
def opLoopClose : Nat := 3
def opCall : Nat := 4
def opRet : Nat := 5
def opWait : Nat := 6
def opMatch : Nat := 7
def opRdv : Nat := 8

def Ent.isAtomic (e : Ent) : Bool := e.atomic || e.etch

/-- RUN, WAIT_EVENT, MATCH, RENDEZVOUS run vectors (Table 3-2). -/
def Ent.vectors (e : Ent) : Bool := e.op == opRun || e.op == opWait || e.op == opMatch || e.op == opRdv

/-- The stream context and granule offset of a streamed body (Table 3-1, ADDR). -/
def Ent.ctx (e : Ent) : Nat := bits e.addr 26 25
def Ent.offset (e : Ent) : Nat := bits e.addr 24 0

/-- Does the opcode use its TARGET (R75)? -/
def Ent.usesTarget (e : Ent) : Bool :=
  e.op == opLoopOpen || e.op == opLoopClose || e.op == opCall || e.op == opWait || e.op == opMatch ||
    (e.op == opRun && e.etch) || ((e.op == opRun || e.op == opRdv) && e.cond != 0)

/-- A non-zero reserved bit or unused field (last row of Table 3-3, Table 3-2's "Fields used"). TARGET of a RUN or RENDEZVOUS is
used whatever COND holds. [See R56.] -/
def Ent.badField (e : Ent) (bcast : Bool) : Bool :=
  let localAddr := !e.stream && bits e.addr 26 11 != 0
  let noVec := e.len != 0 || e.tset != 0 || e.stream || e.und != 0 || e.div != 0
  let lpAddr := bits e.addr 26 3 != 0
  e.rsv != 0 ||
  match e.op with
  | 0 => e.addr != 0 || noVec || bits e.rep 23 8 != 0 || e.next != 0 || e.cond != 0 || e.target != 0
  | 1 => localAddr
  | 2 => lpAddr || noVec || e.cond != 0
  | 3 => lpAddr || noVec || e.rep != 0 || e.cond != 0
  | 4 => e.addr != 0 || noVec || e.rep != 0 || e.cond != 0
  | 5 => e.addr != 0 || noVec || e.rep != 0 || e.next != 0 || e.cond != 0 || e.target != 0
  | 6 => localAddr || e.stencil || e.calwin || e.und != 0 || e.div != 0
  | 7 => localAddr || e.stencil || e.calwin || e.und != 0 || e.div != 0
  | _ => localAddr || (!bcast && e.rep != 0)

/-- The first row of Table 3-3 that applies to an entry; OK where none does (R58). -/
def Ent.loadStatus (e : Ent) (bcast : Bool) : Half :=
  if e.op ≥ 9 then stBadOpcode
  else if e.vectors && e.len < 8 then stBadLength
  else if !e.stream && e.addr + e.len > 2048 then stBadRange
  else if (e.op == opWait || e.op == opMatch) && e.rep == 0 then stNoTimeout
  else if ((e.op == opRun || e.op == opRdv) && e.cond ≥ 8) || (e.op == opMatch && e.cond != 0) ||
      (bcast && 1 ≤ e.cond && e.cond ≤ 3) then stBadCond
  else if e.etch && e.cond != 0 then stBadCond
  else if ((e.atomic || e.etch || e.vfy) && e.op != opRun) || (e.etch && e.vfy) then stBadFlags
  else if (e.commit || e.stencil || e.calwin) && !e.vectors then stBadFlags
  else if (!bcast && e.div != 0) || (e.div == 2 && e.etch) || e.div == 3 || e.und == 3 then stBadFlags
  else if bcast && e.vectors && !e.stream then stBadFlags
  else if (e.op == opWait || e.op == opMatch) && e.stream then stBadFlags
  else if e.badField bcast then stBadField
  else stOK

/-! ## The walk of R75 -/

/-- The strokes that the walk follows from one entry: NEXT and a used TARGET (the VERIFY link of an ETCH stroke is its TARGET).
HALT and RET end a path. -/
def Ent.walkNext (e : Ent) : List Nat :=
  if e.op == opHalt || e.op == opRet then []
  else e.next :: (if e.usesTarget then [e.target] else [])

/-- The indices reachable from a work list, each visited once; `fuel` bounds the visits. -/
def reach (follow : Nat → List Nat) : Nat → List Nat → List Nat → List Nat
  | 0, _, seen => seen
  | _, [], seen => seen
  | fuel + 1, i :: work, seen =>
    if seen.contains i then reach follow fuel work seen
    else reach follow fuel (follow i ++ work) (i :: seen)

/-- The paths that follow no LOOP_CLOSE's TARGET (R75, LOOP_PAIR). -/
def Ent.walkForward (e : Ent) : List Nat := if e.op == opLoopClose then [e.next] else e.walkNext

/-- The bound on the visits of a walk: every entry may be met from two others. -/
def walkFuel : Nat := 16384

/-! The return stack (R75, STACK_DEPTH). A routine is what a CALL or the start enters: the strokes that run at its own depth, where a CALL
goes on at its NEXT if the routine it calls returns. -/

/-- The strokes of the routine entered at i, with the routines known to return. -/
def routine (tbl : Nat → Ent) (returns : List Nat) (i : Nat) : List Nat :=
  reach (fun j =>
    let e := tbl j
    if e.op == opCall then (if returns.contains e.target then [e.next] else []) else e.walkNext) walkFuel [i] []

/-- The routines that some strokes call. -/
def callees (tbl : Nat → Ent) (is : List Nat) : List Nat :=
  (is.filterMap fun j => if (tbl j).op == opCall then some (tbl j).target else none).eraseDups

/-- The routines that return, found by going over them until no more are added: at most one pass for each. -/
def returning (tbl : Nat → Ent) (rs : List Nat) : Nat → List Nat → List Nat
  | 0, acc => acc
  | k + 1, acc =>
    let more := rs.filter fun r => !acc.contains r && (routine tbl acc r).any fun j => (tbl j).op == opRet
    if more.isEmpty then acc else returning tbl rs k (acc ++ more)

/-- No routine is entered from `rs` at a depth beyond those left: a CALL cycle passes any depth. -/
def depthOk (tbl : Nat → Ent) (returns : List Nat) : Nat → List Nat → Bool
  | left, rs =>
    let next := (rs.flatMap fun r => callees tbl (routine tbl returns r)).eraseDups
    match left with
    | 0 => next.isEmpty
    | k + 1 => depthOk tbl returns k next

/-- Is the return-stack use legal from a start among some reachable strokes: no depth above 8, no RET at depth 0, no CALL cycle? -/
def stackOk (tbl : Nat → Ent) (all : List Nat) (root : Nat) : Bool :=
  let rs := callees tbl all
  let returns := returning tbl rs rs.length []
  !((routine tbl returns root).any fun j => (tbl j).op == opRet) && depthOk tbl returns 8 [root]

/-- The statuses of R75 for a start at `root`, in order. [DESIGN CHOICE, unsafe: log 141.] -/
def walkStatus (tbl : Nat → Ent) (tsetLoaded : Nat → Bool) (root : Nat) : Half :=
  let all := reach (fun j => (tbl j).walkNext) walkFuel [root] []
  let fwd := reach (fun j => (tbl j).walkForward) walkFuel [root] []
  if all.any (fun i =>
      let e := tbl i
      let t := tbl e.target
      (e.op == opLoopOpen && !(t.op == opLoopClose && bits t.addr 2 0 == bits e.addr 2 0)) ||
      (e.op == opLoopClose && !fwd.contains e.target)) then stLoopPair
  else if !stackOk tbl all root then stStackDepth
  else if all.any (fun i => (tbl i).etch && !((tbl (tbl i).target).vfy)) then stVerifyLink
  else if all.any (fun i => (tbl i).vectors && !tsetLoaded (tbl i).tset) then stTsetEmpty
  else stOK

/-! ## Resolution (R67–R70) -/

/-- Where resolution stands. `flags` are the status flags set (R131). -/
structure Res where
  loops : Tab Nat
  stack : List Nat
  w : Nat
  cost : Nat := 0
  ckpts : Nat := 0
  rdvNone : Nat := 0
  setf : List Nat := []
  posts : List (Nat × Nat) := []
  flags : List Nat := []

def Res.done (r : Res) (i : Nat) (out : ResOut) (cost : Nat) : Resolved :=
  { idx := i, out := out, cost := r.cost + cost, loops := r.loops, stack := r.stack, w := r.w, ckpts := r.ckpts
    rdvNone := r.rdvNone, setf := r.setf, posts := r.posts }

/-- Where the resolution of one stroke leads: to the next stroke, or to its end. -/
inductive Hop where
  | to (i : Nat) (r : Res)
  | ends (x : Resolved)

/-- One stroke by its unpatched routine, at the cost of Table 5-3. `inCane`: a local RENDEZVOUS runs vectors only in a gather that is in
a loaded broadcast cane (R68, R73). -/
def hopRom (tbl : Nat → Ent) (bcast inCane : Bool) (i : Nat) (r : Res) : Hop :=
  let e := tbl i
  let c := bits e.addr 2 0
  match e.op with
  | 0 => .ends (r.done i (.halt (bits e.rep 7 0)) 2)
  | 1 => if e.rep != 0 then .ends (r.done i .vec 6) else .to e.next { r with cost := r.cost + 3, ckpts := r.ckpts + b2n e.commit }
  | 2 => if e.rep == 0 then .to (tbl e.target).next { r with cost := r.cost + 3 }
         else .to e.next { r with cost := r.cost + 3, loops := Tab.put r.loops c e.rep }
  | 3 => if Tab.get 0 r.loops c > 1 then
           .to e.target { r with cost := r.cost + 4, loops := Tab.put r.loops c (Tab.get 0 r.loops c - 1) }
         else .to e.next { r with cost := r.cost + 4, loops := Tab.put r.loops c 0 }
  | 4 => if r.stack.length ≥ 8 then .ends (r.done i (.ucode fUcodeStack) 4) else .to e.target { r with cost := r.cost + 4, stack := e.next :: r.stack }
  | 5 => match r.stack with
         | [] => .ends (r.done i (.ucode fUcodeStack) 3)
         | j :: st => .to j { r with cost := r.cost + 3, stack := st }
  | 6 => .ends (r.done i .vec 7)
  | 7 => .ends (r.done i .vec 8)
  | _ => if bcast || inCane then .ends (r.done i .vec 8) else .to e.next { r with cost := r.cost + 9, rdvNone := r.rdvNone + 1 }

/-- The microword a sequencer executes at an address, and the address after it (R128, R133). [See R140.] [DESIGN CHOICE, safe: log 35.] -/
def microFetch (p : Patch) (pc : Nat) : Nat × Nat :=
  if pc < 0xC00 then
    match p.regs.find? (fun m => m.getLsbD 31 && bits m.toNat 11 0 == pc) with
    | some m => let a := bits m.toNat 21 16; ((p.words.getD a 0).toNat, 0xC00 + a + 1)
    | none => ((Config.romWord pc).toNat, pc + 1)
  else ((p.words.getD (pc - 0xC00) 0).toNat, pc + 1)

/-- One stroke by its patched routine, microword by microword (Tables 5-1, 5-2, R134); `n` counts the words executed in it. DISP and END hand
the stroke index in W to the next routine; of SEL the low three bits name a loop counter. [DESIGN CHOICE, safe: log 35; DESIGN CHOICE, unsafe: log 139.] -/
def hopMicro (p : Patch) (raw : Nat → BitVec 128) (i : Nat) : Nat → Nat → Res → Hop
  | 0, pc, r => .ends (r.done i (.ucode (if pc ≥ 0xC40 then fUcodeAddr else fUcodeRunaway)) 0)
  | n + 1, pc, r =>
    if pc ≥ 0xC40 then .ends (r.done i (.ucode fUcodeAddr) 0)
    else
      let (word, pc') := microFetch p pc
      let sel := bits word 18 14
      let arg := bits word 11 0
      let r := { r with cost := r.cost + 1 }
      let go := fun (r : Res) => hopMicro p raw i n pc' r
      match bits word 23 19 with
      | 0x01 => go { r with w := (Config.ldField sel (raw i)).toNat }
      | 0x02 => go { r with w := Tab.get 0 r.loops (sel % 8) }
      | 0x03 => go { r with loops := Tab.put r.loops (sel % 8) r.w }
      | 0x04 => go { r with w := r.w - 1 }
      | 0x05 => if r.stack.length ≥ 8 then .ends (r.done i (.ucode fUcodeStack) 0) else go { r with stack := r.w % 4096 :: r.stack }
      | 0x06 => match r.stack with
        | [] => .ends (r.done i (.ucode fUcodeStack) 0)
        | j :: st => go { r with w := j, stack := st }
      | 0x07 =>
        let holds := match bits word 13 12 with
          | 0 => true
          | 1 => r.w == 0
          | 2 => r.w != 0
          | _ => r.flags.contains (Config.flagNumber sel)
        if holds then hopMicro p raw i n arg r else go r
      | 0x08 => .to (r.w % 4096) r
      | 0x09 => go { r with setf := r.setf ++ [Config.flagNumber sel], flags := Config.flagNumber sel :: r.flags }
      | 0x0A => go (if arg == 1 then { r with ckpts := r.ckpts + 1 } else { r with posts := r.posts ++ [(arg, i)] })
      | 0x0B => .ends (r.done i .vec 0)
      | 0x0C => .ends (r.done i (.halt (r.w % 256)) 0)
      | 0x0D => .to (r.w % 4096) r
      | _ => go r

/-- Does an enabled match register of a tile stand on a word of an opcode's routine? One that does not leaves the routine as Table 5-3 and
chapter 3 give it (R132, R140). -/
def Patch.touches (p : Patch) (op : Nat) : Bool := p.regs.any fun m => m.getLsbD 31 && Config.romRoutine (bits m.toNat 11 0) == op

/-- Follow the strokes from an index to one that runs vectors, to a HALT or a fault; the count comes down to the 16th zero-duration
stroke, which the hardware counts whatever a patch does (R68, R140). -/
def resolveFrom (hop : Nat → Res → Hop) : Nat → Nat → Res → Resolved
  | 0, i, r => r.done i .spin 0
  | k + 1, i, r =>
    match hop i r with
    | .to j r => resolveFrom hop k j r
    | .ends x => x

/-- The resolution of a broadcast program: the ROM's, never a patch (R130). -/
def resolveRom (tbl : Nat → Ent) (i : Nat) (r : Res) : Resolved := resolveFrom (hopRom tbl true false) 16 i r

/-- The resolution of a gather's own table: routine by routine, those a patch touches word by word. -/
def resolveLocal (p : Patch) (raw : Nat → BitVec 128) (inCane : Bool) (i : Nat) (r : Res) : Resolved :=
  resolveFrom (fun i r =>
    let op := bits (raw i).toNat 127 124
    if p.touches op then hopMicro p raw i 64 (Config.romEntry op) r else hopRom (fun j => entOf (raw j)) false inCane i r) 16 i r

end Sys2Proof.Machine
end

