-- ==== Sys2Proof/Machine/Play.lean ====
section
/-!
DEFINITION. One granule at the pins of a gather: where its bytes come from (R57, R99, R101), the stencil fill (R116, R117), the edges and
strobes that each symbol places (R78–R80, R145, R146), and the edges dropped at a phase reset (R82).
-/
namespace Sys2Proof.Machine

/-! ## Bytes of a granule -/

def zeroGranule : List Byte := List.replicate 256 0#8

/-- Where a pinned body keeps a stroke's copy. -/
def Play.pinnedAt (y : Play) (bcast : Bool) (idx : Nat) : Option (List Nat) :=
  y.pinned.findSome? fun b => if b.bcast == bcast then (b.strokes.find? fun e => e.1 == idx).map (·.2) else none

/-- The granule k (within the body) of a stroke for a gather. [DESIGN CHOICE, unsafe: log 142.] -/
def State.granuleBytes (s : State) (g idx : Nat) (bcast : Bool) (e : Ent) (k : Nat) : List Byte :=
  let y := (s.gather g).play
  if !e.stream then Tab.get zeroGranule y.vmem (e.addr + k)
  else match y.pinnedAt bcast idx with
    | some a => Tab.get zeroGranule y.vmem (a.getD k 0)
    | none =>
      let c := s.ctx e.ctx
      let m := if c.mode == 1 then c.members.findIdx (· == g) else 0
      Mem.readAll s.dram (c.base + (m * c.stride + e.offset + k) * 256) 256

/-- The symbol of pin p in vector v of a granule (R93). [See R94.] -/
def symbolAt (gr : List Byte) (v p : Nat) : Nat := (byteAt gr (8 * v + p / 2)).toNat / 16 ^ (p % 2) % 16

/-! ## Stencils (R114–R117) -/

/-- The fields of a stencil entry (Table 4-4). -/
def stWidth (e : BitVec 288) : Nat := bits e.toNat 283 275
def stForm (e : BitVec 288) : Nat := bits e.toNat 274 273
def stPin (e : BitVec 288) : Nat := bits e.toNat 272 269
def stBcast (e : BitVec 288) : Bool := bit e.toNat 268
def stStroke (e : BitVec 288) : Nat := bits e.toNat 267 256

/-- The bit string of a pin for a stroke: (FORM, bit) of each matching entry in ascending index, bit 0 first (R116). -/
def stencilString (t : Tab (BitVec 288)) (bcast : Bool) (stroke p : Nat) : List (Nat × Bool) :=
  ((t.filter fun e => stWidth e.2 != 0 && stBcast e.2 == bcast && stStroke e.2 == stroke && stPin e.2 == p).map fun e =>
    (List.range (stWidth e.2)).map fun k => (stForm e.2, e.2.getLsbD k)).flatten

/-- The symbol a stencil bit gives under its FORM: DRIVE, EXPECT, DRIVE_INV. -/
def stencilSymbol (form : Nat) (b : Bool) : Nat :=
  match form with
  | 0 => if b then 1 else 0
  | 1 => if b then 3 else 2
  | _ => if b then 0 else 1

/-! ## A pin through one vector -/

/-- What keeps a pin from its vectors: `asX` for every symbol (parked, out of rate class), `noDrive` for the drive symbols (driver unpowered,
overcurrent, claimed), `noMark` for E (claimed, tripped); and until when the Marver's open switch does so for every symbol (R144, R158, R159, R163,
R215, R276, R347). -/
structure PinGate where
  asX : Bool
  noDrive : Bool
  noMark : Bool
  iso : Bool
  isoEnd : Option Nat

/-- A vector of a stroke on a pin: its pin and timing, the vector's number in the stroke, its start (R80), and the stroke's execution with
whether it is a MATCH. -/
structure VecAt where
  pin : Nat
  pt : PinTiming
  vec : Nat
  t0 : Nat
  tag : Nat
  silent : Bool

/-- An edge's place: the vector's start plus its value, to the nearest unit (R80). -/
def VecAt.place (c : VecAt) (off : Nat) : Nat := roundUnit (c.t0 + off * 65536)

/-- A pin's course through a granule: what its vectors have placed so far, and what they leave for the next. `stray`: a released trip has left
the driver on where the vectors want it off. `clash`: a vector has driven or compared while the pin was isolated (R347). -/
structure PinRun where
  vDrive : Bool
  vLast : Bool
  vDriven : Bool
  stray : Bool
  sPos : Nat
  edges : List PinEdge := []
  strobes : List Strobe := []
  rsv : Nat := 0
  short : Nat := 0
  unfilled : Nat := 0
  clash : Bool := false

/-- Is the pin isolated as a vector starts? -/
def PinGate.isolated (x : PinGate) (c : VecAt) : Bool := x.iso && match x.isoEnd with | some t => decide (c.t0 < t) | none => true

def PinRun.edge (x : PinRun) (c : VecAt) (off : Nat) (act : EdgeAct) : PinRun :=
  { x with edges := x.edges ++ [{ t := c.place off, born := roundUnit c.t0, act := act }] }

/-- A vector without drive (R79): after one that drives, or a trip released in between (R161), the driver goes off at D_OFF. -/
def PinRun.release (x : PinRun) (c : VecAt) : PinRun :=
  if x.vDrive || x.stray then { x.edge c c.pt.dOff .off with vDrive := false, stray := false } else x

/-- A drive symbol with data d (Table 3-7): after a vector without drive the driver comes on at D_ON, where SBC drives the complement after a T too. [See R143.] -/
def PinRun.driveTo (x : PinRun) (c : VecAt) (d : Bool) : PinRun :=
  let y := if c.pt.fmt == 3 then x.edge c c.pt.dOn (.level !d) else x
  let y := if x.vDrive && c.pt.fmt != 3 then y else y.edge c c.pt.dOn .on
  let y := y.edge c c.pt.dData (.data d)
  let y := match c.pt.fmt with
    | 0 => y
    | 1 => y.edge c c.pt.dRet (.level false)
    | 2 => y.edge c c.pt.dRet (.level true)
    | _ => y.edge c c.pt.dRet (.level !d)
  { y with vDrive := true, vLast := d, vDriven := true }

/-- A strobe that closes at an edge value. -/
def PinRun.strobe (x : PinRun) (c : VecAt) (off : Nat) (kind : StrobeKind) : PinRun :=
  let shut := c.place off
  { x with strobes := x.strobes ++ [{ reg := regEdge shut, shut := shut, tag := c.tag, vec := c.vec, pin := c.pin, kind := kind, silent := c.silent }] }

/-- A compare symbol with the states seen in its window, which closes at S_CLOSE. `filled` is the expected bit where a stencil filled it (R477). -/
def PinRun.compare (x : PinRun) (c : VecAt) (sym : Nat) (states : List Nat) (filled : Option Bool) : PinRun :=
  (x.release c).strobe c c.pt.sClose (.compare (states.all (strobePass sym)) filled)

/-- One vector's symbol on a pin (Tables 3-8, 4-1); S has been filled and reserved codes replaced. T terminates from D_DATA; the next drive
symbol takes the driver over at its own edges. [DEDUCED, unsafe: log 26.] -/
def PinRun.symbol (x : PinRun) (c : VecAt) (gate : PinGate) (sym : Nat) (states : List Nat) (filled : Option Bool) : PinRun :=
  if gate.isolated c then { x.release c with clash := x.clash || sym != 0x4 }
  else if gate.asX then x.release c
  else match sym with
    | 0x0 => if gate.noDrive then x.release c else x.driveTo c false
    | 0x1 => if gate.noDrive then x.release c else x.driveTo c true
    | 0x4 => x.release c
    | 0x5 =>
      let y := x.compare c sym states filled
      if c.pt.dOff < c.pt.sClose then (y.edge c c.pt.dOff (.load true)).edge c c.pt.sClose (.load false) else y
    | 0x6 => if gate.noDrive then x.release c else x
    | 0x7 => (x.release c).strobe c c.pt.sOpen (.capture (states.getD 0 1))
    | 0x8 => if gate.noDrive then x.release c else x.driveTo c (if x.vDriven then !x.vLast else true)
    | 0x9 => if gate.noDrive then x.release c else { x.edge c c.pt.dData .vt with vDrive := true }
    | 0xC => if gate.noMark then x.release c else (x.release c).strobe c c.pt.sOpen .mark
    | _ => x.compare c sym states filled

/-- One vector on a pin: reserved codes act as X (R95), S is filled or acts as X (R96, R117). -/
def PinRun.vector (x : PinRun) (c : VecAt) (gate : PinGate) (stencil : Option (List (Nat × Bool))) (raw : Nat) (states : List Nat) : PinRun :=
  if raw ≥ 0xD then { x.release c with rsv := x.rsv + 1 }
  else if raw == 0xB then
    match stencil with
    | none => { x.release c with unfilled := x.unfilled + 1 }
    | some bs =>
      let k := x.sPos
      let x := { x with sPos := k + 1 }
      match bs[k]? with
      | none => { x.release c with short := x.short + 1 }
      | some (f, b) => x.symbol c gate (stencilSymbol f b) states (if f == 1 then some b else none)
  else x.symbol c gate raw states none

/-! ## A gather through one granule -/

/-- The class minimum PERIOD of R163, in units. -/
def rateMin (rate : Nat) : Nat := match rate with | 0 => 384 | 1 => 128 | _ => 64

/-- Is a pin out of its rate class at a PERIOD (R163)? A parked pin is in class 0 (R157). -/
def Pin.slow (x : Pin) (period : Nat) : Bool := rateMin (if x.parked then 0 else bits x.cfg.toNat 5 4) * 65536 > period

/-- The gate of a pin for a stroke with a PERIOD. -/
def Pin.gate (x : Pin) (period : Nat) (isoEnd : Option Nat) : PinGate :=
  { asX := x.parked || x.slow period, noDrive := x.oc || x.claimed || !x.cfg.getLsbD 2, noMark := x.claimed || x.tripped, iso := x.iso, isoEnd := isoEnd }

/-- The comparator states seen by the strobe of vector v on pin p: what the row brings, or the present state throughout. [DESIGN CHOICE, unsafe: log 102.] -/
def statesSeen (obs : List Obs) (g v p : Nat) (x : Pin) : List Nat :=
  match obs.find? (fun o => o.g.val == g && o.vec.val == v && o.p.val == p) with
  | some o => if o.states.isEmpty then [cmpCode x.hi x.lo] else o.states.map (·.toNat)
  | none => [cmpCode x.hi x.lo]

/-- The flags a pin puts on a stroke's result, with itself in the mask (R144, R155, R158, R161, R163, R215, R532). -/
def Pin.resultFlags (x : Pin) (period : Nat) : Nat :=
  b2n x.oc * rfPinOc + b2n x.cleared * rfLevelsCleared + b2n x.parked * rfPinParked + b2n x.tripped * rfTripped
    + b2n (x.slow period) * rfPinRate + b2n x.clamped * rfHeadroom + b2n x.claimed * rfAmpPin

/-- Put flags with a pin on the running stroke's result. -/
def StrokeRes.flag (c : StrokeRes) (fl p : Nat) : StrokeRes :=
  if fl == 0 then c else { c with flags := c.flags ||| fl, pinMask := c.pinMask ||| 2 ^ p }

/-- The flags of every pin of a gather on the running stroke's result. -/
def Gather.flagPins (G : Gather) : Gather :=
  { G with play := { G.play with cur := (List.range 16).foldl (fun c p => c.flag ((G.pin p).resultFlags G.play.period) p) G.play.cur } }

/-- The E windows that strobes open (R276): pin and opening unit. -/
def eWindows (xs : List Strobe) : List (Nat × Nat) :=
  xs.filterMap fun x => match x.kind with | .mark => some (x.pin, x.shut) | _ => none

/-- Forget the E windows that have closed at the start of a granule: each stays open for one PERIOD. -/
def Play.closeWindows (y : Play) (n : Nat) : Play :=
  { y with eWins := y.eWins.filter fun w => decide (y.startS + 32 * n * y.period < w.2 * 65536 + y.period) }

/-- Place what the 32 vectors of granule n put on one pin. A muted member's pin keeps what it does (R121). -/
def Gather.playPin (G : Gather) (gr : List Byte) (e : Ent) (idx : Nat) (bcast : Bool) (n : Nat) (obs : List Obs) (g : Nat) (muted : Bool)
    (p : Nat) : Gather :=
  let y := G.play
  let x := G.pin p
  let gate := x.gate y.period y.isoEnd
  let pt := (Tab.get {} y.tsets e.tset).pins.getD p {}
  let st := if e.stencil then some (stencilString y.stSnap bcast idx p) else none
  let stray := !x.tripped && x.want == .off && x.drive != .off
  let run0 : PinRun := { vDrive := x.vDrive, vLast := x.vLast, vDriven := x.vDriven, stray := stray, sPos := Tab.get 0 y.sPos p }
  let run := (List.range 32).foldl (fun (r : PinRun) v =>
    let c : VecAt := { pin := p, pt := pt, vec := 32 * n + v, t0 := y.startS + (32 * n + v) * y.period, tag := y.tag, silent := e.op == opMatch }
    r.vector c gate st (symbolAt gr v p) (statesSeen obs g v p x)) run0
  let c := (y.cur.flag (b2n (run.clash && e.calwin && !muted) * rfCalConflict) p)
  let c := { c with flags := c.flags ||| b2n (run.rsv != 0) * rfRsvSymbol ||| b2n (run.unfilled != 0) * rfStcUnfilled
                      ||| b2n (run.short != 0) * rfStcShort }
  let y := { y with
    cur := c
    sPos := if run.sPos == run0.sPos then y.sPos else Tab.put y.sPos p run.sPos
    strobes := if muted then y.strobes else y.strobes ++ run.strobes
    eWins := if muted then y.eWins else y.eWins ++ eWindows run.strobes
    rsvSym := satAdd 0xFFFF y.rsvSym run.rsv, stcShort := satAdd 0xFFFF y.stcShort run.short
    stcUnfilled := satAdd 0xFFFF y.stcUnfilled run.unfilled }
  let x' := if muted then x
    else { x with edges := x.edges ++ run.edges, vDrive := run.vDrive, vLast := run.vLast, vDriven := run.vDriven }
  let G := { G with play := y }
  if x' == x then G else G.setPin p x'

/-! ## Edges dropped at a phase reset (R82) -/

/-- Does an edge change the pin's level in its format, as R77 counts spacing? -/
def PinEdge.setsLevel (e : PinEdge) : Bool := match e.act with | .data _ => true | .level _ => true | _ => false

/-- The edges of the stroke before a phase reset that lie closer than 32 units to one of the stroke after it. -/
def Pin.crowded (x : Pin) : List PinEdge :=
  let new := x.edges.filter fun e => !e.old && e.setsLevel
  x.edges.filter fun e => e.old && e.setsLevel && new.any fun u => decide (e.t < u.t + 32 ∧ u.t < e.t + 32)

/-- Drop them, count them in EDGE_DROP and flag the running stroke's result. -/
def Gather.dropCrowded (G : Gather) : Gather :=
  let n := (List.range 16).foldl (fun a p => a + (G.pin p).crowded.length) 0
  if n == 0 then G
  else
    let G := G.mapPins fun _ x => let bad := x.crowded; { x with edges := x.edges.filter fun e => !bad.contains e }
    { G with seq := { G.seq with edgeDrop := satAdd 0xFFFF G.seq.edgeDrop n }
             play := { G.play with cur := { G.play.cur with flags := G.play.cur.flags ||| rfEdgeDrop } } }

/-- Place the 32 vectors of granule n on every pin of a gather. -/
def Gather.playGranule (G : Gather) (gr : List Byte) (e : Ent) (idx : Nat) (bcast : Bool) (n : Nat) (obs : List Obs) (g : Nat)
    (muted : Bool) : Gather :=
  ((List.range 16).foldl (fun (G : Gather) p => G.playPin gr e idx bcast n obs g muted p) { G with play := G.play.closeWindows n }).flagPins.dropCrowded

/-- Granule n of a MATCH body matches where no compare in it fails (R72): the match is registered with the last of its compares, in a
granule without compares at its end. [DEDUCED, unsafe: log 24.] -/
def Play.matchHit (y : Play) (n : Nat) : Play :=
  let xs := y.strobes.filter fun x => x.tag == y.tag && x.vec / 32 == n
  if xs.any fun x => match x.kind with | .compare ok _ => !ok | _ => false then y
  else
    let reg := xs.foldl (fun a x => match x.kind with | .compare .. => max a x.reg | _ => a) (boundaryEdge y.startS y.period n)
    let reg := if xs.any fun x => match x.kind with | .compare .. => true | _ => false then reg else boundaryEdge y.startS y.period (n + 1) - 1
    { y with hits := y.hits ++ [(y.tag, reg)] }

end Sys2Proof.Machine
end

