-- ==== Sys2Proof/Machine/Ring.lean ====
section
/-!
DEFINITION. The journal's operations: posting checkpoints (R85, R470, R471, R473), the marker ring (R474) and report records
(R478).
-/
namespace Sys2Proof.Machine

/-! ## Digests -/

def levelBytes (l : Levels) : List Byte := toLE 2 l.vih ++ toLE 2 l.vil ++ toLE 2 l.vt ++ toLE 2 l.voh ++ toLE 2 l.vol

/-- The gather's configuration as the configuration digest takes it; the layout is internal to the firmware (R473). [DESIGN CHOICE, safe: log 77.] -/
def Gather.configBytes (G : Gather) : List Byte :=
  (G.play.table.map fun e => toLE 2 e.1 ++ toLE 16 e.2.toNat).flatten
    ++ (G.play.stencils.map fun e => toLE 2 e.1 ++ toLE 36 e.2.toNat).flatten
    ++ (G.play.tsets.map fun e => toLE 1 e.1 ++ toLE 8 e.2.period).flatten
    ++ (G.pins.map fun e => toLE 1 e.1 ++ toLE 4 e.2.cfg.toNat ++ levelBytes e.2.lvl ++ levelBytes e.2.clr).flatten
    ++ (G.smus.map fun e => toLE 1 e.1 ++ toLE 4 e.2.cfg.toNat ++ toLE 4 e.2.set.v ++ toLEi 4 e.2.set.i).flatten
    ++ toLE 2 G.play.haltHold ++ toLE 4 G.play.haltState.toNat

/-- The configuration digest (Table 18-5): opaque (R473). [DESIGN CHOICE, safe: log 77.] -/
def Gather.cfgDigest (G : Gather) : DWord := BitVec.ofNat 64 (leNat (Config.digest 1 G.configBytes) 0 8)

/-- A stroke result record as the RESULT digest takes it (R473). -/
def StrokeRes.bytes (r : StrokeRes) : List Byte :=
  toLE 2 (r.idx + 4096 * b2n r.bcast) ++ toLE 4 r.fails ++ toLE 4 r.flags ++
    (r.captured.map fun c => toLE 4 c.1 ++ toLE 1 c.2.1 ++ toLE 1 c.2.2).flatten

/-- RESULT over the results formed since the previous checkpoint (R473): opaque. [DESIGN CHOICE, safe: log 77.] -/
def resultDigest (prev : List Byte) (rs : List StrokeRes) : List Byte := (Config.digest 2 (prev ++ (rs.map (·.bytes)).flatten)).take 32

/-! ## Checkpoints -/

/-- The flags of a site since its start: not-at-speed, LATE_JUMP, LATE_DIVERGE (Table 18-5). -/
def Gather.siteFlags (G : Gather) : Nat :=
  b2n G.seq.slow + 2 * b2n (G.seq.lateJump != 0) + 4 * b2n (G.play.lateDiverge != 0)

/-- The checkpoint of a gather with a successor (R471). At its boundary a pending jump is a late one (R64). A following member carries its program's counters and stack. -/
def State.ckptOf (s : State) (g succ : Nat) (bcast : Bool) (run cseq : Nat) (result : List Byte) : Ckpt :=
  let G := s.gather g
  let bc := G.play.bc
  let following : Bool := match bc with | some b => b.mode == BcMode.following | none => false
  let q := match bc with | some b => if b.mode == BcMode.following then (s.prog b.prog).seq else G.seq | none => G.seq
  let lateJump := q.pend.isSome
  let lateLeave := match bc with | some b => b.lateLeave.isSome | none => false
  { site := s.siteOf g, succ := succ, bcast := bcast, run := run, cseq := cseq
    prog := match bc with | some b => if b.mode == .left then 0xFF else b.prog | none => 0xFF
    mode := match bc with | some b => (if b.mode == .left then 2 else if following then 0 else 1) | none => 2
    leftAt := match bc with | some b => if b.mode == .diverged then b.leftAt else 0xFFFF | none => 0xFFFF
    loops := (List.range 8).map fun c => Tab.get 0 q.loops c
    stack := q.stack
    pend := b2n lateJump + 2 * b2n lateLeave
    pendTarget := match q.pend with | some p => p.target | none => ((bc.bind (·.lateLeave)).map (·.1)).getD 0
    tileDigest := (s.patch (tileOf g)).digest
    cfgDigest := G.cfgDigest
    result := result
    time := s.netNs
    fails := G.seq.fails
    flags := G.siteFlags }

/-- Are the gather's four checkpoint entries occupied (R20)? -/
def State.ckptFull (s : State) (g : Nat) : Bool := (s.gSite g).queue.length ≥ 4

/-- Post the next checkpoint of a gather's RUN. -/
def State.postCkpt (s : State) (g succ : Nat) (bcast : Bool) : State :=
  let x := s.gSite g
  let r := resultDigest x.result (s.gather g).play.results
  let c := s.ckptOf g succ bcast x.run (x.cseq + 1) r
  let s := s.setSite (s.siteOf g) { x with cseq := x.cseq + 1, queue := x.queue ++ [c], result := r }
  s.modPlay g fun y => { y with results := [] }

/-- The start checkpoint (R470): CSEQ 0 under a new RUN, RESULT zero. It is written with the start's acceptance, behind no
running stroke, and takes an entry like any other. [DESIGN CHOICE, unsafe: log 29.] -/
def State.postStart (s : State) (g succ : Nat) (bcast : Bool) : State :=
  let x := s.gSite g
  let r := List.replicate 32 0#8
  let c := s.ckptOf g succ bcast (x.run + 1) 0 r
  s.setSite (s.siteOf g) { x with run := x.run + 1, cseq := 0, queue := x.queue ++ [c], result := r }

/-- The journal writer takes one entry of a gather into its site's ring of 256 (R20, R470). -/
def SiteJrn.take (x : SiteJrn) : SiteJrn :=
  match x.queue with
  | [] => x
  | c :: q =>
    let ring := x.ring ++ [c]
    { x with queue := q, ring := if ring.length > 256 then ring.drop 1 else ring }

/-- A checkpoint as Table 18-5 lays it out. -/
def Ckpt.bytes (c : Ckpt) : List Byte :=
  let stack := (List.range 8).foldl (fun a i => a + c.stack.getD i 0 % 4096 * 4096 ^ i) 0
  let b := toLE 2 c.site ++ toLE 2 (c.succ + 4096 * b2n c.bcast) ++ toLE 4 c.run ++ toLE 4 c.cseq ++ toLE 1 c.prog ++ toLE 1 c.mode
    ++ toLE 2 c.leftAt ++ ((List.range 8).map fun i => toLE 3 (c.loops.getD i 0)).flatten ++ toLE 12 stack ++ toLE 1 c.stack.length
    ++ toLE 1 c.pend ++ toLE 2 c.pendTarget ++ toLE 8 c.tileDigest.toNat ++ toLE 8 c.cfgDigest.toNat
    ++ ((List.range 32).map fun i => byteAt c.result i) ++ toLE 8 c.time ++ toLE 4 c.fails ++ toLE 4 c.flags ++ toLE 4 0
  b ++ toLE 4 (crc32c b).toNat

/-- A marker as Table 18-6 lays it out; its CRC covers the other 14 bytes in order, most significant bit of each first. -/
def Marker.bytes (m : Marker) : List Byte :=
  let a := toLE 1 m.kind ++ toLE 1 m.outcome ++ toLE 2 m.site ++ toLE 2 m.stroke
  let b := toLE 4 m.run ++ toLE 4 m.cseq
  a ++ toLE 2 (crc16 112 (beNat (a ++ b))).toNat ++ b

/-! ## Etch markers (R474) -/

def markerRing : Nat := 4096

/-- A record that may be written: never written, or released. [DEDUCED, unsafe: log 81.] -/
def Journal.markerFree (j : Journal) (i : Nat) : Bool := match j.markers.find? (·.1 == i) with | some (_, m) => m.released | none => true

/-- The first released record after the one last written, looking round the ring. -/
def Journal.nextFree (j : Journal) : Nat → Nat → Nat
  | 0, i => i % markerRing
  | k + 1, i => if j.markerFree (i % markerRing) then i % markerRing else j.nextFree k (i + 1)

/-- Write a marker into the ring. [DEDUCED, unsafe: log 98.] -/
def State.writeMarker (s : State) (m : Marker) : State :=
  let j := s.journal
  let i := j.nextFree markerRing j.nextMarker
  let s := s.setJournal { j with markers := Tab.put j.markers i m, nextMarker := (i + 1) % markerRing }
  if s.twin.st == 2 then s.mirrorSend (.marker m.bytes) else s

/-- A site's marker of a kind for a stroke (bit 12 the broadcast table), with RUN and the newest CSEQ. -/
def State.markerOf (s : State) (g kind outcome idx : Nat) (bcast : Bool) : Marker :=
  let x := s.gSite g
  { kind := kind, outcome := outcome, site := s.siteOf g, stroke := idx + 4096 * b2n bcast, run := x.run, cseq := x.cseq }

/-- A site's unreleased records. -/
def State.unreleased (s : State) (site : Nat) : Nat := (s.journal.markers.filter fun m => m.2.site == site && !m.2.released).length

/-- Release the site's records that a checkpoint with this RUN and CSEQ, now mirrored or local, is later than (R474). -/
def State.releaseMarkers (s : State) (site run cseq : Nat) : State :=
  s.setJournal { s.journal with markers := s.journal.markers.map fun m =>
    if m.2.site == site && (m.2.run < run || (m.2.run == run && m.2.cseq < cseq)) then (m.1, { m.2 with released := true }) else m }

/-! ## The journal writer (R20, R458, R474) -/

/-- The journal writer takes a gather's oldest waiting checkpoint: in PAIRED it is mirrored over the link, otherwise it counts as
local at once and releases the site's older markers. -/
def State.takeCkpt (s : State) (g : Nat) : State :=
  let x := s.gSite g
  match x.queue with
  | [] => s
  | c :: _ =>
    let s := s.setSite (s.siteOf g) x.take
    if s.twin.st == 2 then s.mirrorSend (.checkpoint c.bytes) else s.releaseMarkers (s.siteOf g) c.run c.cseq

end Sys2Proof.Machine
end

