-- ==== Sys2Proof/Machine/Chans.lean ====
section
/-!
DEFINITION. The Ampoule's channels and emulators as the rest of the die meets them: their accessors, the answer flags of Table 9-10,
and the flags that conversions in progress take.
-/
namespace Sys2Proof.Machine

def State.setAmp (s : State) (a : Amp) : State := { s with amp := a }
def State.ampG (s : State) (g : Nat) : AmpG := Tab.get {} s.amp.gathers g
def State.setAmpG (s : State) (g : Nat) (x : AmpG) : State := s.setAmp { s.amp with gathers := Tab.put s.amp.gathers g x }
def AmpG.chan (x : AmpG) (c : Nat) : Chan := Tab.get {} x.chans c
def State.chan (s : State) (g c : Nat) : Chan := (s.ampG g).chan c
def State.setChan (s : State) (g c : Nat) (x : Chan) : State := s.setAmpG g { s.ampG g with chans := Tab.put (s.ampG g).chans c x }
def State.bridge (s : State) (g : Nat) : Bridge := (s.ampG g).bridge
def State.setBridge (s : State) (g : Nat) (b : Bridge) : State := s.setAmpG g { s.ampG g with bridge := b }

/-! ## Answer flags (Table 9-10) -/

def afOver : Nat := 1
def afDisturbed : Nat := 2
def afSpan : Nat := 4
def afClip : Nat := 8
def afExc : Nat := 16
def afTrack : Nat := 32
def afCleared : Nat := 64
def afCmp : Nat := 128
def afPll : Nat := 256
def afSafe : Nat := 512
def afTurn : Nat := 1024
def afPfail : Nat := 2048

/-- The flags of AMP_BRIDGE_STATUS, in the places of Table 9-10. -/
def Bridge.flags (b : Bridge) : Nat :=
  b2n b.clip * afClip + b2n b.excRange * afExc + b2n b.trackLost * afTrack + b2n b.cleared * afCleared

/-- Pins 14 and 15 by the source code that names them (Table 9-2). -/
def claimPins : Nat → List Nat
  | 1 => [14]
  | 2 => [15]
  | 3 => [14, 15]
  | _ => []

/-- The unit a source claims. -/
def claimUnit (src : Nat) : Option Nat := if 4 ≤ src ∧ src ≤ 11 then some (src % 4) else none

/-- What holds at this moment for a conversion of a channel: its emulator's flags, a span change, a fast comparator on its pads (R220,
R230–R234). -/
def State.flagsNow (s : State) (g c : Nat) : Nat :=
  let b := s.bridge g
  let pads := claimPins (s.chan g c).source
  b.flags ||| b2n b.span.isSome * afSpan ||| b2n (pads.any fun p => (s.pin g p).cmpNow % 4 < 2) * afCmp

/-- Put flags on the conversions in progress on a channel. The period on the internal zero is no conversion of the request (R224). -/
def State.flagRun (s : State) (g c flags : Nat) : State :=
  let x := s.chan g c
  match x.run with
  | some r => if r.zero then s else s.setChan g c { x with run := some { r with flags := r.flags ||| flags } }
  | none => s

/-- Put what holds now, and further flags, on both channels of a gather. -/
def State.flagRuns (s : State) (g : Nat) (flags : Nat := 0) : State :=
  forAll [0, 1] (fun s c => if (s.chan g c).run.isSome then s.flagRun g c (s.flagsNow g c ||| flags) else s) s

/-- A force write, trip or CLEAR_N acts on a unit: conversions of its gather are DISTURBED while it is claimed (R219). -/
def State.disturb (s : State) (g u : Nat) : State := if (s.smu g u).pmux then s.flagRuns g afDisturbed else s

end Sys2Proof.Machine
end

