-- ==== Sys2Proof/Machine/PinUnits.lean ====
section
/-!
DEFINITION. Pins and their level DACs (chapter 6): charges, levels and their order, deglitcher, headroom, trips, and sentinel probes.
-/
namespace Sys2Proof.Machine

/-! ## Register images (Table 6-4) -/

def Pin.holding (x : Pin) : Bool := x.vih.hold || x.vil.hold || x.vt.hold || x.voh.hold || x.vol.hold

/-- PIN_STATUS. CMP_STATE reads MID while both sides are UNRESOLVED or uncrossed. -/
def Pin.status (x : Pin) : Nat :=
  cmpCode x.hi x.lo * 64 + b2n x.holding * 32 + b2n x.oc * 16 + b2n x.tripped * 8 + b2n x.cleared * 4 + b2n x.parked * 2

def Pin.cmpImage (x : Pin) : Nat := x.ref * 32 + x.hyst * 4 + x.mode

/-- The PIN_CMP image comes into force: a mode change holds the output (R172). -/
def Pin.cmpInForce (x : Pin) : Pin :=
  { x with cmpNow := x.cmpImage, modeHold := x.modeHold || x.cmpNow % 4 != x.mode }

/-- The ten registers of Table 6-4 in table order. [See R165.] -/
def Pin.registers (x : Pin) : List Nat :=
  [x.cfg.toNat, x.lvl.vih * 65536 + x.lvl.vil, x.lvl.voh * 65536 + x.lvl.vol, x.lvl.vt, x.ioh * 65536 + x.iol,
   x.clr.vih * 65536 + x.clr.vil, x.clr.voh * 65536 + x.clr.vol, x.clr.vt, x.cmpImage, x.status]

def drvEn (cfg : Word) : Bool := cfg.getLsbD 2
/-- [See R145.] -/
def loadEn (cfg : Word) : Bool := cfg.getLsbD 3
def rateOf (cfg : Word) : Nat := bits cfg.toNat 5 4
def tripAct (cfg : Word) : Nat := bits cfg.toNat 9 8
def tripCond (cfg : Word) : Nat := bits cfg.toNat 11 10
def tripSrc (cfg : Word) : Nat := bits cfg.toNat 15 12

/-! ## Charged dissipation (R164, Table 6-3), in 1/65,536 µW -/

def cmpCharge (mode : Nat) : Nat := match mode with | 0 => 3960 | 1 => 320 | 2 => 10 | _ => 0
def rateCharge (rate : Nat) : Nat := match rate with | 0 => 2200 | 1 => 4200 | _ => 7200
/-- The class maximum rate in units of 0.5 Gb/s. -/
def rateHalfG (rate : Nat) : Nat := match rate with | 0 => 1 | 1 => 3 | _ => 6

/-- The charge of a pin on its full settings: driver, comparator, DACs, edge generator, swing 0.8 mW × V × Gb/s, active load
3.0 V × current. [DEDUCED, unsafe: log 103.] -/
def fullCharge (cfg : Word) (l : Levels) (ioh iol mode : Nat) : Nat :=
  65536 * ((if drvEn cfg then 3000 else 300) + cmpCharge mode + 800 + rateCharge (rateOf cfg) + min 6000 (6 * max ioh iol))
    + (if drvEn cfg then 3600 * (l.vih - l.vil) * rateHalfG (rateOf cfg) else 0)

/-- A parked pin: 3.3 mW and its comparator mode. [See R157.] -/
def parkedCharge (mode : Nat) : Nat := 65536 * (3300 + cmpCharge mode)

/-- 18.0 mW. -/
def pinCap : Nat := 65536 * 18000

/-- A charge in whole µW, to nearest. [DESIGN CHOICE, unsafe: log 37.] -/
def chargeUw (c : Nat) : Nat := (c + 32768) / 65536

/-! ## Level DACs (R149–R154) -/

/-- A major carry alters any of bits [15:11] (R151). -/
def majorCarry (a b : Nat) : Bool := a / 2048 != b / 2048

/-- Latch a code into a DAC's register: a major carry holds the output at the old level. -/
def Dac.latch (d : Dac) (c : Nat) : Dac :=
  if majorCarry d.code c then { code := c, out := d.out, hold := true, next := none } else { code := c, out := c, hold := false, next := none }

/-- A write of a code that the DAC holds already changes nothing; a second latch that an earlier write still owed is void. -/
def Dac.write (d : Dac) (c : Nat) : Dac := if c == d.code then { d with next := none } else d.latch c

/-- The deglitcher releases: the output goes to the register's code. -/
def Dac.release (d : Dac) : Dac := { d with out := d.code, hold := false }

/-- A clear code reaches the output at once, abandoning any hold (R152). -/
def Dac.clear (_ : Dac) (c : Nat) : Dac := { code := c, out := c }

/-- Write a pair low ≤ high (VIL and VIH, VOL and VOH) in the order of R149. Answers (low, high). -/
def latchPair (lo hi : Dac) (newLo newHi : Nat) : Dac × Dac :=
  if newLo > hi.code then ({ lo with next := some newLo }, hi.write newHi)
  else if newHi < lo.code then (lo.write newLo, { hi with next := some newHi })
  else (lo.write newLo, hi.write newHi)

/-- Apply level codes to a pin's DACs. -/
def Pin.applyLevels (x : Pin) (l : Levels) : Pin :=
  let (vil, vih) := latchPair x.vil x.vih l.vil l.vih
  let (vol, voh) := latchPair x.vol x.voh l.vol l.voh
  { x with vil := vil, vih := vih, vol := vol, voh := voh, vt := x.vt.write l.vt }

/-- The clear codes at every DAC (R153). -/
def Pin.applyClear (x : Pin) : Pin :=
  { x with vih := x.vih.clear x.clr.vih, vil := x.vil.clear x.clr.vil, vt := x.vt.clear x.clr.vt
           voh := x.voh.clear x.clr.voh, vol := x.vol.clear x.clr.vol, cleared := true }

/-- Is any DAC of a pin still to move: a hold, or an ordered second latch? -/
def Pin.moving (x : Pin) : Bool :=
  x.holding || x.vih.next.isSome || x.vil.next.isSome || x.vt.next.isSome || x.voh.next.isSome || x.vol.next.isSome

/-- Is a driver level reachable: between VPL + 1.0 V and VPH − 2.0 V as measured (R148)? [DEDUCED, unsafe: log 104.] -/
def State.reachable (s : State) (code : Nat) : Bool :=
  decide (levelUv code ≤ (s.power.vphUv - 2000000) * 65536) && decide ((s.power.vplUv + 1000000) * 65536 ≤ levelUv code)

/-- The reachable codes of a scale of 65,536 or 262,144 steps with the rails as measured: between VPL + 1.0 V and VPH − 2.0 V. [DEDUCED, unsafe: log 104.] -/
def State.codeRange (s : State) (scale : Nat) : Nat × Nat :=
  let lo := ((scale : Int) * (s.power.vplUv + 3000000) + 8999999) / 9000000
  let hi := (scale : Int) * s.power.vphUv / 9000000
  (min (scale - 1) lo.toNat, min (scale - 1) hi.toNat)

/-! ## Trips (R160–R162) -/

/-- The drive of a TRIP_ACT. An unpowered driver stays off. -/
def tripDrive (cfg : Word) : Drive :=
  if !drvEn cfg then .off else match tripAct cfg with | 0 => .off | 1 => .low | 2 => .high | _ => .vt

/-- Does a pin's trip fire now: armed, not yet tripped, its gather not in the safe state, and its condition true? -/
def Gather.tripNow (G : Gather) (p : Nat) : Bool :=
  let x := G.pin p
  let w := G.pin (tripSrc x.cfg)
  !x.parked && !x.tripped && !G.safe.on && condHolds (tripCond x.cfg) w.hi w.lo

/-- The pins' flags of this moment on the running stroke's result, where one is open: what has flagged it stays (R144, R155, R161). -/
def Gather.flagNow (G : Gather) : Gather := if G.play.resOpen then G.flagPins else G

/-- Fire the trip of a pin where its condition holds; a driver off after overcurrent stays off (R162). [See R14.] -/
def Gather.checkTrip (G : Gather) (p : Nat) : Gather :=
  if G.tripNow p then
    let x := G.pin p
    (G.setPin p { x with tripped := true, drive := if x.oc then x.drive else tripDrive x.cfg }).flagNow
  else G

/-- Fire every pin trip of a gather whose condition holds; a trip ends a calibration step on its pin (R349). -/
def State.checkTrips (s : State) (g : Nat) : State :=
  if s.power.parked then s
  else forAll (List.range 16) (fun s p =>
    if (s.gather g).tripNow p then
      (s.modG g (·.checkTrip p)).preempt g (hitsPin p)
    else s) s

/-- What outranks HALT_STATE and the vectors (R162): a driver off after overcurrent, then a trip. -/
def Pin.outranked (x : Pin) : Pin := if x.oc then { x with drive := .off } else if x.tripped then { x with drive := tripDrive x.cfg } else x

/-- What decides a pin while no vector runs, in the order of R162: the safe state, a driver off after overcurrent, a trip, HALT_STATE. In a
running gather its vectors go on to decide it. [DEDUCED, unsafe: log 61.] -/
def Gather.restPin (G : Gather) (p : Nat) (x : Pin) : Pin :=
  if G.safe.on then x else (if G.seq.live then x else x.toHaltState (bits G.play.haltState.toNat (2 * p + 1) (2 * p))).outranked

/-- Release a pin's trip (R161): in a gather that is not running the pin goes at once to its HALT_STATE. A condition that holds fires it
again (R160). [DEDUCED, unsafe: log 61.] -/
def Gather.releaseTrip (G : Gather) (p : Nat) : Gather :=
  let x := G.pin p
  if !x.tripped then G else (G.setPin p (G.restPin p { x with tripped := false })).checkTrip p

/-! ## After a change -/

/-- After any change of a gather's pins: probes, trips, Hatch. -/
def State.pinsChanged (s : State) (g : Nat) : State := ((s.checkTrips g).probes g).sync g

end Sys2Proof.Machine
end

