-- ==== Sys2Proof/Machine/SmuUnits.lean ====
section
/-!
DEFINITION. Source/measure units (chapter 8): what a unit does at its ball by the order of R200, charges, range-change sequences, trips and
compliance.
-/
namespace Sys2Proof.Machine

/-! ## Fields of SMU_CFG and SMU_TRIP (Table 8-3) -/

def cfgRange (c : Word) : Nat := bits c.toNat 7 6
def cfgMeasV (c : Word) : Bool := c.getLsbD 10
def cfgSenseLocal (c : Word) : Bool := c.getLsbD 11
def cfgOpenNotify (c : Word) : Bool := c.getLsbD 14
def cfgCompNotify (c : Word) : Bool := c.getLsbD 15
/-- SMU_CFG with another RANGE. -/
def withRange (c : Word) (r : Nat) : Word := BitVec.ofNat 32 (c.toNat - cfgRange c * 64 + r % 4 * 64)

def trActOpen (t : Word) : Bool := t.getLsbD 0
def trCond (t : Word) : Nat := bits t.toNat 5 4
def trSrc (t : Word) : Nat := bits t.toNat 9 6
def trKind (t : Word) : Nat := bits t.toNat 11 10

/-- Does a unit force its ball: MODE on and CONNECT (R184)? -/
def Smu.on (x : Smu) : Bool := !x.parked && cfgMode x.cfg != 0 && cfgConnect x.cfg

/-- SMU_STATUS. -/
def Smu.status (x : Smu) : Nat :=
  b2n x.rcCompl * 512 + b2n x.pmux * 256 + b2n x.run.isSome * 128 + b2n x.cleared * 64 + b2n x.tripped * 32 + b2n x.openSeen * 16
    + b2n x.complSeen * 8 + b2n x.compl * 4 + b2n x.parked * 2

def SmuCodes.images (c : SmuCodes) : List Nat :=
  [c.v, (c.i % 262144).toNat, c.vclHi * 65536 + c.vclLo, c.iclHi * 65536 + c.iclLo]

/-- The twelve registers of Table 8-3 in table order. [See R187.] -/
def Smu.registers (x : Smu) : List Nat := x.cfg.toNat :: x.set.images ++ [x.safe, x.trip.toNat] ++ x.clr.images ++ [x.status]

/-- Four images as codes (SMU_FORCE's payload, SMU_CLR0–SMU_CLR3). -/
def codesOf (p : List Byte) (o : Nat) : SmuCodes :=
  { v := u32 p o % 262144, i := signed 18 (u32 p (o + 4) % 262144), vclLo := u16 p (o + 8), vclHi := u16 p (o + 10)
    iclLo := u16 p (o + 12), iclHi := u16 p (o + 14) }

/-- Full scale in nA (Table 8-2). -/
def fullScale (range : Nat) : Nat := match range with | 0 => 256 | 1 => 25600 | 2 => 2560000 | _ => 40000000

/-- A voltage code of 18 bits in µV × 262,144 (Table 8-1). [See R185.] -/
def v18 (code : Nat) : Int := (code : Int) * 9000000 - 2000000 * 262144
def v16 (code : Nat) : Int := v18 (4 * code)

/-- The code of 0 V. -/
def zeroVolt : Nat := 0xE38E

/-! ## What a unit does (R184, R190, R193, R194, R198, R200, R207, Tables 8-4 and 19-7) -/

/-- A unit's loop: unpowered; FV at a code, its current held within limits given in nA / 65,536; FI at a code of the range in force, its
voltage held within clamp codes; or FI at the current of position 0 of its gang, which it follows within its own current limits, with the same
clamps. -/
inductive SmuLoop where
  | off
  | fv (code iHi iLo : Nat)
  | fi (code : Int) (vHi vLo : Nat)
  | follow (iHi iLo vHi vLo : Nat)
  deriving DecidableEq, Repr

/-- What a unit does at its ball: its loop, whether the output switch is closed, and the window in which a backup clamp holds the FORCE ball. -/
structure SmuOut where
  loop : SmuLoop
  closed : Bool
  backup : Option (Nat × Nat) := none
  deriving DecidableEq, Repr

/-- The window of the backup clamp, which holds the FORCE ball from an open loop on, in whatever loop the unit then runs (R193). -/
def Smu.backupHold (x : Smu) : Option (Nat × Nat) := if x.backup then some (x.dac.vclHi, x.dac.vclLo) else none

/-- A unit on its written mode and the codes at its DACs. In a ganged cane an IFORCE or clamp code names the cane's FS × k, of which each
member has the k-th part: its own FS by the same code. A masked member's switch is open (R207). -/
def Smu.writtenOut (x : Smu) : SmuOut :=
  let c := x.dac
  let fs := fullScale x.rangeNow
  let loop : SmuLoop := match cfgMode x.cfg with
    | 0 => .off
    | 2 => .fi c.i c.vclHi c.vclLo
    | _ => match x.gangPos with
      | some (k, n) => if 0 < k && k < n then .follow (c.iclHi * fs) (c.iclLo * fs) c.vclHi c.vclLo else .fv c.v (c.iclHi * fs) (c.iclLo * fs)
      | none => .fv c.v (c.iclHi * fs) (c.iclLo * fs)
  let out := match x.gangPos with | some (k, n) => n ≤ k | none => false
  { loop := loop, closed := x.on && !out, backup := x.backupHold }

/-- What a unit does, by the order of R200; `safe` is its gather's safe state. There it runs FV at 0 V to ±256 nA and then opens (Table 19-7);
CLEAR_N holds its DACs and leaves mode and switch; a trip with ACT SAFE makes it FV at SAFE_LEVEL with its clamps, one with ACT OPEN opens
the switch; steps 1–4 of a range change stand at SAFE_LEVEL, and step 5 at the written mode with what the DACs hold. [DEDUCED, unsafe: log 123.] -/
def Smu.out (x : Smu) (safe : Bool) : SmuOut :=
  let c := x.dac
  let fs := fullScale x.rangeNow
  let level := if x.clearHold then c.v else x.safe
  let lower := fun (r : RangeRun) => 65536 * fullScale (min r.old r.new)
  if safe then
    match x.run with
    | some r =>
      let lim := fun (k : Nat) => let m := min (k * fs) (4096 * fs); if r.step < 2 then m else min m (lower r)
      { loop := .fv zeroVolt (lim x.set.iclHi) (lim x.set.iclLo), closed := true }
    | none => { loop := .off, closed := false }
  else if x.tripped then
    if trActOpen x.trip then { x.writtenOut with closed := false }
    else if x.parked || cfgMode x.cfg == 0 then x.writtenOut
    else { loop := .fv level (c.iclHi * fs) (c.iclLo * fs), closed := x.writtenOut.closed, backup := x.backupHold }
  else match x.run with
    | some r =>
      if r.step < 5 then
        { loop := .fv level (min (c.iclHi * fs) (lower r)) (min (c.iclLo * fs) (lower r)), closed := x.writtenOut.closed
          backup := x.backupHold }
      else x.writtenOut
    | none => x.writtenOut

/-- Voltages at the nearest that the rails allow (R532): v for codes of 18 bits, w for those of 16. -/
def SmuLoop.reach (v w : Nat → Nat) : SmuLoop → SmuLoop
  | .off => .off
  | .fv c hi lo => .fv (v c) hi lo
  | .fi i hi lo => .fi i (w hi) (w lo)
  | .follow iHi iLo hi lo => .follow iHi iLo (w hi) (w lo)

/-- What a unit does now: in the safe state, in DORMANT and its entry, and in the power-fail park as the safe state has it; an unreachable
voltage goes to the nearest reachable one while its written value is kept (R532). -/
def State.smuOut (s : State) (g u : Nat) : SmuOut :=
  let o := (s.smu g u).out ((s.gather g).safe.on || s.power.parked || s.power.pstate == 3 || s.power.entering)
  let (lo, hi) := s.codeRange 262144
  let (lo', hi') := s.codeRange 65536
  let w := fun c => max lo' (min hi' c)
  { o with loop := o.loop.reach (fun c => max lo (min hi c)) w, backup := o.backup.map fun b => (w b.1, w b.2) }

/-- A unit's compliance comparator with its loop at a value: the output current in pA in FV, the regulated voltage in µV in FI (R191). The
threshold lies 0.2 % of FS, or 20 mV, inside each clamp, and the hysteresis of the same amount is centred on it. -/
def SmuOut.compliance (o : SmuOut) (fs : Nat) (before : Bool) (value : Int) : Bool :=
  let inside := fun (l : Int) (v : Int) (unit : Int) => if before then decide (l - 3 * unit ≤ v) else decide (l - unit < v)
  match o.loop with
  | .off => false
  | .fv _ hi lo =>
    inside (1000 * hi) (65536 * value) (65536 * fs) || inside (1000 * lo) (-(65536 * value)) (65536 * fs)
  | .fi _ hi lo | .follow _ _ hi lo =>
    inside (v16 hi) (262144 * value) (10000 * 262144) || inside (-v16 lo) (-(262144 * value)) (10000 * 262144)

/-! ## Load dissipation (R201, R202), in nA·µV / (131,072 × 262,144) -/

/-- max(|ICL_HI| × (9.0 V − V_min), |ICL_LO| × (V_max + 3.5 V)) of R201. -/
def loadCharge (cfg : Word) (c : SmuCodes) : Nat :=
  if cfgMode cfg == 0 || !cfgConnect cfg then 0
  else
    let fs : Int := fullScale (cfgRange cfg)
    let fi := cfgMode cfg == 2
    let iHi : Int := if fi then c.i.natAbs else 2 * c.iclHi
    let iLo : Int := if fi then c.i.natAbs else 2 * c.iclLo
    let vMin := if fi then v16 c.vclLo else v18 c.v
    let vMax := if fi then v16 c.vclHi else v18 c.v
    (max (fs * iHi * (9000000 * 262144 - vMin)) (fs * iLo * (vMax + 3500000 * 262144))).toNat

def wattUnit : Nat := 10 ^ 15 * 131072 * 262144
/-- 4.000 W. -/
def tileCap : Nat := 4 * wattUnit
/-- A charge in whole µW, to nearest. [DESIGN CHOICE, unsafe: log 37.] -/
def smuUw (c : Nat) : Nat := (c + wattUnit / 2000000) / (wattUnit / 1000000)

/-- A unit's charge; during a range change the larger of old and new (R202). [DEDUCED, unsafe: log 103.] -/
def Smu.charge (x : Smu) : Nat :=
  let c := if x.parked then 0 else loadCharge x.cfg x.set
  match x.run with | some r => max r.charge c | none => c

/-- The sum of a tile's 64 units. -/
def State.tileCharge (s : State) (t : Nat) : Nat :=
  (s.gathers.filter fun g => tileOf g.1 == t).foldl (fun a g => a + (g.2.smus.map fun u => u.2.charge).sum) 0

/-- SMU_POWER where the state that a change of the named units would leave takes any of their tiles above 4.000 W. [DEDUCED, unsafe: log 103.] -/
def State.smuPower (s : State) (us : List Nat) : Half :=
  unless' ((us.map (fun u => tileOf (u / 4))).eraseDups.all fun t => s.tileCharge t ≤ tileCap) stSmuPower

/-- Has a unit's compliance comparator power: in a unit that is enabled, and not in DORMANT (R173, Table 7-3)? -/
def State.complPowered (s : State) (g u : Nat) : Bool :=
  let x := s.smu g u
  !x.parked && cfgMode x.cfg != 0 && s.power.pstate != 3 && !s.power.parked

/-! ## Range changes and release (R194, R195, R199) -/

/-- Start the sequence of Table 8-4 to the RANGE written: the compliance comparator is masked from here on. `charge` is that of the old settings. -/
def Smu.startRange (x : Smu) (charge : Nat) : Smu :=
  { x with run := some { old := x.rangeNow, new := cfgRange x.cfg, charge := charge }, rcCompl := x.raw, complSeen := x.complSeen || x.raw, compl := false }

/-- Release a unit's trip: it returns to its mode, its stored force values and its connection, by a range change where one was written
meanwhile (R199); during it the unit is charged for the settings that the write replaced too (R202). [DEDUCED, unsafe: log 123.] -/
def Smu.release (x : Smu) (safe : Bool) : Smu :=
  if !x.tripped then x
  else
    let x := { x with tripped := false, dac := if x.clearHold || safe then x.dac else x.set }
    let y := if !safe && x.on && cfgRange x.cfg != x.rangeNow then x.startRange (x.oldCharge.getD x.charge) else x
    { y with oldCharge := none }

/-! ## Trips (R198, R199) -/

/-- Is a unit's trip condition true: the named comparator's raw output in the gather? -/
def Gather.smuTripNow (G : Gather) (u : Nat) : Bool :=
  let x := G.smu u
  !x.parked && !x.tripped && !G.safe.on && trCond x.trip != 0 &&
  match trKind x.trip with
  | 0 => let p := G.pin (trSrc x.trip); condHolds (trCond x.trip) p.hi p.lo
  | 1 => let n := G.sent (trSrc x.trip); n.cfg.getLsbD 0 && !n.asleep && rawActive (n.cfg.getLsbD 11) n.raw
  | _ => (G.smu (trSrc x.trip)).compl

/-- A trip acts (R198): TRIPPED latches, and a range change ends with the range it had reached (R197). -/
def Smu.fire (x : Smu) : Smu :=
  let x := { x with tripped := true }
  match x.run with
  | some r =>
    let got := if r.step ≥ 3 then r.new else r.old
    { x with run := none, rangeNow := got, cfg := withRange x.cfg got, aborted := true }
  | none => x

/-- The answer of SMU_CONFIG and SMU_FORCE: the unit's charge and its tile's sum in µW, and RANGE_ABORTED as the flag word's bit
0; on a cane the largest member value. [DESIGN CHOICE, unsafe: log 7, 37.] -/
def State.smuChargeReply (s : State) (t : Tgt) : Reply :=
  let recs := t.here.map fun pu =>
    let x := s.smu (pu.2 / 4) (pu.2 % 4)
    (pu.1, ({ bytes := toLE 4 (smuUw x.charge) ++ toLE 4 (smuUw (s.tileCharge (tileOf (pu.2 / 4)))) ++ toLE 4 (b2n x.aborted) } : MemRec))
  memberReply t (s.safePos t) recs { len := 12, flag := some 8, rules := [(0, 4, .greatest), (4, 4, .greatest)] }

/-- The place of a member position among the unmasked ones of a ganged cane, with their number; a masked one stands outside (R207). -/
def Tgt.gangPlace (t : Tgt) (p : Nat) : Nat × Nat :=
  let ps := t.here.map (·.1)
  (if t.masked.contains p then ps.length else ps.findIdx (· == p), ps.length)

/-- The members of a ganged cane take their places: all of them at a command on the cane, at a change of its mask those that have one. -/
def State.gangPlaces (s : State) (t : Tgt) (all : Bool) : State :=
  if !t.gang then s
  else forAll t.locals.zipIdx (fun s up =>
    match up.1 with
    | some u =>
      let x := s.smu (u / 4) (u % 4)
      if all || x.gangPos.isSome then s.setSmu (u / 4) (u % 4) { x with gangPos := some (t.gangPlace up.2) } else s
    | none => s) s

/-- The target of a command that waits in a mailbox. -/
def State.targetOfWaiter (s : State) (m : Nat) : Option (Entry × Wait × Tgt) :=
  (s.waiting m).map fun ew => (ew.1, ew.2, ew.2.tgt)

/-- Answer the SMU_CONFIG commands whose range changes have all ended. -/
def State.rangesDone (s : State) : State :=
  forAll (s.waiters .rangeChange) (fun s m =>
    match s.targetOfWaiter m with
    | some (_, w, t) =>
      if w.units.any fun u => (s.smu (u / 4) (u % 4)).run.isSome then s else s.respond m (us 900) (s.smuChargeReply t)
    | none => s) s

/-- The live compliance state of a unit becomes that of its comparator: COMPL_SEEN on entry, and a notification (R192). -/
def State.putCompl (s : State) (g u : Nat) (a : Bool) : State :=
  let x := s.smu g u
  if x.compl == a then s
  else
    let s := s.setSmu g u { x with compl := a, complSeen := x.complSeen || a }
    if cfgCompNotify x.cfg then s.note (noteEntry 3 0 (BitVec.ofNat 16 (0x1000 + g * 4 + u)) a 1 s.netNs) else s

/-- Fire every unit trip of a gather whose condition holds. A trip that ends a range change lifts its mask, and the compliance it uncovers may
fire a further unit: four rounds over the four units reach the fixed point. -/
def State.smuTrips (s : State) (g : Nat) : State :=
  let s := forAll ((List.range 16).map (· % 4)) (fun s u =>
    if !s.power.parked && (s.gather g).smuTripNow u then
      let s := ((s.modG g fun G => G.setSmu u (G.smu u).fire).preempt g (· == 8 + u)).disturb g u
      s.putCompl g u (s.smu g u).raw
    else s) s
  s.rangesDone

/-- After any change of a gather's comparators: capture patterns, pin trips with the probes they reach, unit trips, Hatch. -/
def State.comparatorsChanged (s : State) (g : Nat) : State := ((((s.patternsDrop g).checkTrips g).probes g).smuTrips g).sync g

/-! ## Compliance (R191–R195) -/

/-- The live compliance state changes, outside a range change, with all that follows (R192). -/
def State.setCompl (s : State) (g u : Nat) (a : Bool) : State :=
  if (s.smu g u).compl == a then s else (s.putCompl g u a).comparatorsChanged g

end Sys2Proof.Machine
end

