-- ==== Sys2Proof/Machine/Amps.lean ====
section
/-!
DEFINITION. The Ampoule at work (chapters 9, 10, 14): claims, requests and their answers, bridge emulators, the seal registers, sheets
with their Merkle root, compensation, and what ends it all: reset, safe state, power fail.
-/
namespace Sys2Proof.Machine

/-! ## Fractions -/

def Frac.add (a b : Frac) : Frac :=
  if a.den = b.den then { num := a.num + b.num, den := a.den } else { num := a.num * b.den + b.num * a.den, den := a.den * b.den }
def Frac.mul (a b : Frac) : Frac := { num := a.num * b.num, den := a.den * b.den }
def Frac.neg (a : Frac) : Frac := { a with num := -a.num }
/-- |a| ≤ n / d. -/
def Frac.within (a : Frac) (n d : Nat) : Bool := decide (a.num.natAbs * d ≤ n * a.den)

/-! ## The seal registers (Table 10-1) -/

/-- PRODUCTION of Table 20-3. -/
def lifeProduction : Nat := 2

/-- The latest REFP check of some channel lies outside 4.990–5.010 V (R236). -/
def State.stopRef (s : State) : Bool :=
  s.amp.gathers.any fun g => g.2.chans.any fun c => match c.2.refUv with | some v => decide (v < 4990000 ∨ 5010000 < v) | none => false

def State.openSheet (s : State) : Option Sheet := s.amp.sheets.find? (·.close.isNone)

/-- SEAL_RAW: the level of SEAL_N's receiver. A completed dwell shows it; no row gives it after that, and it is open. [DESIGN CHOICE, safe: log 125.] -/
def State.sealRaw (s : State) : Nat := if s.upNs == s.amp.sealNs then s.amp.sealRaw else Config.sealLevel s.freeCount s.upNs % 3

/-- SEAL_STATUS. [See R248.] -/
def State.sealStatus (s : State) : Nat :=
  let a := s.amp
  b2n a.stopLms * 2 ^ 14 + b2n (s.sec.life != lifeProduction) * 2 ^ 13 + b2n a.stopExhausted * 2 ^ 12 + b2n a.stopNoAdjust * 2 ^ 11
    + b2n a.stopComp * 2 ^ 10 + b2n s.stopRef * 2 ^ 9 + b2n (a.legal == 1) * 2 ^ 8 + b2n a.intAdj * 2 ^ 7 + b2n s.openSheet.isSome * 2 ^ 6
    + s.sealRaw * 4 + a.legal

/-- Receipts are stopped while any STOP_ bit is set (R256). -/
def State.rcptStop (s : State) : Bool := s.sealStatus / 256 % 128 != 0

/-- SEAL_OPENS as read: with the pending count (R247). -/
def State.sealOpens (s : State) : Nat := satAdd 0xFFFF_FFFF s.amp.opens s.amp.opensPending

/-! ## Sheets (R260–R268) -/

/-- The decimal digits of a number below 10^5, as ASCII. -/
def decimal (n : Nat) : List Byte :=
  let ds := ([10000, 1000, 100, 10, 1].map fun k => n / k % 10).dropWhile (· == 0)
  (if ds.isEmpty then [0] else ds).map fun d => BitVec.ofNat 8 (0x30 + d)

/-- VERSION of the image that runs for a target (0 management firmware, 1 Ampoule extension); 0 when none runs. -/
def State.runningVersion (s : State) (target : Nat) : Nat :=
  match s.sec.running.getD target none with | some k => (Tab.get {} s.sec.slots (2 * target + k)).version | none => 0

/-- The Ampoule's identifier, "AMP " with its version, in 8 bytes. -/
def State.ampIdent (s : State) : List Byte :=
  let v := s.runningVersion 1
  ([0x41#8, 0x4D#8, 0x50#8, 0x20#8] ++ decimal (v / 65536) ++ [0x2E#8] ++ decimal (v % 65536) ++ List.replicate 8 0#8).take 8

/-- The extension that runs, as it was written: its header block and its body (R517); none where the image of manufacture runs, whose bytes
are not listed. -/
def Slot.imageBytes (x : Slot) : Option (List Byte) :=
  if x.data.isEmpty then none else some (Mem.readAll x.data 0 (3828 + leNat (Mem.readAll x.data 16 4) 0 4))

/-- The checksum of R257: the first 32 bits of SHA-384 over the ROM legal firmware and the loaded extension, which firmware 2.4 of manufacture
makes 0x5E21_A9C7. [DESIGN CHOICE, safe: log 55.] -/
def State.ampChecksum (s : State) : List Byte :=
  match s.sec.running.getD 1 none with
  | none => ((sha384 Config.ampRom).take 4).reverse
  | some k =>
    match (Tab.get ({} : Slot) s.sec.slots (2 + k)).imageBytes with
    | none => toLE 4 0x5E21A9C7
    | some b => ((sha384 (Config.ampRom ++ b)).take 4).reverse
def deviceId : List Byte := (List.range 4).flatMap fun i => toLE 4 (Config.deviceId i).toNat

/-- The largest power of two below k, for k in 2–4,096. -/
def splitAt' (k : Nat) : Nat := ((List.range 12).reverse.find? fun i => decide (2 ^ i < k)).map (2 ^ ·) |>.getD 1

/-- The Merkle root of RFC 6962 over SHA-384 (R261); `fuel` bounds the depth, which is at most 12. -/
def merkle : Nat → List (List Byte) → List Byte
  | _, [] => sha384 []
  | _, [e] => sha384 (0#8 :: e)
  | 0, e :: _ => sha384 (0#8 :: e)
  | fuel + 1, es =>
    let k := splitAt' es.length
    sha384 (1#8 :: (merkle fuel (es.take k) ++ merkle fuel (es.drop k)))

/-- The 128-byte header of Table 10-4. -/
def Sheet.header (x : Sheet) (ident sum : List Byte) : List Byte :=
  toLE 4 x.num ++ toLE 4 x.prev ++ toLE 1 x.prevState ++ toLE 1 (x.close.getD 0) ++ toLE 2 x.entries.length ++ toLE 4 x.lec ++ deviceId
    ++ ident ++ sum ++ toLE 4 (b2n x.intAdj) ++ merkle 12 x.entries ++ toLE 8 x.closeNs ++ toLE 8 (x.index.getD 0)
    ++ List.replicate 16 0#8

/-- A byte string of exactly n bytes. -/
def fit (n : Nat) (l : List Byte) : List Byte := (l ++ List.replicate n 0#8).take n

/-! Signatures (R262, R263, Table 20-1): key 1 is the device's, key 2 the Ampoule's. Type codes and places are those of RFC 8554. -/

/-- n bytes, the most significant first. -/
def be (n v : Nat) : List Byte := (toLE n v).reverse

/-- n open bytes of a key over some bytes, from `o` on. [DESIGN CHOICE, safe: log 76.] -/
def signed' (key o n : Nat) (msg : List Byte) : List Byte := (List.range n).map fun i => byteAt (Config.signature key msg) (o + i)

/-- An ECDSA P-384 signature, r then s, its nonce derived from the message (RFC 6979). [DESIGN CHOICE, safe: log 76.] -/
def ecdsa (key : Nat) (msg : List Byte) : List Byte := signed' (2 * key) 0 96 msg

/-- The LMS public key of a tree of an HSS key: LMS_SHA256_M32_H20, LMOTS_SHA256_N32_W8, I and T. [DESIGN CHOICE, safe: log 76.] -/
def lmsPublic (key tree : Nat) : List Byte := be 4 8 ++ be 4 4 ++ signed' (2 * key + 1) 0 48 (toLE 8 tree)

/-- An LMS signature with one leaf of a tree: q, the LM-OTS signature, the type and the path. [DESIGN CHOICE, safe: log 76.] -/
def lmsSign (key tree leaf : Nat) (msg : List Byte) : List Byte :=
  let m := toLE 8 tree ++ toLE 8 leaf ++ msg
  be 4 leaf ++ be 4 4 ++ signed' (2 * key + 1) 0 1120 m ++ be 4 8 ++ signed' (2 * key + 1) 1120 640 m

/-- The HSS signature of an index over two levels: the level-0 tree is numbered 0, the level-1 trees from 1. [DESIGN CHOICE, safe: log 76.] -/
def hss (key index : Nat) (msg : List Byte) : List Byte :=
  let t := index / 2 ^ 20
  be 4 1 ++ lmsSign key 0 t (lmsPublic key (t + 1)) ++ lmsPublic key (t + 1) ++ lmsSign key (t + 1) (index % 2 ^ 20) msg

/-- The sealed block (R262): the header, the ECDSA P-384 signature and the HSS signature of its index; the signatures are the keys' own. -/
def Sheet.sealed (x : Sheet) (ident sum : List Byte) : List Byte :=
  let h := x.header ident sum
  h ++ ecdsa 2 h ++ hss 2 (x.index.getD 0) h

def State.setSheets (s : State) (l : List Sheet) : State := s.setAmp { s.amp with sheets := l }

/-- Begin the close of the open sheet with a cause (R264). In the power-fail park none starts (R533). -/
def State.closeSheet (s : State) (cause : Nat) : State :=
  if s.power.parked then s
  else
    let f := fun (x : Sheet) => { x with close := some cause, closeNs := s.netNs, lec := s.amp.lec, intAdj := s.amp.intAdj }
    s.setSheets (updFirst (fun (x : Sheet) => x.close.isNone) f s.amp.sheets)

/-- The next free index of the Ampoule's HSS key and of the device's (R267, R508). -/
def Amp.hssNext (a : Amp) : Nat := ringNext a.hssRing
def Sec.hssNext (x : Sec) : Nat := ringNext x.hssRing

/-- Half of a level-1 tree's indices are used, and the next tree has not been computed (R268). -/
def Amp.treeDue (a : Amp) : Bool := decide (2 ^ 19 ≤ a.hssNext % 2 ^ 20) && decide (a.trees ≤ a.hssNext / 2 ^ 20 + 1)

/-- Reserve the Ampoule's next signing index (R266): the computation of a tree may start, and the last one stops receipts (R256). -/
def State.takeIndex (s : State) : Nat × State :=
  let a := { s.amp with hssRing := ringReserve s.amp.hssRing }
  let out := decide (s.amp.hssNext + 1 ≥ 2 ^ 40)
  let s' := s.setAmp { a with stopExhausted := a.stopExhausted || out, treeBusy := a.treeBusy || a.treeDue }
  (s.amp.hssNext, if out then s'.closeSheet 2 else s')

/-- The sheet being sealed: the oldest whose close has begun and whose block is not complete. -/
def State.sealing (s : State) : Option Sheet := s.amp.sheets.find? fun x => x.close.isSome && x.block.isNone

/-- An entry into the open sheet, which opens with it; the 4,096th closes it. Answers the entry's index. -/
def State.addEntry (s : State) (f : Nat → Nat → List Byte) : State × Nat × List Byte :=
  let a := s.amp
  let s := match s.openSheet with
    | some _ => s
    | none => s.setAmp { a with sheets := a.sheets ++ [({ num := a.nextSheet, prev := a.prevSheet, prevState := a.prevState } : Sheet)]
                                nextSheet := a.nextSheet + 1, prevSheet := a.nextSheet, prevState := 0 }
  match s.openSheet with
  | none => (s, 0xFFFF_FFFF, [])
  | some x =>
    let e := f x.num x.entries.length
    let s := s.setSheets (updFirst (fun x => x.close.isNone) (fun x => { x with entries := x.entries ++ [e] }) s.amp.sheets)
    (if x.entries.length + 1 ≥ 4096 then s.closeSheet 0 else s, x.entries.length, e)

/-- Is the reservation of a signing index in progress: the sheet being sealed has none yet? -/
def State.reserving (s : State) : Bool := match s.sealing with | some x => x.index.isNone | none => false

/-- A reset meets a reservation that has started: it finishes, and its index is never used; a failing rail tears it (R265–R267). [DEDUCED, unsafe: log 140.] -/
def State.endReservation (s : State) (torn : Bool) : State :=
  if !s.reserving then s
  else if torn then
    let (v, s) := s.fresh
    s.setAmp { s.amp with hssRing := ringTear s.amp.hssRing v }
  else s.takeIndex.2

/-- Sheets not sealed at a reset of the Ampoule are abandoned with their entries; the newest number among them is the one that the next
header names (R265). -/
def State.abandonSheets (s : State) : State :=
  let a := s.amp
  let left := a.sheets.filter (·.block.isSome)
  s.setAmp { a with sheets := left, prevState := if left.length == a.sheets.length then a.prevState else 1 }

/-! ## Compensation (R254, R255, R355, R356) -/

def State.comp (s : State) (g c r : Nat) : Comp := Tab.get {} (s.chan g c).comps r
def State.setComp (s : State) (g c r : Nat) (x : Comp) : State :=
  s.setChan g c { s.chan g c with comps := Tab.put (s.chan g c).comps r x }

/-- A result into a block, which its first one begins. -/
def CalBlock.add (b : CalBlock) (d : Frac) (now : Nat) : CalBlock :=
  { b with n := b.n + 1, since := if b.n == 0 then now else b.since, sum := b.sum.add d, sumSq := b.sumSq.add (d.mul d) }
def CalBlock.mean (b : CalBlock) : Frac := { num := b.sum.num, den := b.sum.den * b.n }
/-- U² = 4 sd² / n, with the sample standard deviation. -/
def CalBlock.u2 (b : CalBlock) : Frac :=
  let v := ({ b.sumSq with num := b.n * b.sumSq.num } : Frac).add (b.sum.mul b.sum).neg
  { num := 4 * v.num, den := v.den * (b.n * b.n * (b.n - 1)) }
/-- The test of R355: at least 64 results and U at most 1.0 ppm. -/
def CalBlock.closes (b : CalBlock) : Bool := b.n ≥ 64 && b.u2.within 1 (10 ^ 12)

/-- |x| ≥ 0.25 ppm. -/
def Frac.matters (x : Frac) : Bool := decide (x.den ≤ x.num.natAbs * 4000000)

/-- A closed gain block: its record, and the update that waits for the gap between two requests. -/
def Comp.closeGain (x : Comp) (eps u2 : Frac) : Comp :=
  { x with gBlock := {}, eps := eps, epsU2 := u2, post := true
           gNew := if eps.matters then some (x.gain.mul { num := eps.den - eps.num, den := eps.den }) else x.gNew }
/-- A closed offset block. -/
def Comp.closeOffset (x : Comp) (d u2 : Frac) : Comp :=
  { x with oBlock := {}, off := d, offU2 := u2, post := true, oNew := if d.matters then some (x.offset.add d) else x.oNew }

/-- A triplet into the gain block of R355: the codes before, at and after an injection of sign `sg`. -/
def Comp.triplet (x : Comp) (now : Nat) (r0 r1 r2 sg : Int) : Comp :=
  if (r2 - r0).natAbs > 2048 then { x with gBlock := { x.gBlock with excluded := x.gBlock.excluded + 1 } }
  else
    let j2 : Int := 262144 * x.gain.num
    let b := x.gBlock.add { num := (2 * r1 - r0 - r2) * sg * x.gain.den - j2, den := j2.toNat } now
    if b.closes then ({ x with gBlock := b }).closeGain b.mean b.u2 else { x with gBlock := b }

/-- A code of the internal zero into the offset block, as a fraction of full scale. -/
def Comp.zeroCode (x : Comp) (now : Nat) (code : Int) : Comp :=
  let b := x.oBlock.add (({ num := code, den := 8388608 } : Frac).add x.offset.neg) now
  if b.closes then ({ x with oBlock := b }).closeOffset b.mean b.u2 else { x with oBlock := b }

/-- Is the injection of a period as R225 has it, after the last code: every second period, and towards zero after a code beyond 31/32
of full scale? -/
def injectionOk (last : Option (Int × Int)) (inj : Int) : Bool :=
  inj.natAbs ≤ 1 &&
  match last with
  | none => true
  | some (c, i) => decide ((i = 0) ≠ (inj = 0)) && (inj == 0 || c.natAbs * 32 ≤ 31 * 8388608 || decide ((0 < c) = (inj < 0)))

/-- A period's code with its injection after two earlier ones (newest first): the triplet they may close. -/
def Comp.period (x : Comp) (now : Nat) (codes : List (Int × Int)) (code : Int) : Comp :=
  match codes with
  | (r1, sg) :: (r0, _) :: _ => if sg = 0 then x else x.triplet now r0 r1 code sg
  | _ => x

/-- A fraction in ppb, whose rounding is open. [DESIGN CHOICE, unsafe: log 56.] -/
def Frac.ppb (x : Frac) (up : Bool) : Int := x.num * 10 ^ 9 / x.den + b2n (up && x.num * 10 ^ 9 % x.den != 0)

/-- A channel's figures in one range, in ppb: residual gain error with U, residual offset with U, deviation from the sealed value. -/
def Comp.figures (x : Comp) (up : Bool) : List Int :=
  let u := fun (v : Frac) => (isqrt ((v.num.natAbs * 10 ^ 18) / v.den) : Int)
  [x.eps.ppb up, u x.epsU2, x.off.ppb up, u x.offU2, (x.gain.add { num := -1, den := 1 }).ppb up]

/-- A calibration record reaches the management firmware, which keeps the latest (R354): `k` is the range, or 4 for the INL estimate. -/
def State.keepRecord (s : State) (g c k : Nat) (values : List Int) : State :=
  let f : Figure := { out := .done, values := values, atNs := s.upNs, temp := (s.calTile (tileOf g)).temp }
  { s with cal := { s.cal with recs := Tab.put s.cal.recs (8 * (2 * g + c) + k) f } }

/-- A channel's compensation in a range goes on; where a block of it has closed, its record is posted. -/
def State.putComp (s : State) (g c r : Nat) (x : Comp) : State :=
  if !x.post then s.setComp g c r x
  else
    let (up, s) := s.choose
    (s.setComp g c r { x with post := false }).keepRecord g c r (x.figures up)

/-- Apply what waits for a channel and range: bounded by ±20 ppm of the sealed values (R254). -/
def State.applyComp (s : State) (g c r : Nat) : State :=
  let x := s.comp g c r
  if x.gNew.isNone && x.oNew.isNone then s
  else
    let gain := x.gNew.getD x.gain
    let offset := x.oNew.getD x.offset
    let s := s.setComp g c r { x with gNew := none, oNew := none }
    if (gain.add { num := -1, den := 1 }).within 20 1000000 && offset.within 20 1000000 then
      let s := s.setComp g c r { s.comp g c r with gain := gain, offset := offset }
      let s := s.setChan g c { s.chan g c with steps := (s.chan g c).steps + 1 }
      s.setAmp { s.amp with compStep := (s.amp.compStep + 1) % 2 ^ 32 }
    else
      ((s.setAmp { s.amp with stopComp := true }).closeSheet 2).advise fAmpCompBound (BitVec.ofNat 16 (0x3000 + 2 * g + c))

/-! ## Claims (R214–R218) -/

/-- The pins and units of a gather carry the claims of its two outputs; a claim or its end reaches pin, unit and sentinels. -/
def State.syncClaims (s : State) (g : Nat) : State :=
  let srcs := [(s.chan g 0).source, (s.chan g 1).source]
  let s := forAll [14, 15] (fun s p =>
    let want := srcs.any fun c => (claimPins c).contains p
    let x := s.pin g p
    if x.claimed == want then s else ((s.setPin g p { x with claimed := want }).modG g (·.flagNow)).preempt g (hitsPin p)) s
  let s := forAll (List.range 4) (fun s u =>
    let want := srcs.any fun c => claimUnit c == some u
    let x := s.smu g u
    if x.pmux == want then s else (s.setSmu g u { x with pmux := want }).preempt g (· == 8 + u)) s
  (s.holdDigs g).pinsChanged g

/-- Connect an output to a source. -/
def State.select (s : State) (g c src : Nat) : State :=
  let x := s.chan g c
  if x.source == src then s else (s.setChan g c { x with source := src }).syncClaims g

/-- The gather's hardware on a claim (Table 9-3): OK, or the status that refuses it. A claim that stands already needs no grant. -/
def State.claimStatus (s : State) (g src : Nat) : Half :=
  let badPin := (claimPins src).any fun p =>
    let x := s.pin g p
    !x.claimed && !(x.parked || (!drvEn x.cfg && !loadEn x.cfg && tripCond x.cfg == 0))
  let badUnit := match claimUnit src with | some u => !(s.smu g u).pmux && (s.smu g u).run.isSome | none => false
  if badPin then stPadBusy else if badUnit then stRangeBusy else stOK

/-! ## Requests (R226–R228) -/

/-- A channel that holds no request and runs no REFP check. -/
def Chan.idle (x : Chan) : Bool := x.queue.isEmpty && x.run.isNone && !x.refRun

/-- The channels on which a mailbox's command still has a request. -/
def State.openMembers (s : State) (m : Nat) (us : List Nat) : List Nat := us.filter fun u => (s.chan (u / 2) (u % 2)).queue.any (·.mbx == m)

/-- Has a mailbox's command reached the head of each of its channels, with nothing in its way, its half in turn unless `anyHalf` (R468)? -/
def State.atHeads (s : State) (m : Nat) (us : List Nat) (anyHalf : Bool := false) : Bool :=
  !us.isEmpty && us.all fun u =>
    let x := s.chan (u / 2) (u % 2)
    x.run.isNone && !x.refRun && x.held.length < 4 &&
      match x.queue with | q :: _ => q.mbx == m && (anyHalf || q.half == s.halfIx) | [] => false

/-- The full scale in nA that scales a channel's result (R585): that of the written RANGE of the unit whose current it measures; else 0. -/
def State.currentScale (s : State) (g c : Nat) : Nat :=
  let src := (s.chan g c).source
  if 8 ≤ src ∧ src ≤ 11 then fullScale (cfgRange (s.smu g (src % 4)).cfg) else 0

/-- The conversions of a mailbox's command start, on one edge for all its members (R226); a new range spends its first period on the internal
zero (R224). -/
def State.startConversions (s : State) (m : Nat) (us : List Nat) : State :=
  let s := match s.waiting m with | some (_, w) => s.await m { w with startNs := some s.upNs } | none => s
  forAll us (fun s u =>
    let g := u / 2
    let c := u % 2
    let x := s.chan g c
    match x.queue with
    | q :: _ =>
      let zero := x.lastRange != some q.range
      let r : AmpRun := { zero := zero, firstNs := s.netNs, step := s.amp.compStep, own := x.steps, flags := if zero then 0 else s.flagsNow g c, scale := s.currentScale g c }
      s.setChan g c { x with lastRange := some q.range, run := some r, self := [] }
    | [] => s) s

/-- An AMP_CONVERT at the head of its channels: an IMMEDIATE one starts; the time at which another came there is kept (R241). -/
def State.tryConvert (s : State) (m : Nat) : State :=
  match s.waiting m with
  | some (_, w) =>
    let us := s.openMembers m w.units
    let now := us.any fun u => match (s.chan (u / 2) (u % 2)).queue with | q :: _ => q.mode == 0 | [] => false
    if now && s.atHeads m us then s.startConversions m us
    else if w.headNs.isNone && s.atHeads m us true then s.await m { w with headNs := some s.upNs }
    else s
  | none => s

/-- Does a source name a pin or unit that the gather's outputs have not claimed yet? -/
def State.needsClaim (s : State) (g src : Nat) : Bool :=
  (claimPins src).any (fun p => !(s.pin g p).claimed) || (match claimUnit src with | some u => !(s.smu g u).pmux | none => false)

/-- The claims of a source: bits 0 and 1 pins 14 and 15, bits 4–7 units 0–3. -/
def claimBits (src : Nat) : Nat :=
  b2n ((claimPins src).contains 14) + 2 * b2n ((claimPins src).contains 15) + (match claimUnit src with | some u => 2 ^ (4 + u) | none => 0)

/-- The answer of AMP_CONNECT: each member's granted claims (R244); AMP_DISCONNECT has no record. [DESIGN CHOICE, unsafe: log 8.] -/
def State.connectReply (s : State) (t : Tgt) (src : Nat) : Reply :=
  let live := t.here.filter fun pu => !s.unitSafe t.cls pu.2
  if src == 0 then memberReply t (s.safePos t) (live.map fun pu => (pu.1, { bytes := [] })) {}
  else memberReply t (s.safePos t) (live.map fun pu => (pu.1, { bytes := toLE 2 (0x3000 + pu.2) ++ toLE 2 (claimBits src) })) { len := 4 }

/-- The bound of AMP_CONNECT and of AMP_DISCONNECT, from the head of the channels (R241). -/
def selBound (src : Nat) : Nat := us (if src == 0 then 20 else 100)

/-- A mailbox's request leaves the queues of its channels. -/
def State.dequeue (s : State) (m : Nat) (us : List Nat) : State :=
  forAll us (fun s u =>
    let x := s.chan (u / 2) (u % 2)
    s.setChan (u / 2) (u % 2) { x with asks := none, queue := x.queue.filter (·.mbx != m) }) s

/-- An AMP_CONNECT or AMP_DISCONNECT at the head of its channels (R227): it asks for what it has to claim, or takes effect. -/
def State.trySelect (s : State) (m : Nat) : State :=
  match s.waiting m with
  | some (_, w) =>
    let us := s.openMembers m w.units
    let src := w.nums.headD 0
    if !s.atHeads m us then s
    else if us.any fun u => s.needsClaim (u / 2) src then
      let s := forAll us (fun s u =>
        let x := s.chan (u / 2) (u % 2)
        s.setChan (u / 2) (u % 2) { x with asks := x.queue.head?.map fun q => (src, m, q.pos) }) s
      s.await m { w with kind := .ampClaim, headNs := some s.upNs }
    else
      let s := forAll us (fun s u => s.select (u / 2) (u % 2) src) (s.dequeue m us)
      s.respondFrom m s.upNs (selBound src) (s.connectReply w.tgt src)
  | none => s

/-- Let every request go on that has come to the head of its channels; one that ends may bring others there. -/
def State.ampTry (s : State) : State :=
  if s.amp.pllLost || s.amp.inReset || s.faults.anneal || s.power.parked then s
  else (List.range 7).foldl (fun s _ => forAll (s.waiters .convert) State.tryConvert (forAll (s.waiters .ampTurn) State.trySelect s)) s

/-- Start the REFP checks that are due on idle channels (R237). A code-density run holds channel 0. -/
def State.ampChecks (s : State) : State :=
  if s.amp.pllLost || s.amp.inReset || s.faults.anneal then s
  else forAll (s.amp.gathers.map (·.1)) (fun s g => forAll [0, 1] (fun s c =>
    let x := s.chan g c
    if x.refDue && x.idle && !(c == 0 && (s.bridge g).density) then s.setChan g c { x with refDue := false, refRun := true, self := [] }
    else s) s) s

/-- After a channel has ended something: requests that have come to its head, or a check that is due on it. -/
def State.ampNext (s : State) : State := s.ampTry.ampChecks

/-- A converted value in fV as it is reported (R585): in fA, × FS / 250 mV, on a current-sense source. -/
def inAmperes (scale : Nat) (fv : Int) : Int := if scale == 0 then fv else fv * scale / 250000000

/-- The record of Table 9-9 up to its flags. VALUE and UNCERT rest on sealed coefficients and are open; so is everything of an answer
without a conversion, and the rounding of RAW_MEAN. [See R243, R585.] [DESIGN CHOICE, safe: log 55.] -/
def State.ampBody (s : State) (g c : Nat) (q : AmpReq) (r : AmpRun) : State × List Byte :=
  let (value, s) := s.fresh
  let (unc, s) := s.fresh
  let (up, s) := s.choose
  let head := toLE 2 (0x3000 + 2 * g + c) ++ toLE 1 q.range ++ toLE 1 q.rate ++ toLE 4 r.count
    ++ toLEi 8 (inAmperes r.scale (signed 64 (value % 2 ^ 64))) ++ toLEi 8 (inAmperes r.scale (unc % 2 ^ 63))
  let temp := toLEi 2 (s.calTile (tileOf g)).temp ++ toLE 2 0
  if r.count == 0 then
    let (a, s) := s.fresh
    let (b, s) := s.fresh
    let (d, s) := s.fresh
    let (t, s) := s.fresh
    (s, head ++ toLE 4 a ++ toLE 4 b ++ toLE 4 d ++ toLE 8 t ++ temp)
  else
    let m := 256 * r.sum / (r.count : Int) + b2n (up && 256 * r.sum % (r.count : Int) != 0)
    (s, head ++ toLEi 4 m ++ toLEi 4 r.min ++ toLEi 4 r.max ++ toLE 8 r.firstNs ++ temp)

/-- The head request of a channel is finished, with flags: its answer is held until it is posted (R228). -/
def State.ampFinish (s : State) (g c flags : Nat) : State :=
  let x := s.chan g c
  match x.queue with
  | [] => s
  | q :: rest =>
    let r := x.run.getD {}
    let (s, body) := s.ampBody g c q r
    let b := s.bridge g
    let a : AmpAns := { req := q, body := body, flags := r.flags ||| flags, n := r.count, step := r.step, stepChanged := r.own != x.steps
                        entry := toLE 2 x.source ++ toLE 4 (b.value % 2 ^ 32).toNat ++ toLE 1 b.mode ++ toLE 1 b.imped }
    s.setChan g c { x with queue := rest, run := none, held := x.held ++ [a] }

/-- Is an answer eligible for a receipt (R258)? -/
def State.eligible (s : State) (a : AmpAns) : Bool :=
  a.req.receipt && !s.rcptStop && s.amp.legal != 1 && a.flags == 0 && a.n == a.req.n && !a.stepChanged && a.req.opens == s.sealOpens

/-- A sheet entry (Table 10-3) of an answer. -/
def State.sheetEntry (s : State) (g : Nat) (a : AmpAns) (sheet entry : Nat) : List Byte :=
  toLE 4 sheet ++ toLE 2 entry ++ toLE 2 (s.siteOf g) ++ deviceId ++ s.ampIdent ++ s.ampChecksum ++ toLE 4 s.amp.lec ++ toLE 4 a.step
    ++ slice a.body 0 4 ++ slice a.body 44 2 ++ slice a.entry 0 2 ++ slice a.body 4 4 ++ slice a.body 24 4 ++ slice a.body 8 16
    ++ slice a.body 36 8 ++ slice a.entry 2 6 ++ toLE 4 s.amp.starts ++ toLE 2 0 ++ fit 32 a.req.context


/-- N + 1 periods of a rate (Table 9-5) in ns; MODCLK runs at 24.576 MHz (Table 1-4). -/
def periodsNs (rate n : Nat) : Nat :=
  let cycles := [96, 192, 384, 768, 1536, 3072, 6144, 12288, 24576, 49152, 98304, 245760, 491520, 983040, 2457600, 4915200, 9830400]
  n * cycles.getD rate 0 * 10 ^ 9 / 24576000

/-- The record of Table 9-9 in an answer over members. -/
def ampLayout : Layout := { len := 56, flag := some 48, safe := afSafe }

/-- Answer the AMP_CONVERT commands whose members have all been posted: NOT_RECEIPTED where a receipt was asked and some live member has
no entry (R258). -/
def State.convertsDone (s : State) : State :=
  forAll (s.waiters .convert) (fun s m =>
    match s.waiting m with
    | some (e, w) =>
      if w.units.any fun u => (s.chan (u / 2) (u % 2)).queue.any (·.mbx == m) || (s.chan (u / 2) (u % 2)).held.any (·.req.mbx == m) then s
      else
        let t := w.tgt
        let recs := w.reports.map fun r => (r.1, ({ bytes := r.2, failed := w.failed.contains r.1 } : MemRec))
        let reply := memberReply t w.safe recs ampLayout (if w.nums.headD 0 != 0 then stNotReceipted else stOK)
        match w.startNs with
        | some t0 => s.respondFrom m t0 (periodsNs (u8 e.req.payload 1) (u32 e.req.payload 4 + 1) + us 200) reply
        | none => s.respond m 0 reply
    | none => s) s

/-- Note a member's record in its waiting command. -/
def State.ampReport (s : State) (m pos : Nat) (bytes : List Byte) (failed missing : Bool) : State :=
  match s.waiting m with
  | some (_, w) =>
    s.await m { w with reports := Tab.put w.reports pos bytes, failed := if failed then w.failed ++ [pos] else w.failed
                       nums := [max (w.nums.headD 0) (b2n missing)] }
  | none => s

/-- A member of a cane whose gather has gone site-safe answers the zero record (R48, R221). -/
def State.ampSkip (s : State) (m pos : Nat) : State :=
  match s.waiting m with
  | some (_, w) => s.await m { w with safe := w.safe ++ [pos] }
  | none => s

/-- The depth of the answer queue (Table 1-3), and how many answers stand in it: each leaves when it has crossed to DCLK, 6 cycles of 1,066.7 MHz
after it came (Table 1-5). [DESIGN CHOICE, unsafe: log 136.] -/
def answerDepth : Nat := 256
/-- [DESIGN CHOICE, unsafe: log 136.] -/
def State.answersNow (s : State) : List Nat := s.amp.answers.filter fun t => decide (s.upNs < t + 6)

/-- Post the oldest answer a channel holds, where the answer queue has an entry free (R258–R260). -/
def State.ampPost (s : State) (g c : Nat) : State :=
  let x := s.chan g c
  match x.held with
  | [] => s
  | a :: rest =>
    if answerDepth ≤ s.answersNow.length then s else
    let s := s.setAmp { s.amp with answers := s.answersNow ++ [s.upNs] }
    let s := s.setChan g c { x with held := rest }
    let site := s.siteOf g
    let ok := s.eligible a
    let (s, idx, entry) := if ok then s.addEntry (s.sheetEntry g a) else (s, 0xFFFF_FFFF, [])
    let rec56 := a.body ++ toLE 4 a.flags ++ toLE 4 idx
    let s := s.emitRec 2 site rec56
    let s := if ok then s.emitRec 5 site entry else s
    let onCane : Bool := match s.waiting a.req.mbx with | some (e, _) => (s.target e.req).cane.isSome | none => false
    let skip := onCane && a.flags &&& afSafe != 0
    let s := if skip then s.ampSkip a.req.mbx a.req.pos else s.ampReport a.req.mbx a.req.pos rec56 (a.flags != 0) (a.req.receipt && !ok)
    s.convertsDone.ampNext

/-- A connection that has not been made is given up on a channel: its member counts as site-safe (R221). [DEDUCED, unsafe: log 124.] -/
def State.dropSelect (s : State) (g c : Nat) (q : AmpReq) : State :=
  let x := s.chan g c
  let s := s.setChan g c { x with asks := none, queue := x.queue.filter (· != q) }
  match s.waiting q.mbx with
  | some (_, w) => s.await q.mbx { w with units := w.units.filter (· != 2 * g + c), safe := w.safe ++ [q.pos] }
  | none => s

/-- Answer the AMP_CONNECT and AMP_DISCONNECT commands that no live member is left to. -/
def State.selectsDone (s : State) : State :=
  forAll (s.waiters .ampTurn ++ s.waiters .ampClaim) (fun s m =>
    match s.waiting m with
    | some (_, w) => if w.units.isEmpty then s.respond m 0 (s.connectReply w.tgt (w.nums.headD 0)) else s
    | none => s) s

/-- The conversions of a gather in progress end with a flag; where `all`, the requests that have not started converting too (R221,
R533). -/
def State.ampAbort (s : State) (g flag : Nat) (all : Bool) : State :=
  forAll [0, 1] (fun s c =>
    let x := s.chan g c
    let s := if x.run.isSome then s.ampFinish g c flag else s
    if all then
      let s := forAll ((s.chan g c).queue.filter (·.sel.isSome)) (fun s q => s.dropSelect g c q) s
      forAll (s.chan g c).queue (fun s _ => s.ampFinish g c flag) s
    else s) s

/-! ## Bridge emulators (R229–R235) -/

/-- |VALUE| × 1.192 09 nV/V × the excitation in µV exceeds 25 mV (R231). -/
def overLevel (value uv : Int) : Bool := decide (value.natAbs * 119209 * uv.natAbs > 25 * 10 ^ 17)

/-- Is an emulator OPEN: its switches have opened, or never closed? -/
def Bridge.isOpen (b : Bridge) : Bool := b.mode == 0 && b.span.isNone

/-- The monitor's reading (R230, R231): range, the sink's opening, clipping. -/
def Bridge.measured (b : Bridge) (uv : Int) : Bridge :=
  if b.isOpen then b
  else
    let lost := decide (uv > 6000000 ∨ uv < -200000)
    let zero := b.atZero || lost
    { b with sink := b.sink && !lost, exc := some uv, excRange := decide (uv < 500000 ∨ 5500000 < uv), trackLost := b.trackLost || lost, atZero := zero
             clip := b.mode == 2 && !zero && overLevel b.value uv }

/-- The switches open. -/
def Bridge.opened (b : Bridge) : Bridge := { b with mode := 0, span := none, sink := false, excRange := false, clip := false }

/-- Answer the AMP_BRIDGE commands whose emulators have all settled. -/
def State.spansDone (s : State) : State :=
  forAll (s.waiters .ampSpan) (fun s m =>
    match s.waiting m with
    | some (e, w) =>
      if w.units.any fun g => (s.bridge g).span.isSome then s
      else
        let t := w.tgt
        s.respond m (us 100) (memberReply t (s.safePos t) (t.here.map fun pu => (pu.1, { bytes := [] })) {})
    | none => s) s

/-- A gather's emulator and multiplexer open, and its claims end (R221, R466, Table 21-2). -/
def State.ampOpen (s : State) (g : Nat) : State :=
  let s := s.setBridge g (s.bridge g).opened
  ((s.select g 0 0).select g 1 0).spansDone

/-- A gather goes site-safe (R221), or the power-fail park takes it (Table 21-2). -/
def State.ampSafe (s : State) (g flag : Nat) : State := if s.amp.gathers.any (·.1 == g) then ((s.ampAbort g flag true).ampOpen g).selectsDone.ampNext else s

/-! ## REFP checks and the adjustment run (R236, R358, R360) -/

/-- Answer the AMP_REFCHECK commands whose checks have all ended: their number, then mean, minimum and maximum in µV (R244, R590). [DESIGN CHOICE, unsafe: log 8.] -/
def State.refsDone (s : State) : State :=
  forAll (s.waiters .ampRef) (fun s m =>
    match s.waiting m with
    | some (_, w) =>
      if w.units.any fun u => (s.chan (u / 2) (u % 2)).refFor == some m then s
      else
        let vs := w.units.filterMap fun u => (s.chan (u / 2) (u % 2)).refUv
        let (up, s) := s.choose
        let mean := if vs.isEmpty then 0 else vs.sum / (vs.length : Int) + b2n (up && vs.sum % (vs.length : Int) != 0)
        s.respond m 60000000 (.ok (toLE 2 vs.length ++ toLE 2 0 ++ toLEi 4 mean ++ toLEi 4 (minOf vs) ++ toLEi 4 (maxOf vs)))
    | none => s) s

/-- Delete the candidate set and, while the legal state is OPEN, let the run start again. -/
def State.newCandidate (s : State) : State := s.setAmp { s.amp with candidate := [], adjusting := s.amp.legal == 1 }

/-! ## Lifecycle transitions (R512, R514) -/

/-- Is a transition one of Table 20-4, its condition met? -/
def Sec.mayGo (x : Sec) (target : Nat) : Bool :=
  target == x.life + 1 && target ≤ 4 && (target != 1 || (x.root.isSome && x.certs.any (·.1 == 1) && x.certs.any (·.1 == 2)))

/-- The new state is written: in DISPOSED root, certificates and seeds are erased (R515); BOOTS counts from PROVISIONED (R516). -/
def Sec.go (x : Sec) (target : Nat) : Sec :=
  let x := { x with life := target, boots := if target == 1 then 0 else x.boots }
  if target == 4 then { x with erased := true, root := none, certs := [] } else x

/-- What a transition waits for: a commit, a reservation or a sheet close that has started. -/
def State.lifeBusy (s : State) : Bool := !s.amp.commits.isEmpty || s.sealing.isSome

/-- Commit a transition: receipts stop outside PRODUCTION, which closes the open sheet (R256, R264); the reset follows the response. -/
def State.lifeSet (s : State) (target m : Nat) : State :=
  let s := { s with sec := s.sec.go target, power := s.power.resetBy 3 m s.upNs }
  if s.sec.life != lifeProduction && s.openSheet.isSome then s.closeSheet 2 else s

/-- Commit a transition that has waited, and answer it. -/
def State.lifeCommit (s : State) (target m : Nat) : State :=
  if !s.sec.mayGo target then s.respond m (us 300) (Reply.err stLifecycle) else (s.lifeSet target m).respond m (us 300) (Reply.ok [])

/-- The transitions that wait, once nothing holds them. -/
def State.lifeTry (s : State) : State :=
  if s.lifeBusy || s.power.parked then s
  else forAll (s.waiters .signIndex) (fun s m => match s.waiting m with | some (_, w) => s.lifeCommit (w.nums.headD 0) m | none => s) s

/-! ## Reset of the Ampoule (R210) -/

/-- The Ampoule goes into reset: switches open, claims end, its volatile state is lost, unsealed sheets are abandoned. -/
def State.ampReset (s : State) : State :=
  let gs := s.amp.gathers.map (·.1)
  let s := s.abandonSheets
  let s := { s with sec := { s.sec with running := s.sec.running.set 1 none } }
  let a := s.amp
  let s := s.setAmp { a with inReset := true, gathers := [], compStep := 0, refusals := 0, candidate := [], adjusting := false, answers := []
                             commits := [], torn := a.torn || !a.commits.isEmpty, treeBusy := false }
  forAll gs (fun s g => s.syncClaims g) s

/-- What the reset does to the commands it holds: queue-path ones are answered AMP_OFFLINE, mailbox 5 is emptied. -/
def State.ampDrop (s : State) : State :=
  let s := forAll (List.range 7) (fun s m =>
    match s.waiting m with
    | some (_, w) =>
      if m != 5 && [.convert, .ampTurn, .ampClaim, .ampSpan, .ampRef, .ampSheet, .adjust].contains w.kind then s.respond m 0 (Reply.err stAmpOffline) else s
    | none => s) s
  (s.setMbx 5 { s.mailbox 5 with entries := [] }).fencesDone.lifeTry

end Sys2Proof.Machine
end

