-- ==== Sys2Proof/Machine/Envelope.lean ====
section
/-!
DEFINITION. The command envelope (chapter 16): the groups and opcodes, doorbells and credits (R396, R397), the checks of R402 in
order, execution in doorbell order (R403), start-up and Anneal (R413, R415, R498), and the one way every firmware command runs.
-/
namespace Sys2Proof.Machine

/-! ## Opcodes (Table 16-8) -/

/-- The number of commands defined in a group; they are numbered from 1. -/
def groupSize : Nat → Nat
  | 0x01 => 6 | 0x02 => 6 | 0x03 => 7 | 0x04 => 12 | 0x05 => 11 | 0x06 => 8 | 0x07 => 12 | 0x08 => 7 | 0x09 => 9
  | 0x0A => 9 | 0x0B => 7 | 0x0C => 12 | 0x0D => 8 | 0x0E => 6 | 0x0F => 10 | 0x10 => 4 | _ => 0

def groupOf (op : Half) : Nat := op.toNat / 256

/-- The link's own opcodes (R480). -/
def linkOpcode (op : Half) : Bool := 0x0D80 ≤ op.toNat && op.toNat ≤ 0x0D8F

/-- Is an opcode defined (R421)? An undefined command of group 0x07 passes, for the Ampoule to refuse; the link's own pass here and are
refused by their mailbox (R480). -/
def opcodePasses (op : Half) : Bool :=
  groupOf op == 0x07 || linkOpcode op || (1 ≤ op.toNat % 256 && op.toNat % 256 ≤ groupSize (groupOf op))

/-- The groups a mailbox accepts (Table 16-1): mailbox 4 takes what the twin sends, which arrives by TWIN_LINK_FRAME, and group
0x0D. Mailbox 5 is judged by Table 9-6 (R412). -/
def groupAccepted (m : Nat) (op : Half) : Bool := if m == 4 then groupOf op == 0x0D else !linkOpcode op

/-- The commands a running processor accepts in Anneal (R498): SYS but FENCE and POWER, FAULT but FLT_FORCE, the status commands
named there, and SEC_CERT, SEC_ATTEST and IMG_STATUS as the read-only attestation and identity commands. [DEDUCED, unsafe: log 109.] -/
def annealAllows (op : Half) : Bool :=
  [0x0101, 0x0102, 0x0103, 0x0105, 0x0E01, 0x0E02, 0x0E04, 0x0E05, 0x0E06, 0x0201, 0x0305, 0x0B04, 0x0C04, 0x0C02,
    0x0D02, 0x0D06, 0x0D07, 0x0D08, 0x0F01, 0x0F02, 0x0F06].contains op.toNat

/-! ## Doorbells and credits -/

/-- Outstanding commands (R396): every entry but the refusal slot's. [DEDUCED, unsafe: log 54.] -/
def Mailbox.outstanding (x : Mailbox) : Nat := (x.entries.filter (!·.refusal)).length

/-- An MBX_FULL answer in the refusal slot. -/
def refusalEntry (op : Half) (r : Req) (x : Option Word) (st : Half) : Entry :=
  { opcode := op, req := r, xseq := x, refusal := true, phase := .formed (mkParts op r.tag st false 0 [[]]) }

/-- An entry answered at its doorbell with a status (R413, R415 by the front executor). -/
def formedEntry (op : Half) (r : Req) (x : Option Word) (st : Half) : Entry :=
  { opcode := op, req := r, xseq := x, phase := .formed (mkParts op r.tag st false 0 [[]]) }

/-- Ring a mailbox with a request (R397, R413, R415): while the refusal slot is occupied a doorbell is ignored, however many commands are
outstanding. Answers the state and whether the buffer was taken from the window. [DEDUCED, unsafe: log 22.] -/
def State.ring (s : State) (op : Half) (r : Req) (xseq : Option Word := none) : State × Bool :=
  let m := r.mbx.val
  let x := s.mailbox m
  let front := m == 0 || m == 1 || m == 6
  if m == 5 && s.amp.inReset then (s, false)
  else if x.entries.any (·.refusal) then (s.setMbx m { x with ignored := x.ignored + 1 }, false)
  else if x.outstanding ≥ 16 then
    ((s.setMbx m { x with fulls := x.fulls + 1, entries := x.entries ++ [refusalEntry op r xseq stMbxFull] }).pumpMbx m, false)
  else if m != 5 && s.power.pstate == 0 then
    if front then (s.setMbx m { x with accepted := x.accepted + 1, entries := x.entries ++ [formedEntry op r xseq stStarting] }, true)
    else (s, false)
  else if m != 5 && s.faults.anneal && s.faults.held then
    if front then (s.setMbx m { x with accepted := x.accepted + 1, entries := x.entries ++ [formedEntry op r xseq stInAnneal] }, true)
    else (s, false)
  else (s.setMbx m { x with accepted := x.accepted + 1, entries := x.entries ++ [{ opcode := op, req := r, xseq := xseq, rungNs := s.upNs }] }, true)

/-! ## The head of a mailbox -/

/-- The first command of a mailbox whose response is not formed. [DEDUCED, unsafe: log 22.] -/
def Mailbox.head (x : Mailbox) : Option Entry := x.entries.find? (!·.isFormed)

/-- The command at the head starts to execute; its time counts from its coming to the head (R406, R411). -/
def State.startHead (s : State) (m : Nat) : State :=
  let x := s.mailbox m
  let go := fun (e : Entry) => { e with phase := .running { kind := .checking } (x.headSince e) }
  s.setMbx m { x with entries := updFirst (!·.isFormed) go x.entries }

/-- A LOST device refuses what names its gathers or units, but for the groups that R455 lets it accept. [DEDUCED, unsafe: log 80.] -/
def State.lostRefuses (s : State) (op : Half) (r : Req) : Bool :=
  s.twin.st == 4 && hClass (r.target.setWidth 16) != cDevice && !([0x01, 0x0D, 0x0E, 0x0F].contains (groupOf op))

/-- The commands the recovery loader accepts (R520). [DEDUCED, unsafe: log 69.] -/
def recoveryAllows (op : Half) : Bool := [0x0101, 0x0102, 0x0105, 0x0F01, 0x0F02, 0x0F03, 0x0F04, 0x0F05, 0x0F06].contains op.toNat

/-- Steps 2 to 7 of R402 on a command at its head, for the classes it takes; on mailbox 5 step 2 of Table 9-6 follows them (R412). The CRC has been checked where there are bytes
(MBX_DOORBELL); a request given as a row is whole. [DEDUCED, unsafe: log 6.] -/
def State.envelope (s : State) (op : Half) (r : Req) (accept : List Nat) : Half :=
  if r.payload.length > 4076 then stBadEnvelope
  else if !opcodePasses op then stUnknownOpcode
  else if r.mbx.val != 5 && !groupAccepted r.mbx.val op then stWrongMailbox
  else if r.flags.toNat / 2 != 0 || r.rsv != 0 then stBadField
  else
    let st := s.targetStatus r.target accept
    if st == stOK && r.mbx.val == 5 && groupOf op != 0x07 then stPathRefused
    else if st == stOK && s.lostRefuses op r then stNotLocal
    else st

/-- Does the target of a command name only the half that is not in turn, or, during a swap, any half (R465, R467)? A gather handle names
its site's half, a unit handle the half that TWIN_HALF chose for the mailbox. A cane is read from that half's descriptors, but a
twin-spanning one is the same in both and names the halves of its members. Tile and device handles name no half. [DEDUCED, unsafe: log 84.] -/
def State.otherHalf (s : State) (r : Req) : Bool :=
  s.double &&
    let h : Half := r.target.setWidth 16
    let chosen : Bool := ((s.mailbox r.mbx.val).half == 1) != s.twin.otherIn
    let other : Option Bool :=
      if hClass h == cGather then some (s.localIx h).isNone
      else if hClass h ≤ 5 then some chosen
      else if hClass h == 0xC then
        match s.cane (hIndex h) with
        | some c => if c.twinSpan then some ((s.flat (hIndex h)).all fun m => (s.localIx m).isNone) else some chosen
        | none => some chosen
      else none
    match other with
    | some b => b || s.twin.swapping
    | none => false

/-- Does a request wait for the half that it names: its header and its handle pass the checks, so far as they can be judged without that half
(R36, R402, R467)? What a cane's handle stands for is judged by the half that holds the descriptor. -/
def State.waitsForHalf (s : State) (op : Half) (r : Req) (accept : List Nat) : Bool :=
  let h : Half := r.target.setWidth 16
  let cane : Bool := hClass h == 0xC && r.target.toNat < 65536 && handleOk h && accept.contains 0xC
  s.otherHalf r && (s.envelope op r accept == stOK || cane && [stBadHandle, stWrongClass].contains (s.envelope op r accept))

/-- A command that needs an edge generator, a digitiser converter or a time-interval interpolator returns the device from IDLE to ACTIVE
(R543): STROKE_START, BCAST_START, TIU_START, TIU_SELFTEST, CAP_CONFIG, CAP_ARM. -/
def State.wakeIdle (s : State) (op : Half) : State :=
  if s.power.pstate == 2 && [0x0303, 0x0408, 0x0802, 0x0806, 0x0901, 0x0903].contains op.toNat then s.setPstate 1 else s

/-- The return to ACTIVE for the command that runs in a mailbox: its bound grows by 50 µs where the device was IDLE (R543). -/
def State.wakeFor (s : State) (op : Half) (m : Nat) : State :=
  let u := s.wakeIdle op
  let x := u.mailbox m
  let f := fun (e : Entry) => { e with woke := u.power.pstate != s.power.pstate }
  u.setMbx m { x with entries := updFirst Entry.isRunning f x.entries }

/-! ## Twin-spanning canes (R45, R467) and the shadow (R458) -/

/-- A command that awaits the other half's members: the local records so far, the positions still to report, and in `nums` the bound in
ns and whether the answer is one of its own form (its blocks in `reports`). -/
def spanWait (k : WaitKind) (t : Tgt) (safe : List Nat) (recs : List (Nat × MemRec)) (lay : Layout) (bound own : Nat) : Wait :=
  { kind := k, tgt := t, lay := lay, units := t.twins, safe := safe, reports := recs.map fun r => (r.1, r.2.bytes)
    failed := (recs.filter (·.2.failed)).map (·.1), nums := [bound, own] }

/-- The answer of a command on a twin-spanning cane, with what has been reported since. [DEDUCED, unsafe: log 95.] -/
def Wait.spanReply (w : Wait) (safe : List Nat) (recs : List (Nat × MemRec)) : Reply :=
  let mine := w.reports.map fun r => (r.1, ({ bytes := r.2, failed := w.failed.contains r.1 } : MemRec))
  if w.nums.getD 1 0 == 1 then { blocks := w.reports.map (·.2) } else memberReply w.tgt (w.safe ++ safe) (mine ++ recs) w.lay

/-- 50 µs more than a command's own bound (R45). -/
def spanBound (bound : Nat) : Nat := if bound == 0 then 0 else bound + us 50

/-- Twice a command's own bound, two turn changes and the wait for the turn (R467, R468). -/
def State.doubleBound (s : State) (bound : Nat) : Nat :=
  if bound == 0 then 0 else 2 * bound + 2 * (12900 + max (us s.twin.settle) 2500000) + us (1000 * s.twin.turnLimit) + 2513000

/-- The commands whose acceptance the partner's shadow repeats (R458): stroke tables, timing sets, SEQ_CONFIG, vector memory, stencils,
pins, sentinels, SMU, TIU and CAP settings, canes, the broadcast table, stream contexts, JRN_CONFIG, patch sets (Table 22-1), and Hatch settings of gathers. [DEDUCED, unsafe: log 85.] -/
def shadowed (op : Half) (r : Req) : Bool :=
  [0x0202, 0x0203, 0x0205, 0x0301, 0x0302, 0x0307, 0x0401, 0x0403, 0x0404, 0x0405, 0x0407, 0x0409, 0x040A, 0x040B, 0x0501, 0x0502, 0x0503,
    0x0504, 0x0505, 0x0509, 0x0601, 0x0602, 0x0603, 0x0604, 0x0801, 0x0901, 0x0902, 0x0D05, 0x1001, 0x1002].contains op.toNat ||
  ([0x0A01, 0x0A02, 0x0A03, 0x0A05].contains op.toNat && [6, 0xC].contains (hClass (r.target.setWidth 16)))

/-- Has a command been accepted? -/
def Act.accepted : Act → Bool
  | .done rep => rep.status == stOK
  | .members _ _ _ _ => true
  | .wait _ => true

/-- The answer by which a command's own part refuses it. -/
def Act.refusal (a : Act) : Option Reply :=
  match a with
  | .done rep => if rep.status == stOK then none else some rep
  | .members _ _ _ _ => none
  | .wait _ => none

/-- The completion bound of a command that waits, for a fence that may count it (R419). -/
def State.boundBy (s : State) (m bound : Nat) : State :=
  let x := s.mailbox m
  s.setMbx m { x with entries := updFirst Entry.isRunning (fun e => { e with bound := bound }) x.entries }

/-- An accepted write goes to the partner's shadow: at once in PAIRED; one to the partner's half in DOUBLE joins the shadow held here; any
other is owed to the partner until the devices pair. [DEDUCED, unsafe: log 85.] -/
def State.shadowWrite (s : State) (op : Half) (r : Req) : State :=
  if !shadowed op r then s
  else if s.twin.st == 2 then s.mirrorSend (.shadow op r)
  else if s.twin.otherIn then s.setTwin { s.twin with shadow := s.twin.shadow ++ [(op, r)] }
  else s.setTwin { s.twin with owed := s.twin.owed ++ [(op, r)] }

/-- A CANE_DEFINE that carries TWIN_SPAN (R44). -/
def definesSpan (op : Half) (r : Req) : Bool := op == 0x0202 && bit (u8 r.payload 3) 1

/-- The target of a command that the other half executes too: a twin-spanning cane, in PAIRED always (R44), in DOUBLE where it has members
of the other half that are not masked; and, in PAIRED, the definition of one. In DOUBLE a descriptor changes in both halves at once. -/
def State.spans (s : State) (op : Half) (r : Req) : Option Tgt :=
  let h : Half := r.target.setWidth 16
  if definesSpan op r then (if s.twin.st == 2 then some {} else none)
  else if hClass h == 0xC && (s.cane (hIndex h)).any (·.twinSpan) && op != 0x0201 && op != 0x0204 then
    let t := s.target r
    if s.twin.st == 2 || (s.double && groupOf op != 2 && !t.twins.isEmpty) then some t else none
  else none

/-- The commands that start new work for a half, which wait once the other half wants its turn (R468): STROKE_START, BCAST_START,
SMU_MEASURE, TIU_START, CAP_ARM, AMP_CONVERT. -/
def startsWork (op : Half) : Bool := [0x0303, 0x0408, 0x0605, 0x0802, 0x0903, 0x0704].contains op.toNat

/-- On mailbox 5 the Ampoule itself judges path and target, and counts what it refuses (R239, R412). [DEDUCED, unsafe: log 108.] -/
def State.countRefused (s : State) (m : Nat) (st : Half) : State :=
  if m == 5 && [stPathRefused, stWrongClass, stBadHandle].contains st then { s with amp := { s.amp with refusals := sat32 s.amp.refusals } } else s

/-- What follows a command's own part: an IDLE device that an accepted command needs is ACTIVE (R543); an accepted write goes to the
partner's shadow (R458); a command on a twin-spanning cane goes to the other half too (R45, R467); the response is formed, or awaited
(R404). `t` is the target as accepted (R43), `span` the same where the other half executes the command too. [DESIGN CHOICE, unsafe: log 9.] -/
def State.finish (s : State) (op : Half) (bound : Nat) (r : Req) (t : Tgt) (span : Option Tgt) (a : Act) : State :=
  let m := r.mbx.val
  let s := if a.accepted then (s.wakeFor op m).shadowWrite op r else s
  let ok := a.accepted && span.isSome
  let s := if ok && s.twin.st == 2 then s.linkSend (.forwarded op r) else if ok then s.requestTurn else s
  let s := s.boundBy m bound
  match a with
  | .wait w => s.await m { w with tgt := t }
  | .done rep =>
    match span, ok && s.double with
    | some t, true =>
      let b := spanWait .otherHalf t [] [] {} (s.doubleBound bound) 1
      s.await m { b with reports := rep.blocks.zipIdx.map fun x => (x.2, x.1) }
    | _, _ => s.respond m bound rep
  | .members t safe recs lay =>
    if !ok || t.twins.isEmpty then s.respond m (if ok then spanBound bound else bound) (memberReply t safe recs lay)
    else if s.double then s.await m (spanWait .otherHalf t safe recs lay (s.doubleBound bound) 0)
    else s.await m (spanWait .twinReport t safe recs lay (spanBound bound) 0)

/-- A write that concerns both halves of a device in DOUBLE duty is kept for the partner's half too, or owed to the partner's own: the list that
`shadowWrite` does not take it to. -/
def State.otherWrite (s : State) (op : Half) (r : Req) : State :=
  if s.twin.otherIn then s.setTwin { s.twin with owed := s.twin.owed ++ [(op, r)] }
  else s.setTwin { s.twin with shadow := s.twin.shadow ++ [(op, r)] }

/-- Is the target a twin-spanning cane? -/
def State.namesSpan (s : State) (r : Req) : Bool :=
  let h : Half := r.target.setWidth 16
  hClass h == 0xC && (s.cane (hIndex h)).any (·.twinSpan)

/-- What follows a command's own part, which has left `u` and decided `a`. A change of a twin-spanning descriptor, once it has passed the
checks, is sent to the twin and made here when the twin has made it (R44); in DOUBLE duty it has been made in both halves (R46). -/
def State.conclude (s : State) (op : Half) (bound : Nat) (r : Req) (u : State) (a : Act) : State :=
  let span := s.spans op r
  if groupOf op == 2 && a.accepted && span.isSome && s.twin.st == 2 then
    (s.linkSend (.forwarded op r)).await r.mbx.val { kind := .twinReport, nums := [bound, 0] }
  else if groupOf op == 2 && a.accepted && s.double && s.namesSpan r && shadowed op r then (u.otherWrite op r).finish op bound r (s.target r) span a
  else u.finish op bound r (s.target r) span a

/-- What follows the checks: the command's own part runs. [DESIGN CHOICE, unsafe: log 73.] -/
def State.runBody (s : State) (op : Half) (bound : Nat) (r : Req) (body : State → Req → State × Act) : State :=
  let (u, a) := body s r
  s.conclude op bound r u a

/-- Form the response of the last command of a mailbox, at its doorbell. -/
def State.refuseLast (s : State) (m : Nat) (rep : Reply) : State :=
  let x := s.mailbox m
  match x.entries.getLast? with
  | none => s
  | some e =>
    (s.setMbx m { x with entries := x.entries.dropLast ++ [e.respond 0 0 0 0 rep]
                         badCrc := if rep.status == stBadCrc then x.badCrc + 1 else x.badCrc }).pumpMbx m

/-- What the checks answer to a request, with the state that a refusal leaves: the recovery loader (R520), steps 2 to 7 of R402, Anneal (R415), and step 8,
the checks of the command itself. -/
def State.verdict (s : State) (op : Half) (accept : List Nat) (r : Req) (body : State → Req → State × Act) : State × Option Reply :=
  let m := r.mbx.val
  let st := s.envelope op r accept
  if m != 5 && s.power.img == 2 && !recoveryAllows op then (s, some (Reply.err stStarting))
  else if st != stOK then (s.countRefused m st, some (Reply.err st))
  else if m != 5 && s.faults.anneal && !annealAllows op then (s, some (Reply.err stInAnneal))
  else
    let (u, a) := body s r
    match a.refusal with
    | some rep => (u, some rep)
    | none => (s, none)

/-- The checks of R402 at the doorbell of a command that does not reach the head at once: refused, its response is formed and takes its place
in doorbell order, and the mailboxes are otherwise as the doorbell left them. What only the half of the target can judge is left to the head
(R467). [DEDUCED, unsafe: log 134.] -/
def State.bellCheck (s : State) (op : Half) (bound : Nat) (accept : List Nat) (r : Req) (body : State → Req → State × Act) : State :=
  let m := r.mbx.val
  let x := s.mailbox m
  match x.entries.getLast? with
  | none => s
  | some e =>
    if !e.isQueued || s.power.parked || s.power.pstate == 3 || s.waitsForHalf op r accept then s
    else
      match s.verdict op accept r body with
      | (u, some rep) => ({ u with mbx := s.mbx } : State).refuseLast m rep
      | (_, none) => s.setMbx m { x with entries := x.entries.dropLast ++ [{ e with bound := bound }] }

/-- How a firmware command runs (R402–R404): the request is at the head of its mailbox, having been rung before or being rung now.
It executes when every command before it has formed its response; otherwise it stays queued, once it has passed the checks of its doorbell. At
the head its checks come in the order of R402, then its own part decides. `bound` is its completion bound in ns. [See R17.] [DEDUCED, unsafe: log 6, 22.] -/
def State.firmware (s : State) (op : Half) (bound : Nat) (accept : List Nat) (r : Req)
    (body : State → Req → State × Act) : State :=
  let m := r.mbx.val
  let matchHead : Bool := match (s.mailbox m).head with | some e => e.isQueued && e.opcode == op && e.req == r | none => false
  let free := (s.mailbox m).head.isNone
  let (s, taken) := if matchHead then (s, true) else s.ring op r
  let atHead : Bool := match (s.mailbox m).head with | some e => e.isQueued && e.opcode == op && e.req == r | none => false
  if !taken || s.power.parked || s.power.pstate == 3 then s
  else if !(matchHead || free) || !atHead then s.bellCheck op bound accept r body
  else if s.waitsForHalf op r accept then (if s.twin.swapping then s else s.requestTurn)
  else if s.twin.turnWanted && startsWork op then (if matchHead then s else s.bellCheck op bound accept r body)
  else
    let s := s.startHead m
    let st := s.envelope op r accept
    if m != 5 && s.power.img == 2 && !recoveryAllows op then s.respond m bound (Reply.err stStarting)
    else if st != stOK then (s.countRefused m st).respond m bound (Reply.err st)
    else if m != 5 && s.faults.anneal && !annealAllows op then s.respond m bound (Reply.err stInAnneal)
    else s.runBody op bound r body

/-- A payload of exactly n bytes, or BAD_LENGTH (R401). -/
def needLen (r : Req) (n : Nat) : Half := if r.payload.length == n then stOK else stBadLength

/-- Checks in order: the first status other than OK. [DEDUCED, unsafe: log 6.] -/
def checks (l : List Half) : Half := (l.find? (· != stOK)).getD stOK

/-- A body that refuses with a status, or goes on. [DEDUCED, unsafe: log 6.] -/
def guarded (s : State) (st : Half) (go : Unit → State × Act) : State × Act := if st != stOK then (s, .st st) else go ()

end Sys2Proof.Machine
end

