-- ==== Sys2Proof/Machine/Amp.lean ====
section
/-!
DEFINITION. The AMP commands of Tables 9-7 and 9-8 but those of the seal, and the events at the Ampoule's instruments.
-/
namespace Sys2Proof.Machine

/-! ## Checks (Table 9-6) -/

/-- A refusal by the Ampoule is counted in AMP_REFUSALS (R239). [DEDUCED, unsafe: log 108.] -/
def State.countRefusal (s : State) : State := s.setAmp { s.amp with refusals := sat32 s.amp.refusals }

/-- A check of Table 9-6: a refusal is counted. [DEDUCED, unsafe: log 108.] -/
def ampGuard (s : State) (st : Half) (go : Unit → State × Act) : State × Act := if st != stOK then (s.countRefusal, .st st) else go ()

/-- The depths of the two request intakes (Table 9-1), and how many requests of a path stand at the Ampoule: one for each mailbox whose command
waits there (R403). [DEDUCED, unsafe: log 54.] -/
def intakeDepth (legal : Bool) : Nat := if legal then 16 else 64
def State.intakeFill (s : State) (legal : Bool) : Nat :=
  ((List.range 7).filter fun m => (m == 5) == legal && match s.waiting m with | some (e, _) => groupOf e.opcode == 7 | none => false).length

/-- In the Ampoule's reset the management processor refuses every request (R210); an Ampoule without an extension answers each with the same
(R521). A request for a full intake is refused; then come steps 2 and 3 of Table 9-6. [See R238, R240.] [DEDUCED, unsafe: log 54.] -/
def ampEnter (s : State) (r : Req) (len : Nat) (legalOnly : Bool) (go : Unit → State × Act) : State × Act :=
  let legal := r.mbx.val == 5
  if s.amp.inReset then (s, .st stAmpOffline)
  else if intakeDepth legal ≤ s.intakeFill legal then (s, .st stQueueFull)
  else ampGuard s (checks [unless' (!s.amp.noImage) stAmpOffline, unless' (!legalOnly || legal) stPathRefused, needLen r len]) go

/-- Step 7: MODCLK unlocked. -/
def State.ampOnline (s : State) : Half := unless' (!s.amp.pllLost) stAmpOffline

/-- Step 8: every unmasked member lies in a gather in the safe state (R221). -/
def State.ampLive (s : State) (t : Tgt) : Half := unless' (t.units.isEmpty || !(s.liveUnits t).isEmpty) stSafeState

/-! ## Commands -/

def ampIdentBody (s : State) (r : Req) : State × Act :=
  ampEnter s r 0 false fun _ => ampGuard s s.ampOnline fun _ => (s, .ok (s.ampIdent ++ s.ampChecksum))

/-- A request that reaches channel 0 ends a code-density run there (R359). -/
def State.leaveDensity (s : State) (u : Nat) : State :=
  let b := s.bridge (u / 2)
  if u % 2 == 0 && b.density then s.setBridge (u / 2) { b with density := false } else s

/-- A change of source takes its place among the requests of its channels (R227); where every member is site-safe there is none. [DEDUCED, unsafe: log 124.] -/
def State.enqueueSelect (s : State) (r : Req) (t : Tgt) (src : Nat) : State × Act :=
  let live := t.here.filter fun pu => !s.unitSafe t.cls pu.2
  if live.isEmpty then (s, s.configAct t)
  else
    let s := forAll live (fun s pu =>
      let x := s.chan (pu.2 / 2) (pu.2 % 2)
      let s := s.setChan (pu.2 / 2) (pu.2 % 2) { x with queue := x.queue ++ [{ mbx := r.mbx.val, pos := pu.1, half := s.halfIx, sel := some src }], self := [] }
      s.leaveDensity pu.2) s
    (s, .wait { kind := .ampTurn, units := live.map (·.2), nums := [src] })

def ampConnectBody (s : State) (r : Req) : State × Act :=
  let t := s.target r
  let src := u8 r.payload 0
  ampEnter s r 8 false fun _ =>
    ampGuard s (checks [unless' (src ≤ 0xD && zeros r.payload 1 7) stBadField, s.ampOnline, s.ampLive t]) fun _ => s.enqueueSelect r t src

def ampDisconnectBody (s : State) (r : Req) : State × Act :=
  ampEnter s r 0 false fun _ => ampGuard s s.ampOnline fun _ => s.enqueueSelect r (s.target r) 0

/-- The source that a channel has once the requests before have run. -/
def Chan.sourceAhead (x : Chan) : Nat := (x.queue.filterMap (·.sel)).getLast?.getD x.source

/-- The ranges that Table 9-2 allows a source. -/
def sourceRange (src range : Nat) : Bool :=
  if 8 ≤ src ∧ src ≤ 11 then range == 1 else if src == 0xC then range < 2 else if src == 0xD then range == 3 else true

/-- [See R241, R242.] [DEDUCED, unsafe: log 54.] -/
def ampConvertBody (s : State) (r : Req) : State × Act :=
  let t := s.target r
  let p := r.payload
  let mode := u8 p 2
  let live := t.here.filter fun pu => !s.unitSafe t.cls pu.2
  let source := fun u => (s.chan (u / 2) (u % 2)).sourceAhead
  let trigOk := match mode with | 0 => u8 p 3 == 0 | 1 => u8 p 3 ≤ 8 | _ => u8 p 3 ≤ 15
  ampEnter s r 48 false fun _ =>
    ampGuard s (checks [
        unless' (u8 p 0 ≤ 3 && u8 p 1 ≤ 16 && mode ≤ 2 && trigOk && 1 ≤ u32 p 4 && u32 p 4 ≤ 16777216 &&
          ((u32 p 8 == 0) == (mode == 0)) && u8 p 12 < 2 && zeros p 13 3 && t.units.all fun u => sourceRange (source u) (u8 p 0)) stBadField,
        s.ampOnline, s.ampLive t,
        unless' (live.all fun pu => source pu.2 != 0) stNotConnected,
        unless' (u8 p 12 == 0 || !s.rcptStop) stReceiptsStopped]) fun _ =>
      if live.isEmpty then (s, .members t [] [] ampLayout) else
      let s := forAll live (fun s pu =>
        let g := pu.2 / 2
        let c := pu.2 % 2
        let q : AmpReq := { mbx := r.mbx.val, pos := pu.1, range := u8 p 0, rate := u8 p 1, mode := mode, trig := u8 p 3, n := u32 p 4
                            timeout := u32 p 8, receipt := u8 p 12 == 1, context := slice p 16 32, opens := s.sealOpens, half := s.halfIx }
        let x := s.chan g c
        (s.setChan g c { x with queue := x.queue ++ [q], self := [] }).leaveDensity pu.2) s
      (s, .wait { kind := .convert, units := live.map (·.2), safe := s.safePos t, nums := [0] })

/-- An emulator under AMP_BRIDGE, and the span change it starts (R232). One that is on its way to OPEN is not OPEN yet. -/
def Bridge.set (b : Bridge) (mode imped : Nat) (value : Int) : Bridge :=
  let changed := b.mode != mode || b.imped != imped || b.value != value
  let span : Option Span :=
    if b.isOpen then if mode == 0 then none else some { kind := .leave, phase := 2 }
    else if mode == 0 then if b.mode == 0 then b.span else some { kind := .go, phase := 1 }
    else if changed || b.atZero then some { kind := .stay, phase := 1 }
    else b.span
  { b with mode := mode, imped := imped, value := value, span := span, sink := if mode == 0 then b.sink && span.isSome else imped != 3, trackLost := false, cleared := false, atZero := false
           clip := b.clip && span.isNone, density := false }

def ampBridgeBody (s : State) (r : Req) : State × Act :=
  let t := s.target r
  let p := r.payload
  let mode := u8 p 0
  let value := i32 p 4
  let live := s.liveUnits t
  ampEnter s r 8 false fun _ =>
    ampGuard s (checks [
        unless' (mode ≤ 2 && u8 p 1 ≤ 3 && zeros p 2 2 && decide (-8388608 ≤ value) && decide (value ≤ 8388607)) stBadField,
        unless' (mode != 2 || t.units.all fun g => !overLevel value ((s.bridge g).exc.getD 0)) stBadLevel,
        s.ampOnline, s.ampLive t, unless' (!s.clearLow) stClearActive]) fun _ =>
      let s := forAll live (fun s g => (s.setBridge g ((s.bridge g).set mode (u8 p 1) value)).flagRuns g) s
      let moving := live.filter fun g => (s.bridge g).span.isSome
      if moving.isEmpty then (s, s.configAct t) else (s, .wait { kind := .ampSpan, units := moving })

/-- [DESIGN CHOICE, unsafe: log 8.] -/
def ampBridgeStatusBody (s : State) (r : Req) : State × Act :=
  let t := s.target r
  ampEnter s r 0 false fun _ =>
    ampGuard s s.ampOnline fun _ =>
      (s, s.readMembers t (fun g =>
        let b := s.bridge g
        { bytes := toLE 1 b.mode ++ toLE 1 b.imped ++ toLE 2 0 ++ toLEi 4 b.value ++ toLEi 4 (b.exc.getD 0) ++ toLE 4 b.flags
          failed := b.excRange || b.trackLost }) { len := 16, flag := some 12 })

/-- One channel of AMP_STATUS. -/
def Chan.image (x : Chan) : List Byte :=
  toLE 1 x.source ++ toLE 1 (x.lastRange.getD 0xFF) ++ toLE 1 (min 255 x.queue.length) ++ toLE 1 x.held.length ++ toLE 4 x.trigEarly
    ++ toLE 8 x.refNs ++ toLEi 4 (x.refUv.getD 0)

/-- [DESIGN CHOICE, unsafe: log 8.] -/
def ampStatusBody (s : State) (r : Req) : State × Act :=
  ampEnter s r 0 false fun _ =>
    (s, .ok (toLE 2 (s.intakeFill false) ++ toLE 2 (s.intakeFill true) ++ toLE 4 s.amp.refusals ++ (List.range 128).flatMap fun u => (s.chan (u / 2) (u % 2)).image))

/-- AMP_REFCHECK (R590): at once on the channels idle now; the others run theirs when they next are. [DESIGN CHOICE, unsafe: log 8.] -/
def ampRefcheckBody (s : State) (r : Req) : State × Act :=
  ampEnter s r 0 false fun _ =>
    ampGuard s s.ampOnline fun _ =>
      let free := fun u => (s.chan (u / 2) (u % 2)).idle && !(u % 2 == 0 && (s.bridge (u / 2)).density)
      let idle := (List.range 128).filter free
      let s := forAll (List.range 128) (fun s u =>
        let x := s.chan (u / 2) (u % 2)
        s.setChan (u / 2) (u % 2) (if idle.contains u then { x with refRun := true, refFor := some r.mbx.val, self := [] } else { x with refDue := true })) s
      if idle.isEmpty then (s, .ok (List.replicate 16 0#8)) else (s, .wait { kind := .ampRef, units := idle })

/-- AMP_IDENT. -/
def execAmpIdent (r : Req) (s : State) : Host.Outcome State Fault Refusal := .next (s.firmware 0x0701 (us 50) [8] r ampIdentBody)
/-- AMP_CONNECT: at the head of its channels it takes effect at once, but for a claim. -/
def execAmpConnect (r : Req) (s : State) : Host.Outcome State Fault Refusal := .next (s.firmware 0x0702 (us 100) [3, 0xC] r ampConnectBody).ampNext
/-- AMP_DISCONNECT. -/
def execAmpDisconnect (r : Req) (s : State) : Host.Outcome State Fault Refusal := .next (s.firmware 0x0703 (us 20) [3, 0xC] r ampDisconnectBody).ampNext
/-- AMP_CONVERT: a request at the head of every one of its channels starts at once where it is IMMEDIATE (R226). -/
def execAmpConvert (r : Req) (s : State) : Host.Outcome State Fault Refusal := .next (s.firmware 0x0704 0 [3, 0xC] r ampConvertBody).ampNext.convertsDone
/-- AMP_BRIDGE: readable when the output has settled. -/
def execAmpBridge (r : Req) (s : State) : Host.Outcome State Fault Refusal := .next (s.firmware 0x0705 (us 100) [2, 0xC] r ampBridgeBody).ampNext
/-- AMP_BRIDGE_STATUS. -/
def execAmpBridgeStatus (r : Req) (s : State) : Host.Outcome State Fault Refusal := .next (s.firmware 0x0706 (us 50) [2, 0xC] r ampBridgeStatusBody)
/-- AMP_STATUS. -/
def execAmpStatus (r : Req) (s : State) : Host.Outcome State Fault Refusal := .next (s.firmware 0x0707 (us 50) [8] r ampStatusBody)
/-- AMP_REFCHECK. -/
def execAmpRefcheck (r : Req) (s : State) : Host.Outcome State Fault Refusal := .next (s.firmware 0x070C (us 60000) [8] r ampRefcheckBody)

/-! ## Events: requests -/

/-- Does a request wait for a trigger? `g0` is the gather of its command's member position 0 (R226). -/
def AmpReq.waitsFor (q : AmpReq) (g0 : Option Nat) : AmpTrig → Bool
  | .g14 g => q.mode == 1 && q.trig == 0 && g0 == some g.val
  | .dline k => q.mode == 1 && q.trig == k.val + 1
  | .tcmp n => q.mode == 2 && q.trig == n.val

/-- AMP_TRIGGER (R226, R227): it starts every command at the head of its channels that waits for it; on one that is not there yet it is
ignored and counted in TRIG_EARLY. [DEDUCED, unsafe: log 28.] -/
def execAmpTrigger (t : AmpTrig) (s : State) : Host.Outcome State Fault Refusal :=
  if s.amp.inReset || s.amp.pllLost then .next s
  else .next (forAll (s.waiters .convert) (fun s m =>
    match s.waiting m with
    | some (e, w) =>
      let us := s.openMembers m w.units
      let g0 := match (s.target e.req).locals with | some u :: _ => some (u / 2) | _ => none
      let fits := us.any fun u => (s.chan (u / 2) (u % 2)).queue.any fun q => q.mbx == m && q.waitsFor g0 t
      let started := us.any fun u => let x := s.chan (u / 2) (u % 2); x.run.isSome && match x.queue with | q :: _ => q.mbx == m | [] => false
      if !fits || started then s
      else if s.atHeads m us then s.startConversions m us
      else forAll us (fun s u =>
        let x := s.chan (u / 2) (u % 2)
        s.setChan (u / 2) (u % 2) { x with trigEarly := sat32 x.trigEarly }) s
    | none => s) s)

/-- AMP_TRIGGER_TIMEOUT (R227): a command at the head of its channels whose trigger has not come; its TIMEOUT runs on
while its half is not in turn (R468). -/
def execAmpTriggerTimeout (g : GIx) (c : Two) (s : State) : Host.Outcome State Fault Refusal :=
  match (s.chan g c).queue with
  | q :: _ =>
    match s.waiting q.mbx with
    | some (_, w) =>
      let ms := s.openMembers q.mbx w.units
      if q.mode == 0 || w.kind != .convert || !s.atHeads q.mbx ms true || !s.passed (w.headNs.getD s.upNs) (us q.timeout) then .next s
      else
        let s := forAll w.units (fun s u =>
          let x := s.chan (u / 2) (u % 2)
          s.setChan (u / 2) (u % 2) { x with queue := x.queue.filter (·.mbx != q.mbx), held := x.held.filter (·.req.mbx != q.mbx) }) s
        .next (s.respondFrom q.mbx (w.headNs.getD s.upNs) (us (q.timeout + 200)) (Reply.err stTrigTimeout)).ampNext
    | none => .next s
  | [] => .next s

/-- AMP_CONVERSION_END (R222–R225, R355): a period's code; the first of a new range is the internal zero's. The injection is subtracted
before it is reported. [DESIGN CHOICE, unsafe: log 102.] -/
def execAmpConversionEnd (g : GIx) (c : Two) (code : Int) (inj : Int) (s : State) : Host.Outcome State Fault Refusal :=
  let x := s.chan g c
  let code := max (-8388608) (min 8388607 code)
  match x.run, x.queue with
  | some r, q :: _ =>
    if !injectionOk x.last inj then .next s
    else
      let s := s.putComp g c q.range ((s.comp g c q.range).period s.upNs r.codes code)
      let v := code - inj * 131072
      let codes := (code, inj) :: r.codes.take 1
      if r.zero then
        let s := s.putComp g c q.range { (s.comp g c q.range).zeroCode s.upNs v with zero := v }
        .next (s.setChan g c { s.chan g c with last := some (code, inj)
                                               run := some { r with zero := false, codes := codes, firstNs := s.netNs, step := s.amp.compStep
                                                                    scale := s.currentScale g c, flags := s.flagsNow g c } })
      else
        let atEnd := code == 8388607 || code == -8388608
        let r := { r with codes := codes, count := r.count + 1, sum := r.sum + v
                          min := if r.count == 0 then v else Min.min r.min v, max := if r.count == 0 then v else Max.max r.max v
                          flags := r.flags ||| s.flagsNow g c ||| b2n atEnd * afOver }
        let s := s.setChan g c { s.chan g c with run := some r, last := some (code, inj) }
        .next (if r.count ≥ q.n then (s.ampFinish g c 0).ampNext else s)
  | _, _ => .next s

/-- AMP_ANSWER_POST. -/
def execAmpAnswerPost (g : GIx) (c : Two) (s : State) : Host.Outcome State Fault Refusal := .next (s.ampPost g c)

/-- CLAIM_GRANT (R215, R239): every claim of the command is judged before any acts; refused, nothing is connected. -/
def execClaimGrant (g : GIx) (c : Two) (s : State) : Host.Outcome State Fault Refusal :=
  match (s.chan g c).asks with
  | none => .next s
  | some (src, m, _) =>
    match s.waiting m with
    | none => .next s
    | some (_, w) =>
      let s := s.dequeue m w.units
      let st := firstStatus w.units fun u => s.claimStatus (u / 2) src
      let t0 := w.headNs.getD s.upNs
      if st != stOK then .next (s.countRefusal.respondFrom m t0 (us 100) (Reply.err st)).ampNext
      else
        let s := forAll w.units (fun s u => s.select (u / 2) (u % 2) src) s
        .next (s.respondFrom m t0 (us 100) (s.connectReply w.tgt src)).ampNext

/-! ## Events: emulators -/

/-- SPAN_PHASE_END (R232): the next phase; a change to OPEN ends with phase 2, any other with phase 4. -/
def execSpanPhaseEnd (g : GIx) (s : State) : Host.Outcome State Fault Refusal :=
  let b := s.bridge g
  match b.span with
  | none => .next s
  | some p =>
    if p.phase ≥ (if p.kind == .go then 2 else 4) then
      .next (s.setBridge g (if p.kind == .go then b.opened else { b with span := none })).spansDone
    else .next (s.setBridge g { b with span := some { p with phase := p.phase + 1 } })

/-- EXC_OUT_OF_RANGE (R230). -/
def execExcOutOfRange (g : GIx) (uv : Int) (s : State) : Host.Outcome State Fault Refusal :=
  if (s.bridge g).isOpen then .next s else .next ((s.setBridge g ((s.bridge g).measured uv)).flagRuns g)

/-- CLIP (R231): the excitation moves so that a ratio's product crosses 25 mV, up or down. -/
def execClip (g : GIx) (uv : Int) (s : State) : Host.Outcome State Fault Refusal :=
  if (s.bridge g).mode != 2 then .next s else .next ((s.setBridge g ((s.bridge g).measured uv)).flagRuns g)

/-- The checks of an AMP_REFCHECK that are still to end will not: their channels count in no answer (R244). -/
def State.refsLost (s : State) (m : Nat) : State :=
  match s.waiting m with
  | some (_, w) => s.await m { w with units := w.units.filter fun u => (s.chan (u / 2) (u % 2)).refFor != some m }
  | none => s

/-- MODCLK_LOCK_LOSS (R211): conversions abort with PLL_LOST; an emulator in RATIO holds its output and reports TRACK_LOST. A REFP check,
self-traffic and a code-density run are conversions too; the check is due again. -/
def execModclkLockLoss (s : State) : Host.Outcome State Fault Refusal :=
  if s.amp.pllLost || s.amp.inReset then .next s
  else
    let s := s.setAmp { s.amp with pllLost := true }
    let s := forAll (s.waiters .ampRef) State.refsLost s
    let s := forAll (s.amp.gathers.map (·.1)) (fun s g =>
      let s := s.ampAbort g afPll false
      let s := forAll [0, 1] (fun s c =>
        let x := s.chan g c
        s.setChan g c { x with self := [], last := none, refRun := false, refDue := x.refDue || x.refRun, refFor := none }) s
      let b := s.bridge g
      s.setBridge g { b with trackLost := b.trackLost || b.mode == 2, density := false }) s
    .next (s.refsDone.advise fAmpPll hDevice)

/-- MODCLK_LOCK_RETURN. -/
def execModclkLockReturn (s : State) : Host.Outcome State Fault Refusal :=
  if s.amp.pllLost then .next (s.setAmp { s.amp with pllLost := false }).ampNext else .next s

/-! ## Events: rails and start -/

/-- VDDAMP or VDDAMPA leaves its window: the Ampoule goes into reset (R210). -/
def State.ampRailLost (s : State) : State :=
  if s.amp.railLow then s
  else
    let s := (s.endReservation true).ampReset
    (s.setAmp { s.amp with railLow := true }).ampDrop.advise fAmpRail hDevice

/-- AMP_RAIL_LOSS. -/
def execAmpRailLoss (s : State) : Host.Outcome State Fault Refusal := .next s.ampRailLost

/-- AMPOULE_START (R247, R251, R255, R257, R358, R521): both rails stand; without a valid extension it serves only image transfers. It
counts the start, adds the pending openings, marks an interrupted adjustment, and runs a REFP check on every channel. -/
def execAmpouleStart (romOk : Bool) (s : State) : Host.Outcome State Fault Refusal :=
  if !s.amp.inReset || s.power.pstate == 3 then .next s
  else
    let a := s.amp
    let fresh : List (Nat × AmpG) := (List.range 64).map fun g =>
      let x : Chan := { refRun := true, refAt := s.upNs }
      (g, { chans := [(0, x), (1, x)], bridge := { cleared := s.clearLow, atZero := s.clearLow, densAt := s.upNs } })
    let slot := fun (k : Nat) => (Tab.get {} s.sec.slots (2 + k)).valid
    let act := s.sec.active.getD 1 0
    let run := if romOk then some (if slot act then act else 1 - act) else none
    let read := a.hssRing.isEmpty || a.hssRing.any fun w => ringIntact w.2
    let s := { s with sec := { s.sec with running := s.sec.running.set 1 run } }
    .next (s.setAmp { a with inReset := false, railLow := false, noImage := !romOk, pllLost := false, starts := sat32 a.starts
                             opens := s.sealOpens, opensPending := 0, intAdj := a.intAdj || a.torn, torn := false, compStep := 0
                             gathers := if romOk then fresh else [], candidate := [], adjusting := romOk && a.legal == 1, treeBusy := a.treeDue
                             stopLms := a.stopLms && !(a.lmsRetry && read), lmsRetry := false })

/-! ## Events: background calibration -/

/-- A channel runs a REFP check every 600 s. -/
def refPeriod : Nat := 600 * 10 ^ 9

/-- REFP_CHECK_DUE (R358): every 600 s. -/
def execRefpCheckDue (g : GIx) (c : Two) (s : State) : Host.Outcome State Fault Refusal :=
  let x := s.chan g c
  if s.amp.inReset || s.amp.noImage || !s.passed x.refAt refPeriod then .next s
  else .next (s.setChan g c { x with refDue := true, refAt := x.refAt + refPeriod }).ampChecks

/-- REFP_CHECK_END (R236, R256, R358): the channel's result in µV, and the direct gain residual of each range in ppb, applied as a closed
block. -/
def execRefpCheckEnd (g : GIx) (c : Two) (uv : Int) (residuals : List Int) (s : State) : Host.Outcome State Fault Refusal :=
  let x := s.chan g c
  if !x.refRun then .next s
  else
    let was := s.stopRef
    let s := s.setChan g c { x with last := none, refRun := false, refNs := s.netNs, refUv := some uv, refFor := none }
    let s := if uv < 4990000 ∨ 5010000 < uv then s.advise fAmpRefRange (BitVec.ofNat 16 (0x3000 + 2 * g.val + c.val)) else s
    let s := if !was && s.stopRef then s.closeSheet 2 else s
    let s := (residuals.zipIdx.filter (·.2 < 4)).foldl (fun s e =>
      s.putComp g c e.2 ((s.comp g c e.2).closeGain { num := e.1, den := 10 ^ 9 } { num := 0, den := 1 })) s
    .next s.refsDone.ampNext

/-- SELF_TRAFFIC (R357): a conversion of the internal zero on a channel that holds no request, into both blocks of the channel's last
range; which range it is before any request is open. -/
def execSelfTraffic (g : GIx) (c : Two) (code : Int) (inj : Int) (s : State) : Host.Outcome State Fault Refusal :=
  let x := s.chan g c
  let code := max (-8388608) (min 8388607 code)
  if s.amp.inReset || s.amp.noImage || s.amp.pllLost || s.faults.anneal || !x.idle || (c.val == 0 && (s.bridge g).density) || !injectionOk x.last inj then .next s
  else
    let (open_, s) := s.fresh
    let range := x.lastRange.getD (open_ % 4)
    let y := ((s.comp g c range).period s.upNs x.self code).zeroCode s.upNs (code - inj * 131072)
    let s := s.putComp g c range y
    .next (s.setChan g c { s.chan g c with last := some (code, inj), self := (code, inj) :: x.self.take 1 })

/-- CODE_DENSITY_DUE (R359): every 3,600 s, where the emulator is OPEN and channel 0 idle. -/
def execCodeDensityDue (g : GIx) (s : State) : Host.Outcome State Fault Refusal :=
  let b := s.bridge g
  if s.amp.inReset || s.amp.noImage || s.amp.pllLost || s.faults.anneal || !b.isOpen || !(s.chan g 0).idle || !s.passed b.densAt (3600 * 10 ^ 9) then .next s
  else .next ((s.setBridge g { b with density := true, densAt := s.upNs }).setChan g 0 { s.chan g 0 with self := [] })

/-- CODE_DENSITY_END (R354, R359): the INL estimate in ppb of full scale; above 1.5 ppm it posts AMP_INL. -/
def execCodeDensityEnd (g : GIx) (inlPpb : Nat) (s : State) : Host.Outcome State Fault Refusal :=
  let b := s.bridge g
  if !b.density then .next s
  else
    let s := (s.setBridge g { b with density := false }).setChan g 0 { s.chan g 0 with last := none }
    let s := s.keepRecord g 0 4 [(inlPpb : Int)]
    .next (if inlPpb > 1500 then s.advise fAmpInl (BitVec.ofNat 16 (0x3000 + 2 * g.val)) else s).ampChecks

/-- CAL_BLOCK_STALE (R355, R356): a range's block, of gain or of offset, that is older than 600 s restarts with nothing applied. -/
def execCalBlockStale (g : GIx) (c : Two) (range : Fin 4) (offset : Bool) (s : State) : Host.Outcome State Fault Refusal :=
  let x := s.comp g c range
  let b := if offset then x.oBlock else x.gBlock
  if !s.passed b.since (600 * 10 ^ 9) then .next s
  else .next (s.setComp g c range (if offset then { x with oBlock := {} } else { x with gBlock := {} }))

/-- COMPENSATION_UPDATE (R254–R256): between two requests of the channel. -/
def execCompensationUpdate (g : GIx) (c : Two) (range : Fin 4) (s : State) : Host.Outcome State Fault Refusal :=
  if (s.chan g c).run.isSome then .next s else .next (s.applyComp g c range)

end Sys2Proof.Machine
end

