-- ==== Sys2Proof/Machine/Reaction.lean ====
section
/-!
DEFINITION. The reactions of chapter 19: the safe state of a gather (Table 19-7), Anneal (Table 19-9, R415) and
`raise`, by which every fault source reaches the collector (R484).
-/
namespace Sys2Proof.Machine

/-! ## The safe state (R494, Table 19-7) -/

/-- A pin: driver high-impedance, load disconnected, DACs at their clear codes. -/
def Pin.safe (x : Pin) : Pin := { x.applyClear with drive := .off, want := .off, vDrive := false }

/-- A unit: CLEARED; where its switch is closed, FV at 0 V through Table 8-4 to ±256 nA, then the switch opens; a measurement ends. -/
def Smu.safeState (x : Smu) : Smu :=
  let x := { x with cleared := true, meas := none, dac := x.clr, compl := false }
  if x.on then { x with run := some { kind := .safe, step := 1, old := x.rangeNow, new := 0, charge := x.charge } }
  else { x with run := none, rangeNow := 0, raw := false }

/-- A digitiser's offset DAC at its clear code. -/
def Dig.clear (x : Dig) : Dig := { x.during cfCleared with out := x.offClr, cleared := true }

/-- The members of waiting SMU_MEASURE commands that belong to the gather answer SITE_SAFE (R48). -/
def State.safeMeasures (s : State) (g : Nat) : State :=
  forAll (s.waiters .measure) (fun s m =>
    match s.targetOfWaiter m with
    | some (_, w, t) =>
      let ps := (t.here.filter fun pu => pu.2 / 4 == g && w.units.contains pu.2).map (·.1)
      s.await m { w with units := w.units.filter (· / 4 != g), safe := w.safe ++ ps }
    | none => s) s

/-- Put every element of a gather into the safe state. The class of reaction is counted by the caller. -/
def State.safeElements (s : State) (g : Nat) (src : Half) : State :=
  let s := s.leaveProgram g 5 0
  let s := s.modG g fun G => { G with safe := { G.safe with on := true, src := src, replay := srcReplays src, replayDue := false } }
  let s := s.haltG g 5 0
  let s := s.preempt g fun _ => true
  let s := s.modG g fun G =>
    let G := (List.range 16).foldl (fun G p => G.setPin p (G.pin p).safe) G
    { G with play := { G.play with holding := false }, replay := none }
  let s := s.safeMeasures g
  let s := forAll (List.range 4) (fun s u => s.setSmu g u (s.smu g u).safeState) s
  let s := (s.endTius g tfSiteSafe).endDigs g cfSiteSafe
  let s := forAll [0, 1] (fun s d => s.setDig g d (s.dig g d).clear) s
  let s := s.ampSafe g afSafe
  (s.probes g).sync g

/-- A class B reaction of a gather: the third within one RUN holds it (R496). [DEDUCED, unsafe: log 100.] -/
def State.enterSafe (s : State) (g : Nat) (src : Half) : State :=
  let s := s.modG g fun G => { G with safe := { G.safe with reacts := G.safe.reacts + 1, held := G.safe.reacts + 1 ≥ 3 } }
  s.safeElements g src

/-! ## Anneal -/

/-- The answer ANNEAL_ABORT of a command that was at the head since an instant, formed now (R411, R415). -/
def Entry.aborted (e : Entry) (since now : Nat) : Entry :=
  let bound := if e.bound != 0 && e.woke then e.bound + us 50 else e.bound
  e.respond since now bound (BitVec.ofNat 32 (min 0xFFFF_FFFF ((now - since) / 1000))) (Reply.err stAnnealAbort)

/-- The commands of a mailbox at the entry into Anneal (R415): the one at the head, which executes or waits, is answered ANNEAL_ABORT. Where the
processor is held, which follows the entry, so is what executes then; those behind it on mailboxes 0, 1 and 6 are answered IN_ANNEAL, and
mailboxes 2, 3 and 4 are emptied. -/
def Mailbox.anneal (x : Mailbox) (front held : Bool) (now : Nat) : Mailbox :=
  if held && !front then { x with entries := [] }
  else
    let cut := fun (e : Entry) =>
      match e.phase with | .running _ since => e.aborted since now | _ => if held then e else e.aborted (x.headSince e) now
    let es := updFirst (!·.isFormed) cut x.entries
    { x with formedNs := now
             entries := es.map fun e =>
               if held && e.isQueued then { e with phase := .formed (mkParts e.opcode e.req.tag stInAnneal false 0 [[]]) } else e }

/-- Does the answer that Anneal gives to the head of a mailbox come after its bound (R411)? -/
def Mailbox.annealLate (x : Mailbox) (now : Nat) : Option Half :=
  match x.runningEntry with
  | some e =>
    match e.phase with
    | .running _ since => if e.bound != 0 && now - since > e.bound + (if e.woke then us 50 else 0) then some e.opcode else none
    | _ => none
  | none => none

def State.annealMailboxes (s : State) (held : Bool) : State :=
  forAll [0, 1, 2, 3, 4, 6] (fun s m =>
    let x := s.mailbox m
    let front := m == 0 || m == 1 || m == 6
    let late := if held && !front then none else x.annealLate s.upNs
    let s := s.setMbx m { x.anneal front held s.upNs with late := if late.isSome then x.late + 1 else x.late }
    let s := match late with | some op => s.advise fCmdLate hDevice (BitVec.ofNat 32 op.toNat) | none => s
    s.pumpMbx m) s

/-- The management processor is held in reset (Table 19-9). -/
def State.holdProcessor (s : State) : State :=
  if s.faults.held then s else (s.setFaults { s.faults with held := true }).annealMailboxes true

/-- A time-compare unit is disarmed with ABORTED. -/
def Tcmp.abort (x : Tcmp) : Tcmp := if x.armed then { x with armed := false, aborted := true } else x

/-- Drop the answers that the Ampoule holds for commands that are no longer waiting. -/
def State.dropAnswers (s : State) : State :=
  s.setAmp { s.amp with gathers := s.amp.gathers.map fun g =>
    (g.1, { g.2 with chans := g.2.chans.map fun c => (c.1, { c.2 with held := c.2.held.filter (·.req.mbx == 5) }) }) }

/-- What runs and waits ends as Anneal is entered (Table 19-9): the measurements of time-interval units first, whose starts answer with SITE_SAFE
(R288); the commands that still wait are aborted (R415); gathers go to the safe state, programs halt, and time-compare units are disarmed. -/
def State.annealStops (s : State) (src : Half) : State :=
  let s := (forAll (List.range 64) (fun s g => s.endTius g tfSiteSafe) s).annealMailboxes false
  let s := forAll (List.range 64) (fun s g => if (s.gather g).safe.on then s else s.safeElements g src) s
  let s := forAll (List.range 4) (fun s p => if (s.prog p).seq.live then s.haltProgram p 5 0 else s) s
  { s with tcmps := s.tcmps.map fun (t : Nat × Tcmp) => (t.1, t.2.abort) }

/-- Pulses on their way and the relays' pending ones are lost. -/
def Hatch.quench (h : Hatch) : Hatch :=
  { h with inflight := [], relays := h.relays.map fun (r : Nat × Relay) => (r.1, { r.2 with pending := false }) }

/-- The partner is to be told of Anneal, and the device does not own HALTN. -/
def State.annealTwin (s : State) : State :=
  s.setTwin { s.twin with annealTold := s.twin.annealTold || s.twin.link, owner := false }

/-- The device enters Anneal (R497, Table 19-9). -/
def State.enterAnneal (s : State) (src : Half) : State :=
  let s := (s.setFaults { s.faults with anneal := true }).annealStops src
  let s := s.setHatch s.hatch.quench
  s.syncLines.annealTwin.dropAnswers

/-! ## The collector's input (R484, R500, R501) -/

/-- The gather a class B scope names, of the half in service. [DEDUCED, unsafe: log 60.] -/
def State.scopeGather (s : State) (scope : Half) : Option Nat := if hClass scope == cGather then s.localIx scope else none

/-- A class D latch with its record is held in the always-on domain (R493). -/
def State.latchD (s : State) (src : Half) : State :=
  let f := s.faults
  if srcClass src != 0xD || f.dLatch.any (·.src == src) then s
  else s.setFaults { f with dLatch := f.dLatch ++ [(f.recs.find? (·.src == src)).getD { src := src, scope := hDevice }] }

/-- An occurrence of a source at the collector: its record, and its class reaction unless its scope is in that reaction already. A force
in mode RECORD causes no reaction. [See R21.] [DEDUCED, unsafe: log 60.] -/
def State.raise (s : State) (src scope : Half) (detail : Word := 0) (real : Bool := true) (react : Bool := true) : State :=
  match srcClass src with
  | 0xA => s.record src scope detail real false
  | 0xB =>
    match s.scopeGather scope with
    | some g =>
      let acts := react && !(s.gather g).safe.on
      let s := s.record src scope detail real acts
      if acts then s.enterSafe g src else s
    | none => s.record src scope detail real false
  | _ =>
    let acts := react && !s.faults.anneal
    let s := s.record src scope detail real acts
    if !react then s
    else
      let s := s.latchD src
      let s := if acts then s.enterAnneal src else s
      if srcHoldsProcessor src then s.holdProcessor else s

end Sys2Proof.Machine
end

