-- ==== Sys2Proof/Machine/Pins.lean ====
section
/-!
DEFINITION. The PIN commands of Table 6-5 and the events at the pins.
-/
namespace Sys2Proof.Machine

/-! ## Firmware commands -/

/-- The pins of a target, with the gathers they belong to. -/
def pinsGathers (us : List Nat) : List Nat := (us.map (· / 16)).eraseDups

/-- A gather whose sequencer is IDLE or HALTED, SITE_SAFE included (R84). -/
def Gather.idle (G : Gather) : Bool := G.safe.on || G.seq.st == .idle || G.seq.st == .halted

/-- SEQ_BUSY, or MEMBER_BUSY on a cane, while a gather runs (R167). -/
def State.pinsIdle (s : State) (t : Tgt) : Half :=
  if t.units.all (fun u => (s.gather (u / 16)).idle) then stOK else t.busy stSeqBusy

def modPins (s : State) (us : List Nat) (f : Pin → Pin) : State := forAll us (fun s u => s.setPin (u / 16) (u % 16) (f (s.pin (u / 16) (u % 16)))) s

/-- The charge of a pin as it stands. -/
def Pin.charge (x : Pin) : Nat := if x.parked then parkedCharge x.mode else fullCharge x.cfg x.lvl x.ioh x.iol x.mode

/-- PIN_POWER where a change takes any member's charge above 18.0 mW. [DEDUCED, unsafe: log 103.] -/
def State.pinPower (s : State) (t : Tgt) (f : Pin → Pin) : Half :=
  unless' (t.units.all fun u => (f (s.pin (u / 16) (u % 16))).charge ≤ pinCap) stPinPower

/-- The charge answer: the unit's in µW, on a cane the largest as derived value. -/
def State.chargeReply (s : State) (t : Tgt) : Reply :=
  let recs := t.here.map fun pu => (pu.1, ({ bytes := toLE 4 (chargeUw (s.pin (pu.2 / 16) (pu.2 % 16)).charge) } : MemRec))
  memberReply t (s.safePos t) recs { len := 4, rules := [(0, 4, .greatest)] }

/-- A configuration write ends a calibration step in progress on the pins (R349). -/
def State.preemptPins (s : State) (us : List Nat) : State :=
  forAll us (fun s u => s.preempt (u / 16) (hitsPin (u % 16))) s

/-- A pin under PIN_CONFIG: it leaves the parked state; an unpowered driver goes off. -/
def Pin.configure (x : Pin) (cfg : Word) : Pin :=
  if drvEn cfg then { x with cfg := cfg, parked := false } else { x with cfg := cfg, parked := false, drive := .off, want := .off, vDrive := false }

/-- The pin with its gather: it takes the state that R162 gives it, but in a HALT_HOLD, which keeps its level (R83). -/
def Gather.configurePin (G : Gather) (p : Nat) (cfg : Word) : Gather :=
  let x := (G.pin p).configure cfg
  G.setPin p (if !G.play.holding then G.restPin p x else if G.safe.on then x else x.outranked)

/-- A pin that the precision multiplexer has claimed refuses a PIN_CONFIG that would enable its driver, load or trip (R215). -/
def cfgBreaksClaim (cfg : Word) : Bool := drvEn cfg || loadEn cfg || tripCond cfg != 0

def pinConfigBody (s : State) (r : Req) : State × Act :=
  let t := s.target r
  let cfg := w32 r.payload 0
  guarded s (checks [needLen r 4,
      unless' (bits cfg.toNat 31 16 == 0 && bits cfg.toNat 7 6 == 0 && bits cfg.toNat 1 0 == 0 && rateOf cfg != 3) stBadField,
      s.pinsIdle t,
      if cfgBreaksClaim cfg && t.units.any fun u => (s.pin (u / 16) (u % 16)).claimed then t.busy stAmpOwned else stOK,
      s.pinPower t (·.configure cfg)]) fun _ =>
    let s := forAll t.units (fun s u => s.modG (u / 16) (·.configurePin (u % 16) cfg)) (s.preemptPins t.units)
    let s := forAll (pinsGathers t.units) (fun s g => s.pinsChanged g) s
    (s, .done (s.chargeReply t))

def levelsOf (p : List Byte) : Levels :=
  { vil := u16 p 0, vih := u16 p 2, vol := u16 p 4, voh := u16 p 6, vt := u16 p 8 }

/-- A pin under PIN_LEVELS: the registers are written; the DACs follow unless the safe state holds them; the CLEAR_N hold ends. -/
def Pin.setLevels (x : Pin) (l : Levels) (safe : Bool) : Pin :=
  if safe then { x with lvl := l, clearHold := false }
  else { (x.applyLevels l) with lvl := l, clearHold := false, cleared := false, clamped := false }

/-- A pin's five DACs. -/
def Pin.dacs (x : Pin) : List Dac := [x.vih, x.vil, x.vt, x.voh, x.vol]

/-- Readable when every DAC that the command changed has settled (R150): at once where it changed none. -/
def pinLevelsBody (s : State) (r : Req) : State × Act :=
  let t := s.target r
  let l := levelsOf r.payload
  guarded s (checks [needLen r 12,
      unless' (u16 r.payload 10 == 0) stBadField,
      unless' (l.vil ≤ l.vih && l.vol ≤ l.voh) stBadLevel,
      unless' ([l.vih, l.vil, l.vt].all s.reachable) stHeadroom,
      unless' (!s.clearLow) stClearActive,
      s.pinsIdle t,
      s.pinPower t fun x => { x with lvl := l }]) fun _ =>
    let s0 := s.preemptPins t.units
    let s := forAll t.units (fun s u => s.setPin (u / 16) (u % 16) ((s.pin (u / 16) (u % 16)).setLevels l (s.gather (u / 16)).safe.on)) s0
    let rep := s.chargeReply t
    let changed := t.units.filter fun u => (s0.pin (u / 16) (u % 16)).dacs != (s.pin (u / 16) (u % 16)).dacs
    if changed.isEmpty then (s, .done rep)
    else (s, .wait { kind := .dacSettle, units := changed, reports := rep.blocks.zipIdx.map fun b => (b.2, b.1) })

def pinLoadBody (s : State) (r : Req) : State × Act :=
  let t := s.target r
  let v := u32 r.payload 0
  let ioh := bits v 25 16
  let iol := bits v 9 0
  let f := fun (x : Pin) => { x with ioh := ioh, iol := iol }
  guarded s (checks [needLen r 4,
      unless' (bits v 31 26 == 0 && bits v 15 10 == 0 && ioh ≤ 1000 && iol ≤ 1000) stBadField,
      s.pinsIdle t, s.pinPower t f]) fun _ =>
    let s := modPins (s.preemptPins t.units) t.units f
    (s, .done (s.chargeReply t))

/-- The clear codes of a payload (Table 6-6). -/
def pinClearBody (s : State) (r : Req) : State × Act :=
  let t := s.target r
  guarded s (checks [needLen r 12, unless' (u16 r.payload 10 == 0) stBadField]) fun _ =>
    let s := modPins (s.preemptPins t.units) t.units fun x => { x with clr := levelsOf r.payload }
    (s, s.configAct t)

/-- A pin's PIN_CMP written; in the safe state it comes into force on release (R84, Table 19-7). -/
def Pin.setCmp (x : Pin) (v : Nat) (safe : Bool) : Pin :=
  let x := { x with ref := bits v 5 5, hyst := bits v 4 2, mode := bits v 1 0 }
  if safe then x else x.cmpInForce

def pinComparatorBody (s : State) (r : Req) : State × Act :=
  let t := s.target r
  let v := u32 r.payload 0
  guarded s (checks [needLen r 4, unless' (bits v 31 6 == 0) stBadField, s.pinsIdle t,
      s.pinPower t fun x => { x with mode := bits v 1 0 }]) fun _ =>
    let s := forAll t.units (fun s u => s.setPin (u / 16) (u % 16) ((s.pin (u / 16) (u % 16)).setCmp v (s.gather (u / 16)).safe.on)) (s.preemptPins t.units)
    let s := forAll (pinsGathers t.units) (fun s g => s.flagRuns g) s
    (s, .done (s.chargeReply t))

/-- Clear OC: what stands next in R162 decides the pin; in a running gather it follows its next drive edge. -/
def Gather.releaseOc (G : Gather) (p : Nat) : Gather :=
  let x := G.pin p
  if !x.oc then G else G.setPin p (G.restPin p { x with oc := false })

def pinReleaseBody (s : State) (r : Req) : State × Act :=
  let t := s.target r
  let v := u32 r.payload 0
  guarded s (checks [needLen r 4, unless' (v < 4) stBadField]) fun _ =>
    let s := if bit v 1 then forAll t.units (fun s u => s.modG (u / 16) (·.releaseOc (u % 16))) s else s
    let s := if bit v 0 then forAll t.units (fun s u => s.modG (u / 16) (·.releaseTrip (u % 16))) s else s
    let s := forAll (pinsGathers t.units) (fun s g => s.pinsChanged g) s
    (s, s.configAct t)

/-- PIN_STATUS of one pin; on a cane each record adds the level span, and the derived record has the OR of the images and the
narrowest span (Table 2-2). [DESIGN CHOICE, unsafe: log 8, 38.] -/
def pinStatusBody (s : State) (r : Req) : State × Act :=
  let t := s.target r
  guarded s (needLen r 0) fun _ =>
    let img := fun u => (s.pin (u / 16) (u % 16)).status
    match t.cane with
    | none => (s, s.readMembers t (fun u => { bytes := toLE 4 (img u) }) { len := 4, flag := some 0 })
    | some _ =>
      let span := fun u => let l := (s.pin (u / 16) (u % 16)).lvl; l.vih - l.vil
      (s, s.readMembers t (fun u => { bytes := toLE 4 (img u) ++ toLE 4 (span u) }) { len := 8, flag := some 0, rules := [(4, 4, .least)] })

def pinReadBody (s : State) (r : Req) : State × Act :=
  let t := s.target r
  guarded s (needLen r 0) fun _ =>
    (s, s.readMembers t (fun u => { bytes := (s.pin (u / 16) (u % 16)).registers.flatMap (toLE 4) }) { len := 4 * (s.pin 0 0).registers.length })

/-- PIN_CONFIG. -/
def execPinConfig (r : Req) (s : State) : Host.Outcome State Fault Refusal := .next (s.firmware 0x0501 (us 50) [0, 0xC] r pinConfigBody)
/-- PIN_LEVELS: readable when every changed DAC has settled (R150). -/
def execPinLevels (r : Req) (s : State) : Host.Outcome State Fault Refusal := .next (s.firmware 0x0502 (us 40) [0, 0xC] r pinLevelsBody)
/-- PIN_LOAD. -/
def execPinLoad (r : Req) (s : State) : Host.Outcome State Fault Refusal := .next (s.firmware 0x0503 (us 20) [0, 0xC] r pinLoadBody)
/-- PIN_CLEAR_CODES: the codes act at the next CLEAR_N (R156). -/
def execPinClearCodes (r : Req) (s : State) : Host.Outcome State Fault Refusal := .next (s.firmware 0x0504 (us 20) [0, 0xC] r pinClearBody)
/-- PIN_COMPARATOR. -/
def execPinComparator (r : Req) (s : State) : Host.Outcome State Fault Refusal := .next (s.firmware 0x0505 (us 20) [0, 0xC] r pinComparatorBody)
/-- PIN_RELEASE. -/
def execPinRelease (r : Req) (s : State) : Host.Outcome State Fault Refusal := .next (s.firmware 0x0506 (us 10) [0, 0xC] r pinReleaseBody)
/-- PIN_STATUS. -/
def execPinStatus (r : Req) (s : State) : Host.Outcome State Fault Refusal := .next (s.firmware 0x0507 (us 20) [0, 0xC] r pinStatusBody)
/-- PIN_READ: one pin, no cane. -/
def execPinRead (r : Req) (s : State) : Host.Outcome State Fault Refusal := .next (s.firmware 0x0508 (us 20) [0, 0xC] r pinReadBody)

/-! ## Events -/

/-- A driver off after overcurrent: the drive edges on their way act as X does, the load's go on. -/
def Pin.overload (x : Pin) : Pin :=
  { x with oc := true, drive := .off, want := .off, vDrive := false, vLast := x.last, vDriven := x.driven
           edges := x.edges.filter fun e => match e.act with | .load _ | .shut => true | _ => false }

/-- DRIVER_OVERCURRENT (R144): the driver goes off, OC is set, PIN_OC is posted; the running stroke's result is flagged. -/
def execDriverOvercurrent (g : GIx) (p : PIx) (s : State) : Host.Outcome State Fault Refusal :=
  let x := s.pin g p
  if x.drive == .off then .next s
  else
    let s := s.modG g fun G => (G.setPin p (G.pin p).overload).flagNow
    .next ((s.advise fPinOc (BitVec.ofNat 16 (g.val * 16 + p.val))).pinsChanged g)

/-- DEGLITCH_RELEASE (R151): nine PCLK cycles after the latch the held outputs are released. -/
def execDeglitchRelease (g : GIx) (p : PIx) (s : State) : Host.Outcome State Fault Refusal :=
  let x := s.pin g p
  if !x.holding then .next s
  else
    let f := fun (d : Dac) => if d.hold then d.release else d
    .next (s.setPin g p { x with vih := f x.vih, vil := f x.vil, vt := f x.vt, voh := f x.voh, vol := f x.vol })

/-- The latch of every code that still waits behind an ordered one. -/
def Pin.latchNext (x : Pin) : Pin :=
  let f := fun (d : Dac) => match d.next with | some c => d.latch c | none => d
  { x with vih := f x.vih, vil := f x.vil, vt := f x.vt, voh := f x.voh, vol := f x.vol }

/-- LEVEL_ORDERED_LATCH (R149): 2 µs after the first latch the ordered second one. -/
def execLevelOrderedLatch (g : GIx) (p : PIx) (s : State) : Host.Outcome State Fault Refusal :=
  let x := s.pin g p
  if x.latchNext == x then .next s else .next (s.setPin g p x.latchNext)

/-- DAC_SETTLED (R150): a waiting PIN_LEVELS answers once none of its DACs is still to move. -/
def execDacSettled (m : Fin 7) (s : State) : Host.Outcome State Fault Refusal :=
  match s.waiting m with
  | some (_, w) =>
    if w.kind == .dacSettle && !(w.units.any fun u => (s.pin (u / 16) (u % 16)).moving) then
      .next (s.respond m (us 40) { blocks := w.reports.map (·.2) })
    else .next s
  | none => .next s

end Sys2Proof.Machine
end

