-- ==== Sys2Proof/Machine/Smu.lean ====
section
/-!
DEFINITION. The SMU commands of Table 8-6, and the events at the source/measure units: compliance and open loop, range-change
sequences, measurement.
-/
namespace Sys2Proof.Machine

/-! ## Commands -/

def unitsGathers (us : List Nat) : List Nat := (us.map (· / 4)).eraseDups

/-- CANE_MIXED where the live members differ in mode or range (R206). -/
def State.smuMixed (s : State) (t : Tgt) : Half :=
  let live := (s.liveUnits t).map fun u => let c := (s.smu (u / 4) (u % 4)).cfg; (cfgMode c, cfgRange c)
  match live with
  | [] => stOK
  | a :: l => unless' (l.all (· == a)) stCaneMixed

/-- Every command but SMU_CONFIG is refused on an unequal cane. -/
def State.caneEqual (s : State) (t : Tgt) : Half := if t.cane.isSome then s.smuMixed t else stOK

def State.ranging (s : State) (t : Tgt) : Half :=
  if t.units.any fun u => (s.smu (u / 4) (u % 4)).run.isSome then t.busy stRangeBusy else stOK

/-- A unit under SMU_CONFIG. On a unit that forces its ball, before and after, a RANGE change runs the sequence of Table 8-4 (R194), on a
tripped one at its release; otherwise the range switches at once. MODE OFF takes the comparator's power (R173). In the safe state the image is only stored.
 [See R189.] [DEDUCED, unsafe: log 105.] -/
def Smu.configure (x : Smu) (cfg : Word) (safe : Bool) : Smu :=
  let powered := cfgMode cfg != 0
  let y := { x with cfg := cfg, parked := false, gangPos := none, aborted := false, raw := x.raw && powered, compl := x.compl && powered
                    oldCharge := none }
  let old := loadCharge x.cfg x.set
  if safe then y
  else if x.on && y.on && cfgRange cfg != x.rangeNow then
    if x.tripped then { y with oldCharge := some (x.oldCharge.getD old) } else y.startRange old
  else { y with rangeNow := cfgRange cfg }

/-- The members of a target under SMU_CONFIG. -/
def State.smuConfigured (s : State) (t : Tgt) (cfg : Word) : State :=
  (forAll t.units (fun s u => s.setSmu (u / 4) (u % 4) ((s.smu (u / 4) (u % 4)).configure cfg (s.gather (u / 4)).safe.on)) s).gangPlaces t true

def preemptSmus (s : State) (us : List Nat) : State :=
  forAll us (fun s u => s.preempt (u / 4) (· == 8 + u % 4)) s

/-- [See R188, R200, R205.] -/
def smuConfigBody (s : State) (r : Req) : State × Act :=
  let t := s.target r
  let cfg := w32 r.payload 0
  let owned := t.units.any fun u =>
    let x := s.smu (u / 4) (u % 4)
    x.pmux && (cfgMode x.cfg != cfgMode cfg || cfgRange x.cfg != cfgRange cfg || cfgSenseLocal x.cfg != cfgSenseLocal cfg ||
      cfgConnect x.cfg != cfgConnect cfg)
  guarded s (checks [needLen r 4,
      unless' (bits cfg.toNat 31 16 == 0 && bits cfg.toNat 13 12 == 0 && bits cfg.toNat 9 8 == 0 && bits cfg.toNat 3 1 == 0 &&
        cfgMode cfg != 3) stBadField,
      s.ranging t, if owned then t.busy stAmpOwned else stOK,
      (s.smuConfigured t cfg).smuPower t.units]) fun _ =>
    let s := (preemptSmus s t.units).smuConfigured t cfg
    let s := forAll (unitsGathers t.units) (fun s g => s.comparatorsChanged g) s
    let busy := t.units.filter fun u => (s.smu (u / 4) (u % 4)).run.isSome
    if busy.isEmpty then (s, .done (s.smuChargeReply t))
    else (s, .wait { kind := .rangeChange, units := busy })

/-- A voltage in 18-bit scale within the reach of the rails as measured (R186). [DEDUCED, unsafe: log 104.] -/
def State.smuReach (s : State) (v : Int) : Bool :=
  decide (v ≤ (s.power.vphUv - 2000000) * 262144) && decide ((s.power.vplUv + 1000000) * 262144 ≤ v)

/-- A unit under SMU_FORCE (R190, R199): the values are stored; they reach the DACs at once but on a tripped unit and in the safe state. The
hold of CLEAR_N ends. -/
def Smu.force (x : Smu) (c : SmuCodes) (safe : Bool) : Smu :=
  let x := { x with set := c, clearHold := false, cleared := x.cleared && safe, aborted := false }
  if safe || x.tripped then x else { x with dac := c }

/-- The members of a target under SMU_FORCE. -/
def State.smuForced (s : State) (t : Tgt) (c : SmuCodes) : State :=
  (forAll t.units (fun s u => s.setSmu (u / 4) (u % 4) ((s.smu (u / 4) (u % 4)).force c (s.gather (u / 4)).safe.on)) s).gangPlaces t true

def smuForceBody (s : State) (r : Req) : State × Act :=
  let t := s.target r
  let c := codesOf r.payload 0
  guarded s (checks [needLen r 16,
      unless' (c.vclLo ≤ c.vclHi) stBadLevel,
      unless' (s.smuReach (v18 c.v) && s.smuReach (v16 c.vclHi) && s.smuReach (v16 c.vclLo)) stHeadroom,
      unless' (u32 r.payload 0 < 262144 && u32 r.payload 4 < 262144) stBadField,
      s.caneEqual t, unless' (!s.clearLow) stClearActive, s.ranging t,
      (s.smuForced t c).smuPower t.units]) fun _ =>
    let s := forAll t.units (fun s u => s.disturb (u / 4) (u % 4)) (preemptSmus s t.units)
    (s.smuForced t c, .wait { kind := .smuSettle, units := t.units })

def smuSafeBody (s : State) (r : Req) : State × Act :=
  let t := s.target r
  let safe := u32 r.payload 0
  let c := codesOf r.payload 4
  guarded s (checks [needLen r 20,
      unless' (c.vclLo ≤ c.vclHi) stBadLevel,
      unless' (s.smuReach (v18 (safe % 262144)) && s.smuReach (v18 c.v) && s.smuReach (v16 c.vclHi) && s.smuReach (v16 c.vclLo)) stHeadroom,
      unless' (safe < 262144 && u32 r.payload 4 < 262144 && u32 r.payload 8 < 262144) stBadField,
      s.caneEqual t]) fun _ =>
    let s := preemptSmus s t.units
    let s := forAll t.units (fun s u => s.setSmu (u / 4) (u % 4) { s.smu (u / 4) (u % 4) with safe := safe, clr := c }) s
    (s, s.configAct t)

def smuTripBody (s : State) (r : Req) : State × Act :=
  let t := s.target r
  let v := w32 r.payload 0
  let srcOk := match trKind v with | 0 => true | 1 => trSrc v < 2 | 2 => trSrc v < 4 | _ => false
  guarded s (checks [needLen r 4,
      unless' (bits v.toNat 31 12 == 0 && bits v.toNat 3 1 == 0 && srcOk) stBadField, s.caneEqual t]) fun _ =>
    let s := preemptSmus s t.units
    let s := forAll t.units (fun s u => s.setSmu (u / 4) (u % 4) { s.smu (u / 4) (u % 4) with trip := v }) s
    let s := forAll (unitsGathers t.units) (fun s g => s.comparatorsChanged g) s
    (s, s.configAct t)

def smuMeasureBody (s : State) (r : Req) : State × Act :=
  let t := s.target r
  let mode := u8 r.payload 0
  let n := u32 r.payload 4
  let live := s.liveUnits t
  guarded s (checks [needLen r 16,
      unless' (mode ≤ 2 && u8 r.payload 1 ≤ 15 && (mode != 0 || u8 r.payload 1 == 0) && zeros r.payload 2 2 && 1 ≤ n && n ≤ 65536) stBadField,
      s.caneEqual t, s.ranging t,
      unless' (live.all fun u => (s.smu (u / 4) (u % 4)).meas.isNone) stMemberBusy]) fun _ =>
    let src := u8 r.payload 1
    let meas := fun (u : Nat) => ({ mode := mode, source := src, started := mode == 0, mark := s.presented (u / 4) mode src, startNs := s.upNs, n := n
                                    lo := i32 r.payload 8, hi := i32 r.payload 12 } : SmuMeas)
    let s := forAll live (fun s u => s.setSmu (u / 4) (u % 4) { s.smu (u / 4) (u % 4) with meas := some (meas u) }) s
    (s, .wait { kind := .measure, units := live, safe := s.safePos t })

def smuReleaseBody (s : State) (r : Req) : State × Act :=
  let t := s.target r
  let v := u32 r.payload 0
  guarded s (checks [needLen r 4, unless' (v < 4) stBadField, s.caneEqual t]) fun _ =>
    let s := forAll t.units (fun s u =>
      let x := s.smu (u / 4) (u % 4)
      let x := if bit v 1 then { x with complSeen := false, openSeen := false, backup := false } else x
      s.setSmu (u / 4) (u % 4) (if bit v 0 then x.release (s.gather (u / 4)).safe.on else x)) s
    let s := forAll (unitsGathers t.units) (fun s g => s.comparatorsChanged g) s
    (s, s.configAct t)

def smuStatusBody (s : State) (r : Req) : State × Act :=
  let t := s.target r
  guarded s (checks [needLen r 0, s.caneEqual t]) fun _ =>
    (s, s.readMembers t (fun u => { bytes := toLE 4 (s.smu (u / 4) (u % 4)).status }) { len := 4, flag := some 0 })

def smuReadBody (s : State) (r : Req) : State × Act :=
  let t := s.target r
  guarded s (needLen r 0) fun _ =>
    (s, s.readMembers t (fun u => { bytes := (s.smu (u / 4) (u % 4)).registers.flatMap (toLE 4) }) { len := 4 * (s.smu 0 0).registers.length })

/-- SMU_CONFIG: with a range change readable at the end of step 5 (R196), with the bound of `rangesDone`. -/
def execSmuConfig (r : Req) (s : State) : Host.Outcome State Fault Refusal := .next (s.firmware 0x0601 (us 20) [1, 0xC] r smuConfigBody)
/-- SMU_FORCE: readable when the output has settled. -/
def execSmuForce (r : Req) (s : State) : Host.Outcome State Fault Refusal := .next (s.firmware 0x0602 (us 450) [1, 0xC] r smuForceBody)
/-- SMU_SAFE. -/
def execSmuSafe (r : Req) (s : State) : Host.Outcome State Fault Refusal := .next (s.firmware 0x0603 (us 20) [1, 0xC] r smuSafeBody)
/-- SMU_TRIP: a condition that already holds fires at once (R198). -/
def execSmuTrip (r : Req) (s : State) : Host.Outcome State Fault Refusal := .next (s.firmware 0x0604 (us 20) [1, 0xC] r smuTripBody)
/-- SMU_MEASURE. -/
def execSmuMeasure (r : Req) (s : State) : Host.Outcome State Fault Refusal := .next (s.firmware 0x0605 0 [1, 0xC] r smuMeasureBody)
/-- SMU_RELEASE. -/
def execSmuRelease (r : Req) (s : State) : Host.Outcome State Fault Refusal := .next (s.firmware 0x0606 (us 10) [1, 0xC] r smuReleaseBody)
/-- SMU_STATUS. -/
def execSmuStatus (r : Req) (s : State) : Host.Outcome State Fault Refusal := .next (s.firmware 0x0607 (us 20) [1, 0xC] r smuStatusBody)
/-- SMU_READ. -/
def execSmuRead (r : Req) (s : State) : Host.Outcome State Fault Refusal := .next (s.firmware 0x0608 (us 20) [1, 0xC] r smuReadBody)

/-! ## Events -/

/-- COMPLIANCE_SWITCH (R191, R192, R195), with the output current in pA where the loop runs FV and the regulated voltage in µV where it runs
FI; masked during a range change, where it only sets RC_COMPL and COMPL_SEEN. -/
def execComplianceSwitch (g : GIx) (u : UIx) (value : Int) (s : State) : Host.Outcome State Fault Refusal :=
  if !s.complPowered g u then .next s
  else
    let x := s.smu g u
    let active := (s.smuOut g u).compliance (fullScale x.rangeNow) x.raw value
    let s := s.setSmu g u { x with raw := active }
    if x.run.isSome then
      .next (if active then s.setSmu g u { x with raw := active, rcCompl := true, complSeen := true } else s)
    else .next (s.setCompl g u active)

/-- Does a unit's loop run FI with remote sense, of its own or as a follower in a gang, where open loop is detected (R193)? -/
def State.openLoopSeen (s : State) (g u : Nat) : Bool :=
  let x := s.smu g u
  !cfgSenseLocal x.cfg && match (s.smuOut g u).loop with | .fi .. | .follow .. => !x.parked | _ => false

/-- OPEN_LOOP_DETECT (R193): only in FI with remote sense. From here on the backup clamp holds the FORCE ball. -/
def execOpenLoopDetect (g : GIx) (u : UIx) (s : State) : Host.Outcome State Fault Refusal :=
  let x := s.smu g u
  if !s.openLoopSeen g u then .next s
  else
    let h : Half := BitVec.ofNat 16 (0x1000 + g.val * 4 + u.val)
    let s := (s.setSmu g u { x with openSeen := true, backup := true }).advise fSmuOpen h
    .next (if cfgOpenNotify x.cfg then s.note (noteEntry 4 0 h true 1 s.netNs) else s)

/-- RANGE_STEP_END (Table 8-4): the next step; the new range is switched in at step 3; after step 5 (step 4 of the safe state's
own sequence) the sequence ends, the mask of R195 lifts and the waiting SMU_CONFIG answers. -/
def execRangeStepEnd (g : GIx) (u : UIx) (s : State) : Host.Outcome State Fault Refusal :=
  let x := s.smu g u
  match x.run with
  | none => .next s
  | some r =>
    let last := if r.kind == .safe then 4 else 5
    if r.step ≥ last then
      let s := (s.setSmu g u { x with run := none }).setCompl g u (x.raw && r.kind != .safe)
      .next s.rangesDone
    else .next (s.setSmu g u { x with run := some { r with step := r.step + 1 }, rangeNow := if r.step == 2 then r.new else x.rangeNow })

/-- SMU_MEASURE_TRIGGER (R203): every member whose start has come since its acceptance, by an event that its gather's input has presented or a
match, starts. [DEDUCED, unsafe: log 28.] -/
def execSmuMeasureTrigger (m : Fin 7) (s : State) : Host.Outcome State Fault Refusal :=
  match s.waiting m with
  | some (_, w) =>
    if w.kind == .measure then
      .next (forAll w.units (fun s u =>
        let x := s.smu (u / 4) (u % 4)
        s.setSmu (u / 4) (u % 4) { x with meas := x.meas.map fun q =>
          if !q.started && q.mark < s.presented (u / 4) q.mode q.source then { q with started := true, startNs := s.upNs } else q }) s)
    else .next s
  | none => .next s

/-- The flags of a measurement's result: FAIL, COMPL, OPEN, TRIPPED, CLEARED, PATCHED (R204; bit places are the model's, log 7). [DESIGN CHOICE, unsafe: log 7.] -/
def mfFail : Nat := 1
/-- [DESIGN CHOICE, unsafe: log 36.] -/
def Smu.measFlags (x : Smu) (patched : Bool) : Nat :=
  b2n x.compl * 2 + b2n x.openSeen * 4 + b2n x.tripped * 8 + b2n x.cleared * 16 + b2n patched * 32

/-- One conversion into a measurement. [DESIGN CHOICE, unsafe: log 36.] -/
def SmuMeas.add (q : SmuMeas) (code : Int) (flags : Nat) : SmuMeas :=
  { q with count := q.count + 1, sum := q.sum + code
           min := if q.count == 0 then code else Min.min q.min code
           max := if q.count == 0 then code else Max.max q.max code, flags := q.flags ||| flags }

/-- A conversion code as the converter gives it: 18 bits, unsigned for a voltage, two's complement for a current (Table 8-1). -/
def convCode (voltage : Bool) (code : Int) : Int :=
  if voltage then code % 262144 else (code + 131072) % 262144 - 131072

/-- SMU_CONVERSION (R203, R204): one conversion's code into a measurement that has started and is not complete. [DESIGN CHOICE, unsafe: log 102.] -/
def execSmuConversion (g : GIx) (u : UIx) (code : Int) (s : State) : Host.Outcome State Fault Refusal :=
  let x := s.smu g u
  match x.meas with
  | some q =>
    if q.started && q.count < q.n then
      let fl := x.measFlags ((s.patch (tileOf g)).version != 0)
      .next (s.setSmu g u { x with meas := some (q.add (convCode (cfgMeasV x.cfg) code) fl) })
    else .next s
  | none => .next s

/-- The 24-byte result record: SUM, N, MIN, MAX, flags with pass or fail. [DESIGN CHOICE, unsafe: log 36.] -/
def SmuMeas.record (q : SmuMeas) : MemRec :=
  let fail := decide (q.sum < q.lo * q.n) || decide (q.sum > q.hi * q.n)
  let fl := q.flags ||| (if fail then mfFail else 0)
  { bytes := toLEi 8 q.sum ++ toLE 4 q.n ++ toLEi 4 q.min ++ toLEi 4 q.max ++ toLE 4 fl, failed := fail }

/-- The derived record of a ganged cane: the sum of the member SUMs for a current, member position 0's record for a voltage; compliance and open
loop as the OR over the members (Table 2-2). [DESIGN CHOICE, unsafe: log 36.] -/
def gangDerived (recs : List (Nat × MemRec)) (voltage : Bool) : Option (List Byte) :=
  match recs with
  | [] => none
  | (_, r0) :: _ =>
    let fl := recs.foldl (fun a r => a ||| u32 r.2.bytes 20) 0
    if voltage then some (slice r0.bytes 0 20 ++ toLE 4 (u32 r0.bytes 20 ||| fl &&& 6))
    else
      some (toLEi 8 (recs.foldl (fun a r => a + i64 r.2.bytes 0) 0) ++ slice r0.bytes 8 12 ++ toLE 4 fl)

/-- SMU_MEASURE_COMPLETE (R204, R208): every live member has its N conversions; the result records are exported and the response
is formed. -/
def execSmuMeasureComplete (m : Fin 7) (s : State) : Host.Outcome State Fault Refusal :=
  match s.targetOfWaiter m with
  | some (_, w, t) =>
    let done := w.units.all fun u => match (s.smu (u / 4) (u % 4)).meas with | some q => q.count == q.n | none => true
    if w.kind != .measure || !done then .next s
    else
      let recs := t.here.filterMap fun pu =>
        if w.units.contains pu.2 then (s.smu (pu.2 / 4) (pu.2 % 4)).meas.map fun q => (pu.1, pu.2, q.record) else none
      let n := (recs.head?.bind fun r => (s.smu (r.2.1 / 4) (r.2.1 % 4)).meas.map (·.n)).getD 0
      let voltage := (recs.head?.map fun r => cfgMeasV (s.smu (r.2.1 / 4) (r.2.1 % 4)).cfg).getD false
      let start := recs.foldl (fun a r => match (s.smu (r.2.1 / 4) (r.2.1 % 4)).meas with | some q => max a q.startNs | none => a) 0
      let s := recs.foldl (fun s r => s.emitRec 1 (s.siteOf (r.2.1 / 4)) r.2.2.bytes) s
      let s := forAll w.units (fun s u => s.setSmu (u / 4) (u % 4) { s.smu (u / 4) (u % 4) with meas := none }) s
      let mr := recs.map fun r => (r.1, r.2.2)
      .next (s.respondFrom m start (us (n + 30)) (memberReply t w.safe mr { len := 24, flag := some 20 } 0 (if t.gang then gangDerived mr voltage else none)))
  | none => .next s

/-- SMU_OUTPUT_SETTLED (R208): the outputs have settled and SMU_FORCE answers. -/
def execSmuOutputSettled (m : Fin 7) (s : State) : Host.Outcome State Fault Refusal :=
  match s.targetOfWaiter m with
  | some (_, w, t) => if w.kind == .smuSettle then .next (s.respond m (us 450) (s.smuChargeReply t)) else .next s
  | none => .next s

end Sys2Proof.Machine
end

