-- ==== Sys2Proof/Machine/Comparators.lean ====
section
/-!
DEFINITION. Comparators follow their inputs (R146, R172, R174), and the sentinel commands of Table 7-6.
-/
namespace Sys2Proof.Machine

/-- A comparator's output follows its input, with its dwell, trips and Hatch lines (R174). -/
def State.compare (s : State) : CmpEvent → State
  | .pin g p uv => (s.setPin g p ((s.pin g p).read uv)).comparatorsChanged g
  | .sentinel g n uv => ((s.setSent g n ((s.sent g n).read uv)).startDwell g n).comparatorsChanged g

/-- Does a mode-change hold keep a comparator's output (R172)? -/
def State.modeHeld (s : State) : CmpEvent → Bool
  | .pin g p _ => (s.pin g p).modeHold
  | .sentinel g n _ => (s.sent g n).modeHold

/-- Is a comparator powered: a sentinel when enabled and not asleep (R180), a pin's always but in DORMANT? [DESIGN CHOICE, unsafe: log 144.] -/
def State.cmpPowered (s : State) : CmpEvent → Bool
  | .pin .. => s.power.pstate != 3
  | .sentinel g n _ => sentEn (s.sent g n).cfg && !(s.sent g n).asleep

/-- COMPARATOR_CHANGE (R146): during a mode-change hold the change waits for the hold's end. -/
def execComparatorChange (e : CmpEvent) (s : State) : Host.Outcome State Fault Refusal :=
  .next (if !s.cmpPowered e || s.modeHeld e then s else s.compare e)

/-- MODE_CHANGE_HOLD_END (R172): the output follows the input again. -/
def execModeChangeHoldEnd (e : CmpEvent) (s : State) : Host.Outcome State Fault Refusal :=
  .next (if s.cmpPowered e && s.modeHeld e then s.compare e else s)

/-! ## Commands -/

/-- The refusals of R176, and reserved bits. -/
def sentCfgOk (c : Word) : Bool :=
  bits c.toNat 31 18 == 0 && !c.getLsbD 1 && !(sentContact c && (sentDir c || sentRef c || sentProbe c == 0))

def sentConfigBody (s : State) (r : Req) : State × Act :=
  let t := s.target r
  guarded s (checks [needLen r 16, unless' (sentCfgOk (w32 r.payload 0) && sentCfgOk (w32 r.payload 8)) stBadField]) fun _ =>
    let s := forAll t.units (fun s g =>
      let s := forAll [0, 1] (fun s n =>
        let thr := u32 r.payload (8 * n + 4)
        s.setSent g n ((s.sent g n).configure (w32 r.payload (8 * n)) (thr / 65536) (thr % 65536) s.upNs)) s
      let s := s.probes g
      let s := forAll [0, 1] (fun s n => s.startDwell g n) s
      let s := s.modG g fun G => { G with contact := G.contactNow }
      s.comparatorsChanged g) s
    (s, s.configAct t)

/-- Both images; on a cane the derived record is their OR (Table 2-2). The read clears WOKE of what it has read. -/
def sentStatusBody (s : State) (r : Req) : State × Act :=
  let t := s.target r
  guarded s (needLen r 0) fun _ =>
    let a := s.readMembers t (fun g => { bytes := toLE 4 (s.sentStatus g 0) ++ toLE 4 (s.sentStatus g 1) })
      { len := 8, rules := [(0, 4, .or), (4, 4, .or)] }
    let read := if t.cane.isSome then s.liveUnits t else t.units
    (forAll read (fun s g => forAll [0, 1] (fun s n => s.setSent g n { s.sent g n with woke := false }) s) s, a)

/-- One gather's answer: both CONTACT fields, the CONTACT event, and the µs since each dwelled state last changed (R183). A gather
whose CONTACT event is not asserted fails. [DESIGN CHOICE, unsafe: log 8.] -/
def State.contactRec (s : State) (g : Nat) : MemRec :=
  let G := s.gather g
  let age := fun n => min 0xFFFF_FFFF ((s.upNs - max s.power.resetNs (G.sent n).since) / 1000)
  { bytes := toLE 1 (G.sent 0).contactCode ++ toLE 1 (G.sent 1).contactCode ++ toLE 1 (b2n G.contact) ++ toLE 1 0
      ++ toLE 4 (age 0) ++ toLE 4 (age 1)
    failed := !G.contact }

def contactCheckBody (s : State) (r : Req) : State × Act :=
  let t := s.target r
  guarded s (needLen r 0) fun _ => (s, s.readMembers t s.contactRec { len := 12 })

/-- SENT_CONFIG: accepted in every sequencer state (R182). -/
def execSentConfig (r : Req) (s : State) : Host.Outcome State Fault Refusal := .next (s.firmware 0x0509 (us 20) [6, 0xC] r sentConfigBody)
/-- SENT_STATUS: clears each WOKE bit that it reports. -/
def execSentStatus (r : Req) (s : State) : Host.Outcome State Fault Refusal := .next (s.firmware 0x050A (us 20) [6, 0xC] r sentStatusBody)
/-- CONTACT_CHECK. -/
def execContactCheck (r : Req) (s : State) : Host.Outcome State Fault Refusal := .next (s.firmware 0x050B (us 20) [6, 0xC] r contactCheckBody)

end Sys2Proof.Machine
end

