-- ==== Sys2Proof/Machine/Cal.lean ====
section
/-!
DEFINITION. The CAL commands of Table 14-5, and the events of the foreground engine: temperatures, steps, stores.
-/
namespace Sys2Proof.Machine

/-! ## Fields of CAL_CFG (Table 14-4) -/

def calOverdue (c : Word) : Nat := bits c.toNat 23 8
def calThresh (c : Word) : Nat := bits c.toNat 7 1
def calAuto (c : Word) : Bool := c.getLsbD 0

/-- A tile's handle. -/
def hTile (t : Nat) : Half := BitVec.ofNat 16 (0x7000 + t)

/-! ## Temperatures (R343, R344, R490) -/

/-- A tile becomes due: a run is pending, or gains BALL. -/
def State.makeDue (s : State) (t : Nat) (ball : Bool) : State :=
  let x := s.calTile t
  if x.due then s.setCalTile t { x with ball := x.ball || ball }
  else
    let s := s.setCalTile t { x with due := true, dueNs := s.upNs, ball := ball, started := false, overdue := false }
    forAll (List.range 16) (fun s i => s.setCalG (16 * t + i) { s.calG (16 * t + i) with ended := [], leveled := [] }) s

/-- The sensors excluded by readings of one tile: further than 5.0 K from the mean of the other three. -/
def excludedOf (rs : List Int) : Nat :=
  (List.range 4).foldl (fun a i =>
    let others := rs.sum - rs.getD i 0
    a + b2n (decide (1500 < (3 * rs.getD i 0 - others).natAbs)) * 2 ^ i) 0

/-- A tile whose temperature has left T_LAST by more than THRESH becomes due where AUTO is set (R344). -/
def State.tempDue (s : State) (t : Nat) : State :=
  let x := s.calTile t
  if calAuto s.cal.cfg && !x.readings.isEmpty && decide (25 * calThresh s.cal.cfg < (x.temp - x.tLast).natAbs) then s.makeDue t false else s

/-- TEMP_READ: the tile's four readings in 0.01 K. CAL_SENSOR is posted once for each sensor newly excluded; with all four excluded the highest
temperature of the other tiles counts. The rounding of their mean is open. [DESIGN CHOICE, unsafe: log 56, 102.] -/
def execTempRead (t : TIx) (readings : List Int) (s : State) : Host.Outcome State Fault Refusal :=
  if readings.length != 4 then .next s
  else
    let x := s.calTile t
    let ex := excludedOf readings
    let valid := (readings.zipIdx.filter fun r => !ex.testBit r.2).map (·.1)
    let (up, s) := s.choose
    let temp := if valid.isEmpty then maxOf (((List.range 4).filter (· != t.val)).map fun i => (s.calTile i).temp)
      else valid.sum / (valid.length : Int) + b2n (up && valid.sum % (valid.length : Int) != 0)
    let s := forAll ((List.range 4).filter fun i => ex.testBit i && !x.excluded.testBit i) (fun s _ => s.advise fCalSensor (hTile t)) s
    let high := x.tjHigh && decide (14500 ≤ temp)
    let s := if !high && decide (15000 < temp) then s.advise fTjHigh (hTile t) else s
    let s := s.setCalTile t { x with readings := readings, excluded := ex, temp := temp, tjHigh := high || decide (15000 < temp) }
    .next (s.tempDue t)

/-! ## Where and on what a step works (R345, R346, R350) -/

/-- May a step on an element be tried now: at once in an IDLE or HALTED gather, or in a CALWIN stroke on a pin isolated at its boundary 0 or
a unit that met its precondition then, where the step can end 1 µs before the scheduled end (R346)? -/
def State.calUsable (s : State) (g n : Nat) : Bool :=
  let G := s.gather g
  let x := s.calG g
  let inWindow := match elPin n with | some p => n < 64 && (G.pin p).iso && x.ran.testBit p | none => x.winUnits.contains n
  G.calFree || (x.window && inWindow && decide (G.play.nowS + nsU (elSpan n + 1000) ≤ x.winEnd))

/-- Does step m come before step n in a gather (R350)? TIU, DIG and SMU in turn; LEVEL and CMP pin by pin; TIMING after its CMP; BALL last,
one pin at a time. -/
def stepBefore (m n : Nat) : Bool :=
  let stage := fun k => if k < 4 then 0 else if k < 8 then 1 else if k < 16 then 2 else if k < 64 then 3 else 4
  if stage m != stage n then stage m < stage n
  else if stage m == 4 then m < n
  else if stage m != 3 then false
  else if n < 48 then m < 48 && (m % 16 < n % 16 || (m % 16 == n % 16 && m < n))
  else m < 48 && m % 16 == n % 16

/-- Does nothing of the tile's run that can be worked on now come before a step: in its gather, and for the tile's converter in the lower
gathers of the tile? A step in progress comes first too; TIMING takes its pins in ascending order, up to four at once. An owed element waits
for no other. The three steps of a pin keep their order even where one must wait for another window. [DESIGN CHOICE, unsafe: log 56.] -/
def State.calTurn (s : State) (g n : Nat) : Bool :=
  let x := s.calG g
  let els := runElements true
  let isConv := fun k => 16 ≤ k && k < 48
  let isTiming := fun k => 48 ≤ k && k < 64
  let waits := fun h m => s.calPlanned h m && s.calUsable h m
  let mine := els.all fun m => !stepBefore m n || !(x.steps.contains m || waits g m)
  let order := !isTiming n || els.all fun m => !(isTiming m && m < n && waits g m)
  let ownPin := els.all fun m => !(16 ≤ m && m < n && n < 64 && m % 16 == n % 16 && s.calPlanned g m)
  let busy := (List.range 16).any fun i => (s.calG (16 * tileOf g + i)).steps.any isConv
  let lower := (List.range 16).any fun i => let h := 16 * tileOf g + i; h < g && els.any fun m => isConv m && waits h m
  ((mine && order && ownPin && !(isConv n && lower)) || !s.calPlanned g n) && !(isConv n && busy)
    && !(isTiming n && 4 ≤ (x.steps.filter isTiming).length) && !(64 ≤ n && x.steps.any (64 ≤ ·))

/-- CAL_STEP_START (R345–R351): at an opportunity, in order; the first of a run begins it. A precondition that fails ends the step at once with
CAL_PRECOND. A pin step isolates its pin; a TIU step takes its unit under SERVICE, a TIMING step an idle one of its gather (R281). [DESIGN CHOICE, unsafe: log 56.] -/
def execCalStepStart (g : GIx) (e : CalEl) (s : State) : Host.Outcome State Fault Refusal :=
  let n := elNum e
  let t := tileOf g
  if !(s.calTodo g n && s.calUsable g n && s.calTurn g n) then .next s
  else
    let y := s.calTile t
    let s := if y.due && !y.started then s.setCalTile t { y with started := true, startTemp := y.temp, counts := [0, 0, 0, 0] } else s
    if !s.calReady g n false then .next (s.endStep g n .precond)
    else
      let edge : Bool := match e with | .tiu _ => true | .dig _ => true | .timing _ => true | _ => false
      let s := if edge && s.power.pstate == 2 then s.setPstate 1 else s
      let x := s.calG g
      let loop := if 48 ≤ n && n < 64 then ((List.range 4).filter fun u => (s.tiu g u).st == .idle).head? else none
      let s := s.setCalG g { x with running := Tab.put x.running n s.upNs, ran := if x.window then x.ran ||| 2 ^ 16 else x.ran
                                    loops := match loop with | some u => Tab.put x.loops n u | none => x.loops }
      let s := match elPin n with | some p => s.setPin g p { s.pin g p with iso := true } | none => s
      .next (forAll ((s.calG g).serves n) (fun s u => s.setTiu g u ((s.tiu g u).serve s.netNs s.upNs s.tref.fallback)) s)

/-- The switches of pins close: where the gather has halted and holds no level any more, each then goes to its HALT_STATE (R348). -/
def State.closePins (s : State) (g : Nat) (ps : List Nat) : State :=
  let s := forAll ps (fun s p => s.modG g fun G =>
    let x := { G.pin p with iso := false }
    G.setPin p (if G.seq.st == .halted && !G.play.holding then G.restPin p x else x)) s
  s.pinsChanged g

/-- CAL_STEP_END (R351–R354): a step that has lasted its time ends. The precondition is checked again; figures outside their limits mark the
element FAILED and write nothing; coefficients take effect before the element returns to service. In a CALWIN stroke the pin stays isolated. -/
def execCalStepEnd (g : GIx) (e : CalEl) (figure : Int) (more : List Int) (s : State) : Host.Outcome State Fault Refusal :=
  let n := elNum e
  let x := s.calG g
  match x.running.find? (·.1 == n) with
  | none => .next s
  | some (_, since) =>
    if !s.passed since (elSpan n) then .next s
    else
      let vs := (List.range (elFigures n)).map ((figure :: more).getD · 0)
      let old : Figure := match x.figures.find? (·.1 == n) with | some (_, f) => f | none => { out := .done }
      let temp := (s.calTile (tileOf g)).temp
      let ready := s.calReady g n true
      let s := s.freeService g (x.serves n)
      let s := match elPin n with
        | some p => if x.window || x.steps.any fun k => k != n && elPin k == some p then s else s.closePins g [p]
        | none => s
      if !ready then .next (s.endStep g n .precond)
      else if !figuresIn n vs then
        let s := s.setCalG g { s.calG g with figures := Tab.put x.figures n { old with failed := true } }
        .next ((s.endStep g n .limit).advise fCalElement (elHandle g n))
      else
        let s := s.setCalG g { s.calG g with figures := Tab.put x.figures n { out := .done, values := vs, atNs := s.upNs, temp := temp } }
        .next ((s.putCoef g n).endStep g n .done)

/-- CALWIN_ISOLATION_CLOSE (R346, R348): the switches of pins that no step holds any more close. -/
def execCalwinIsolationClose (g : GIx) (s : State) : Host.Outcome State Fault Refusal :=
  let x := s.calG g
  let ps := (s.gather g).isolated.filter fun p => !x.steps.any fun k => elPin k == some p
  if ps.isEmpty then .next s else .next (s.closePins g ps)

/-- CAL_OVERDUE_TIMER (R345): once for each time the tile is due, when that has lasted longer than OVERDUE seconds. -/
def execCalOverdueTimer (t : TIx) (s : State) : Host.Outcome State Fault Refusal :=
  let x := s.calTile t
  if !x.due || x.overdue || calOverdue s.cal.cfg == 0 || !s.passed x.dueNs (calOverdue s.cal.cfg * 10 ^ 9) then .next s
  else .next ((s.setCalTile t { x with overdue := true }).advise fCalOverdue (hTile t))

/-! ## Stores (R361, R362) -/

/-- CAL_STORE_DATA_DONE: the commit record follows. -/
def execCalStoreDataDone (s : State) : Host.Outcome State Fault Refusal :=
  if s.cal.storing == 1 && !s.power.pfail then .next { s with cal := { s.cal with storing := 2 } } else .next s

/-- A commit record becomes durable: the set that the data phase wrote is in force; CAL_STORE commands answer with its epoch. A store that a run which ended
meanwhile asks for follows (R362). -/
def State.calCommit (s : State) : State :=
  if s.cal.storing != 2 then s
  else
    let s := { s with cal := { s.cal with storing := 0, storeInt := false, factory := false, held := s.cal.draft, draft := {}
                                          other := if s.cal.factory then none else some s.cal.held } }
    let s := forAll (s.waiters .calStore) (fun s m => s.respond m (us 10000) (.ok (toLE 4 s.cal.held.epoch))) s
    if s.cal.again then s.startStore else s

/-- CAL_STORE_COMMIT_DONE. -/
def execCalStoreCommitDone (s : State) : Host.Outcome State Fault Refusal := .next s.calCommit

/-! ## Commands -/

def calConfigBody (s : State) (r : Req) : State × Act :=
  let c := w32 r.payload 0
  guarded s (checks [needLen r 4, unless' (bits c.toNat 31 24 == 0 && 1 ≤ calThresh c && calThresh c ≤ 64) stBadField]) fun _ =>
    (forAll (List.range 4) State.tempDue { s with cal := { s.cal with cfg := c } }, .ok)

def calPinmaskBody (s : State) (r : Req) : State × Act :=
  let t := s.target r
  guarded s (checks [needLen r 4, unless' (u32 r.payload 0 < 65536) stBadField]) fun _ =>
    let s := forAll t.units (fun s g => s.setCalG g { s.calG g with pinMask := u32 r.payload 0 }) s
    (s, s.configAct t)

/-- [See R365.] -/
def calRunBody (s : State) (r : Req) : State × Act :=
  let t := s.target r
  guarded s (checks [needLen r 4, unless' (u8 r.payload 0 < 2 && zeros r.payload 1 3) stBadField]) fun _ =>
    let s := forAll t.units (fun s i => s.makeDue i (u8 r.payload 0 == 1)) s
    (s, s.configAct t)

/-- CAL_TILEt. -/
def State.tileImage (s : State) (t : Nat) : Nat :=
  let x := s.calTile t
  let gs := (List.range 16).map fun i => s.calG (16 * t + i)
  (x.temp % 65536).toNat * 65536 + x.excluded * 16 + b2n (gs.any fun y => !y.owed.isEmpty) * 4 + b2n (gs.any fun y => !y.running.isEmpty) * 2
    + b2n x.due

/-- CAL_DEV. -/
def Cal.devImage (c : Cal) : Nat := b2n (c.storing != 0) * 4 + b2n c.factory * 2 + b2n c.storeInt

def State.tileCounts (s : State) (t : Nat) : List Byte := (s.calTile t).counts.flatMap (toLE 4)

/-- A tile's record: CAL_TILEt, CAL_DEV, the epoch, the four counts; the device's has all tiles. On a cane the temperature is the highest,
the flags are combined by OR, and the counts show the worst: the fewest steps DONE, the most of any other end (R366, Table 2-2). [DESIGN CHOICE, unsafe: log 8.] -/
def calStatusBody (s : State) (r : Req) : State × Act :=
  let t := s.target r
  guarded s (needLen r 0) fun _ =>
    let dev := toLE 4 s.cal.devImage ++ toLE 4 s.cal.held.epoch
    if t.cls == cDevice then
      (s, .ok ((List.range 4).flatMap (fun i => toLE 4 (s.tileImage i)) ++ dev ++ (List.range 4).flatMap s.tileCounts))
    else
      (s, s.readMembers t (fun i => { bytes := toLE 4 (s.tileImage i) ++ dev ++ s.tileCounts i }) { len := 28, rules := [(0, 2, .or), (2, 2, .highest), (12, 4, .least), (16, 4, .greatest), (20, 4, .greatest), (24, 4, .greatest)] })

/-- A figure with n values: outcome (0xFF before any step), FAILED, temperature, age in seconds, then each value in thousandths of its
unit. -/
def State.figureBytes (s : State) (f : Option (Nat × Figure)) (n : Nat) : List Byte :=
  match f with
  | some (_, f) => toLE 1 f.out.code ++ toLE 1 (b2n f.failed) ++ toLEi 2 f.temp ++ toLE 4 (min 0xFFFF_FFFF ((s.upNs - f.atNs) / 10 ^ 9))
      ++ (List.range n).flatMap fun i => toLEi 4 (f.values.getD i 0)
  | none => toLE 1 0xFF ++ List.replicate (7 + 4 * n) 0#8

/-- [DESIGN CHOICE, unsafe: log 8, 16.] -/
def State.figure (s : State) (g n : Nat) : List Byte := s.figureBytes ((s.calG g).figures.find? (·.1 == n)) (elFigures n)

def State.figureFailed (s : State) (g n : Nat) : Bool := match (s.calG g).figures.find? (·.1 == n) with | some (_, f) => f.failed | none => false

/-- The elements of a unit: a pin has LEVEL, CMP, TIMING and BALL, any other unit one. -/
def unitElements (cls u : Nat) : List Nat :=
  match cls with
  | 0 => [16 + u % 16, 32 + u % 16, 48 + u % 16, 64 + u % 16]
  | 1 => [8 + u % 4]
  | 4 => [4 + u % 2]
  | _ => [u % 4]

/-- The length of CAL_QUALITY's record for a class: the figures of its elements, or of a channel's four ranges and its INL estimate. -/
def qualityLen (cls : Nat) : Nat := if cls == cAdc then 4 * 28 + 12 else ((unitElements cls 0).map fun n => 8 + 4 * elFigures n).sum

def calQualityBody (s : State) (r : Req) : State × Act :=
  let t := s.target r
  guarded s (needLen r 0) fun _ =>
    let one := fun u =>
      if t.cls == cAdc then
        let f := fun k => s.cal.recs.find? (·.1 == 8 * u + k)
        { bytes := (List.range 4).flatMap (fun k => s.figureBytes (f k) 5) ++ s.figureBytes (f 4) 1 : MemRec }
      else
        let g := unitGather t.cls u
        { bytes := (unitElements t.cls u).flatMap (s.figure g), failed := (unitElements t.cls u).any (s.figureFailed g) }
    (s, s.readMembers t one { len := qualityLen t.cls })

def calStoreBody (s : State) (r : Req) : State × Act :=
  guarded s (needLen r 0) fun _ =>
    (if s.cal.storing == 0 then s.startStore else s, .wait { kind := .calStore })

/-- The 16 readings and the exclusion mask. [DESIGN CHOICE, unsafe: log 8.] -/
def calTempsBody (s : State) (r : Req) : State × Act :=
  guarded s (needLen r 0) fun _ =>
    (s, .ok ((List.range 16).flatMap (fun i => toLEi 2 ((s.calTile (i / 4)).readings.getD (i % 4) 0))
      ++ toLE 2 ((List.range 4).foldl (fun a t => a + (s.calTile t).excluded * 16 ^ t) 0) ++ toLE 2 0))

/-- CAL_CONFIG. -/
def execCalConfig (r : Req) (s : State) : Host.Outcome State Fault Refusal := .next (s.firmware 0x0B01 (us 20) [8] r calConfigBody)
/-- CAL_PINMASK: from the next CALWIN stroke. -/
def execCalPinmask (r : Req) (s : State) : Host.Outcome State Fault Refusal := .next (s.firmware 0x0B02 (us 20) [6, 0xC] r calPinmaskBody)
/-- CAL_RUN. -/
def execCalRun (r : Req) (s : State) : Host.Outcome State Fault Refusal := .next (s.firmware 0x0B03 (us 20) [7, 0xC] r calRunBody)
/-- CAL_STATUS. -/
def execCalStatus (r : Req) (s : State) : Host.Outcome State Fault Refusal := .next (s.firmware 0x0B04 (us 20) [7, 8, 0xC] r calStatusBody)
/-- CAL_QUALITY. -/
def execCalQuality (r : Req) (s : State) : Host.Outcome State Fault Refusal := .next (s.firmware 0x0B05 (us 50) [0, 1, 3, 4, 5, 0xC] r calQualityBody)
/-- CAL_STORE: readable when the commit record is durable. -/
def execCalStore (r : Req) (s : State) : Host.Outcome State Fault Refusal := .next (s.firmware 0x0B06 (us 10000) [8] r calStoreBody)
/-- CAL_TEMPS. -/
def execCalTemps (r : Req) (s : State) : Host.Outcome State Fault Refusal := .next (s.firmware 0x0B07 (us 20) [8] r calTempsBody)

end Sys2Proof.Machine
end

