-- ==== Sys2Proof/Machine/Canes.lean ====
section
/-!
DEFINITION. The UNIT/CANE commands (R37–R53, R586, R588; Tables 2-3, 2-4).
-/
namespace Sys2Proof.Machine

/-! ## Flattening (R40, R41) -/

/-- Join the flattened members of a list, with the greatest depth. -/
def joinFlat : List (Except Half (List Half × Nat)) → Except Half (List Half × Nat)
  | [] => .ok ([], 1)
  | .error e :: _ => .error e
  | .ok (hs, d) :: r =>
    match joinFlat r with
    | .error e => .error e
    | .ok (hs', d') => .ok (hs ++ hs', max d d')

/-- The procedure of R41, with the nesting depth. `known` are the identifiers defined before; `fuel` bounds the path. [DESIGN CHOICE, unsafe: log 114.] -/
def flattenCheck (canes : Tab Cane) (known : List Nat) : Nat → List Nat → Nat → Except Half (List Half × Nat)
  | 0, _, _ => .error stCaneCycle
  | fuel + 1, path, i =>
    if path.contains i then .error stCaneCycle
    else
      match canes.find? (·.1 == i) with
      | none => .error stBadHandle
      | some (_, c) =>
        let one := fun (h : Half) =>
          if !handleOk h then .error stBadHandle
          else if hClass h == 0xC then
            if !known.contains (hIndex h) then .error stBadHandle
            else if ((canes.find? (·.1 == hIndex h)).map (·.2.cls)) != some c.cls then .error stCaneMixed
            else match flattenCheck canes known fuel (i :: path) (hIndex h) with
              | .error e => .error e
              | .ok (hs, d) => .ok (hs, d + 1)
          else if hClass h != c.cls then .error stCaneMixed
          else .ok ([h], 1)
        match joinFlat (c.members.map one) with
        | .error e => .error e
        | .ok (hs, d) => if hs.eraseDups.length == hs.length then .ok (hs, d) else .error stCaneDuplicate

/-! ## References (R42) -/

def caneHandle (i : Nat) : Half := BitVec.ofNat 16 (0xC000 + i)

/-- The descriptor that a request defines: its identifier and its fields (Table 2-4). -/
def defined (r : Req) : Nat × Cane :=
  let p := r.payload
  (hIndex (h16 p 0), { cls := u8 p 2, gang := bit (u8 p 3) 0, twinSpan := bit (u8 p 3) 1
                       members := (List.range (u16 p 4)).map fun k => h16 p (8 + 2 * k) })

/-- Does an enabled binding of a gather refer to a cane (R42): the halt lines and the selections of the last HATCH_BIND, or, while a rebinding
pends (R340), the selections in force? -/
def GHatch.names (h : GHatch) (i : Nat) : Bool :=
  let on := fun (t : Tab Nat) => t.any fun e => e.2.testBit 7
  h.cane == some i && (h.acc != 0 || h.evtNext.any on) || h.evtCane == some i && on h.evt

/-- What refers to a descriptor in the half in service (R42): other descriptors, loaded programs, armed captures, strokes that run from a start
on it, and enabled Hatch bindings, each of an event input or of a halt line. [DEDUCED, unsafe: log 72.] -/
def State.halfRefs (s : State) (i : Nat) : Nat :=
  (s.canes.filter fun c => c.2.members.contains (caneHandle i)).length
    + ((List.range 4).filter fun p => (s.prog p).loaded && (s.prog p).cane == i).length
    + (s.armedGroups.filter (·.cane == some i)).length
    + b2n (s.gathers.any fun g => g.2.seq.live && g.2.cane == some i)
    + b2n (s.gathers.any fun g => g.2.hatch.names i)

/-- The lines of Hatch that belong to gathers. [DEDUCED, unsafe: log 92.] -/
def gatherLines (t : Tab Line) : Tab Line := t.filter fun l => decide (l.1 < 0x1000)

/-- Save the half in service and load the other (R465, Table 22-1). [DEDUCED, unsafe: log 92.] -/
def State.swapHalves (s : State) : State :=
  let out : HalfCtx := { gathers := s.gathers, bcTable := s.bcTable, progs := s.progs, ctxs := s.ctxs, canes := s.canes, lines := gatherLines s.hatch.lines, patches := s.patches }
  let h := s.twin.shelf
  let rest := s.hatch.lines.filter fun l => decide (0x1000 ≤ l.1)
  let s := s.setHatch { s.hatch with lines := h.lines ++ rest }
  let s := { s with gathers := h.gathers, bcTable := h.bcTable, progs := h.progs, ctxs := h.ctxs, canes := h.canes, patches := h.patches }
  s.setTwin { s.twin with shelf := out, otherIn := !s.twin.otherIn }

/-- A descriptor as the shadow's writes leave it. -/
def caneWrite (t : Tab Cane) (w : Half × Req) : Tab Cane :=
  if w.1 == 0x0202 then Tab.put t (defined w.2).1 (defined w.2).2
  else if w.1 == 0x0203 then Tab.del t (hIndex (w.2.target.setWidth 16)) else t

/-- The other half as it stands in DOUBLE duty; before the first swap its descriptors are those of the shadow. -/
def State.otherSide (s : State) : State :=
  let u := s.swapHalves
  if s.twin.takeover then { u with canes := s.twin.shadow.foldl caneWrite [] } else u

/-- Is a descriptor that of both halves of a device in DOUBLE duty? -/
def State.inBothHalves (s : State) (i : Nat) : Bool := s.double && (s.cane i).any (·.twinSpan)

/-- What refers to a descriptor (R42), a twin-spanning one's in DOUBLE duty in either half, with the measurements that a TIU_START on it armed. [DEDUCED, unsafe: log 72.] -/
def State.caneRefs (s : State) (i : Nat) : Nat :=
  s.halfRefs i + (if s.inBothHalves i then s.otherSide.halfRefs i else 0)
    + ((s.waiters .tiuRun).filter fun m => match s.waiting m with | some (_, w) => w.tgt.cane == some i | none => false).length

/-- A change of a descriptor, made in both halves where it is that of both (R46): all or nothing, as R42 has been judged for both. -/
def State.changeCane (s : State) (i : Nat) (f : Tab Cane → Tab Cane) : State :=
  let u := if s.inBothHalves i then s.setTwin { s.twin with shelf := { s.twin.shelf with canes := f s.twin.shelf.canes } } else s
  { u with canes := f s.canes }

/-! ## CANE_DEFINE -/

/-- May these units be a ganged cane (R50)? -/
def gangOk (cls : Nat) (hs : List Half) : Bool :=
  cls == cSmu && 2 ≤ hs.length && hs.length ≤ 4 && ((hs.map fun h => hIndex h / 4).eraseDups.length == 1)

def State.putCane (s : State) (i : Nat) (c : Cane) : State := { s with canes := Tab.put s.canes i c }

/-- [DEDUCED, unsafe: log 71, 96; DESIGN CHOICE, unsafe: log 113, 115.] -/
def caneDefineBody (s : State) (r : Req) : State × Act :=
  let p := r.payload
  let n := u16 p 4
  let i := (defined r).1
  let c := (defined r).2
  guarded s (checks [unless' (p.length ≥ 8 && p.length == 8 + 2 * n) stBadLength, unless' (1 ≤ n && n ≤ 128) stBadRange,
      unless' (hClass (h16 p 0) == 0xC && i < 256) stBadHandle, unless' (c.cls != 8 && c.cls != 9) stWrongClass,
      unless' (c.cls < 8 && u8 p 3 < 4 && zeros p 6 2) stBadField]) fun _ =>
    match flattenCheck (Tab.put s.canes i c) (s.canes.map (·.1)) 257 [] i with
    | .error e => (s, .st e)
    | .ok (hs, depth) =>
      let away := c.cls == cGather && hs.any fun h => (s.localIx h).isNone
      guarded s (checks [unless' (!c.gang || gangOk c.cls hs) stCaneMixed, unless' ((s.cane i).isNone || s.caneRefs i == 0) stCaneBusy,
          unless' (!(away && !c.twinSpan) && !(c.twinSpan && c.cls != cGather)) stNotLocal,
          unless' (!c.twinSpan || (s.twin.st == 2 && s.twin.link)) stTwinDown]) fun _ =>
        (s.putCane i c, .ok (toLE 2 hs.length ++ toLE 2 depth))

/-- A definition that the twin forwards needs an identifier that is free here too, or names a twin-spanning cane already (R44). [DESIGN CHOICE, unsafe: log 73.] -/
def State.spanFree (s : State) (op : Half) (r : Req) : Half :=
  unless' (op != 0x0202 || !(s.cane (defined r).1).any (!·.twinSpan)) stCaneFull

/-! ## The other commands -/

/-- An answer of a command's own form to a cane, behind the preamble of Table 16-4 (R410): its site-safe members count as failing. -/
def State.caneReply (s : State) (t : Tgt) (b : List Byte) : Reply :=
  memberReply t (s.safePos t) ((List.range t.handles.length).map fun p => (p, { bytes := [] })) {} (derived := some b)

/-- A change to a twin-spanning descriptor needs the twin (R52), or, in DOUBLE duty, its half here (R46). [DEDUCED, unsafe: log 96.] -/
def State.spanDown (s : State) (i : Nat) : Half := unless' (!((s.cane i).any (·.twinSpan)) || s.twin.st == 2 || s.double) stTwinDown
def reqCane (r : Req) : Nat := hIndex (r.target.setWidth 16)

/-- A target that is a unit and no cane (R37). -/
def needCane (r : Req) : Half := unless' (hClass (r.target.setWidth 16) == 0xC) stWrongClass

/-- The bounds of CANE_DELETE and CANE_MASK. -/
def State.caneBound (s : State) (r : Req) : Nat := if (s.cane (reqCane r)).any (·.twinSpan) then us 100 else us 50

def caneDeleteBody (s : State) (r : Req) : State × Act :=
  let i := reqCane r
  guarded s (checks [needCane r, needLen r 0, unless' (s.caneRefs i == 0) stCaneBusy, s.spanDown i]) fun _ =>
    (s.changeCane i fun t => Tab.del t i, .done (s.caneReply (s.target r) []))

/-- The mask as a bitmap over n positions. -/
def maskBytes (n : Nat) (masked : List Nat) : List Byte := bitmap ((n + 7) / 8) masked.contains

/-- [DESIGN CHOICE, unsafe: log 8.] -/
def caneQueryBody (s : State) (r : Req) : State × Act :=
  let i := reqCane r
  guarded s (checks [needCane r, needLen r 0]) fun _ =>
    match s.cane i with
    | none => (s, .st stBadHandle)
    | some c =>
      let hs := s.flat i
      (s, .done (s.caneReply (s.target r) (toLE 2 (caneHandle i).toNat ++ toLE 1 c.cls ++ toLE 1 (b2n c.gang + 2 * b2n c.twinSpan) ++ toLE 2 c.members.length
        ++ toLE 2 hs.length ++ toLE 2 (s.caneRefs i) ++ toLE 2 c.masked.length ++ c.members.flatMap (fun h => toLE 2 h.toNat)
        ++ hs.flatMap (fun h => toLE 2 h.toNat) ++ maskBytes hs.length c.masked)))

def caneMaskBody (s : State) (r : Req) : State × Act :=
  let i := reqCane r
  match s.cane i with
  | none => (s, .st (checks [needCane r, stBadHandle]))
  | some c =>
    let n := (s.flat i).length
    let set := (List.range (8 * r.payload.length)).filter (mapBit r.payload)
    guarded s (checks [needCane r, unless' (r.payload.length == (n + 7) / 8) stBadLength, unless' (set.all (· < n)) stBadField, s.spanDown i]) fun _ =>
      let s := s.changeCane i fun t => Tab.put t i { c with masked := set }
      let s := s.gangPlaces { gang := c.gang, masked := set, locals := (s.flat i).map s.localIx } false
      (s, .done (s.caneReply (s.target r) (toLE 2 set.length)))

/-- [DESIGN CHOICE, unsafe: log 8.] -/
def caneListBody (s : State) (r : Req) : State × Act :=
  guarded s (needLen r 0) fun _ => (s, .ok (bitmap 32 fun i => (s.cane i).isSome))

/-- UNIT_INFO's state: live, site-safe, in Anneal, DOUBLE duty. [DESIGN CHOICE, unsafe: log 116.] -/
def State.unitState (s : State) (cls u : Nat) : Nat :=
  if s.faults.anneal then 2 else if s.unitSafe cls u then 1 else if s.double then 3 else 0

/-- [DESIGN CHOICE, unsafe: log 8, 116.] -/
def unitInfoBody (s : State) (r : Req) : State × Act :=
  let h : Half := r.target.setWidth 16
  let cls := hClass h
  let u := (s.localIx h).getD 0
  guarded s (needLen r 0) fun _ =>
    let g := if cls < 7 then unitGather cls u else 0xFFFF
    let tile := if cls < 7 then tileOf g else if cls == cTile then hIndex h else 0xFF
    let b := toLE 1 cls ++ toLE 1 (s.unitState cls u) ++ toLE 2 (hIndex h) ++ toLE 2 g ++ toLE 1 tile ++ toLE 1 (b2n (cls == cBridge || cls == cAdc))
    (s, .done (if cls == 0xC then s.caneReply (s.target r) b else Reply.ok b))

/-- UNIT_INFO: any handle. -/
def execUnitInfo (r : Req) (s : State) : Host.Outcome State Fault Refusal :=
  .next (s.firmware 0x0201 (us 20) [0, 1, 2, 3, 4, 5, 6, 7, 8, 9, 0xC] r unitInfoBody)
/-- CANE_DEFINE. -/
def execCaneDefine (r : Req) (s : State) : Host.Outcome State Fault Refusal :=
  .next (s.firmware 0x0202 (if bit (u8 r.payload 3) 1 then us 350 else us 300) [8] r caneDefineBody)
/-- CANE_DELETE. -/
def execCaneDelete (r : Req) (s : State) : Host.Outcome State Fault Refusal := .next (s.firmware 0x0203 (s.caneBound r) [0, 1, 2, 3, 4, 5, 6, 7, 0xC] r caneDeleteBody)
/-- CANE_QUERY. -/
def execCaneQuery (r : Req) (s : State) : Host.Outcome State Fault Refusal := .next (s.firmware 0x0204 (us 300) [0, 1, 2, 3, 4, 5, 6, 7, 0xC] r caneQueryBody)
/-- CANE_MASK. -/
def execCaneMask (r : Req) (s : State) : Host.Outcome State Fault Refusal := .next (s.firmware 0x0205 (s.caneBound r) [0, 1, 2, 3, 4, 5, 6, 7, 0xC] r caneMaskBody)
/-- CANE_LIST. -/
def execCaneList (r : Req) (s : State) : Host.Outcome State Fault Refusal := .next (s.firmware 0x0206 (us 20) [8] r caneListBody)

end Sys2Proof.Machine
end

