-- ==== Sys2Proof/Machine/Cap.lean ====
section
/-!
DEFINITION. The CAP commands (Tables 12-10, 12-11) and the events at the digitisers.
-/
namespace Sys2Proof.Machine

/-! ## Commands -/

/-- CAP_BUSY, or MEMBER_BUSY on a cane, while any digitiser is not IDLE (R299). -/
def State.digsIdle (s : State) (t : Tgt) : Half :=
  if t.units.all fun u => (s.dig (u / 2) (u % 2)).st == .idle then stOK else t.busy stCapBusy

/-- The refusals of R299, and reserved bits. -/
def digConfigOk (cfg ival trig pat1 meas : Word) : Bool :=
  let mm := digMinmax cfg
  let h : Int := digHyst trig
  let lv := digLevel trig
  let dg0 := bits pat1.toNat 17 16
  let dg1 := bits pat1.toNat 19 18
  bits cfg.toNat 31 20 == 0 && !cfg.getLsbD 10 && bits cfg.toNat 4 0 == 0 && digRange cfg != 3 && digDec cfg ≤ 20 &&
    (if mm then digDec cfg == 0 && 1 ≤ ival.toNat && ival.toNat ≤ 1048576 else ival == 0) &&
    bits trig.toNat 27 26 == 0 && bits trig.toNat 17 14 == 0 && decide (-16384 ≤ 2 * lv - h) && decide (2 * lv + h ≤ 16382) &&
    (digKind trig != 3 || bits trig.toNat 25 21 < 16) &&
    bits pat1.toNat 31 20 == 0 && dg0 != 3 && dg1 != 3 &&
    (digKind trig != 2 || bits pat1.toNat 15 0 != 0 || dg0 != 0 || dg1 != 0) &&
    bits meas.toNat 31 30 == 0 && bits meas.toNat 15 14 == 0

/-- A digitiser under CAP_CONFIG: its registers; its offset DAC leaves the clear code, but not in the safe state (R84, R296); a parked
converter is powered (R297). [See R298.] -/
def Dig.configure (x : Dig) (p : List Byte) (safe : Bool) : Dig :=
  let x := { x with cfg := w32 p 0, interval := u32 p 4, offset := u16 p 8, offClr := u16 p 10, trig := w32 p 12, pat0 := w32 p 16
                    pat1 := w32 p 20, meas := w32 p 24, clearHold := false, warming := x.parked }
  if safe then x else { x with out := if x.parked then x.out else x.offset, cleared := false, opened := false }

def capConfigBody (s : State) (r : Req) : State × Act :=
  let t := s.target r
  let p := r.payload
  guarded s (checks [needLen r 28, unless' (digConfigOk (w32 p 0) (w32 p 4) (w32 p 12) (w32 p 20) (w32 p 24)) stBadField,
      s.digsIdle t, unless' (!s.clearLow) stClearActive]) fun _ =>
    let s := forAll t.units (fun s u => s.preempt (u / 2) (· == 4 + u % 2)) s
    let s := forAll t.units (fun s u => s.setDig (u / 2) (u % 2) ((s.dig (u / 2) (u % 2)).configure p (s.gather (u / 2)).safe.on)) s
    let cold := t.units.filter fun u => (s.dig (u / 2) (u % 2)).parked
    if cold.isEmpty then (s, s.configAct t) else (s, .wait { kind := .converter, units := cold })

def capLimitsBody (s : State) (r : Req) : State × Act :=
  let t := s.target r
  let p := r.payload
  let lims := (List.range 10).map fun i => (i64 p (8 + 16 * i), i64 p (16 + 16 * i))
  guarded s (checks [needLen r 168, unless' (u16 p 0 < 1024 && zeros p 2 6 && lims.all fun l => l.1 ≤ l.2) stBadField, s.digsIdle t]) fun _ =>
    let s := forAll t.units (fun s u => s.preempt (u / 2) (· == 4 + u % 2)) s
    let s := forAll t.units (fun s u => s.setDig (u / 2) (u % 2) { s.dig (u / 2) (u % 2) with enable := u16 p 0, limits := lims }) s
    (s, s.configAct t)

/-- Does a region overlap an open stream context, the export ring or an armed capture region (R316)? -/
def State.regionTaken (s : State) (base size : Nat) : Bool :=
  s.ctxs.any (fun c => c.2.isOpen &&
      overlap base size c.2.base ((if c.2.mode == 1 then (c.2.members.length - 1) * c.2.stride + c.2.length else c.2.length) * 256))
    || overlap base size 0x1F0000000 ringBytes
    || s.armedGroups.any fun a => overlap base size a.base a.size

/-- Members that do not share MODE, RANGE, DEC and M are refused (R305); a site-safe one is skipped (R48). -/
def State.digsMixed (s : State) (t : Tgt) : Half :=
  match (s.liveUnits t).map fun u => let x := s.dig (u / 2) (u % 2); (digMinmax x.cfg, digRange x.cfg, digDec x.cfg, x.interval) with
  | [] => stOK
  | a :: l => unless' (l.all (· == a)) stCaneMixed

def capArmBody (s : State) (r : Req) : State × Act :=
  let t := s.target r
  let p := r.payload
  let base := u64 p 0
  let size := u64 p 8
  let len := u32 p 16
  let pre := u32 p 20
  let records := u16 p 24
  let live := t.here.filter fun pu => !s.unitSafe t.cls pu.2
  let mm := match live.map (·.2) ++ t.units with | u :: _ => digMinmax (s.dig (u / 2) (u % 2)).cfg | [] => false
  guarded s (checks [needLen r 40,
      unless' (64 ≤ len && len ≤ 67108864 && pre + 64 ≤ len && 1 ≤ records && records ≤ 1024 && u8 p 32 < 2 && zeros p 33 7) stBadField,
      unless' (base % 256 == 0 && t.handles.length * records * recordBytes len (itemWidth mm) ≤ size && dramRegionOk base size
        && !s.regionTaken base size) stBadRange,
      unless' (s.bandwidth + u32 p 28 ≤ bandwidthCap) stBwFull,
      s.digsIdle t,
      unless' (live.all fun pu => !(s.dig (pu.2 / 2) (pu.2 % 2)).parked) stCapParked,
      s.digsMixed t,
      unless' (t.cane.isSome || !live.isEmpty) stSafeState]) fun _ =>
    let a : CapArm := { base := base, size := size, reserve := u32 p 28, group := live.map (·.2), cane := t.cane, master := u8 p 32 == 1
                        len := len, pre := pre, records := records, holdoff := u16 p 26, rate := 1, minmax := mm }
    let s := forAll live (fun s pu =>
      let x := s.dig (pu.2 / 2) (pu.2 % 2)
      ((s.preempt (pu.2 / 2) (· == 4 + pu.2 % 2)).setDig (pu.2 / 2) (pu.2 % 2) { x with arm := some { a with pos := pu.1 } }).armDig (pu.2 / 2) (pu.2 % 2)) s
    (s, s.configAct t)

/-- CAP_FORCE triggers every member at the DGCLK edge that registers it, fraction 0 (Table 12-3). Which base-rate sample of the item that is
being taken that is, is open. [DESIGN CHOICE, safe: log 126.] -/
def capForceBody (s : State) (r : Req) : State × Act :=
  let t := s.target r
  guarded s (needLen r 0) fun _ =>
    let (n, s) := s.fresh
    let armed := t.units.filter fun u => (s.dig (u / 2) (u % 2)).st == .armed
    let edge := armed.foldl (fun m u => match (s.dig (u / 2) (u % 2)).arm with | some a => max m (a.next + n % max 1 a.rate) | none => m) 0
    let s := forAll armed (fun s u => s.registerTrigger (u / 2) (u % 2) 4 (256 * edge)) s
    (s, s.configAct t)

def capAbortBody (s : State) (r : Req) : State × Act :=
  let t := s.target r
  guarded s (needLen r 0) fun _ =>
    let s := forAll t.units (fun s u => s.endDig (u / 2) (u % 2) cfAborted) s
    (s, s.configAct t)

/-- DIG_STATUS, the records ended, the FIFO half's fill, the D or M in force, the steps in the current record, TRIG_LOST. [DESIGN CHOICE, unsafe: log 8.] -/
def State.capStatus (s : State) (u : Nat) : List Byte :=
  let G := s.gather (u / 2)
  let x := G.dig (u % 2)
  let a := x.arm
  toLE 4 (G.digStatus x) ++ toLE 4 ((a.map (·.stored.length)).getD 0) ++ toLE 4 x.fill
    ++ toLE 4 ((a.map (·.rate)).getD x.rate) ++ toLE 4 ((a.map fun a => (stepIndices a.record).length).getD 0)
    ++ toLE 4 ((a.map (·.lost)).getD 0)

/-- Has a record of the digitiser's last arming failed (R310)? Its member then fails (R49). [DESIGN CHOICE, unsafe: log 146.] -/
def State.recordFailed (s : State) (u : Nat) : Bool := ((s.dig (u / 2) (u % 2)).arm.map (·.failed)).getD false

def capStatusBody (s : State) (r : Req) : State × Act :=
  let t := s.target r
  guarded s (needLen r 0) fun _ => (s, s.readMembers t (fun u => { bytes := s.capStatus u, failed := s.recordFailed u }) { len := 24, flag := some 0 })

/-- The arming and the stored items of a record that has ended. -/
def State.endedRecord (s : State) (u k : Nat) : Option (CapArm × Nat) :=
  (s.dig (u / 2) (u % 2)).arm.bind fun a => (a.stored[k]?).map fun n => (a, n)

/-- The units whose own conditions decide a read: of a cane those that answer a record (R48). -/
def State.readUnits (s : State) (t : Tgt) : List Nat := if t.cane.isSome then s.liveUnits t else t.units

/-- A record that has ended on each unit of a read, with a condition on its items. -/
def State.recordsOk (s : State) (t : Tgt) (k : Nat) (fits : CapArm → Nat → Bool) : Bool :=
  (s.readUnits t).all fun u => match s.endedRecord u k with | some (a, n) => fits a n | none => false

/-- The bytes of a record at an offset behind its place in DRAM. -/
def State.recordRec (s : State) (k off n u : Nat) : MemRec :=
  match s.endedRecord u k with
  | some (a, _) => { bytes := Mem.readAll s.dram (a.recordAt k + off) n, failed := s.recordFailed u }
  | none => { bytes := [] }

/-- CAP_HEADER; of a cane every member's header, whose flags are ORed (R12, R49). [DESIGN CHOICE, unsafe: log 117.] -/
def capHeaderBody (s : State) (r : Req) : State × Act :=
  let t := s.target r
  let k := u16 r.payload 0
  guarded s (checks [needLen r 4, unless' (s.recordsOk t k fun _ _ => true) stBadRange, unless' (zeros r.payload 2 2) stBadField]) fun _ =>
    (s, s.readMembers t (s.recordRec k 0 256) { len := 256, flag := some 28 })

/-- CAP_READ; of a cane every member's items. [DESIGN CHOICE, unsafe: log 117.] -/
def capReadBody (s : State) (r : Req) : State × Act :=
  let t := s.target r
  let p := r.payload
  let k := u16 p 0
  let off := u32 p 4
  let n := u32 p 8
  guarded s (checks [needLen r 12,
      unless' (s.recordsOk t k (fun a items => decide (off + n ≤ items * itemWidth a.minmax)) && off % 4 == 0 && n % 4 == 0 && 4 ≤ n && n ≤ 3840) stBadRange,
      unless' (zeros p 2 2) stBadField]) fun _ =>
    (s, s.readMembers t (s.recordRec k (256 + off) n) { len := n })

/-- The eight registers of Table 12-2. -/
def Gather.digRegs (G : Gather) (x : Dig) : List Byte :=
  toLE 4 x.cfg.toNat ++ toLE 4 x.interval ++ toLE 2 x.offset ++ toLE 2 x.offClr ++ toLE 4 x.trig.toNat ++ toLE 4 x.pat0.toNat
    ++ toLE 4 x.pat1.toNat ++ toLE 4 x.meas.toNat ++ toLE 4 (G.digStatus x)

/-- CAP_READ_CFG. [DESIGN CHOICE, unsafe: log 117.] -/
def capReadCfgBody (s : State) (r : Req) : State × Act :=
  let t := s.target r
  guarded s (needLen r 0) fun _ =>
    (s, s.readMembers t (fun u => { bytes := (s.gather (u / 2)).digRegs (s.dig (u / 2) (u % 2)) }) { len := 32, flag := some 28 })

/-- CAP_CONFIG: 80 µs when a member leaves parked. -/
def execCapConfig (r : Req) (s : State) : Host.Outcome State Fault Refusal := .next (s.firmware 0x0901 (us 20) [4, 0xC] r capConfigBody)
/-- CAP_LIMITS. -/
def execCapLimits (r : Req) (s : State) : Host.Outcome State Fault Refusal := .next (s.firmware 0x0902 (us 20) [4, 0xC] r capLimitsBody)
/-- CAP_ARM: all members arm on one edge. -/
def execCapArm (r : Req) (s : State) : Host.Outcome State Fault Refusal := .next (s.firmware 0x0903 (us 50) [4, 0xC] r capArmBody)
/-- CAP_FORCE. -/
def execCapForce (r : Req) (s : State) : Host.Outcome State Fault Refusal := .next (s.firmware 0x0904 (us 10) [4, 0xC] r capForceBody)
/-- CAP_ABORT. -/
def execCapAbort (r : Req) (s : State) : Host.Outcome State Fault Refusal := .next (s.firmware 0x0905 (us 10) [4, 0xC] r capAbortBody)
/-- CAP_STATUS. -/
def execCapStatus (r : Req) (s : State) : Host.Outcome State Fault Refusal := .next (s.firmware 0x0906 (us 20) [4, 0xC] r capStatusBody)
/-- CAP_HEADER. -/
def execCapHeader (r : Req) (s : State) : Host.Outcome State Fault Refusal := .next (s.firmware 0x0907 (us 50) [4, 0xC] r capHeaderBody)
/-- CAP_READ. -/
def execCapRead (r : Req) (s : State) : Host.Outcome State Fault Refusal := .next (s.firmware 0x0908 (us 100) [4, 0xC] r capReadBody)
/-- CAP_READ_CFG. -/
def execCapReadCfg (r : Req) (s : State) : Host.Outcome State Fault Refusal := .next (s.firmware 0x0909 (us 20) [4, 0xC] r capReadCfgBody)

/-! ## Events -/

/-- CAP_TRIGGER (R300–R302, R304, R305): the source that DIG_TRIG selects fires and is registered. [DEDUCED, unsafe: log 28.] -/
def execCapTrigger (g : GIx) (d : Two) (fire : CapFire) (place : Nat) (s : State) : Host.Outcome State Fault Refusal :=
  match s.fireTime g d fire place with
  | none => .next s
  | some time =>
    if (s.dig g d).st == .idle then .next s
    else
      let s := match fire with
        | .level _ _ c => s.samplesTaken g ((s.dig g d).levelOf d) [code14 c]
        | .pattern s0 s1 => (s.samplesTaken g 0 [code14 s0]).samplesTaken g 1 [code14 s1]
        | _ => s
      let mark := s.capPresented g (s.dig g d).trig
      let s := s.registerTrigger g d (digKind (s.dig g d).trig) time
      let x := s.dig g d
      .next (s.setDig g d { x with patHeld := x.patHeld || digKind x.trig == 2, lvlReady := x.lvlReady && digKind x.trig != 0
                                   arm := x.arm.map fun a => { a with mark := mark } })

/-- CAP_ARBITRATION_END (R305): every armed member of the cane takes the earliest competitor as its trigger point. -/
def execCapArbitrationEnd (g : GIx) (d : Two) (s : State) : Host.Outcome State Fault Refusal :=
  match (s.dig g d).arm with
  | none => .next s
  | some a =>
    let armed := a.group.filter fun u => (s.dig (u / 2) (u % 2)).st == .armed
    match earliest (armed.filterMap fun u => (s.dig (u / 2) (u % 2)).arm.bind (·.seen)) with
    | none => .next s
    | some t =>
      .next (forAll armed (fun s u =>
        let x := s.dig (u / 2) (u % 2)
        s.setDig (u / 2) (u % 2) { x with st := .capturing, arm := x.arm.map fun a => { a with trig := some t, seen := none } }) s)

/-- The item of some samples, written to the FIFO half: what the half holds after draining, and whether there is room (R308). `now` are the flags
whose conditions hold. -/
def Dig.take (x : Dig) (a : CapArm) (samples : List Int) (drained now : Nat) : Dig :=
  let fill := x.fill - drained
  let gap := decide (fill + x.itemBytes > 32768)
  let fill := if gap then fill else fill + x.itemBytes
  let since := if gap then a.since else a.since + 1
  let due := !gap && fill ≥ 24576 && (a.steps == 0 || since ≥ 256)
  let room := if digMinmax x.cfg then a.rate ≤ 524288 else a.rate < 2 ^ 20
  let it : CapItem := { first := a.next, rate := a.rate, samples := samples, gap := gap, held := a.held ||| now ||| b2n (due && !room) * cfRateCeil }
  { x with fill := fill
           arm := some { a with items := a.items ++ [it], next := a.next + samples.length, held := now
                                rate := if due && room then 2 * a.rate else a.rate
                                since := if due && room then 0 else since, steps := if due && room then a.steps + 1 else a.steps } }

/-- The record's items as they stand in DRAM after one more (R303): the new one alone, or the whole ring where it has moved on. -/
def CapArm.flowItem (old new : CapArm) (m : Mem) : Mem :=
  let its := new.record
  if its.length == old.record.length + 1 then new.flow m (its.length - 1) (its.drop (its.length - 1)) else new.flow m 0 its

/-- CAP_ITEM_WRITE (R303, R306–R308): an item of as many base-rate samples as the D or M in force, with the bytes drained since the
last. A record that has its L items takes no more; samples that form no item are those of a digitiser that converts without recording. -/
def execCapItemWrite (g : GIx) (d : Two) (samples : List Int) (drained : Nat) (s : State) : Host.Outcome State Fault Refusal :=
  let cs := samples.map code14
  let x := s.dig g d
  if x.parked then .next s
  else
    let recording := x.st == .armed || x.st == .capturing
    match x.arm, recording with
    | some a, true =>
      if a.full then .next (s.samplesTaken g d cs)
      else if samples.length != a.rate then .next s
      else
        let y := x.take a cs drained ((s.gather g).digFlags x (s.tilePatched g))
        let s := s.setDig g d y
        let s := match y.arm with | some b => { s with dram := a.flowItem b s.dram } | none => s
        .next (s.samplesTaken g d cs)
    | _, _ => .next (s.samplesTaken g d cs)

/-- CAP_RECORD_END (R303, R311): the record has its items. -/
def execCapRecordEnd (g : GIx) (d : Two) (s : State) : Host.Outcome State Fault Refusal :=
  let x := s.dig g d
  match x.st, x.arm with
  | .capturing, some a => .next (if a.full then s.closeRecord g d 0 else s)
  | _, _ => .next s

/-- CAP_HOLDOFF_END (R304): HOLDOFF µs after the record. -/
def execCapHoldoffEnd (g : GIx) (d : Two) (s : State) : Host.Outcome State Fault Refusal :=
  let x := s.dig g d
  let past : Bool := match x.arm with | some a => s.passed a.endNs (us a.holdoff) | none => false
  if x.st == .holdoff && past then .next (s.armDig g d) else .next s

/-- CAP_CONVERTER_READY (R297): PARKED clears; a CAP_CONFIG whose members are all ready answers. -/
def execCapConverterReady (g : GIx) (d : Two) (s : State) : Host.Outcome State Fault Refusal :=
  let x := s.dig g d
  if !x.warming then .next s
  else
    let held := (s.gather g).safe.on || x.clearHold
    let s := s.setDig g d { x with warming := false, parked := false, out := if held then x.out else x.offset }
    .next (forAll (s.waiters .converter) (fun s m =>
      match s.waiting m with
      | some (e, w) =>
        if w.units.any fun u => (s.dig (u / 2) (u % 2)).parked then s
        else
          let t := w.tgt
          s.respond m (us 80) (memberReply t (s.safePos t) (t.here.map fun pu => (pu.1, { bytes := [] })) {})
      | none => s) s)

end Sys2Proof.Machine
end

