-- ==== Sys2Proof/Machine/SafeState.lean ====
section
/-!
DEFINITION. Release from the safe state (R495, R496): when it may be made, what each element returns to, and the starts that make it.
-/
namespace Sys2Proof.Machine

/-- Has every element reached its safe state? Only the units take time that a row ends (Table 19-7). -/
def Gather.safeReached (G : Gather) : Bool := (List.range 4).all fun u => (G.smu u).run.isNone

/-- Is a class B cause of the gather still asserted? -/
def State.causeAsserted (s : State) (g : Nat) : Bool := s.faults.causes.any fun c => srcClass c.1 == 0xB && c.2 == s.gHandle g

/-- May a gather in the safe state be released now, were it not held? -/
def State.mayRelease (s : State) (g : Nat) : Bool :=
  !s.faults.anneal && (s.gather g).safeReached && !s.causeAsserted g

/-- A pin's PIN_CMP comes into force (R84), and its levels return as a PIN_LEVELS write, unless CLEAR_N holds them (R154). -/
def Pin.written (x : Pin) : Pin :=
  let x := x.cmpInForce
  if x.clearHold then x else { x.applyLevels x.lvl with cleared := false, clamped := false }

/-- A unit returns to its written settings through Table 8-4 from ±256 nA; a tripped one stays in ±256 nA until its release. [DEDUCED, unsafe: log 105.] -/
def Smu.written (x : Smu) : Smu :=
  let x := { x with cleared := x.clearHold, dac := if x.clearHold || x.tripped then x.dac else x.set }
  if x.on then
    if x.tripped then x else { x with run := some { kind := .back, old := 0, new := cfgRange x.cfg }, rcCompl := false }
  else { x with rangeNow := if x.parked then 0 else cfgRange x.cfg }

/-- A digitiser returns to its written settings (R495): its input switch closes, and its offset DAC leaves the clear code unless CLEAR_N holds it. -/
def Dig.written (x : Dig) : Dig :=
  let x := { x with opened := false }
  if x.clearHold then x else { x with cleared := false, out := if x.parked then x.out else x.offset }

/-! ## Records whose reaction has ended (R506) -/

/-- Has the reaction of a record's source and scope ended? -/
def State.reactionEnded (s : State) (r : Rec) : Bool :=
  if srcClass r.src == 0xB then match s.scopeGather r.scope with | some g => !(s.gather g).safe.on | none => true
  else !s.faults.anneal

/-- An acknowledged record of class B, C or D goes once its reaction has ended; one of class A at once. -/
def State.pruneRecs (s : State) : State :=
  s.setFaults { s.faults with recs := s.faults.recs.filter fun r => !(r.ack && (srcClass r.src == 0xA || s.reactionEnded r)) }

/-- The elements of a gather return to their written settings; each bridge emulator stays OPEN (R495). `replays` says whether the release
is one that replays where FLT_CFG.REPLAY and the source allow it. [DEDUCED, unsafe: log 61, 99.] -/
def State.releaseSafe (s : State) (g : Nat) (replays : Bool) : State :=
  let due := replays && s.faults.replay && (s.gather g).safe.replay
  let s := s.modG g fun G =>
    let G := { G with safe := { G.safe with on := false, held := false, replayDue := due } }
    let G := (List.range 16).foldl (fun G p => G.setPin p (G.pin p).written) G
    let G := (List.range 4).foldl (fun G u => G.setSmu u (G.smu u).written) G
    G.mapPins fun p x => G.restPin p x
  let s := (forAll [0, 1] (fun s d => s.setDig g d (s.dig g d).written) s).probes g
  (s.comparatorsChanged g).pruneRecs

/-- A start that includes gathers in the safe state releases them, held or not (R84, R496); none where one of them may not be released,
which is SAFE_STATE. [See R18.] -/
def State.startRelease (s : State) (gs : List Nat) : Option State :=
  let safe := gs.filter fun g => (s.gather g).safe.on
  if safe.all s.mayRelease then some (forAll safe (fun s g => s.releaseSafe g false) s) else none

/-- SAFE_RELEASE_CHECK: every gather in the safe state that is not held and may be released is. -/
def execSafeReleaseCheck (s : State) : Host.Outcome State Fault Refusal :=
  .next (if s.power.parked || s.faults.held then s
    else forAll (s.gathers.map (·.1)) (fun s g =>
      if (s.gather g).safe.on && !(s.gather g).safe.held && s.mayRelease g then s.releaseSafe g true else s) s)

end Sys2Proof.Machine
end

