-- ==== Sys2Proof/Machine/Faults.lean ====
section
/-!
DEFINITION. The fault collector's rows and the FAULT commands (R483–R506, Tables 19-2 to 19-13).
-/
namespace Sys2Proof.Machine

/-! ## Images -/

/-- A record as Table 19-6 lays it out. -/
def Rec.bytes (r : Rec) : List Byte :=
  let b := toLE 2 r.src.toNat ++ toLE 1 (b2n r.real + 2 * b2n r.injected + 4 * b2n r.ack + 8 * b2n r.logged) ++ toLE 1 r.react
    ++ toLE 2 r.scope.toNat ++ toLE 2 r.count ++ toLE 8 r.time ++ toLE 4 r.tick.toNat ++ toLE 4 r.detail.toNat ++ toLE 4 r.seq
  b ++ toLE 4 (crc32c b).toNat

/-- FLT_CFG and FLT_STATUS (Table 19-11). -/
def Faults.cfgImage (f : Faults) : Nat := f.wdog * 4 + b2n f.replay * 2 + b2n f.alertEn
def Faults.statusImage (f : Faults) : Nat := f.lost * 1024 + f.recs.length

/-- FAULT_N low, and ALERT_N low (R502). -/
def State.faultLow (s : State) : Bool :=
  s.faults.anneal || s.gathers.any (·.2.safe.on) || s.faults.recs.any fun r => srcClass r.src != 0xA && !r.ack
def State.alertLow (s : State) : Bool := s.faults.alertEn && s.faults.recs.any fun r => srcClass r.src == 0xA && !r.ack

/-! ## Scopes -/

/-- May a source name this scope: class A a unit, a gather, a tile or the device; class B a gather; classes C and D the device (Tables 19-2
to 19-5, 19-6)? -/
def scopeClassOk (src scope : Half) : Bool :=
  match srcClass src with
  | 0xA => hClass scope ≤ 8
  | 0xB => hClass scope == cGather
  | _ => hClass scope == cDevice

/-! ## Occurrences -/

def State.addCause (s : State) (src scope : Half) : State :=
  if s.faults.causes.contains (src, scope) then s else s.setFaults { s.faults with causes := s.faults.causes ++ [(src, scope)] }

/-- A lockstep mismatch: within 3,600 s of the previous one it is LOCKSTEP_REPEAT (R488). [DEDUCED, unsafe: log 111.] -/
def State.lockstep (s : State) : State :=
  let t := s.upNs / 10 ^ 9
  let again := match s.faults.lockstepS with | some u => decide (t ≤ u + 3600) | none => false
  let s := s.setFaults { s.faults with lockstepS := some t }
  s.raise (if again then fLockstepRepeat else fLockstep) hDevice

/-- A sealed field state (R489). [DEDUCED, unsafe: log 111.] -/
def State.sealedField (s : State) : Bool := s.sec.life == lifeProduction && s.amp.legal != 1

/-- The half of the Ampoule calibration store that would be in force fails its MAC (R489). [DEDUCED, unsafe: log 111.] -/
def State.storeMac (s : State) : State :=
  if s.sealedField then (s.addCause fAmpStoreMac hDevice).raise fAmpStoreMac hDevice
  else (s.setAmp { s.amp with stopNoAdjust := true }).raise fAmpStore hDevice

/-- RAIL_LOGIC and RAIL_PE are neither latched nor recorded while PFAIL_N is low (R531), and RAIL_PE only once armed (R529). -/
def State.railRaised (s : State) (src : Half) : Bool :=
  !((src == fRailLogic || src == fRailPe) && s.power.pfail) && !(src == fRailPe && !s.power.peArmed)

/-- FAULT_OCCURRENCE: a source whose condition is now met. Its cause stays asserted until FAULT_CAUSE_CLEAR. [See R31.] [DEDUCED, unsafe: log 111.] -/
def execFaultOccurrence (src scope : Half) (detail : Word) (s : State) : Host.Outcome State Fault Refusal :=
  .next (if !srcDefined src || !scopeClassOk src scope || !handleOk scope || !s.railRaised src then s
    else if src == fLockstep || src == fLockstepRepeat then s.lockstep
    else if src == fAmpStore || src == fAmpStoreMac then s.storeMac
    else (if srcClass src == 0xA then s else s.addCause src scope).raise src scope detail)

/-- FAULT_CAUSE_CLEAR. -/
def execFaultCauseClear (src scope : Half) (s : State) : Host.Outcome State Fault Refusal :=
  .next (s.setFaults { s.faults with causes := s.faults.causes.filter (· != (src, scope)) })

/-- The oldest class C or D record not yet in the MRAM log goes there, as it stands; then LOGGED is set (R493). [DESIGN CHOICE, unsafe: log 59.] -/
def State.logFault (s : State) : State :=
  let f := s.faults
  match f.recs.find? fun r => srcClass r.src ≥ 0xC && !r.logged with
  | none => s
  | some r =>
    let log := f.log ++ [r]
    let mark := fun (x : Rec) => if x.src == r.src && x.scope == r.scope then { x with logged := true } else x
    s.setFaults { f with log := log.drop (log.length - 256), recs := f.recs.map mark, dLatch := f.dLatch.map mark }

/-- FAULT_LOG_WRITE. [DESIGN CHOICE, unsafe: log 59.] -/
def execFaultLogWrite (s : State) : Host.Outcome State Fault Refusal := .next s.logFault

/-- Is the management processor running: not in reset for Anneal, not starting, not powered down? -/
def State.processorRuns (s : State) : Bool := !s.faults.held && s.power.pstate != 0 && s.power.pstate != 3

/-- WATCHDOG_EXPIRY (R488). -/
def execWatchdogExpiry (s : State) : Host.Outcome State Fault Refusal := .next (if s.processorRuns then s.raise fWdog hDevice else s)

/-- FCLK_GAP and COLLECTOR_MISMATCH (R491): Anneal at once, and FLT_SELF latched. [DESIGN CHOICE, unsafe: log 58.] -/
def execFclkGap (s : State) : Host.Outcome State Fault Refusal := .next (s.raise fFltSelf hDevice)
/-- [DESIGN CHOICE, unsafe: log 58.] -/
def execCollectorMismatch (s : State) : Host.Outcome State Fault Refusal := .next (s.raise fFltSelf hDevice)

/-- REFCLK_LOSS (R29). -/
def execRefclkLoss (s : State) : Host.Outcome State Fault Refusal :=
  .next ((s.addCause fRefclkLoss hDevice).raise fRefclkLoss hDevice)

/-- PLL_LOSS: the timing, system or DRAM PLL (Table 19-4). -/
def execPllLoss (_ : Pll) (s : State) : Host.Outcome State Fault Refusal :=
  .next ((s.addCause fPllLoss hDevice).raise fPllLoss hDevice)

/-- TJ_CRIT (R490): a sensor above 165 °C, in 0.01 °C; DETAIL holds sensor and reading. -/
def execTjCrit (sensor : Fin 16) (reading : Int) (s : State) : Host.Outcome State Fault Refusal :=
  .next (if reading ≤ 16500 then s
    else (s.addCause fTjCrit hDevice).raise fTjCrit hDevice (BitVec.ofNat 32 (sensor.val * 65536 + (reading % 65536).toNat)))

/-! ## FAULT commands -/

def fltReadBody (s : State) (r : Req) : State × Act :=
  let first := u32 r.payload 0
  let n := u16 r.payload 4
  let f := s.faults
  guarded s (checks [needLen r 8, unless' (1 ≤ n && n ≤ 127 && first < f.nextSeq) stBadRange,
      unless' (zeros r.payload 6 2) stBadField]) fun _ =>
    let recs := (f.recs.filter fun (x : Rec) => decide (first ≤ x.seq)).take n
    (s, .done { blocks := toLE 4 f.statusImage :: recs.map (·.bytes) })

def fltAckBody (s : State) (r : Req) : State × Act :=
  let first := u32 r.payload 0
  let last := u32 r.payload 4
  let f := s.faults
  guarded s (checks [needLen r 8, unless' (first ≤ last && last < f.nextSeq) stBadRange]) fun _ =>
    let named := fun (x : Rec) => decide (first ≤ x.seq ∧ x.seq ≤ last)
    let n := (f.recs.filter named).length
    let s := s.setFaults { f with recs := f.recs.map fun x => if named x then { x with ack := true } else x }
    (s.pruneRecs, .ok (toLE 4 n))

/-- [DESIGN CHOICE, unsafe: log 57.] -/
def fltForceBody (s : State) (r : Req) : State × Act :=
  let src := h16 r.payload 0
  let scope := h16 r.payload 2
  let mode := u8 r.payload 4
  let grave := srcClass src ≥ 0xC
  guarded s (checks [needLen r 12,
      unless' (srcDefined src && mode ≤ 1 && zeros r.payload 5 3 && scopeClassOk src scope &&
        u32 r.payload 8 == (if grave then 0xA55A else 0)) stBadField,
      unless' (handleOk scope) stBadHandle,
      unless' (scope != 0x8001 && !(hClass scope == cGather && (s.localIx scope).isNone && !s.double)) stNotLocal,
      unless' (!(srcClass src == 0xD && s.sec.life == lifeProduction)) stLifecycle]) fun _ =>
    ((s.respond r.mbx.val (us 20) (Reply.ok [])).raise src scope 0 false (mode == 0), .ok)

def fltConfigBody (s : State) (r : Req) : State × Act :=
  let v := u32 r.payload 0
  guarded s (checks [needLen r 4, unless' (bits v 31 9 == 0 && 2 ≤ bits v 8 2 && bits v 8 2 ≤ 100) stBadField]) fun _ =>
    (s.setFaults { s.faults with wdog := bits v 8 2, replay := bit v 1, alertEn := bit v 0 }, .ok)

def fltLogBody (s : State) (r : Req) : State × Act :=
  let first := u32 r.payload 0
  let n := u16 r.payload 4
  guarded s (checks [needLen r 8, unless' (1 ≤ n && n ≤ 127 && first < s.faults.log.length) stBadRange,
      unless' (zeros r.payload 6 2) stBadField]) fun _ =>
    (s, .done { blocks := (slice s.faults.log first n).map (·.bytes) })

/-- A member in the safe state without an asserted cause is no longer held, and is released where its elements have reached their safe
states; otherwise the next check releases it. -/
def fltReleaseBody (s : State) (r : Req) : State × Act :=
  let t := s.target r
  guarded s (needLen r 0) fun _ =>
    let s := forAll t.units (fun s g =>
      if !(s.gather g).safe.on || s.causeAsserted g || s.faults.anneal then s
      else
        let s := s.modG g fun G => { G with safe := { G.safe with held := false } }
        if s.mayRelease g then s.releaseSafe g true else s) s
    (s, s.configAct t)

/-- FLT_READ. -/
def execFltRead (r : Req) (s : State) : Host.Outcome State Fault Refusal := .next (s.firmware 0x0E01 (us 50) [8] r fltReadBody)
/-- FLT_ACK. -/
def execFltAck (r : Req) (s : State) : Host.Outcome State Fault Refusal := .next (s.firmware 0x0E02 (us 20) [8] r fltAckBody)
/-- FLT_FORCE (R500): the occurrence reaches the collector as the command answers. [DESIGN CHOICE, unsafe: log 57.] -/
def execFltForce (r : Req) (s : State) : Host.Outcome State Fault Refusal := .next (s.firmware 0x0E03 (us 20) [8] r fltForceBody)
/-- FLT_CONFIG. -/
def execFltConfig (r : Req) (s : State) : Host.Outcome State Fault Refusal := .next (s.firmware 0x0E04 (us 20) [8] r fltConfigBody)
/-- FLT_LOG. -/
def execFltLog (r : Req) (s : State) : Host.Outcome State Fault Refusal := .next (s.firmware 0x0E05 (us 2000) [8] r fltLogBody)
/-- FLT_RELEASE. -/
def execFltRelease (r : Req) (s : State) : Host.Outcome State Fault Refusal := .next (s.firmware 0x0E06 (us 20) [6, 0xC] r fltReleaseBody)

end Sys2Proof.Machine
end

