-- ==== Sys2Proof/Machine/Seqr.lean ====
section
/-!
DEFINITION. The sequencers (R60–R74, R81, R82, R85–R88, R103–R108, R112, R113, R119–R125): what happens at a granule boundary, the
jump requests, and the steps between the end of one stroke and the start of the next. A gather's own sequencer and the sequencer
of a broadcast program follow the same procedures; a program acts on every member that follows it (R109).

A granule's vectors are placed at its boundary; what they placed reaches pins and results as later boundaries pass (`State.settle`).
-/
namespace Sys2Proof.Machine

/-- A sequencer, by plain index. -/
inductive Who where
  | g (n : Nat)
  | p (n : Nat)
  deriving DecidableEq, Repr

def whoOf : Seqr → Who
  | .gather g => .g g.val
  | .prog p => .p p.val

def Who.bcast : Who → Bool
  | .g _ => false
  | .p _ => true

def State.seqOf (s : State) : Who → Seq
  | .g g => (s.gather g).seq
  | .p p => (s.prog p).seq

def State.setSeq (s : State) : Who → Seq → State
  | .g g, q => s.modSeq g fun _ => q
  | .p p, q => s.setProg p { s.prog p with seq := q }

/-- The raw table a sequencer runs from. -/
def State.rawOf (s : State) : Who → Nat → BitVec 128
  | .g g, i => Tab.get 0 (s.gather g).play.table i
  | .p _, i => Tab.get 0 s.bcTable i

def State.entryOf (s : State) (w : Who) (i : Nat) : Ent := entOf (s.rawOf w i)

/-- The gathers a sequencer plays on. -/
def State.players (s : State) : Who → List Nat
  | .g g => [g]
  | .p p => s.followers p

/-- Is the gather in a loaded broadcast cane (R68, R73)? -/
def State.inLoaded (s : State) (g : Nat) : Bool := s.progs.any fun p => p.2.loaded && p.2.members.contains g

/-- A stroke's granules across its passes. A local RENDEZVOUS repeats until its member joins (R124). [DEDUCED, unsafe: log 23.] -/
def Ent.total (e : Ent) (bcast : Bool) : Nat :=
  if e.op == opRdv then (if bcast then e.len * max 1 e.rep else 2 ^ 40) else e.len * e.rep

/-- The line of event input k of a sequencer (Table 13-3). -/
def State.evtOf (s : State) : Who → Nat → Option Nat
  | .g g, k => s.gatherEvt g k
  | .p p, k => evtKey 0 (Tab.get 0 s.hatch.progEvt (4 * p + k))

/-- The event input that a stroke's exit or branch condition looks at. -/
def Ent.input (e : Ent) : Option Nat :=
  if e.op == opWait then some e.cond
  else if (e.op == opRun || e.op == opRdv) && decide (4 ≤ e.cond ∧ e.cond ≤ 7) then some (e.cond - 4) else none

/-- The events that the line of a stroke's input has presented so far. -/
def State.inputEvents (s : State) (w : Who) (e : Ent) : Nat :=
  match e.input with | some k => s.eventsOf (s.evtOf w k) | none => 0

/-- The events or matches that what a start awaits has presented so far (R90). -/
def State.startEvents (s : State) (w : Who) (mode src : Nat) : Nat :=
  match mode with
  | 1 => s.eventsOf (s.evtOf w src)
  | 2 => (s.tcmp src).fires
  | _ => 0

/-- Selections of event inputs have changed: what a sequencer waits for counts from now on. -/
def State.remark (s : State) (w : Who) : State :=
  let q := s.seqOf w
  s.setSeq w { q with
    mark := s.inputEvents w (s.entryOf w q.cur)
    startMark := match q.start with | some (1, src) => s.startEvents w 1 src | _ => q.startMark }

/-- The status flags set, by the numbers of the ROM (R131). [DESIGN CHOICE, safe: log 35.] -/
def Seq.flagNumbers (q : Seq) : List Nat :=
  ([(q.waitLate, 0), (q.waitTimeout, 1), (q.matchTimeout, 2), (q.etchWait, 3), (q.etchOpen, 4), (q.slow, 8)].filter (·.1)).map (·.2) ++ q.uflags

/-- Resolve from a stroke index with the counters, stack and W of a sequencer (R67). -/
def State.resolveQ (s : State) (w : Who) (q : Seq) (i : Nat) : Resolved :=
  let r : Res := { loops := q.loops, stack := q.stack, w := q.w, flags := q.flagNumbers }
  match w with
  | .g g => resolveLocal (s.patch (tileOf g)) (s.rawOf w) (s.inLoaded g) i r
  | .p _ => resolveRom (s.entryOf w) i r

def State.resolve (s : State) (w : Who) (i : Nat) : Resolved := s.resolveQ w (s.seqOf w) i

/-! ## Holding and halting -/

/-- The sequencer holds, drive kept and compares masked; a program holds every member that follows it (R112). -/
def State.hold (s : State) (w : Who) (why : HoldWhy) : State :=
  let q := s.seqOf w
  let s := match w with
    | .g _ => s
    | .p _ => forAll (s.players w) (fun s g => s.modSeq g fun x => { x with st := .held }) s
  s.setSeq w { q with st := .held, why := some why, holdNs := if q.st == .held then q.holdNs else s.upNs }

/-- Has the granule that is due not come yet, at a stall or an idle granule: what happens meanwhile counts to the granule before it (R105, R106)? -/
def Seq.waits (q : Seq) : Bool := q.retry || q.why == some .stall

/-- The granule that what is registered now belongs to (R61, R106). -/
def Seq.granuleNow (q : Seq) : Nat := if q.waits then q.n - 1 else q.n

/-- The PCLK edge at which the granule that plays, the idle granule, or what follows the end of a stroke began. -/
def Seq.granuleEdge (q : Seq) : Nat :=
  if q.cont.isSome then q.startS / pclkU
  else if q.retry then (q.startS + 32 * q.n * q.period - 32 * q.period) / pclkU
  else boundaryEdge q.startS q.period q.n

/-- Does a PCLK edge lie before the end of the granule that plays? Where none plays, time goes on without an end. -/
def Seq.inGranule (q : Seq) (edge : Nat) : Bool :=
  q.st != .running || q.cont.isSome || decide (edge < boundaryEdge q.startS q.period (if q.retry then q.n else q.n + 1))

/-- When the stroke that follows starts: at the end of the one before, or after a hold at the PCLK edge at which it ends (R67, R81). [DEDUCED, unsafe: log 25.] -/
def State.startTime (s : State) (q : Seq) (c : Cont) : Nat :=
  let late := max c.short (s.heldFor q)
  if late == 0 then q.startS else (q.startS / pclkU + late) * pclkU

/-- Halt a sequencer, with the gathers it plays on (R74, R83, R106, R112). -/
def State.haltWho (s : State) (w : Who) (src reason flags : Nat) : State :=
  let ms := s.players w
  let s := match w with
    | .g g => (s.leaveProgram g src reason).haltG g src reason flags
    | .p p => s.haltProgram p src reason flags
  s.syncMany ms

/-- Halt at a boundary: what the vectors have placed beyond it is cut off there. -/
def State.haltAt (s : State) (w : Who) (t src reason flags : Nat) : State :=
  (forAll (s.players w) (fun s g => s.modG g (·.cut t)) s).haltWho w src reason flags

/-- A request discarded (R62): JUMP_DROP of the sequencer, and for a program of each member that follows it. [DESIGN CHOICE, unsafe: log 137.] -/
def State.countDrop (s : State) (w : Who) : State :=
  let q := s.seqOf w
  let s := s.setSeq w { q with jumpDrop := sat16 q.jumpDrop }
  match w with | .g _ => s | .p _ => forAll (s.players w) (fun s g => s.modSeq g fun x => { x with jumpDrop := sat16 x.jumpDrop }) s

/-- A late jump recorded (R64), likewise. -/
def State.countLate (s : State) (w : Who) : State :=
  let q := s.seqOf w
  let s := s.setSeq w { q with lateJump := sat16 q.lateJump }
  match w with | .g _ => s | .p _ => forAll (s.players w) (fun s g => s.modSeq g fun x => { x with lateJump := sat16 x.lateJump }) s

/-! ## Etch markers (R86, R87, R474) -/

/-- Has a stroke's begin marker been asked? -/
def Play.asked (y : Play) (bcast : Bool) (idx : Nat) : Bool := y.etches.any fun e => e.idx == idx && e.bcast == bcast && e.phase != .adrift

/-- Start writing a gather's etch-begin marker when an ETCH stroke becomes successor or target, unless the site holds 14 or more
unreleased records. -/
def State.askEtch (s : State) (bcast : Bool) (idx : Nat) (g : Nat) : State :=
  if (s.gather g).play.asked bcast idx || s.unreleased (s.siteOf g) ≥ 14 then s
  else s.modPlay g fun y => { y with etches := y.etches ++ [{ idx := idx, bcast := bcast, phase := .writing, run := (s.gSite g).run }] }

/-- At the due boundary: with 14 or more unreleased records post the checkpoint first, then start the write (R474). -/
def State.askEtchDue (s : State) (bcast : Bool) (idx : Nat) (g : Nat) : State :=
  if (s.gather g).play.asked bcast idx then s
  else if s.unreleased (s.siteOf g) ≥ 14 then
    if s.ckptFull g then s
    else (s.postCkpt g idx bcast).modPlay g fun y =>
      { y with etches := y.etches ++ [{ idx := idx, bcast := bcast, phase := .writingHeld, run := (s.gSite g).run }] }
  else s.askEtch bcast idx g

/-- Is a gather's etch-begin marker durable for this stroke? -/
def Gather.etchReady (G : Gather) (bcast : Bool) (idx : Nat) : Bool :=
  G.play.etches.any fun e => e.idx == idx && e.bcast == bcast && e.phase == .durable

/-- Owe a gather's etch-end marker: it becomes durable after the strobes registered at `last` and before any later checkpoint (R87). -/
def State.oweEtchEnd (s : State) (g stroke last : Nat) : State :=
  s.modPlay g fun y => { y with etchEnds := y.etchEnds ++ [{ stroke := stroke, last := last, cseq := (s.gSite g).cseq }] }

/-! ## Divergence policies (R119–R123) -/

/-- The first failing compare of an execution, registered in granule n of the program's present stroke, invokes the policy of the stroke it
belongs to: BRANCH of a stroke that is past its granule total − 3, or has ended, becomes a late leave. -/
def Bc.onFail (b : Bc) (e : Ent) (mine : Bool) (total n tag reg : Nat) : Bc :=
  if b.invoked.contains tag then b
  else
    let b := { b with invoked := b.invoked ++ [tag] }
    match e.div with
    | 1 => if mine && n + 2 < total then { b with mute := some (n + 2) } else b
    | 2 => if mine && n + 2 < total then { b with leave := some { bnd := n + 2, target := e.target, reg := reg } }
           else { b with lateLeave := b.lateLeave.orElse fun _ => some (e.target, reg) }
    | _ => b

/-- Apply the policies to the strobes registered in the granule that has just ended, on a member that follows its program. -/
def State.policies (s : State) (w : Who) (due : List Strobe) (g : Nat) : State :=
  match w, (s.gather g).play.bc with
  | .p _, some b =>
    if b.mode != .following then s
    else
      let y := (s.gather g).play
      let q := s.seqOf w
      let b' := (due.filter Strobe.fails).foldl (fun (b : Bc) x =>
        if x.tag == y.tag then
          let e := s.entryOf w q.cur
          b.onFail e y.resOpen (e.total true) q.granuleNow x.tag x.reg
        else match y.closing.find? (·.tag == x.tag) with
          | some c => if c.bcast then b.onFail (s.entryOf w c.idx) false 0 0 x.tag x.reg else b
          | none => b) b
      if b' == b then s else s.modPlay g fun y => { y with bc := some b' }
  | _, _ => s

/-! ## Prefetch (R103) -/

/-- Does a stroke take its granules from its stream: not local, not pinned? -/
def State.streams (s : State) (w : Who) (i : Nat) : Bool :=
  (s.entryOf w i).stream && !(s.players w).all fun g => ((s.gather g).play.pinnedAt w.bcast i).isSome

/-- The stroke whose granules a context fetches first along the predicted path from an index: pinned bodies and strokes without vectors are
skipped. The number bounds the strokes looked at. [DESIGN CHOICE, unsafe: log 33.] -/
def State.predict (s : State) (w : Who) : Nat → Seq → Nat → Option Nat
  | 0, _, _ => none
  | k + 1, q, i =>
    let r := s.resolveQ w q i
    if r.out != .vec then none
    else if s.streams w r.idx then some r.idx
    else s.predict w k { q with loops := r.loops, stack := r.stack, w := r.w } (s.entryOf w r.idx).next

/-- A jump to `target` that leaves stroke `left`, `cut` short or at its end, after `keep` more granules of it have played: off the
predicted path it discards the prefetch beyond them (R103). -/
def State.redirect (s : State) (w : Who) (target left : Nat) (cut : Bool) (keep : Nat) : State :=
  let q := s.seqOf w
  let e := s.entryOf w left
  let there := s.predict w 64 q target
  let from_ := if cut && s.streams w left then some left else s.predict w 64 q e.next
  if there == from_ && !(cut && s.streams w left) then s
  else
    let c := (s.entryOf w (there.getD (from_.getD left))).ctx
    let s := s.setCtx c { s.ctx c with redirects := (s.ctx c).redirects + 1 }
    let gs := match w with | .g g => [g] | .p p => (s.prog p).members
    forAll gs (fun s g => s.modPlay g fun y => { y with fill := min keep y.fill }) s

/-! ## Successors fixed (R86, R124, R134) -/

/-- In a replay, the ETCH stroke it reaches is replaced by its VFY stroke, unless local knowledge shows it never began (R475,
R476). -/
def State.replaces (s : State) (w : Who) (idx : Nat) : Bool :=
  (s.entryOf w idx).etch && (s.players w).any fun g =>
    match (s.gather g).replay with
    | some r => r.mirror || s.journal.markers.any (fun m =>
        m.2.kind == 1 && m.2.site == s.siteOf g && m.2.stroke == idx + 4096 * b2n w.bcast && m.2.run == r.run && m.2.cseq ≥ r.cseq)
    | none => false

/-- When a program fixes a RENDEZVOUS as its next stroke (R124): every diverged member in a local RENDEZVOUS will join; every other
records LATE_REJOIN. A replayed member joins at its own RENDEZVOUS (R475). -/
def State.fixRendezvous (s : State) (w : Who) (res : Resolved) : State :=
  match w with
  | .g _ => s
  | .p p =>
    if res.out == .vec && (s.entryOf w res.idx).op == opRdv then
      forAll (s.prog p).members (fun s g =>
        match (s.gather g).play.bc with
        | some b =>
          if b.prog == p && b.mode == .diverged then
            let mine : Bool := match (s.gather g).replay.bind (·.joinAt) with | some j => j == res.idx | none => true
            let joins := (s.gather g).inRendezvous && mine
            let others := b.joins.filter (· != res.idx)
            s.modPlay g fun y => { y with bc := some { b with joins := if joins then res.idx :: others else others }, lateRejoin := if joins then y.lateRejoin else sat16 y.lateRejoin }
          else s
        | none => s) s
    else s

/-- Resolution of a successor or target begins: its RENDEZVOUS and its etch marker are fixed, and a microcode fault on its way is raised (R134). -/
def State.fix (s : State) (w : Who) (res : Resolved) : State :=
  let s := s.fixRendezvous w res
  match res.out with
  | .vec =>
    if (s.entryOf w res.idx).etch && !s.replaces w res.idx then forAll (s.players w) (fun s g => s.askEtch w.bcast res.idx g) s else s
  | .ucode f => forAll (s.players w) (fun s g => s.raise f (s.gHandle g)) s
  | _ => s

/-! ## Boundaries -/

/-- A diverging member's local chain, from a target, with counters and stack empty (R122). -/
def State.resolveLeave (s : State) (g target : Nat) : Resolved :=
  s.resolveQ (.g g) { (s.gather g).seq with loops := [], stack := [] } target

/-- The local target that a member which follows will leave for. -/
def Bc.leavesTo (b : Bc) : Option Nat := (b.lateLeave.map (·.1)).orElse fun _ => b.leave.map (·.target)

/-- What a gather's vectors have placed comes true up to an instant: edges at the pins, strobes in the results and their policies; their
events wait for Hatch. A leave that a policy gives begins to resolve. -/
def State.settle (s : State) (w : Who) (t : Nat) (g : Nat) : State :=
  let due := (s.gather g).play.due (t / pclkU)
  let leaving := fun (s : State) => (s.gather g).play.bc.bind Bc.leavesTo
  let was := leaving s
  let s := s.policies w due g
  let blips := [0, 1].filter fun n => (s.pin g (sentSrc (s.sent g n).cfg)).connectedUntil t && !s.pinsOff g
  let s := (s.modG g fun G =>
    let G := (G.mapPins fun _ x => x.advance t).register (t / pclkU)
    { G with play := { G.play with nowS := max G.play.nowS t, pulses := G.play.pulses ++ strobePulses due } }).probes g
  let s := forAll blips (fun s n => s.probeBlip g n) s
  match leaving s with
  | some target => if was == some target then s else s.fix (.g g) (s.resolveLeave g target)
  | none => s

/-- The same on several gathers at once: their events are presented together, PCLK edge by PCLK edge. -/
def State.settleAll (s : State) (w : Who) (t : Nat) (gs : List Nat) : State :=
  let s := forAll gs (fun s g => s.settle w t g) s
  let moved := fun g => let G := s.gather g; !G.play.pulses.isEmpty || G.producers s.frozen != G.hatch.out
  if gs.any moved then s.syncMany gs else s

/-- Reach a granule boundary. What has been presented up to its last PCLK edge is past for the granule that follows; what is presented there the
sequencer registers at the boundary itself (R61, R583). -/
def State.reachBoundary (s : State) (w : Who) (t : Nat) : State :=
  let s := s.settleAll w (t - pclkU) (s.players w)
  let q := s.seqOf w
  (s.setSeq w { q with mark := s.inputEvents w (s.entryOf w q.cur) }).settleAll w t (s.players w)

/-- The PCLK edge at which the last strobe of a gather's running stroke will be registered; 0 when all are. -/
def Play.lastReg (y : Play) : Nat := (y.strobes.filter (·.tag == y.tag)).foldl (fun a x => max a x.reg) 0

/-- Is a member muted in granule n of its program's stroke (R121)? -/
def Play.mutedAt (y : Play) (bcast : Bool) (n : Nat) : Bool :=
  match y.bc with | some b => bcast && (match b.mute with | some m => m ≤ n | none => false) | none => false

/-- From the boundary at which MUTE acts no edge changes a pin of the member. -/
def State.muteOn (s : State) (w : Who) (n : Nat) (g : Nat) : State :=
  s.modG g fun G => if G.play.mutedAt w.bcast n then G.mapPins fun _ x => x.stopEdges else G

/-- One member through granule n: its vectors are placed. -/
def State.playOn (s : State) (w : Who) (e : Ent) (idx n : Nat) (obs : List Obs) (g : Nat) : State :=
  let G := s.gather g
  let k := n % max 1 e.len
  let G := if k == 0 then { G with play := { G.play with sPos := [] } } else G
  let gr := s.granuleBytes g idx w.bcast e k
  let G := G.playGranule gr e idx w.bcast n obs g (G.play.mutedAt w.bcast n)
  let y := G.play
  let y := if e.op == opMatch then y.matchHit n else y
  s.setG g { G with play := { y with fill := if e.stream && (y.pinnedAt w.bcast idx).isNone then y.fill - 1 else y.fill } }

/-- Does granule n of a stroke lie outside what its context offers (R104)? -/
def State.streamBad (s : State) (e : Ent) (n : Nat) : Bool :=
  let c := s.ctx e.ctx
  !c.isOpen || e.offset + n % max 1 e.len ≥ c.length

/-- Is the granule present for every member (R105)? A pinned body always is. -/
def State.granulePresent (s : State) (w : Who) (idx : Nat) : Bool :=
  (s.players w).all fun g => let y := (s.gather g).play; (y.pinnedAt w.bcast idx).isSome || y.fill != 0

/-- 32 idle vectors of a context (R106). -/
def idleGranule (v : DWord) : List Byte := (List.replicate 32 (toLE 8 v.toNat)).flatten

/-- The gathers diverged from a program drain their stream buffers in step with it (R122, R336): not for a body that is pinned (R99). -/
def State.drain (s : State) (w : Who) (idx : Nat) : State :=
  match w with
  | .g _ => s
  | .p p => forAll ((s.prog p).members.filter fun g =>
      match (s.gather g).play.bc with | some b => b.prog == p && b.mode != .following | none => false)
      (fun s g => s.modPlay g fun y => if (y.pinnedAt true idx).isSome then y else { y with fill := y.fill - 1 }) s

/-- An idle granule on a member (R106): it moves the stroke's grid on by 32 vectors and counts in IDLE_GRAN. A muted member's pins stay as
they are (R121). -/
def State.idleOn (s : State) (w : Who) (e : Ent) (idx n : Nat) (g : Nat) : State :=
  let G := s.gather g
  let G := G.playGranule (idleGranule (s.ctx e.ctx).idle) { e with stencil := false, op := opMatch } idx w.bcast n [] g (G.play.mutedAt w.bcast n)
  let y := G.play
  s.setG g { G with play := { y with idleGran := sat16 y.idleGran, startS := y.startS + 32 * y.period
                                     cur := { y.cur with flags := y.cur.flags ||| rfIdleInserted } } }

/-- Begin granule n of the running stroke: place its vectors, or meet the underrun policy of R106. -/
def State.beginGranule (s : State) (w : Who) (obs : List Obs) : State :=
  let q := s.seqOf w
  let e := s.entryOf w q.cur
  let ms := s.players w
  let t := q.startS + 32 * q.n * q.period
  let s := forAll ms (fun s g => s.muteOn w q.n g) s
  if e.stream && !ms.all (fun g => ((s.gather g).play.pinnedAt w.bcast q.cur).isSome) && s.streamBad e q.n then
    let s := forAll ms (fun s g => s.modPlay g fun y => { y with streamRange := true }) s
    s.haltAt w t 4 0 rfStreamRange
  else if e.stream && !s.granulePresent w q.cur then
    match e.und with
    | 0 =>
      let s := forAll ms (fun s g => s.modPlay g fun y => { y with stallSince := s.upNs }) s
      (s.setSeq w { q with underrun := true }).hold w .stall
    | 1 =>
      let s := s.setSeq w { q with underrun := true, retry := true, startS := q.startS + 32 * q.period }
      forAll ms (fun s g => s.idleOn w e q.cur q.n g) s
    | _ =>
      let s := forAll ms (fun s g => s.modPlay g fun y => { y with underrunAbort := true }) (s.setSeq w { q with underrun := true })
      s.haltAt w t 4 0 rfUnderrunAbort
  else
    let s := s.setSeq w { q with retry := false }
    let s := forAll ms (fun s g => s.playOn w e q.cur q.n obs g) s
    if e.stream then s.drain w q.cur else s

/-! ## From one stroke to the next -/

/-- Is a diverged member joining the RENDEZVOUS that starts (R124)? -/
def Gather.joining (G : Gather) (p idx : Nat) : Bool :=
  match G.play.bc with | some b => b.prog == p && b.mode == .diverged && b.joins.contains idx | none => false

/-- A member joins (R124): its local body is cut: vectors that have not left are taken back, strobes not yet closed are discarded. A jump that it
still owes, which nothing but a halt or a start discards (R64), is taken as a leave at boundary 2. [DEDUCED, unsafe: log 138; DESIGN CHOICE, unsafe: log 145.] -/
def State.join (s : State) (t : Nat) (g : Nat) : State :=
  let s := s.modG g fun G =>
    let G := G.mapPins fun _ x => { x with edges := x.edges.filter fun e => decide (e.born * 65536 < t) }
    { G with play := { G.play with strobes := G.play.strobes.filter fun x => decide (x.shut * 65536 < t), hits := [] } }
  let s := s.closeResult g 0
  s.modG g fun G => { G with
    seq := { G.seq with cont := none, pend := none, succ := none, why := none, st := .running }
    play := { G.play.keepEtches (fun _ => false) with
      etchOn := none
      bc := G.play.bc.map fun b => { b with mode := .following, joins := [], mute := none, leave := none, leftAt := 0xFFFF
                                            lateLeave := G.seq.pend.map fun p => (p.target, p.reg) } } }

/-- One gather at the start of a stroke at `st`: its time base (R81), at a phase reset the edges still to come are the old stroke's (R82),
the stencil snapshot (R118) and a fresh result. A leave whose boundary the stroke before did not reach is late (R123). [DEDUCED, unsafe: log 25, 27.] -/
def State.startOn (s : State) (w : Who) (e : Ent) (idx st : Nat) (reset slow : Bool) (kept : Option Nat) (g : Nat) : State :=
  let ts := Tab.get {} (s.gather g).play.tsets e.tset
  let s := s.calStroke g e.calwin st (32 * e.len * e.rep * ts.period)
  let G := s.gather g
  let y := G.play
  let leaveTo := (y.bc.bind Bc.leavesTo).map fun i => (s.resolveLeave g i).idx
  let flags := b2n slow * rfNotAtSpeed + b2n ((s.patch (tileOf g)).version != 0) * rfPatched + b2n G.replay.isSome * rfReplayed
  let bc := y.bc.map fun b =>
    if w.bcast then
      { b with mute := none, leave := none, lateLeave := b.lateLeave.orElse fun _ => b.leave.map fun l => (l.target, l.reg)
               invoked := b.invoked.filter fun t => y.strobes.any (·.tag == t) }
    else b
  let G := if reset then G.mapPins fun _ x => { x with edges := x.edges.map fun d => { d with old := true } } else G
  s.setG g { G with
    seq := { G.seq with begun := true, slow := slow, st := if w.bcast then .running else G.seq.st }
    play := { y.keepEtches (fun m => m.bcast == w.bcast && kept == some m.idx && m.idx != idx || !m.bcast && leaveTo == some m.idx) with
                     startS := st, period := ts.period, isoEnd := (s.calG g).isoEnd, stSnap := y.stencils, sPos := [], bc := bc, tag := y.tag + 1, resOpen := true
                     etchOn := if e.etch then some (idx + 4096 * b2n w.bcast) else none
                     cur := { tag := y.tag + 1, idx := idx, bcast := w.bcast, flags := flags } } }

/-- The PERIOD of a stroke: that of the gathers it plays on, all alike (R109, R111); with none it is that of any member of the program. -/
def State.periodOf (s : State) (w : Who) (e : Ent) : Nat :=
  let gs := s.players w ++ (match w with | .g _ => [] | .p p => (s.prog p).members)
  (gs.findSome? fun g => ((s.gather g).play.tsets.find? fun t => t.1 == e.tset).map fun t => t.2.period).getD 0

/-- A broadcast stroke starts without a member that has diverged: an ETCH stroke is missed (R113), and of the RENDEZVOUS strokes fixed for it only
the one of a jump still to come stays so (R124). -/
def State.passBy (s : State) (g : Nat) (e : Ent) (idx : Nat) (kept : Option Nat) : State :=
  match (s.gather g).play.bc with
  | some b =>
    if b.mode == .diverged then
      s.modPlay g fun y => { y with etchMissed := if e.etch then some idx else y.etchMissed
                                    bc := some { b with joins := b.joins.filter fun j => kept == some j } }
    else s
  | none => s

/-- Start the resolved stroke at boundary 0. -/
def State.startStroke (s : State) (w : Who) (c : Cont) (obs : List Obs) : State :=
  let q := s.seqOf w
  let idx := c.res.idx
  let e := s.entryOf w idx
  let period := s.periodOf w e
  let reset := c.phaseReset || c.slow || period != q.period
  let start := s.startTime q c
  let st := if reset then start / 65536 * 65536 else start
  let joiners := match w with
    | .p p => if e.op == opRdv then (s.prog p).members.filter fun g => (s.gather g).joining p idx else []
    | .g _ => []
  let s := s.settleAll w st (s.players w ++ joiners)
  if !(s.seqOf w).live then s
  else
    let s := forAll joiners (fun s g => s.join st g) s
    let kept := (s.seqOf w).pend.map fun p => (s.resolve w p.target).idx
    let s := match w with
      | .p p => forAll (s.prog p).members (fun s g => s.passBy g e idx kept) s
      | .g _ => s
    let q := s.seqOf w
    let slow := c.slow || c.marked
    let s := forAll (s.players w) (fun s g => s.startOn w e idx st (reset || joiners.contains g) slow kept g) s
    let s := s.setSeq w { q with st := .running, why := none, cur := idx, n := 0, loops := c.res.loops, stack := c.res.stack, w := c.res.w
                                 raised := false, begun := true, cont := none, succ := none, slow := slow, underrun := false, mark := s.inputEvents w e
                                 retry := false, armed := q.armed.filter fun a => decide (st / pclkU ≤ a.last), startS := st, period := period }
    s.beginGranule w obs

/-- What a patch's SETF has named, by the ROM's numbering (R131): a flag of STROKE_STATUS, an advisory, or a flag of its own. [DESIGN CHOICE, safe: log 35.] -/
def State.setFlag (s : State) (w : Who) (k : Nat) : State :=
  let q := s.seqOf w
  let post := fun (s : State) src => forAll (s.players w) (fun s g => s.advise src (s.gHandle g)) s
  match k with
  | 0 => s.setSeq w { q with waitLate := true }
  | 1 => s.setSeq w { q with waitTimeout := true }
  | 2 => s.setSeq w { q with matchTimeout := true }
  | 3 => s.setSeq w { q with etchWait := true }
  | 4 => s.setSeq w { q with etchOpen := true }
  | 5 => post s fRdvNone
  | 6 => post s fSeqLate
  | 7 => post s fCheckpointWait
  | 8 => s.setSeq w { q with slow := true, cont := q.cont.map fun c => { c with marked := true } }
  | _ => s.setSeq w { q with uflags := if q.uflags.contains k then q.uflags else k :: q.uflags }

/-- The marker requests of a patch's POST (R131): 2 an etch-begin, 3 an etch-end marker of the stroke resolved. The interlocks of R86 and
R87 hold beside them (R140): the end marker of an ETCH stroke comes at its own end, any other after the strobes still on their way. -/
def State.postMarker (s : State) (w : Who) (post : Nat × Nat) : State :=
  forAll (s.players w) (fun s g =>
    match post.1 with
    | 2 => s.askEtch w.bcast post.2 g
    | 3 => if (s.entryOf w post.2).etch then s else s.oweEtchEnd g (post.2 + 4096 * b2n w.bcast) ((s.gather g).play.strobes.foldl (fun a x => max a x.reg) 0)
    | _ => s) s

/-- A diverged member that reaches a local RENDEZVOUS after its program has halted (R125): the program's halt source and reason. One whose
replay still owes its join waits for it (R475). [DESIGN CHOICE, unsafe: log 91.] -/
def State.endedProgram (s : State) (w : Who) (idx : Nat) : Option (Nat × Nat) :=
  match w with
  | .p _ => none
  | .g g =>
    match (s.gather g).play.bc with
    | some b =>
      let q := (s.prog b.prog).seq
      if b.mode == .diverged && (s.entryOf w idx).op == opRdv && !q.live && ((s.gather g).replay.bind (·.joinAt)).isNone then
        some (q.haltSrc, q.haltReason)
      else none
    | none => none

/-- What the resolved chain has done on its way: RDV_NONE (R73), and what a patch's microwords set and asked for (R131), at the boundary where the
chain takes effect. [DESIGN CHOICE, unsafe: log 139.] -/
def State.chainEffects (s : State) (w : Who) (c : Cont) : State :=
  let s := (List.range c.res.rdvNone).foldl (fun s _ => forAll (s.players w) (fun s g => s.advise fRdvNone (s.gHandle g)) s) s
  let s := c.res.setf.foldl (fun s k => s.setFlag w k) s
  let s := c.res.posts.foldl (fun s p => s.postMarker w p) s
  let q := s.seqOf w
  s.setSeq w { q with cont := q.cont.map fun c => { c with res := { c.res with rdvNone := 0, setf := [], posts := [] } } }

/-- The chain has ended at a stroke that runs vectors: in a replay a VFY stroke takes the place of an ETCH stroke, an ETCH stroke waits for
its marker (R86, R474), and the stroke starts. -/
def State.startVec (s : State) (w : Who) (c : Cont) (obs : List Obs) : State :=
  let ms := s.players w
  let e := s.entryOf w c.res.idx
  if e.etch && s.replaces w c.res.idx then
    let s := forAll ms (fun s g => s.modG g fun G =>
      { G with replay := G.replay.map fun r => { r with etch := some (c.res.idx + 4096 * b2n w.bcast), vfyDone := none, vfyTag := none } }) s
    s.startStroke w { c with res := { c.res with idx := e.target } } obs
  else if e.etch && !ms.all (fun g => (s.gather g).etchReady w.bcast c.res.idx) then
    let s := forAll ms (fun s g => s.askEtchDue w.bcast c.res.idx g) s
    let q := s.seqOf w
    let s := forAll ms (fun s g => s.modSeq g fun x => { x with etchWait := true }) (s.setSeq w { q with cont := some { c with slow := true } })
    s.hold w .etch
  else match s.endedProgram w c.res.idx with
    | some (src, reason) => s.haltAt w (s.startTime (s.seqOf w) c) src reason 0
    | none => s.startStroke w c obs

/-- Go on from the end of a stroke as far as nothing holds: checkpoints (R20, R85), resolution (R67), the outcome of the chain
(R68, R74, R134), the etch marker (R86, R474), and the start. `fuel` bounds the checkpoints posted. [See R32.] -/
def State.advance (s : State) (w : Who) (obs : List Obs) : Nat → State
  | 0 => s
  | fuel + 1 =>
    let q := s.seqOf w
    match q.cont with
    | none => s
    | some c =>
      let ms := s.players w
      if c.ckpts != 0 then
        if ms.any s.ckptFull then
          let s := if q.why == some .checkpoint then s else forAll (ms.filter s.ckptFull) (fun s g => s.advise fCheckpointWait (s.gHandle g)) s
          let q := s.seqOf w
          (s.setSeq w { q with cont := some { c with slow := true } }).hold w .checkpoint
        else
          let s := forAll ms (fun s g => s.postCkpt g c.res.idx w.bcast) s
          let q := s.seqOf w
          (s.setSeq w { q with cont := some { c with ckpts := c.ckpts - 1 } }).advance w obs fuel
      else if c.stop then s.haltAt w (s.startTime q c) 3 0 0
      else if c.unresolved && c.res.out != .spin then s.hold w .resolve
      else
        let s := s.chainEffects w c
        match c.res.out with
        | .spin =>
          let s := forAll ms (fun s g => s.raise fSeqZeroSpin (s.gHandle g)) s
          match w with
          | .g _ => s
          | .p p => s.haltProgram p 5 0
        | .ucode f => forAll ms (fun s g => s.raise f (s.gHandle g)) s
        | .halt r =>
          let s := if (s.seqOf w).pend.isSome then s.countDrop w else s
          s.haltAt w (s.startTime (s.seqOf w) c) 1 r 0
        | .vec => s.startVec w ((s.seqOf w).cont.getD c) obs

/-- The most checkpoints between two strokes: the stroke's own and those of skipped COMMIT strokes (R68). -/
def advanceFuel : Nat := 20

def State.goOn (s : State) (w : Who) (obs : List Obs) : State := s.advance w obs advanceFuel

/-- The running stroke ends on a gather (R85, R87): an ETCH stroke's end marker is owed, a VFY stroke run in a replay's ETCH stroke's place will give its
outcome, and the result closes. Where a takeover or a forced turn awaits the end of an ETCH stroke, its strobes are registered first (R464, R468). -/
def State.endOn (s : State) (w : Who) (e : Ent) (idx : Nat) (g : Nat) : State :=
  let last := (s.gather g).play.lastReg
  let s := if e.etch && s.twin.etchStop then s.settleAll w ((last + 1) * pclkU) [g] else s
  let s := if e.etch then (s.oweEtchEnd g (idx + 4096 * b2n w.bcast) (if s.twin.etchStop then 0 else last)).modPlay g fun y => { y with etchOn := none } else s
  let s := s.modG g fun G => { G with replay := G.replay.map fun r =>
    if r.etch.isSome && r.vfyTag.isNone && r.vfyDone.isNone && e.vfy then { r with vfyTag := some G.play.tag } else r }
  s.closeResult g 0

/-- End the running stroke at boundary b with a resolved successor or target, which had `avail` PCLK cycles to resolve (R67). Its branch
condition stays armed while strobes of it are still to be registered (R61). Where a takeover or a forced turn awaits the end of an ETCH
stroke, the sequencer halts there with source COMMAND (R464, R468), after the checkpoint of a COMMIT stroke (R85). -/
def State.endStroke (s : State) (w : Who) (b : Nat) (res : Resolved) (avail : Nat) (jumped : Bool) (obs : List Obs) : State :=
  let q := s.seqOf w
  let e := s.entryOf w q.cur
  let ms := s.players w
  let t := q.startS + 32 * b * q.period
  let last := ms.foldl (fun a g => max a (s.gather g).play.lastReg) 0
  let tag := match ms with | g :: _ => (s.gather g).play.tag | [] => 0
  let s := forAll ms (fun s g => s.endOn w e q.cur g) s
  let q := s.seqOf w
  let timeout := !jumped && e.op == opWait
  let noMatch := !jumped && e.op == opMatch
  let armed : List Armed := if (e.op == opRun || e.op == opRdv) && e.cond != 0 && !q.raised && decide (t / pclkU ≤ last) then
      [{ tag := tag, cond := e.cond, target := e.target, last := last, mark := q.mark }] else []
  let pend := q.pend.map fun p => if p.late then { p with late := false, due := 2 } else p
  let lateTaken := match q.pend with | some p => p.late | none => false
  let s := s.setSeq w { q with
    waitTimeout := q.waitTimeout || timeout
    matchTimeout := q.matchTimeout || noMatch
    fails := if noMatch then sat16 q.fails else q.fails
    armed := (q.armed.filter fun a => decide (t / pclkU ≤ a.last)) ++ armed
    startS := t
    pend := if jumped then none else pend
    cont := some { res := res, ckpts := res.ckpts + b2n e.commit, unresolved := res.cost > avail, short := res.cost - avail
                   stop := e.etch && s.twin.etchStop } }
  let s := if lateTaken && !jumped then s.countLate w else s
  s.goOn w obs

/-- A member leaves the broadcast at boundary b for its local stroke (R122): the leave counts as the broadcast stroke ending by a jump, so a
COMMIT stroke posts its checkpoint; the local chain resolves from the failure's registration on (R67). [DEDUCED, unsafe: log 27.] -/
def State.leaveAt (s : State) (w : Who) (e : Ent) (idx b target reg : Nat) (g : Nat) : State :=
  match (s.gather g).play.bc with
  | none => s
  | some bc =>
    let s := s.endOn w e idx g
    let y := (s.gather g).play
    let t := y.startS + 32 * b * y.period
    let next := (s.resolveLeave g target).idx
    let s := s.modG g fun G => { G with
      play := { G.play.keepEtches (fun m => !m.bcast && m.idx == next) with
                bc := some { bc with mode := .diverged, leave := none, lateLeave := none, mute := none, leftAt := idx } }
      seq := { G.seq with st := .running, why := none, pend := none, succ := none, armed := [], loops := [], stack := []
                          startS := t, period := y.period } }
    let res := s.resolve (.g g) target
    let avail := t / pclkU - reg
    let c : Cont := { res := res, ckpts := res.ckpts + b2n e.commit, unresolved := res.cost > avail, short := res.cost - avail, phaseReset := true }
    let s := s.modSeq g fun q => { q with cont := some c }
    s.goOn (.g g) []

/-- The members that leave at boundary b (R122, R123): a late leave comes first, at boundary 2 or at the end of an ATOMIC stroke. -/
def State.leaves (s : State) (w : Who) (e : Ent) (idx b : Nat) : State :=
  if !w.bcast then s
  else forAll (s.players w) (fun s g =>
    match (s.gather g).play.bc with
    | some bc =>
      let late := if b == 2 then bc.lateLeave else none
      match late, bc.leave with
      | some (t, reg), _ =>
        let s := s.modPlay g fun y => { y with lateDiverge := sat16 y.lateDiverge }
        let later : Leave := { bnd := e.total true, target := t, reg := reg }
        if e.isAtomic then s.modPlay g fun y => { y with bc := some { bc with lateLeave := none, leave := some later } }
        else s.leaveAt w e idx b t reg g
      | none, some l => if l.bnd == b then s.leaveAt w e idx b l.target l.reg g else s
      | none, none => s
    | none => s) s

/-- The normal end of a stroke: NEXT, or TARGET on the timeout of WAIT_EVENT and MATCH (R71, R72). -/
def Ent.normalEnd (e : Ent) : Nat := if e.op == opWait || e.op == opMatch then e.target else e.next

/-- A program's members whose halt input stands leave it at once (R334, R336). -/
def State.dropHalted (s : State) (w : Who) : State :=
  let gs := (s.players w).filter s.haltInput
  if gs.isEmpty then s else (forAll gs (fun s g => (s.leaveProgram g 2 0).haltG g 2 0) s).syncMany gs

/-- Granule boundary b = n + 1 of the running stroke (R60–R66). -/
def State.boundary (s : State) (w : Who) (obs : List Obs) : State :=
  let q := s.seqOf w
  let e := s.entryOf w q.cur
  let b := q.n + 1
  let total := e.total w.bcast
  let s := s.reachBoundary w (q.startS + 32 * b * q.period)
  let s := if b + 2 == total && (s.seqOf w).live then
      let res := s.resolve w e.normalEnd
      let s := s.setSeq w { s.seqOf w with succ := some res, succAt := boundaryEdge q.startS q.period b }
      (if e.normalEnd == e.next then s else s.redirect w e.normalEnd q.cur false 0).fix w res
    else s
  let s := s.leaves w e q.cur b
  let q := s.seqOf w
  if !q.live then s
  else
    let due := match q.pend with
      | some p => !p.late && ((e.isAtomic && b == total) || (!e.isAtomic && b == p.due))
      | none => false
    match q.pend, due with
    | some p, true => s.endStroke w b (s.resolve w p.target) (boundaryEdge q.startS q.period b - p.reg) true obs
    | _, _ =>
      if b == total then
        let res := match q.succ with | some r => r | none => s.resolve w e.normalEnd
        s.endStroke w b res (boundaryEdge q.startS q.period total - q.succAt) false obs
      else (s.setSeq w { q with n := b }).beginGranule w obs

/-! ## Requests -/

/-- Is a cause true at a PCLK edge, for an execution and the events its input had presented? A failing strobe and a match are those
registered there; an event input is true while its line's level is 1, and where the line has presented an event since (R319, R583). -/
def State.causeAt (s : State) (w : Who) (c : Cause) (tag mark edge : Nat) : Bool :=
  match c with
  | .fail => (s.players w).any fun g => (s.gather g).play.strobes.any fun x => x.fails && x.tag == tag && x.reg == edge
  | .compliance => (s.players w).any fun g => (List.range 4).any fun u => ((s.gather g).smu u).compl
  | .underrun => (s.seqOf w).underrun
  | .evt k => match s.evtOf w k.val with | some key => s.lvl key || (s.line key).events != mark | none => false
  | .matched => (s.players w).any fun g => (s.gather g).play.hits.contains (tag, edge)

/-- The COND code of a cause for a RUN or RENDEZVOUS (Table 3-4). -/
def condOf : Cause → Nat
  | .fail => 1
  | .compliance => 2
  | .underrun => 3
  | .evt k => if k.val < 4 then 4 + k.val else 0
  | .matched => 0

/-- A request that the present stroke takes at boundary `due`, registered at a PCLK edge (R63, R65). -/
def State.jumpAt (s : State) (w : Who) (target due edge : Nat) : State :=
  let q := s.seqOf w
  let e := s.entryOf w q.cur
  let until_ := if e.isAtomic then e.total w.bcast else due
  let keep := if s.streams w q.cur then until_ - q.n - 1 else 0
  let s := s.setSeq w { q with pend := some { target := target, due := due, late := false, reg := edge } }
  (s.redirect w target q.cur (decide (until_ < e.total w.bcast)) keep).fix w (s.resolve w target)

/-- A request too late for the present stroke (R64): it is taken in the next one that runs vectors. -/
def State.jumpLate (s : State) (w : Who) (target edge : Nat) : State :=
  let q := s.seqOf w
  let e := s.entryOf w q.cur
  let next := (match q.succ with | some r => r | none => s.resolve w e.normalEnd).idx
  let f := s.entryOf w next
  let rest := if s.streams w q.cur then e.total w.bcast - q.n - 1 else 0
  let more := if s.streams w next then (if f.isAtomic then f.total w.bcast else 2) else 0
  let s := s.setSeq w { q with pend := some { target := target, due := 0, late := true, reg := edge } }
  (s.redirect w target next (!f.isAtomic) (rest + more)).fix w (s.resolve w target)

/-- Does the gather's own sequencer rest while the gather follows a program? -/
def State.follows (s : State) : Who → Bool
  | .g g => match (s.gather g).play.bc with | some b => b.mode == BcMode.following | none => false
  | .p _ => false

/-- What a request finds at a PCLK edge: everything up to it has come true. -/
def State.atEdge (s : State) (w : Who) (edge : Nat) : State := s.settleAll w (edge * pclkU) (s.players w)

/-- The condition still armed of an ended stroke of a member that has joined its program since (R61, R64): the late jump is taken as a leave at
boundary 2. [DEDUCED, unsafe: log 138.] -/
def State.requestJoined (s : State) (g : Nat) (cause : Cause) (cycle : Nat) : State :=
  match (s.gather g).play.bc with
  | none => s
  | some b =>
    let edge := (s.prog b.prog).seq.granuleEdge + cycle
    let t := s.atEdge (.p b.prog) edge
    let q := (t.gather g).seq
    match (t.gather g).play.bc, q.armed.find? fun a => a.cond == condOf cause && decide (edge ≤ a.last) && t.causeAt (.g g) cause a.tag a.mark edge with
    | some b, some a =>
      let u := t.modSeq g fun q => { q with armed := q.armed.filter (· != a) }
      if b.lateLeave.isSome then u.countDrop (.g g)
      else
        let u := (u.countLate (.g g)).modPlay g fun y => { y with bc := some { b with lateLeave := some (a.target, edge) } }
        u.fix (.g g) (u.resolveLeave g a.target)
    | _, _ => s

/-- A jump request registered at PCLK cycle `cycle` of the granule that plays (R61–R66): of the running stroke, or of one that has ended with
its condition armed. While granule n is still due, at a stall or an idle granule, and for the underrun itself, the request counts to the
granule before it (R105). [DEDUCED, unsafe: log 120.] -/
def State.request (s : State) (w : Who) (cause : Cause) (cycle : Nat) : State :=
  let q := s.seqOf w
  let edge := if cause == .underrun then q.granuleEdge - 4 else q.granuleEdge + cycle
  if !q.live || !q.begun || q.start.isSome || !q.inGranule edge then s
  else
    let t := s.atEdge w edge
    let q := t.seqOf w
    let e := t.entryOf w q.cur
    let total := e.total w.bcast
    let tag := match t.players w with | g :: _ => (t.gather g).play.tag | [] => 0
    let branch := (e.op == opRun || e.op == opRdv) && !e.etch && e.cond != 0 && e.cond == condOf cause
    let exit := match e.op, cause with
      | 6, .evt k => k.val == e.cond
      | 7, .matched => true
      | _, _ => false
    if !q.live then s
    else if q.cont.isNone && (branch || exit) && !q.raised && t.causeAt w cause tag q.mark edge then
      let target := if exit then e.next else e.target
      let due := q.granuleNow + 2
      let u := t.setSeq w { q with raised := true }
      if q.pend.isSome then u.countDrop w
      else if due < total then u.jumpAt w target due edge
      else if exit then t.setSeq w { q with raised := true, waitLate := true }
      else u.jumpLate w target edge
    else
      match q.armed.find? fun a => a.cond == condOf cause && decide (edge ≤ a.last) && t.causeAt w cause a.tag a.mark edge with
      | some a =>
        let u := t.setSeq w { q with armed := q.armed.filter (· != a) }
        if q.pend.isSome then u.countDrop w
        else match q.cont with
          | some c =>
            let f := u.entryOf w c.res.idx
            let u := u.countLate w
            let x := u.seqOf w
            let u := u.setSeq w { x with pend := some { target := a.target, due := 2, late := false, reg := edge } }
            let keep := if u.streams w c.res.idx then (if f.isAtomic then f.total w.bcast else 2) else 0
            (u.redirect w a.target c.res.idx (!f.isAtomic) keep).fix w (u.resolve w a.target)
          | none => if q.n < 2 then (u.countLate w).jumpAt w a.target 2 edge else u.jumpLate w a.target edge
      | none => s

/-- The start that waits has come and nothing holds it (R584). -/
def Seq.startDue (q : Seq) : Bool := match q.start with | some (0, _) => true | _ => false

/-- A granule boundary of a sequencer: one held for checkpoints or etch markers looks again; the first after a start's trigger begins the start stroke; each later one is the next of the
running stroke. Event-input selections written meanwhile take effect here (R340). -/
def State.granule (s : State) (w : Who) (obs : List Obs) : State :=
  let q := s.seqOf w
  if q.st != .running then if q.st == .held && (q.why == some .checkpoint || q.why == some .etch) then s.goOn w obs else s
  else
    let s := match w with
      | .g g => if (s.gather g).hatch.evtNext.isSome then ((s.modG g fun G => { G with hatch := G.hatch.settled G.hatch.cane }).smuReselect s g).remark w else s
      | .p _ => s
    if q.start.isSome then
      let primed := match w with | .p p => !(s.prog p).priming | .g _ => true
      if q.startDue && primed then
        let s := s.setSeq w { q with start := none }
        match w with
        | .g g => if s.haltInput g then ((s.haltG g 2 0).sync g) else s.goOn w obs
        | .p _ => let s := s.dropHalted w; if (s.seqOf w).live then s.goOn w obs else s
      else s
    else
      if s.follows w then s
      else if q.retry then
        let s := s.reachBoundary w (q.startS + 32 * q.n * q.period)
        if (s.seqOf w).live then s.beginGranule w obs else s
      else if q.cont.isSome then s.goOn w obs
      else s.boundary w obs

end Sys2Proof.Machine
end

