-- ==== Sys2Proof/Machine/Stroke.lean ====
section
/-!
DEFINITION. The STROKE commands (Tables 3-11, 3-12) and the events of chapters 3 and 4 at the sequencers.
-/
namespace Sys2Proof.Machine

/-! ## Shared checks -/

/-- SEQ_BUSY, or MEMBER_BUSY on a cane, while any of the target's gathers runs (R47, R59). -/
def State.gathersIdle (s : State) (t : Tgt) : Half :=
  if t.units.all (fun g => (s.gather g).idle) then stOK else t.busy stSeqBusy

/-- A table range of R92: COUNT in 1 to max, FIRST + COUNT within size. -/
def rangeOk (first count max size : Nat) : Half := unless' (1 ≤ count && count ≤ max && first + count ≤ size) stBadRange

/-- The record of an answer that is one flag word per member: UNPINNED in bit 0 (R100). [DESIGN CHOICE, unsafe: log 121.] -/
def flagReply (s : State) (t : Tgt) (f : Nat → Nat) : Act :=
  .members t (s.safePos t) (t.here.map fun pu => (pu.1, { bytes := toLE 4 (f pu.2) })) { len := 4, flag := some 0 }

/-! ## Pinned bodies (R98–R100) -/

/-- The local granules that a pinned body holds. -/
def Pinned.granules (b : Pinned) : List Nat := (b.strokes.map (·.2)).flatten

/-- Unpin every body that holds one of some granules (R100). Answers the gather's resources and whether any was unpinned. -/
def Play.unpin (y : Play) (named : Nat → Bool) : Play × Bool :=
  let keep := y.pinned.filter fun b => !b.granules.any named
  ({ y with pinned := keep }, keep.length != y.pinned.length)

/-- The granules that a STREAM = 0 entry with vectors names. -/
def Ent.names (e : Ent) (a : Nat) : Bool := e.vectors && !e.stream && decide (e.addr ≤ a ∧ a < e.addr + e.len)

/-! ## STROKE_LOAD -/

/-- The entries of a payload from an offset. -/
def entriesOf (p : List Byte) (o n : Nat) : List (BitVec 128) := (List.range n).map fun i => BitVec.ofNat 128 (leNat p (o + 16 * i) 16)

/-- The first entry with a status, by index from `first`. -/
def firstBad (es : List (BitVec 128)) (first : Nat) (f : BitVec 128 → Half) : Option (Nat × Half) :=
  (es.zipIdx first).findSome? fun ei => let st := f ei.1; if st == stOK then none else some (ei.2, st)

/-- The refusal of R58 with the index of the first failing entry (R406). -/
def entryRefusal (i : Nat) (st : Half) : Act := .done { status := st, blocks := [toLE 2 i ++ toLE 2 0] }

/-- Write entries into a table; an all-zero entry is the table's default (R55). -/
def putEntries (t : Tab (BitVec 128)) (first : Nat) (es : List (BitVec 128)) : Tab (BitVec 128) :=
  (es.zipIdx first).foldl (fun t ei => if ei.1 == 0 then Tab.del t ei.2 else Tab.put t ei.2 ei.1) t

def strokeLoadBody (s : State) (r : Req) : State × Act :=
  let t := s.target r
  let first := u16 r.payload 0
  let n := u16 r.payload 2
  guarded s (checks [needLen r (8 + 16 * n), rangeOk first n 254 4096, unless' (zeros r.payload 4 4) stBadField]) fun _ =>
    let es := entriesOf r.payload 8 n
    match firstBad es first (fun b => (entOf b).loadStatus false) with
    | some (i, st) => (s, entryRefusal i st)
    | none => guarded s (s.gathersIdle t) fun _ =>
      let named := fun a => es.any fun b => (entOf b).names a
      let un := t.units.filter fun g => ((s.gather g).play.unpin named).2
      let s := forAll t.units (fun s g => s.modPlay g fun y => { (y.unpin named).1 with table := putEntries y.table first es }) s
      (s, flagReply s t fun g => b2n (un.contains g))

/-! ## TSET_LOAD -/

/-- A pin's timing in a TSET_LOAD payload, at an offset. -/
def pinTimingOf (p : List Byte) (o : Nat) : PinTiming :=
  { fmt := u8 p o, dOn := u32 p (o + 4), dData := u32 p (o + 8), dRet := u32 p (o + 12), dOff := u32 p (o + 16)
    sOpen := u32 p (o + 20), sClose := u32 p (o + 24) }

/-- The edges that change the pin's level in its format (R77). -/
def PinTiming.levelOffsets (x : PinTiming) : List Nat :=
  match x.fmt with
  | 0 => [x.dData]
  | 1 => [x.dData, x.dRet]
  | 2 => [x.dData, x.dRet]
  | _ => [x.dOn, x.dData, x.dRet]

/-- Are two level-setting edges closer than 32 units, over the overlapping periods (R77)? `period` is in 1/65,536 unit. [DESIGN CHOICE, unsafe: log 141.] -/
def PinTiming.tooClose (x : PinTiming) (period : Nat) : Bool :=
  let es := x.levelOffsets.zipIdx
  es.any fun a => es.any fun b => (List.range 5).any fun k =>
    !(a.2 == b.2 && k == 0) &&
      let u := a.1 * 65536
      let v := b.1 * 65536 + k * period
      decide (u < v + 32 * 65536 ∧ v < u + 32 * 65536)

/-- Does a pin's timing break R77? -/
def PinTiming.bad (x : PinTiming) (period : Nat) : Bool :=
  let lim := 4 * (period / 65536)
  [x.dOn, x.dData, x.dRet, x.dOff, x.sOpen, x.sClose].any (fun e => decide (lim ≤ e)) || decide (x.dOn > x.dData) ||
    (x.fmt != 0 && decide (x.dData ≥ x.dRet)) || decide (x.sOpen > x.sClose) || x.tooClose period

/-- TSET_LOAD (R76, R77, R92). [DESIGN CHOICE, unsafe: log 121.] -/
def tsetLoadBody (s : State) (r : Req) : State × Act :=
  let t := s.target r
  let p := r.payload
  let ix := u8 p 0
  let period := u64 p 8
  let pins := (List.range 16).map fun i => pinTimingOf p (16 + 28 * i)
  guarded s (checks [needLen r 464, unless' (ix ≤ 31) stBadRange,
      unless' (zeros p 1 7 && period < 2 ^ 46 && 64 ≤ period / 65536 && pins.all (fun x => x.fmt ≤ 3) &&
        (List.range 16).all fun i => zeros p (17 + 28 * i) 3) stBadField,
      unless' (pins.all fun x => !x.bad period) stBadEdge,
      s.gathersIdle t]) fun _ =>
    let s := forAll t.units (fun s g => s.modPlay g fun y => { y with tsets := Tab.put y.tsets ix { period := period, pins := pins } }) s
    (s, s.configAct t)

/-! ## Starting (R84, R90, R161, R199, R470, R584) -/

/-- What a start or a replay finds of the strokes before it: nothing on its way and no marker asked. -/
def Play.still (y : Play) (bc : Option Bc) : Play :=
  { y with
    startS := 24 * pclkU, nowS := 24 * pclkU, holding := false, bc := bc, etches := y.etches.filterMap Etch.letGo, etchOn := none, etchEnds := [], resOpen := false
    cur := {}, strobes := [], hits := [], closing := [], pulses := [], fill := 0, stallSince := 0 }

/-- A start also clears the counters and flags of STREAM_STATUS (R127). -/
def Play.afresh (y : Play) (bc : Option Bc) : Play :=
  { y.still bc with
    rsvSym := 0, stcShort := 0, stcUnfilled := 0, stallTime := 0, idleGran := 0, lateDiverge := 0, lateRejoin := 0, streamRange := false
    underrunAbort := false, etchMissed := none }

/-- Write the first etch-end marker that a gather owes. -/
def State.writeEtchEnd (s : State) (g : Nat) : State :=
  match (s.gather g).play.etchEnds with
  | e :: es => (s.modPlay g fun y => { y with etchEnds := es }).writeMarker (s.markerOf g 2 0 (e.stroke % 4096) (e.stroke / 4096 == 1))
  | [] => s

/-- Write every etch-end marker that a gather owes: each becomes durable before a later checkpoint (R87). -/
def State.flushEtchEnds (s : State) (g : Nat) : State := (s.gather g).play.etchEnds.foldl (fun s _ => s.writeEtchEnd g) s

/-- Post a site's start checkpoint; where the four entries are full the journal writer takes one first. [DESIGN CHOICE, unsafe: log 29.] -/
def State.startCkpt (s : State) (g idx : Nat) (bcast : Bool) : State :=
  (if s.ckptFull g then s.takeCkpt g else s).postStart g idx bcast

/-- A gather at the acceptance of a start: counters and flags cleared, trips released, calibration steps ended, a new RUN and its
start checkpoint. `own` says whether its own sequencer starts, or it follows a program. The time axis begins 24 PCLK edges before the
first vector. [DEDUCED, unsafe: log 100.] -/
def State.armGather (s : State) (g idx mode src : Nat) (prog : Option Nat) : State :=
  let s := (s.preempt g fun _ => true).flushEtchEnds g
  let mark := s.startEvents (.g g) mode src
  let s := s.modG g fun G =>
    { (G.mapPins fun _ x => x.stopEdges) with
      seq := { st := .running, cur := idx, start := if prog.isSome then none else some (mode, src), startMark := mark, startS := 24 * pclkU }
      play := G.play.afresh (prog.map fun p => { prog := p })
      safe := { G.safe with reacts := 0, replayDue := false }, replay := none, cane := none }
  let s := s.modG g fun G => (List.range 16).foldl (fun G p => G.releaseTrip p) G
  let s := forAll (List.range 4) (fun s u => s.setSmu g u ((s.smu g u).release (s.gather g).safe.on)) s
  let s := s.startCkpt g idx prog.isSome
  let s := if s.twin.replayOwed.contains (s.siteOf g) then
      s.setTwin { s.twin with replayOwed := s.twin.replayOwed.filter (· != s.siteOf g) } else s
  (s.comparatorsChanged g)

/-- The own sequencer of a gather starts: its start stroke is resolved, and waits for its trigger or, IMMEDIATE, for its boundary. -/
def State.startOwn (s : State) (g idx mode src : Nat) : State :=
  let s := s.armGather g idx mode src none
  let res := s.resolve (.g g) idx
  s.modSeq g fun q => { q with cont := some { res := res, ckpts := res.ckpts, phaseReset := true } }

/-- MODE and SOURCE of a start (Tables 3-12, 4-7). -/
def startModeOk (mode src inputs : Nat) : Bool :=
  match mode with
  | 0 => src == 0
  | 1 => decide (src < inputs)
  | 2 => decide (src < 16)
  | _ => false

def strokeStartBody (s : State) (r : Req) : State × Act :=
  let t := s.target r
  let idx := u16 r.payload 0
  let mode := u8 r.payload 2
  let src := u8 r.payload 3
  guarded s (checks [needLen r 8, unless' (idx < 4096) stBadRange,
      unless' (startModeOk mode src 16 && zeros r.payload 4 4) stBadField,
      s.gathersIdle t,
      firstStatus t.units fun g => walkStatus (s.entryOf (.g g)) (fun i => (s.gather g).play.tsets.any (·.1 == i)) idx]) fun _ =>
    match s.startRelease t.units with
    | none => (s, .st stSafeState)
    | some s =>
      let s := forAll t.units (fun s g => (s.startOwn g idx mode src).modG g fun G => { G with cane := t.cane }) s
      (s, s.configAct t)

/-! ## STROKE_HALT -/

/-- The loaded program of a cane. -/
def State.progOf (s : State) (cane : Nat) : Option Nat :=
  (List.range 4).find? fun p => (s.prog p).loaded && (s.prog p).cane == cane

/-- A halt with source COMMAND (R83, R112, R584): of a program with every member, or of gathers. -/
def State.haltTarget (s : State) (t : Tgt) : State :=
  let s := match t.cane.bind s.progOf with
    | some p => if (s.prog p).seq.live then s.haltWho (.p p) 3 0 0 else s
    | none => s
  forAll t.units (fun s g => if (s.gather g).seq.live then s.haltWho (.g g) 3 0 0 else s) s

/-- [DEDUCED, unsafe: log 32.] -/
def strokeHaltBody (s : State) (r : Req) : State × Act :=
  let t := s.target r
  guarded s (needLen r 0) fun _ =>
    let s := s.haltTarget t
    (s, s.configAct t)

/-! ## STROKE_STATUS, STROKE_READ, SEQ_CONFIG -/

/-- A gather's answer; one with compare failures fails. -/
def State.strokeRec (s : State) (g : Nat) : MemRec := { bytes := s.strokeBytes g, failed := (s.gather g).seq.fails != 0 }

/-- [See R91.] -/
def strokeStatusBody (s : State) (r : Req) : State × Act :=
  let t := s.target r
  guarded s (needLen r 0) fun _ => (s, s.readMembers t s.strokeRec { len := 36, flag := some 32 })

/-- A cane's entries carry their flag word in the reserved bytes of the layout. [DESIGN CHOICE, unsafe: log 117.] -/
def strokeReadBody (s : State) (r : Req) : State × Act :=
  let first := u16 r.payload 0
  let n := u16 r.payload 2
  guarded s (checks [needLen r 4, rangeOk first n 254 4096]) fun _ =>
    let t := s.target r
    let tab := fun g => if t.cls == cGather then (s.gather g).play.table else s.bcTable
    (s, s.readMembers t (fun g => { bytes := toLE 2 first ++ toLE 2 n ++ toLE 4 0 ++ (List.range n).flatMap fun i => toLE 16 (Tab.get 0#128 (tab g) (first + i)).toNat })
      { len := 8 + 16 * n, flag := some 4, lead := 8, grain := 16 })

def seqConfigBody (s : State) (r : Req) : State × Act :=
  let t := s.target r
  let hs := w32 r.payload 4
  guarded s (checks [needLen r 8,
      unless' (zeros r.payload 2 2 && (List.range 16).all fun p => bits hs.toNat (2 * p + 1) (2 * p) != 3) stBadField,
      s.gathersIdle t]) fun _ =>
    let s := forAll t.units (fun s g => s.modPlay g fun y => { y with haltHold := u16 r.payload 0, haltState := hs }) s
    (s, s.configAct t)

/-- STROKE_LOAD. -/
def execStrokeLoad (r : Req) (s : State) : Host.Outcome State Fault Refusal := .next (s.firmware 0x0301 (us 200) [6, 0xC] r strokeLoadBody)
/-- TSET_LOAD. -/
def execTsetLoad (r : Req) (s : State) : Host.Outcome State Fault Refusal := .next (s.firmware 0x0302 (us 100) [6, 0xC] r tsetLoadBody)
/-- STROKE_START. -/
def execStrokeStart (r : Req) (s : State) : Host.Outcome State Fault Refusal := .next (s.firmware 0x0303 (us 400) [6, 0xC] r strokeStartBody)
/-- STROKE_HALT: halted when the response is readable. -/
def execStrokeHalt (r : Req) (s : State) : Host.Outcome State Fault Refusal := .next (s.firmware 0x0304 (us 5) [6, 0xC] r strokeHaltBody)
/-- STROKE_STATUS. -/
def execStrokeStatus (r : Req) (s : State) : Host.Outcome State Fault Refusal := .next (s.firmware 0x0305 (us 20) [6, 0xC] r strokeStatusBody)
/-- STROKE_READ: a gather, or 0x8000 for the broadcast table. -/
def execStrokeRead (r : Req) (s : State) : Host.Outcome State Fault Refusal := .next (s.firmware 0x0306 (us 100) [6, 8, 0xC] r strokeReadBody)
/-- SEQ_CONFIG. -/
def execSeqConfig (r : Req) (s : State) : Host.Outcome State Fault Refusal := .next (s.firmware 0x0307 (us 20) [6, 0xC] r seqConfigBody)

/-! ## Events at the sequencers -/

/-- STROKE_START_TRIGGER (R90): the event or match that a waiting start awaits, presented since the start was accepted; the first vector
leaves at the next boundary. [DEDUCED, unsafe: log 28.] -/
def execStrokeStartTrigger (q : Seqr) (s : State) : Host.Outcome State Fault Refusal :=
  let w := whoOf q
  let x := s.seqOf w
  match x.start with
  | some (mode, src) =>
    if !x.live || mode == 0 || s.startEvents w mode src ≤ x.startMark then .next s
    else .next (s.setSeq w { x with start := some (0, src) })
  | none => .next s

/-- JUMP_REQUEST (R61–R66, R119, R583). -/
def execJumpRequest (q : Seqr) (cause : Cause) (cycle : Nat) (s : State) : Host.Outcome State Fault Refusal :=
  .next (match whoOf q with
    | .g g => if s.follows (.g g) then s.requestJoined g cause cycle else s.request (.g g) cause cycle
    | w => s.request w cause cycle)

/-- GRANULE_BOUNDARY (R60–R88, R103–R124). [DESIGN CHOICE, unsafe: log 102.] -/
def execGranuleBoundary (q : Seqr) (obs : List Obs) (s : State) : Host.Outcome State Fault Refusal :=
  .next (s.granule (whoOf q) obs)

/-- The sequencer that a gather plays from: its own, or its program's while it follows. -/
def State.whoOn (s : State) (g : Nat) : Who :=
  match (s.gather g).play.bc with
  | some b => if b.mode == .following then .p b.prog else .g g
  | none => .g g

/-- Go on where a sequencer of the gather is held for checkpoints or etch markers. -/
def State.resumeHeld (s : State) (g : Nat) : State :=
  let w := s.whoOn g
  let q := s.seqOf w
  if q.st == .held && (q.why == some .checkpoint || q.why == some .etch) then s.goOn w [] else s

/-- The release of a site's older records is awaited no longer once fewer than 14 are unreleased (R474). -/
def State.etchRecheck (s : State) (g : Nat) : State :=
  let s := if s.unreleased (s.siteOf g) < 14 then
      s.modPlay g fun y => { y with etches := y.etches.map fun e => if e.phase == .waitRelease then { e with phase := .durable } else e }
    else s
  s.resumeHeld g

/-- Is the oldest checkpoint that waits later than an etch-end marker still owed, which becomes durable before it (R87)? -/
def State.ckptBlocked (s : State) (g : Nat) : Bool :=
  match (s.gSite g).queue with
  | c :: _ => (s.gather g).play.etchEnds.any fun e => decide (e.cseq < c.cseq)
  | [] => true

/-- CHECKPOINT_ENTRY_FREE (R20): the journal writer takes a checkpoint; a held sequencer goes on. -/
def execCheckpointEntryFree (g : GIx) (s : State) : Host.Outcome State Fault Refusal :=
  if s.ckptBlocked g then .next s else .next ((s.takeCkpt g).etchRecheck g)

/-- RESOLUTION_COMPLETE (R67): the resolved stroke starts late, with phase reset and not-at-speed, and SEQ_LATE is posted. -/
def execResolutionComplete (q : Seqr) (s : State) : Host.Outcome State Fault Refusal :=
  let w := whoOf q
  let x := s.seqOf w
  match x.cont with
  | some c =>
    if !c.unresolved then .next s
    else
      let s := s.setSeq w { x with cont := some { c with unresolved := false, phaseReset := true, slow := true } }
      let s := forAll (s.players w) (fun s g =>
        (s.modSeq g fun y => { y with seqLate := sat16 y.seqLate }).advise fSeqLate (s.gHandle g)) s
      .next (if x.why == some .resolve then s.goOn w [] else s)
  | none => .next s

/-- Is a begin marker being written? -/
def Etch.underWay (e : Etch) : Bool := e.phase == .writing || e.phase == .writingHeld || e.phase == .adrift

/-- A gather's etch-begin marker that is being written has become durable. -/
def State.etchDurable (s : State) (g : Nat) (e : Etch) : State :=
  let s := s.writeMarker { s.markerOf g 1 0 e.idx e.bcast with run := e.run }
  let ph := if e.phase == .writingHeld && s.unreleased (s.siteOf g) ≥ 14 then EtchPhase.waitRelease else .durable
  if e.phase == .adrift then s.modPlay g fun y => { y with etches := y.etches.erase e }
  else (s.modPlay g fun y => { y with etches := updFirst (· == e) (fun e => { e with phase := ph }) y.etches }).resumeHeld g

/-- ETCH_BEGIN_MARKER_DURABLE (R86, R474): the begin marker asked first is in MRAM; a gather held for it starts its ETCH stroke, unless the
release of older records is still awaited. A write whose stroke is no longer due completes too. -/
def execEtchBeginMarkerDurable (g : GIx) (s : State) : Host.Outcome State Fault Refusal :=
  match (s.gather g).play.etches.find? Etch.underWay with
  | some e => .next (s.etchDurable g e)
  | none => .next s

/-- Have the strobes that end at a PCLK edge been registered before the next granule boundary of a sequencer? Where no granule plays,
time goes on without one. -/
def Seq.passes (q : Seq) (edge : Nat) : Bool :=
  q.st != .running || q.cont.isSome || decide (edge < boundaryEdge q.startS q.period (q.n + 1))

/-- ETCH_END_MARKER_WRITE (R87): the last strobes of an ended ETCH stroke are registered, and its end marker is written. -/
def execEtchEndMarkerWrite (g : GIx) (s : State) : Host.Outcome State Fault Refusal :=
  let w := s.whoOn g
  match (s.gather g).play.etchEnds with
  | e :: _ => if (s.seqOf w).passes e.last then .next ((s.settleAll w ((e.last + 1) * pclkU) [g]).writeEtchEnd g) else .next s
  | [] => .next s

/-- STREAM_GRANULE_PRESENT (R105): one more granule in the stream buffer of 256 (R101). -/
def execStreamGranulePresent (g : GIx) (s : State) : Host.Outcome State Fault Refusal :=
  .next (s.modPlay g fun y => { y with fill := min 256 (y.fill + 1) })

/-- Where a stalled stroke resumes: the PCLK edge of the due boundary and as many cycles as the stall has lasted, at least one. [DEDUCED, unsafe: log 25.] -/
def State.stallEdge (s : State) (q : Seq) : Nat := boundaryEdge q.startS q.period q.n + max 1 (s.heldFor q)

/-- STALL_TIME with the stall that ends now (R106). -/
def Play.stallOver (y : Play) (upNs : Nat) : Play :=
  { y with stallTime := satAdd 0xFFFF y.stallTime (max 1 (pclkOfNs (upNs - y.stallSince))), stallSince := 0 }

/-- STALL_RESUME (R106): phase reset, not-at-speed, STALL_TIME adds the stall. -/
def execStallResume (q : Seqr) (s : State) : Host.Outcome State Fault Refusal :=
  let w := whoOf q
  let x := s.seqOf w
  if !(x.st == .held && x.why == some .stall && s.granulePresent w x.cur) then .next s
  else
    let t := s.stallEdge x * pclkU
    let base := t - 32 * x.n * x.period
    let s := s.reachBoundary w t
    let x := s.seqOf w
    if x.st != .held then .next s
    else
      let s := s.setSeq w { x with st := .running, why := none, slow := true, startS := base }
      let s := forAll (s.players w) (fun s g => s.modG g fun G =>
        let G := G.mapPins fun _ x => { x with edges := x.edges.map fun d => { d with old := true } }
        let y := G.play.stallOver s.upNs
        { G with seq := { G.seq with slow := true, st := .running }
                 play := { y with startS := base, cur := { y.cur with flags := y.cur.flags ||| rfNotAtSpeed } } }) s
      .next (s.beginGranule w [])

/-- STALL_LIMIT_EXPIRY (R107): a stall that has lasted longer than its context's limit becomes ABORT. -/
def execStallLimitExpiry (q : Seqr) (s : State) : Host.Outcome State Fault Refusal :=
  let w := whoOf q
  let x := s.seqOf w
  let limit := us (s.ctx (s.entryOf w x.cur).ctx).stallLimit
  if !(x.st == .held && x.why == some .stall) || s.upNs - x.holdNs < limit then .next s
  else
    let s := forAll (s.players w) (fun s g => s.modPlay g fun y => { y.stallOver s.upNs with underrunAbort := true }) s
    .next (s.haltAt w (s.stallEdge x * pclkU) 4 0 rfUnderrunAbort)

/-- HALT_HOLD_EXPIRY (R83): HALT_HOLD PCLK cycles after the halt every pin goes to its HALT_STATE. -/
def execHaltHoldExpiry (g : GIx) (s : State) : Host.Outcome State Fault Refusal :=
  let G := s.gather g
  if G.seq.st == .halted && G.play.holding && G.play.haltHold ≤ pclkOfNs (s.upNs - G.play.haltNs) then .next ((s.modG g (·.applyHaltState)).pinsChanged g) else .next s

end Sys2Proof.Machine
end

