-- ==== Sys2Proof/Machine/Hatch.lean ====
section
/-!
DEFINITION. Hatch's own events and the HATCH commands (R326–R341, Tables 13-8 and 13-9).
-/
namespace Sys2Proof.Machine

/-! ## Naming lines -/

/-- The model's key of a Table 13-1 identifier; a gather line only of a site of the half in service. -/
def State.lineKey (s : State) (id : Half) : Option Nat :=
  let n := id.toNat % 4096
  match id.toNat / 4096 with
  | 0 => if n / 16 / 64 == s.halfIx && n / 16 < 128 then some (lineG (n / 16 % 64) (n % 16)) else none
  | 1 => if n < 128 then some (0x1000 + n) else none
  | 2 => if n < 64 then some (lineD n) else none
  | 3 => if n < 8 then some (lineC n) else none
  | _ => none

/-- The lines that a HATCH_LINE_CONFIG or HATCH_RESTORE names (R341): none where its LINE is refused. -/
def State.lineTargets (s : State) (t : Tgt) (id : Half) : Option (List Nat) :=
  if t.cls == cGather then (if id.toNat < 16 then some (t.units.map fun g => lineG g id.toNat) else none)
  else if id.toNat < 0x1000 then none
  else (s.lineKey id).map ([·])

/-! ## Loops (R330) -/

/-- Would the asynchronous hops close a cycle? All other hops run upward, so only ASYNC relays onto asynchronous device lines can
close one. -/
def State.asyncLoop (s : State) : Bool :=
  let rs := (s.hatch.relays.map (·.2)).filter fun r => r.mode == 2 && !(s.line (lineD r.out)).clk
  let feeds := fun (a b : Relay) => b.src.any fun c => srcKey c == lineD a.out
  let step := fun (xs : List Relay) => (xs ++ rs.filter fun b => xs.any fun a => feeds a b).eraseDups
  rs.any fun a => ((List.range 16).foldl (fun xs _ => step xs) (rs.filter (feeds a))).any fun b => feeds b a || b == a

/-! ## HATCH_LINE_CONFIG, HATCH_RESTORE -/

/-- A line under HATCH_LCFG and HATCH_LSTORM images; the CLK of TRIG_OUT is ignored (R320). -/
def Line.configure (l : Line) (key : Nat) (cfg storm : Nat) : Line :=
  { l with notify := BitVec.ofNat 2 (bits cfg 8 7), grpEn := bit cfg 6, group := bits cfg 5 1
           clk := bit cfg 0 && !(0x3004 ≤ key), window := storm / 65536, limit := storm % 65536 }

def hatchLineBody (s : State) (r : Req) : State × Act :=
  let t := s.target r
  let cfg := u32 r.payload 4
  let storm := u32 r.payload 8
  guarded s (needLen r 12) fun _ =>
    match s.lineTargets t (h16 r.payload 0) with
    | none => (s, .st stBadField)
    | some keys =>
      let s' := forAll keys (fun s k => s.setLine k ((s.line k).configure k cfg storm)) s
      guarded s (checks [unless' (zeros r.payload 2 2 && bits cfg 31 9 == 0 && bits cfg 8 7 != 3 && storm / 65536 != 0 &&
            !keys.any fun k => isHaltLine k && (bit cfg 0 || bit cfg 6)) stBadField,
          unless' (!s'.asyncLoop) stHatchLoop]) fun _ =>
        let s := s'.syncAll (touch [] keys)
        (s, s.configAct t)

def hatchRestoreBody (s : State) (r : Req) : State × Act :=
  let t := s.target r
  guarded s (needLen r 4) fun _ =>
    match s.lineTargets t (h16 r.payload 0) with
    | none => (s, .st stBadField)
    | some keys =>
      guarded s (unless' (zeros r.payload 2 2) stBadField) fun _ =>
        let s := forAll keys (fun s k => s.setLine k { s.line k with off := false, cause := 0, recent := [] }) s
        let s := s.syncAll (touch [] keys)
        (s, s.configAct t)

/-! ## HATCH_PRODUCER, HATCH_FORWARD -/

/-- The gather producers that may drive G15 (Table 13-2). -/
def drivesHalt (i : Nat) : Bool := i < 16 || (32 ≤ i && i < 38)

def hatchProducerBody (s : State) (r : Req) : State × Act :=
  let t := s.target r
  let i := u8 r.payload 0
  let cond := u8 r.payload 1
  let mask := u64 r.payload 4
  if t.cls == cGather then
    guarded s (checks [needLen r 12, unless' (zeros r.payload 2 2 && i ≤ 42 && (if i < 16 then decide (cond ≤ 3) else cond == 0) &&
        mask < 65536 && (drivesHalt i || !mask.testBit 15)) stBadField]) fun _ =>
      let s := forAll t.units (fun s g => s.modG g fun G => { G with hatch := { G.hatch with
          mask := Tab.put G.hatch.mask i (BitVec.ofNat 16 mask), cond := if i < 16 then Tab.put G.hatch.cond i cond else G.hatch.cond } }) s
      let acc := t.units.foldl (fun (acc : State × Tab Nat) g => State.collect acc g []) (s, [])
      let s := acc.1.syncAll (touch acc.2 (t.units.flatMap fun g => (List.range 16).map (lineG g)))
      (s, s.configAct t)
  else
    guarded s (checks [needLen r 12, unless' (zeros r.payload 2 2 && i ≤ 20 && cond == 0 && !mask.testBit 15) stBadField]) fun _ =>
      let s := s.setHatch { s.hatch with devProd := Tab.put s.hatch.devProd i (BitVec.ofNat 64 mask) }
      (s.syncAll (touch [] ((List.range 64).map lineD)), .ok)

/-- The four 16-bit masks of a HATCH_FORWARD for 0x8000; bit 3 of mask 3 would be D15. -/
def cardMasks (p : List Byte) (o : Nat) : Tab Half := (List.range 4).map fun j => (j, h16 p (o + 2 * j))
def cardMasksOk (p : List Byte) (o : Nat) : Bool := !bit (u16 p (o + 6)) 3

/-- HATCH_FORWARD. Every forwarding path runs upward (R322), so none closes a cycle and HATCH_LOOP never arises here (see `State.asyncLoop`). -/
def hatchForwardBody (s : State) (r : Req) : State × Act :=
  let t := s.target r
  let p := r.payload
  guarded s (needLen r 16) fun _ =>
    if t.cls == cGather then
      guarded s (unless' (!bit (u32 p 0) 31 && zeros p 4 12) stBadField) fun _ =>
        let s := forAll t.units (fun s g => s.modG g fun G => { G with hatch := { G.hatch with
          up := h16 p 0, up16 := BitVec.ofNat 15 (u16 p 2) } }) s
        let ks := (t.units.map tileOf).eraseDups.flatMap fun k => (List.range 32).map (lineT k)
        let s := s.syncAll (touch [] ks)
        (s, s.configAct t)
    else if t.cls == cTile then
      guarded s (unless' (!bit (u64 p 0) 47 && zeros p 8 8) stBadField) fun _ =>
        let s := forAll t.units (fun s k => s.setHatch { s.hatch with tileFwd := Tab.put s.hatch.tileFwd k (BitVec.ofNat 64 (u64 p 0)) }) s
        let s := s.syncAll (touch [] ((List.range 64).map lineD))
        (s, s.configAct t)
    else
      guarded s (unless' (cardMasksOk p 0 && cardMasksOk p 8) stBadField) fun _ =>
        let s := s.setHatch { s.hatch with trigIn := cardMasks p 0, trigOut := cardMasks p 8 }
        (s.syncAll (touch [] ((List.range 64).map lineD ++ (List.range 4).map fun j => lineC (4 + j))), .ok)

/-! ## HATCH_TASK, HATCH_BIND, HATCH_GROUP, HATCH_PULSE -/

/-- The valid source codes of SRC0–SRC3. -/
def taskSrcs (p : List Byte) : List Nat := ((List.range 4).map fun i => u16 p (4 + 2 * i)).filterMap fun v => if bit v 15 then some (v % 256) else none
def taskSrcsOk (p : List Byte) : Bool := (List.range 4).all fun i => let v := u16 p (4 + 2 * i); bits v 14 8 == 0 && v % 256 ≤ 195

/-- The field checks of HATCH_TASK (R341). -/
def taskOk (p : List Byte) : Bool :=
  let kind := u8 p 0
  let mode := u8 p 2
  let out := u8 p 3
  let v := u32 p 12
  taskSrcsOk p && match kind with
  | 0 => u8 p 1 < 16 && mode ≤ 2 && out < 64 && out != 15 && !(mode == 1 && v > 65535)
  | 1 => u8 p 1 < 16 && mode ≤ 2 && out < 64 && out != 15 && v != 0
  | 2 => u8 p 1 < 32 && mode ≤ 1 && out == 0 && v == 0
  | 3 => u8 p 1 < 32 && mode ≤ 1 && out == 0 && v == 0
  | _ => false

/-- Write a task. -/
def Hatch.setTask (h : Hatch) (p : List Byte) : Hatch :=
  let i := u8 p 1
  let mode := u8 p 2
  let src := taskSrcs p
  match u8 p 0 with
  | 0 => { h with relays := Tab.put h.relays i { mode := mode, out := u8 p 3, delay := u32 p 12, src := src } }
  | 1 => { h with counters := Tab.put h.counters i { mode := mode, out := u8 p 3, thresh := u32 p 12, src := src } }
  | 2 => { h with grpOn := Tab.put h.grpOn i { on := mode == 1, src := src } }
  | _ => { h with grpOff := Tab.put h.grpOff i { on := mode == 1, src := src } }

def hatchTaskBody (s : State) (r : Req) : State × Act :=
  let p := r.payload
  let s' := s.setHatch (s.hatch.setTask p)
  guarded s (checks [needLen r 16, unless' (taskOk p) stBadField, unless' (!s'.asyncLoop) stHatchLoop]) fun _ =>
    let old := match s.hatch.relays.find? (·.1 == u8 p 1) with | some (_, x) => [lineD x.out] | none => []
    (s'.syncAll (touch [] (if u8 p 0 == 0 then lineD (u8 p 3) :: old else [])), .ok)

/-- An event-input selection that may be written: a code of Table 13-2 (R8), and, where it is enabled, one that may be named there. -/
def evtOk (lo : Nat) (v : Nat) : Bool := decide (v % 128 ≤ 115) && (!bit v 7 || decide (lo ≤ v % 128))

def hatchBindBody (s : State) (r : Req) : State × Act :=
  let t := s.target r
  let p := r.payload
  let sel : Tab Nat := (List.range 16).map fun i => (i, u8 p i)
  if t.cls == cGather then
    guarded s (checks [needLen r 20, unless' (sel.all (fun e => evtOk 0 e.2) && u8 p 16 < 8 && zeros p 17 3) stBadField]) fun _ =>
      let s := forAll t.units (fun s g => (s.modG g fun G =>
        let h := { G.hatch with acc := BitVec.ofNat 3 (u8 p 16), cane := t.cane }
        { G with hatch := if G.seq.live then { h with evtNext := some sel } else { h with evt := sel, evtNext := none, evtCane := t.cane } }).smuReselect s g) s
      let s := s.syncAll []
      (s, s.configAct t)
  else
    guarded s (checks [needLen r 20, unless' (sel.all (fun e => evtOk 48 e.2) && u8 p 16 < 4 && zeros p 17 3) stBadField]) fun _ =>
      let s := s.setHatch { s.hatch with progEvt := sel, haltnOut := bit (u8 p 16) 0, haltnIn := bit (u8 p 16) 1 }
      (s.syncAll (touch [] [lineD 15]), .ok)

def hatchGroupBody (s : State) (r : Req) : State × Act :=
  let en := u32 r.payload 0
  let dis := u32 r.payload 4
  guarded s (checks [needLen r 8, unless' (en &&& dis == 0) stBadField]) fun _ =>
    let gs := (List.range 32).filter fun g => en.testBit g || dis.testBit g
    let s := gs.foldl (fun s g => s.setGroup g (en.testBit g)) s
    (s.syncAll (touch [] (gs.flatMap s.groupLines)), .ok)

def hatchPulseBody (s : State) (r : Req) : State × Act :=
  let d := u8 r.payload 0
  guarded s (checks [needLen r 4, unless' (d < 64 && d != 15 && zeros r.payload 1 3) stBadField]) fun _ =>
    (s.syncAll (addEvents [] [lineD d]), .ok)

/-! ## HATCH_STATUS -/

/-- HATCH_LSTAT. -/
def Line.stat (l : Line) : Nat := l.merge * 65536 + l.cause * 4 + b2n l.off * 2 + b2n l.level

def State.statLines (s : State) (keys : List Nat) : List Byte := keys.flatMap fun k => toLE 4 (s.line k).stat

/-- Clear LINE_MERGE of the lines that have a record. -/
def State.clearMerge (s : State) (keys : List Nat) : State :=
  s.setHatch { s.hatch with lines := s.hatch.lines.map fun l => if keys.contains l.1 then (l.1, { l.2 with merge := 0 }) else l }

/-- EVQ_STAT. -/
def State.evqStat (s : State) : Nat := s.hatch.evqLost * 65536 + s.hatch.queue.length

/-- The device part of HATCH_STATUS: TASK_MERGE of relays, COUNT of counters, TASK_MERGE of GRP_ON and GRP_OFF, the group states and
EVQ_STAT. [DESIGN CHOICE, unsafe: log 8.] -/
def State.taskBytes (s : State) : List Byte :=
  let h := s.hatch
  ((List.range 16).flatMap fun i => toLE 4 (Tab.get {} h.relays i).merge) ++ ((List.range 16).flatMap fun i => toLE 4 (Tab.get {} h.counters i).count)
    ++ ((List.range 32).flatMap fun i => toLE 2 (Tab.get {} h.grpOn i).merge) ++ ((List.range 32).flatMap fun i => toLE 2 (Tab.get {} h.grpOff i).merge)
    ++ bitmap 4 (fun g => !h.groupsOff.contains g) ++ toLE 4 s.evqStat

def Hatch.clearTasks (h : Hatch) : Hatch :=
  { h with relays := h.relays.map fun r => (r.1, { r.2 with merge := 0 }), grpOn := h.grpOn.map fun r => (r.1, { r.2 with merge := 0 })
           grpOff := h.grpOff.map fun r => (r.1, { r.2 with merge := 0 }) }

def hatchStatusBody (s : State) (r : Req) : State × Act :=
  let t := s.target r
  let clear := bit (u8 r.payload 0) 0
  guarded s (checks [needLen r 4, unless' (u8 r.payload 0 < 2 && zeros r.payload 1 3) stBadField]) fun _ =>
    if t.cls == cDevice then
      let keys := (List.range 64).map lineD ++ (List.range 8).map lineC
      let b := [s.statLines keys, s.taskBytes]
      let s := if clear then (s.clearMerge keys) else s
      (if clear then s.setHatch s.hatch.clearTasks else s, .done { blocks := b })
    else
      let keysOf := fun u => if t.cls == cGather then (List.range 16).map (lineG u) else (List.range 32).map (lineT u)
      let a := s.readMembers t (fun u => { bytes := s.statLines (keysOf u) }) { len := if t.cls == cGather then 64 else 128 }
      (if clear then s.clearMerge ((if t.cane.isSome then s.liveUnits t else t.units).flatMap keysOf) else s, a)

/-- HATCH_LINE_CONFIG. -/
def execHatchLineConfig (r : Req) (s : State) : Host.Outcome State Fault Refusal := .next (s.firmware 0x0A01 (us 100) [6, 8, 0xC] r hatchLineBody)
/-- HATCH_PRODUCER. -/
def execHatchProducer (r : Req) (s : State) : Host.Outcome State Fault Refusal := .next (s.firmware 0x0A02 (us 50) [6, 8, 0xC] r hatchProducerBody)
/-- HATCH_FORWARD. -/
def execHatchForward (r : Req) (s : State) : Host.Outcome State Fault Refusal := .next (s.firmware 0x0A03 (us 100) [6, 7, 8, 0xC] r hatchForwardBody)
/-- HATCH_TASK. -/
def execHatchTask (r : Req) (s : State) : Host.Outcome State Fault Refusal := .next (s.firmware 0x0A04 (us 100) [8] r hatchTaskBody)
/-- HATCH_BIND. -/
def execHatchBind (r : Req) (s : State) : Host.Outcome State Fault Refusal := .next (s.firmware 0x0A05 (us 20) [6, 8, 0xC] r hatchBindBody)
/-- HATCH_GROUP. -/
def execHatchGroup (r : Req) (s : State) : Host.Outcome State Fault Refusal := .next (s.firmware 0x0A06 (us 10) [8] r hatchGroupBody)
/-- HATCH_RESTORE. -/
def execHatchRestore (r : Req) (s : State) : Host.Outcome State Fault Refusal := .next (s.firmware 0x0A07 (us 20) [6, 8, 0xC] r hatchRestoreBody)
/-- HATCH_PULSE. -/
def execHatchPulse (r : Req) (s : State) : Host.Outcome State Fault Refusal := .next (s.firmware 0x0A08 (us 10) [8] r hatchPulseBody)
/-- HATCH_STATUS. -/
def execHatchStatus (r : Req) (s : State) : Host.Outcome State Fault Refusal := .next (s.firmware 0x0A09 (us 50) [6, 7, 8, 0xC] r hatchStatusBody)

/-! ## Events -/

/-- TRIG_IN_EDGE (R337): a ball within its hysteresis keeps what it last showed; never resolved, it is inactive. -/
def execTrigInEdge (j : Fin 4) (level : Lvl) (s : State) : Host.Outcome State Fault Refusal :=
  match level with
  | .mid => .next s
  | .low => .next ((s.setHatch { s.hatch with trigBall := Tab.put s.hatch.trigBall j 0 }).syncAll (touch [] [lineC j]))
  | .high => .next ((s.setHatch { s.hatch with trigBall := Tab.put s.hatch.trigBall j 1 }).syncAll (touch [] [lineC j]))

/-- RELAY_PULSE (R328): the pending pulse of a SYNC relay, DELAY + 1 PCLK cycles after it was taken. -/
def execRelayPulse (r : Fin 16) (s : State) : Host.Outcome State Fault Refusal :=
  let x := Tab.get {} s.hatch.relays r
  if !x.pending || pclkOfNs (s.upNs - x.pendNs) ≤ x.delay then .next s
  else .next ((s.setHatch { s.hatch with relays := Tab.put s.hatch.relays r { x with pending := false } }).syncAll (addEvents [] [lineD x.out]))

/-- Has a gather an enabled consumer on a line beside its event and halt inputs (R333): the gate of a unit that measures, the LINE trigger of a
digitiser that is not IDLE, or an Ampoule request that awaits an EVENT there? -/
def State.consumes (s : State) (g key : Nat) : Bool :=
  let G := s.gather g
  G.tius.any (fun u => (u.2.st == .waitGate || u.2.st == .armed) && gateKey g (tiuGateIx u.2.cfg) == key) ||
    G.digs.any (fun d => d.2.st != .idle && digKind d.2.trig == 1 && capKey g (bits d.2.trig.toNat 25 21) == key) ||
    (Tab.get ({} : AmpG) s.amp.gathers g).chans.any fun c => c.2.queue.any fun q => q.mode == 1 && 1 ≤ q.trig && lineD (55 + q.trig) == key

/-- The gathers that listen on or feed a device or card line (R333). -/
def State.lineGathers (s : State) (key : Nat) : List Nat :=
  let code := if key < 0x3000 then 48 + (key - 0x2000) else 112 + (key - 0x3000)
  (List.range 64).filter fun g =>
    let h := (s.gather g).hatch
    h.evt.any (fun e => bit e.2 7 && e.2 % 128 == code) || (key == 0x200F && h.acc.getLsbD 2) || s.consumes g key ||
      (List.range 16).any fun k => (s.forwards (lineG g k)).any fun t => (s.forwards t).contains key

/-- The gathers that react to a line forced off (R333). -/
def State.forcedGathers (s : State) (key : Nat) : List Nat :=
  match key / 0x1000 with
  | 0 => [key / 16]
  | 1 => (List.range 16).map (16 * ((key - 0x1000) / 32) + ·)
  | _ => s.lineGathers key

/-- A line is forced off (R332, R333): level 0, no events, LINE_OFF posted, and the class B fault on every gather affected. -/
def State.forceOff (s : State) (key cause : Nat) (src : Half) : State :=
  let l := s.line key
  if l.off then s
  else
    let id := s.lineId key
    let gs := s.forcedGathers key
    let s := (s.setLine key { l with off := true, cause := cause }).note (noteEntry 6 cause id false 1 s.netNs)
    let s := s.syncAll (touch [] [key])
    let d : Word := id.setWidth 32
    if gs.isEmpty then s.raise src hDevice d else gs.foldl (fun s g => s.raise src (s.gHandle g) d) s

/-- STORM_LIMIT (R332): more than LIMIT events have come within the window; LIMIT 0 disables it. -/
def execStormLimit (line : Half) (s : State) : Host.Outcome State Fault Refusal :=
  match s.lineKey line with
  | some k => if (s.line k).limit == 0 || (s.line k).recent.length ≤ (s.line k).limit || s.lineDead (s.line k) then .next s else .next (s.forceOff k 1 fHatchStorm)
  | none => .next s

/-- RING_DETECT (R333): on asynchronous and card lines. -/
def execRingDetect (line : Half) (s : State) : Host.Outcome State Fault Refusal :=
  match s.lineKey line with
  | some k =>
    if ((s.line k).clk && k < 0x3000) || s.lineDead (s.line k) then .next s else .next (s.forceOff k 2 fHatchRing)
  | none => .next s

/-- NOTIFY_COALESCE_END (R339): one entry for the events held, which opens the next microsecond. -/
def execNotifyCoalesceEnd (line : Half) (s : State) : Host.Outcome State Fault Refusal :=
  match s.lineKey line with
  | some k =>
    let l := s.line k
    if !l.busyUs || !s.passed l.busyNs 1000 then .next s
    else if l.held == 0 then .next (s.setLine k { l with busyUs := false })
    else .next ((s.setLine k { l with held := 0, busyNs := s.upNs }).note (noteEntry 1 0 line l.heldAssert l.held l.heldTime))
  | none => .next s

/-- EVQ_LOST_POST (R19): one LOST entry once there is space, and EVQ_LOST is cleared. -/
def execEvqLostPost (s : State) : Host.Outcome State Fault Refusal :=
  let h := s.hatch
  if h.evqLost == 0 || h.queue.length ≥ 512 then .next s
  else .next ((s.setHatch { h with evqLost := 0 }).note (noteEntry 5 0 0 false h.evqLost s.netNs))

/-- HALT_N_RECEIVE (R335). -/
def execHaltNReceive (s : State) : Host.Outcome State Fault Refusal :=
  .next ((s.setHatch { s.hatch with haltnLow := true }).syncAll (touch [] [lineD 15]))

/-- HALT_N_RELEASE (R335): halts stay latched. -/
def execHaltNRelease (s : State) : Host.Outcome State Fault Refusal :=
  .next ((s.setHatch { s.hatch with haltnLow := false }).syncAll (touch [] [lineD 15]))

end Sys2Proof.Machine
end

