-- ==== Sys2Proof/Machine/Stream.lean ====
section
/-!
DEFINITION. Vector memory, stream contexts, broadcast programs and stencils: pinning (R97–R100), contexts (R101, R102, R104),
programs (R109–R112), and the commands of Tables 4-6 and 4-7.
-/
namespace Sys2Proof.Machine

/-! ## Contexts in use (R104) -/

/-- Does a sequencer now running, holding or waiting name a context? Its current stroke counts, and the one that is to start. A gather that
follows a program runs none of its own. -/
def State.names (s : State) (w : Who) (c : Nat) : Bool :=
  let q := s.seqOf w
  let own : Bool := match w with | .g g => s.whoOn g == w | .p _ => true
  own && q.live && ((s.entryOf w q.cur).stream && (s.entryOf w q.cur).ctx == c ||
    match q.cont with | some k => (s.entryOf w k.res.idx).stream && (s.entryOf w k.res.idx).ctx == c | none => false)

/-- A running stroke or a loaded broadcast program, `except` apart, names the context. -/
def State.ctxBusy (s : State) (c : Nat) (except : Option Nat := none) : Bool :=
  s.gathers.any (fun g => s.names (.g g.1) c) ||
    (List.range 4).any fun p => (s.prog p).loaded && (s.prog p).ctx == c && except != some p

/-! ## Loop bodies (R97–R99) -/

/-- A loop body: its STREAM = 1 strokes in rising order. -/
structure LoopBody where
  strokes : List Nat
  deriving DecidableEq

def LoopBody.first (b : LoopBody) : Nat := b.strokes.headD 0
def LoopBody.inside (a b : LoopBody) : Bool := a != b && a.strokes.all fun i => b.strokes.contains i
def LoopBody.length (tbl : Nat → Ent) (b : LoopBody) : Nat := b.strokes.foldl (fun a i => a + (tbl i).len) 0

/-- The strokes that the sequencer may take after a stroke: the VERIFY link of an ETCH stroke is used only by replay (R88). -/
def Ent.follows (e : Ent) : List Nat := if e.etch then [e.next] else e.walkNext

/-- The STREAM = 1 strokes between a LOOP_OPEN and its LOOP_CLOSE: those on a path from its NEXT that reaches the LOOP_CLOSE without entering
the loop anew, where a RET goes on behind a CALL of the same strokes. -/
def loopStrokes (tbl : Nat → Ent) (i : Nat) : List Nat :=
  let stop := (tbl i).target
  let seen := reach (fun j => (tbl j).follows.filter fun k => k != stop && k != i) walkFuel [(tbl i).next] []
  let returns := seen.filterMap fun j => if (tbl j).op == opCall then some (tbl j).next else none
  let steps := fun j => if (tbl j).op == opRet then returns else (tbl j).follows
  let closed := reach (fun k => seen.filter fun j => j != stop && (steps j).contains k) walkFuel [stop] []
  (List.range 4096).filter fun j => j != stop && closed.contains j && (tbl j).stream && (tbl j).vectors

/-- The bodies that a range of entries forms, without repeats. -/
def loopBodies (tbl : Nat → Ent) (ix : List Nat) : List LoopBody :=
  (ix.filterMap fun i =>
    let e := tbl i
    if e.vectors && e.stream && e.rep ≥ 2 then some { strokes := [i] }
    else if e.op == opLoopOpen && e.rep ≥ 2 then
      let b : LoopBody := { strokes := loopStrokes tbl i }
      if b.strokes.isEmpty then none else some b
    else none).eraseDups

/-- Put a body into a list in ascending order of first strokes. -/
def insertBody (b : LoopBody) : List LoopBody → List LoopBody
  | [] => [b]
  | x :: xs => if b.first < x.first then b :: x :: xs else x :: insertBody b xs

/-- Those of some bodies that lie in no other of them, in ascending order of their first stroke. -/
def outermost (bs : List LoopBody) : List LoopBody :=
  (bs.filter fun b => !bs.any fun c => b.inside c).foldl (fun l b => insertBody b l) []

/-- What pinning decides: the bodies pinned with their granules, the bodies not pinned, and the free granules left. -/
structure PinPlan where
  pinned : List Pinned := []
  unpinned : List LoopBody := []
  free : List Nat

/-- Give each stroke of a body its local granules. -/
def allot (tbl : Nat → Ent) : List Nat → List Nat → Tab (List Nat)
  | [], _ => []
  | i :: is, free => (i, free.take (tbl i).len) :: allot tbl is (free.drop (tbl i).len)

/-- Take bodies in order; one that does not fit, or that its context cannot supply, gives way to its inner bodies (R98). [DESIGN CHOICE, unsafe: log 33.] -/
def planPins (tbl : Nat → Ent) (bcast : Bool) (supply : Ent → Bool) (all : List LoopBody) : Nat → List LoopBody → PinPlan → PinPlan
  | 0, _, p => p
  | _, [], p => p
  | fuel + 1, b :: bs, p =>
    let n := b.length tbl
    if n ≤ p.free.length && b.strokes.all fun i => supply (tbl i) then
      planPins tbl bcast supply all fuel bs
        { p with pinned := p.pinned ++ [{ bcast := bcast, first := b.first, len := n, strokes := allot tbl b.strokes p.free }]
                 free := p.free.drop n }
    else
      planPins tbl bcast supply all fuel (outermost (all.filter (·.inside b)) ++ bs) { p with unpinned := p.unpinned ++ [b] }

/-- The free granules of a gather: named by no STREAM = 0 entry of its local table, and held by no body pinned already. -/
def Play.freeGranules (y : Play) : List Nat :=
  let held := (y.pinned.map (·.granules)).flatten
  (List.range 2048).filter fun a => !(y.table.any fun e => (entOf e.2).names a) && !held.contains a

/-- The granule k of a streamed entry for a gather, as its context holds it. -/
def State.streamGranule (s : State) (g : Nat) (e : Ent) (k : Nat) : List Byte :=
  let c := s.ctx e.ctx
  let m := if c.mode == 1 then c.members.findIdx (· == g) else 0
  Mem.readAll s.dram (c.base + (m * c.stride + e.offset + k) * 256) 256

/-- Pin the loop bodies of a table's range on a gather, and copy them. Answers the plan. -/
def State.pinBodies (s : State) (g : Nat) (bcast : Bool) (tbl : Nat → Ent) (ix : List Nat) : State × PinPlan :=
  let bodies := loopBodies tbl ix
  let y := (s.gather g).play
  let supply := fun (e : Ent) => (s.ctx e.ctx).isOpen && decide (e.offset + e.len ≤ (s.ctx e.ctx).length)
  let p := planPins tbl bcast supply bodies 8192 (outermost bodies) { free := y.freeGranules }
  let copies := (p.pinned.map fun b => (b.strokes.map fun st => st.2.zipIdx.map fun ak => (ak.1, st.1, ak.2)).flatten).flatten
  let vmem := copies.foldl (fun (t : Tab (List Byte)) c => Tab.put t c.1 (s.streamGranule g (tbl c.2.1) c.2.2)) y.vmem
  (s.modPlay g fun y => { y with vmem := vmem, pinned := y.pinned ++ p.pinned }, p)

/-- The bodies of an answer: first stroke, flags (bit 0 NOT_PINNED), length in granules (R99). [DESIGN CHOICE, unsafe: log 33.] -/
def PinPlan.bytes (tbl : Nat → Ent) (p : PinPlan) : List Byte :=
  (p.pinned.map fun b => toLE 2 b.first ++ toLE 2 0 ++ toLE 4 b.len).flatten
    ++ (p.unpinned.map fun b => toLE 2 b.first ++ toLE 2 1 ++ toLE 4 (b.length tbl)).flatten

/-- Pin on each member of a target that is not masked. A record gives the number of bodies and, at 4, a flag word; the bodies follow. [DESIGN CHOICE, unsafe: log 33.] -/
def State.pinAll (s : State) (t : Tgt) (bcast : Bool) (tbl : State → Nat → Nat → Ent) (ix : List Nat) : State × List (Nat × MemRec) :=
  t.here.foldl (fun (acc : State × List (Nat × MemRec)) pu =>
    let tb := tbl acc.1 pu.2
    let (s, p) := acc.1.pinBodies pu.2 bcast tb ix
    (s, acc.2 ++ [(pu.1, { bytes := toLE 2 (p.pinned.length + p.unpinned.length) ++ toLE 6 0 ++ p.bytes tb })])) (s, [])

/-- The answer of VMEM_PIN and BCAST_LOAD. -/
def pinAct (s : State) (t : Tgt) (recs : List (Nat × MemRec)) : Act := .members t (s.safePos t) recs { len := 8, flag := some 4, lead := 8, grain := 8 }

/-! ## Vector memory commands -/

def granulesOf (p : List Byte) (o n : Nat) : List (List Byte) := (List.range n).map fun i => slice p (o + 256 * i) 256

/-- Any reserved symbol among bytes (R95)? -/
def reservedSymbol (p : List Byte) : Bool := p.any fun b => b.toNat % 16 ≥ 0xD || b.toNat / 16 ≥ 0xD

def vmemWriteBody (s : State) (r : Req) : State × Act :=
  let t := s.target r
  let first := u16 r.payload 0
  let n := u16 r.payload 2
  guarded s (checks [needLen r (8 + 256 * n), rangeOk first n 15 2048, unless' (zeros r.payload 4 4) stBadField,
      unless' (!reservedSymbol (r.payload.drop 8)) stBadSymbol, s.gathersIdle t]) fun _ =>
    let named := fun a => decide (first ≤ a ∧ a < first + n)
    let un := t.units.filter fun g => ((s.gather g).play.unpin named).2
    let s := forAll t.units (fun s g => s.modPlay g fun y =>
      { (y.unpin named).1 with vmem := Tab.putAll y.vmem first (granulesOf r.payload 8 n) }) s
    (s, flagReply s t fun g => b2n (un.contains g))

/-- [DESIGN CHOICE, unsafe: log 117.] -/
def vmemReadBody (s : State) (r : Req) : State × Act :=
  let t := s.target r
  let first := u16 r.payload 0
  let n := u16 r.payload 2
  guarded s (checks [needLen r 8, rangeOk first n 15 2048, unless' (zeros r.payload 4 4) stBadField, s.gathersIdle t]) fun _ =>
    (s, s.readMembers t (fun g => { bytes := (List.range n).flatMap fun i => Tab.get zeroGranule (s.gather g).play.vmem (first + i) }) { len := 256 * n, grain := 256 })

/-- The contexts that the loop bodies of a gather's local table name; VMEM_PIN copies from them. [DESIGN CHOICE, unsafe: log 121.] -/
def State.bodyCtxs (s : State) (g : Nat) : List Nat :=
  let tbl := s.entryOf (.g g)
  ((loopBodies tbl (List.range 4096)).map fun b => b.strokes.map fun i => (tbl i).ctx).flatten.eraseDups

def vmemPinBody (s : State) (r : Req) : State × Act :=
  let t := s.target r
  guarded s (checks [needLen r 0, s.gathersIdle t,
      unless' (t.units.all fun g => (s.bodyCtxs g).all fun c => !s.ctxBusy c) stCtxBusy]) fun _ =>
    let s := forAll t.units (fun s g => s.modPlay g fun y => { y with pinned := y.pinned.filter (·.bcast) }) s
    let (s, recs) := s.pinAll t false (fun s g => s.entryOf (.g g)) (List.range 4096)
    (s, pinAct s t recs)

/-! ## Stream commands -/

/-- A symbol that an idle vector may hold (Table 4-1). -/
def idleSymbol (n : Nat) : Bool := [0, 1, 4, 6, 9].contains n

/-- STREAM_OPEN (R101, R102, R458). -/
def streamOpenBody (s : State) (r : Req) : State × Act :=
  let p := r.payload
  let t := s.target r
  let c := u8 p 0
  let mode := u8 p 1
  let base := u64 p 8
  let len := u32 p 16
  let stride := u32 p 20
  let n := if mode == 1 then t.handles.length else 1
  let size := ((n - 1) * stride + len) * 256
  guarded s (checks [unless' ((mode == 0 && t.cls == cDevice) || (mode == 1 && t.cane.isSome) || mode > 1) stWrongClass,
      needLen r 32, unless' (c < 4) stBadRange, unless' (1 ≤ len && len ≤ 33554432) stBadRange,
      unless' (mode ≤ 1 && u16 p 2 != 0 && base % 256 == 0 && (if mode == 1 then decide (len ≤ stride) else stride == 0)) stBadField,
      unless' (dramRegionOk base size) stBadRange,
      unless' ((slice p 24 8).all fun b => idleSymbol (b.toNat % 16) && idleSymbol (b.toNat / 16)) stBadSymbol,
      unless' (!(s.ctx c).isOpen) stCtxBusy,
      unless' (s.bandwidth + u32 p 4 ≤ bandwidthCap) stBwFull]) fun _ =>
    (s.setCtx c { isOpen := true, mode := mode, stallLimit := u16 p 2, reserve := u32 p 4, base := base, length := len
                  stride := stride, idle := BitVec.ofNat 64 (u64 p 24), members := if mode == 1 then t.locals.map (·.getD 64) else [] }, s.configAct t)

/-- [DESIGN CHOICE, unsafe: log 143.] -/
def streamCloseBody (s : State) (r : Req) : State × Act :=
  let c := u8 r.payload 0
  guarded s (checks [needLen r 8, unless' (c < 4) stBadRange, unless' (zeros r.payload 1 7) stBadField,
      unless' (!s.ctxBusy c) stCtxBusy]) fun _ => ({ s with ctxs := Tab.del s.ctxs c }, .ok)

/-- The granules that a context's region spans from BASE. -/
def Ctx.span (c : Ctx) : Nat := if !c.isOpen then 0 else if c.mode == 1 then (c.members.length - 1) * c.stride + c.length else c.length

def streamWriteBody (s : State) (r : Req) : State × Act :=
  let c := u8 r.payload 0
  let off := u32 r.payload 4
  let n := (r.payload.length - 8) / 256
  guarded s (checks [unless' (r.payload.length == 8 + 256 * n && 1 ≤ n && n ≤ 15) stBadLength,
      unless' (c < 4 && decide (off + n ≤ (s.ctx c).span)) stBadRange, unless' (zeros r.payload 1 3) stBadField,
      unless' (!s.ctxBusy c) stCtxBusy]) fun _ =>
    ({ s with dram := Mem.writeAll s.dram ((s.ctx c).base + off * 256) (r.payload.drop 8) }, .ok)

/-! ## Broadcast programs -/

/-- The statuses of R110 for an entry of a program. -/
def bcastEntryStatus (ctx first n : Nat) (b : BitVec 128) : Half :=
  let e := entOf b
  let st := e.loadStatus true
  let out := fun i => decide (i < first ∨ first + n ≤ i)
  let ends := e.op == opHalt || e.op == opRet
  if st != stOK then st
  else if (!ends && out e.next) || (e.usesTarget && e.div != 2 && out e.target) then stBadRange
  else if e.stream && e.ctx != ctx then stBadField
  else if e.div == 2 && e.cond != 0 then stBadCond
  else stOK

/-- BCAST_LOAD (R109, R110). [DESIGN CHOICE, unsafe: log 121.] -/
def bcastLoadBody (s : State) (r : Req) : State × Act :=
  let t := s.target r
  let p := u8 r.payload 0
  let c := u8 r.payload 1
  let first := u16 r.payload 2
  let n := u16 r.payload 4
  let others := (List.range 4).filter fun q => q != p && (s.prog q).loaded
  let mine := t.locals.filterMap id
  guarded s (checks [unless' t.cane.isSome stWrongClass, needLen r (8 + 16 * n), unless' (p < 4 && c < 4) stBadRange,
      rangeOk first n 254 4096, unless' (!others.any fun q => overlap first n (s.prog q).first (s.prog q).count) stBadRange,
      unless' (zeros r.payload 6 2) stBadField, unless' ((s.ctx c).isOpen && (s.ctx c).mode == 0) stBadField]) fun _ =>
    let es := entriesOf r.payload 8 n
    match firstBad es first (bcastEntryStatus c first n) with
    | some (i, st) => (s, entryRefusal i st)
    | none =>
      guarded s (checks [unless' (!(s.prog p).seq.live && mine.all fun g => (s.gather g).idle) stMemberBusy,
          unless' (!others.any fun q => mine.any fun g => (s.prog q).members.contains g) stMemberBusy,
          unless' (!s.ctxBusy c (some p)) stCtxBusy]) fun _ =>
        let old := (s.prog p).members
        let s := forAll old (fun s g => s.modPlay g fun y => { y with pinned := y.pinned.filter fun b => !b.bcast, bc := none }) s
        let s := { s with bcTable := putEntries s.bcTable first es }
        let s := s.setProg p { loaded := true, cane := t.cane.getD 0, ctx := c, first := first, count := n, members := mine }
        let (s, recs) := s.pinAll t true (fun s _ => s.entryOf (.p p)) ((List.range n).map (first + ·))
        (s, pinAct s t recs)

/-- The broadcast strokes of a program that run vectors. -/
def State.progVectors (s : State) (p : Nat) : List Ent :=
  let P := s.prog p
  ((List.range P.count).map fun i => s.entryOf (.p p) (P.first + i)).filter Ent.vectors

/-- The local strokes at which a program's BRANCH members continue. -/
def State.branchTargets (s : State) (p : Nat) : List Nat := ((s.progVectors p).filter (·.div == 2)).map (·.target) |>.eraseDups

def State.tsetLoaded (s : State) (g i : Nat) : Bool := (s.gather g).play.tsets.any (·.1 == i)

/-- The checks of R111 over the live members. -/
def State.bcastChecks (s : State) (p start : Nat) (gs : List Nat) : Half :=
  let es := s.progVectors p
  let periods := fun i => ((gs.filter fun g => s.tsetLoaded g i).map fun g => (Tab.get {} (s.gather g).play.tsets i).period).eraseDups
  let roots := s.branchTargets p
  checks [unless' (es.all fun e => (periods e.tset).length ≤ 1) stPeriodMixed,
    unless' (es.all fun e => gs.all fun g => s.tsetLoaded g e.tset) stTsetEmpty,
    unless' (gs.all fun g =>
      let tbl := s.entryOf (.g g)
      (reach (fun j => (tbl j).walkNext) walkFuel roots []).all fun i => !((tbl i).stream && (s.ctx (tbl i).ctx).isOpen && (s.ctx (tbl i).ctx).mode == 0)) stCtxClash,
    walkStatus (s.entryOf (.p p)) (fun i => gs.all fun g => s.tsetLoaded g i) start,
    firstStatus gs fun g => firstStatus roots (walkStatus (s.entryOf (.g g)) (s.tsetLoaded g))]

/-- The prime: 128 granules, or the program's first streamed stroke, which the prefetch reaches first, if that is shorter (R103, R111). [DESIGN CHOICE, unsafe: log 121.] -/
def State.primeLen (s : State) (p : Nat) : Nat :=
  let q := (s.prog p).seq
  match s.predict (.p p) 64 q q.cur with | some i => min 128 ((s.entryOf (.p p) i).total true) | none => 0

/-- A program's sequencer starts at a stroke, which is resolved from its counters and stack (R109). -/
def State.beginProg (s : State) (p : Nat) (q : Seq) : State :=
  let P := s.prog p
  let s := s.setProg p { P with priming := true, seq := { q with st := .running, startS := 24 * pclkU } }
  let res := s.resolve (.p p) q.cur
  let P := s.prog p
  (s.setProg p { P with seq := { P.seq with cont := some { res := res, ckpts := res.ckpts, phaseReset := true } } }).syncDevice []

/-- Start a program on its live members (R109, R111, R112): each is armed and follows; the stream buffers are primed. -/
def State.startProg (s : State) (p start mode src : Nat) (gs : List Nat) : State :=
  let mark := s.startEvents (.p p) mode src
  let s := forAll (s.prog p).members (fun s g => s.modPlay g fun y => { y with bc := none }) s
  let s := forAll gs (fun s g => s.armGather g start mode src (some p)) s
  s.beginProg p { cur := start, start := some (mode, src), startMark := mark }

/-- [DEDUCED, unsafe: log 32; DESIGN CHOICE, unsafe: log 143.] -/
def bcastStartBody (s : State) (r : Req) : State × Act :=
  let t := s.target r
  let start := u16 r.payload 0
  let mode := u8 r.payload 2
  let src := u8 r.payload 3
  match t.cane.bind s.progOf with
  | none => (s, .st stWrongClass)
  | some p =>
    let P := s.prog p
    guarded s (checks [needLen r 8, unless' (P.first ≤ start && start < P.first + P.count) stBadRange,
        unless' (startModeOk mode src 4 && zeros r.payload 4 4) stBadField,
        unless' (!P.seq.live) stSeqBusy, s.gathersIdle t, s.bcastChecks p start t.units]) fun _ =>
      match s.startRelease t.units with
      | none => (s, .st stSafeState)
      | some s =>
        let s := s.startProg p start mode src t.units
        (s, s.configAct t)

/-- SEQ_BUSY stands for the program's own sequencer; a diverged member runs its local strokes on. [DEDUCED, unsafe: log 32; DESIGN CHOICE, unsafe: log 121.] -/
def bcastUnloadBody (s : State) (r : Req) : State × Act :=
  let t := s.target r
  match t.cane.bind s.progOf with
  | none => (s, .st stWrongClass)
  | some p =>
    guarded s (checks [needLen r 0, unless' (!(s.prog p).seq.live) stSeqBusy]) fun _ =>
      let s := forAll (s.prog p).members (fun s g => s.modPlay g fun y => { y with bc := none, pinned := y.pinned.filter fun b => !b.bcast }) s
      (({ s with progs := Tab.del s.progs p }).syncDevice [], s.configAct t)

/-! ## Stencils -/

/-- The checks of R115 on one entry. -/
def stencilStatus (e : BitVec 288) : Half :=
  if bits e.toNat 287 284 != 0 then stBadField
  else if stWidth e == 0 then stBadWidth
  else if stWidth e > 256 || stForm e == 3 || e.toNat % 2 ^ 256 ≥ 2 ^ stWidth e then stBadField
  else stOK

def stencilLoadBody (s : State) (r : Req) : State × Act :=
  let t := s.target r
  let first := u16 r.payload 0
  let n := u16 r.payload 2
  let es := (List.range n).map fun i => BitVec.ofNat 288 (leNat r.payload (8 + 36 * i) 36)
  guarded s (checks [needLen r (8 + 36 * n), rangeOk first n 112 256, unless' (zeros r.payload 4 4) stBadField,
      firstStatus (List.range n) fun i => stencilStatus (es.getD i 0)]) fun _ =>
    let s := forAll t.units (fun s g => s.modPlay g fun y => { y with stencils := Tab.putAll y.stencils first es }) s
    (s, s.configAct t)

def stencilClearBody (s : State) (r : Req) : State × Act :=
  let t := s.target r
  let first := u16 r.payload 0
  let n := u16 r.payload 2
  guarded s (checks [needLen r 8, rangeOk first n 256 256, unless' (zeros r.payload 4 4) stBadField]) fun _ =>
    let s := forAll t.units (fun s g => s.modPlay g fun y => { y with stencils := y.stencils.filter fun e => decide (e.1 < first ∨ first + n ≤ e.1) }) s
    (s, s.configAct t)

/-! ## STREAM_STATUS -/

/-- One context (R127), 32 bytes: mode (0xFF closed), BASE, LENGTH, STRIDE, reservation, prefetch fill, redirects. -/
def Ctx.record (c : Ctx) (fill : Nat) : List Byte :=
  toLE 1 (if c.isOpen then c.mode else 0xFF) ++ toLE 3 0 ++ toLE 8 c.base ++ toLE 4 c.length ++ toLE 4 c.stride ++ toLE 4 c.reserve
    ++ toLE 4 (if c.isOpen then fill else 0) ++ toLE 4 c.redirects

/-- A gather's stream status, 24 bytes, with its flag word at 16: STREAM_RANGE, UNDERRUN_ABORT, ETCH_MISSED. [DESIGN CHOICE, unsafe: log 7.] -/
def Play.streamRec (y : Play) : List Byte :=
  toLE 2 y.fill ++ toLE 2 y.rsvSym ++ toLE 2 y.stcShort ++ toLE 2 y.stcUnfilled ++ toLE 2 y.stallTime ++ toLE 2 y.idleGran
    ++ toLE 2 y.lateDiverge ++ toLE 2 y.lateRejoin
    ++ toLE 4 (b2n y.streamRange + 2 * b2n y.underrunAbort + 4 * b2n y.etchMissed.isSome) ++ toLE 2 (y.etchMissed.getD 0) ++ toLE 2 0

/-- The prefetch fill of a context is not observable anywhere else: a free value of at most 4,096 granules (R101). [DESIGN CHOICE, unsafe: log 8; DESIGN CHOICE, safe: log 34.] -/
def streamStatusBody (s : State) (r : Req) : State × Act :=
  let t := s.target r
  guarded s (needLen r 0) fun _ =>
    if t.cls == cDevice then
      let (s, bs) := (List.range 4).foldl (fun (acc : State × List (List Byte)) c =>
        let (f, s) := acc.1.fresh
        (s, acc.2 ++ [(s.ctx c).record (f % 4097)])) (s, [])
      (s, .done { blocks := bs })
    else (s, s.readMembers t (fun g => { bytes := (s.gather g).play.streamRec }) { len := 24, flag := some 16 })

/-- VMEM_WRITE. -/
def execVmemWrite (r : Req) (s : State) : Host.Outcome State Fault Refusal := .next (s.firmware 0x0401 (us 100) [6, 0xC] r vmemWriteBody)
/-- VMEM_READ. -/
def execVmemRead (r : Req) (s : State) : Host.Outcome State Fault Refusal := .next (s.firmware 0x0402 (us 100) [6, 0xC] r vmemReadBody)
/-- VMEM_PIN. -/
def execVmemPin (r : Req) (s : State) : Host.Outcome State Fault Refusal := .next (s.firmware 0x0403 (us 4000) [6, 0xC] r vmemPinBody)
/-- STREAM_OPEN: 0x8000 for BROADCAST, a gather cane for PER_SITE. -/
def execStreamOpen (r : Req) (s : State) : Host.Outcome State Fault Refusal := .next (s.firmware 0x0404 (us 50) [8, 6, 0xC] r streamOpenBody)
/-- STREAM_CLOSE. -/
def execStreamClose (r : Req) (s : State) : Host.Outcome State Fault Refusal := .next (s.firmware 0x0405 (us 50) [8] r streamCloseBody)
/-- STREAM_WRITE. -/
def execStreamWrite (r : Req) (s : State) : Host.Outcome State Fault Refusal := .next (s.firmware 0x0406 (us 100) [8] r streamWriteBody)
/-- BCAST_LOAD. -/
def execBcastLoad (r : Req) (s : State) : Host.Outcome State Fault Refusal := .next (s.firmware 0x0407 (us 3000) [6, 0xC] r bcastLoadBody)
/-- BCAST_START. -/
def execBcastStart (r : Req) (s : State) : Host.Outcome State Fault Refusal := .next (s.firmware 0x0408 (us 500) [6, 0xC] r bcastStartBody)
/-- BCAST_UNLOAD. -/
def execBcastUnload (r : Req) (s : State) : Host.Outcome State Fault Refusal := .next (s.firmware 0x0409 (us 50) [6, 0xC] r bcastUnloadBody)
/-- STENCIL_LOAD: in effect from the first stroke start after it (R118). -/
def execStencilLoad (r : Req) (s : State) : Host.Outcome State Fault Refusal := .next (s.firmware 0x040A (us 50) [6, 0xC] r stencilLoadBody)
/-- STENCIL_CLEAR. -/
def execStencilClear (r : Req) (s : State) : Host.Outcome State Fault Refusal := .next (s.firmware 0x040B (us 20) [6, 0xC] r stencilClearBody)
/-- STREAM_STATUS. -/
def execStreamStatus (r : Req) (s : State) : Host.Outcome State Fault Refusal := .next (s.firmware 0x040C (us 20) [6, 8, 0xC] r streamStatusBody)

/-- BCAST_PRIME_COMPLETE (R111): every following member's stream buffer holds the prime. -/
def execBcastPrimeComplete (p : Fin 4) (s : State) : Host.Outcome State Fault Refusal :=
  let P := s.prog p
  if !P.priming then .next s
  else
    let n := s.primeLen p
    let s := s.setProg p { P with priming := false }
    .next (forAll (s.followers p) (fun s g => s.modPlay g fun y => { y with fill := max y.fill n }) s)

end Sys2Proof.Machine
end

