-- ==== Sys2Proof/Machine/Journal.lean ====
section
/-!
DEFINITION. Replay (R472, R475–R478) and the journal commands (Tables 18-8, 18-9).
-/
namespace Sys2Proof.Machine

/-! ## What a replay starts from -/

/-- The newest checkpoint of a site, from local or from mirrored knowledge (R472). [DEDUCED, unsafe: log 90.] -/
def SiteJrn.newest (x : SiteJrn) (mirror : Bool) : Option Ckpt :=
  if mirror then (x.ring.filter (·.mirrored)).getLast?
  else match x.queue.getLast? with | some c => some c | none => (x.ring.filter (!·.mirrored)).getLast?

/-- Why a gather owes a replay: whether it draws on the mirror, and the trigger code of Table 18-7. -/
def State.replayKind (s : State) (g : Nat) : Option (Bool × Nat) :=
  if (s.gather g).safe.replayDue then some (false, 0)
  else if s.twin.replayOwed.contains (s.siteOf g) then some (s.twin.otherIn, if s.twin.otherIn then 1 else 2)
  else none

/-- Can a replay start on the gather now? -/
def State.replayFree (s : State) (g : Nat) : Bool :=
  !s.frozen && !(s.gather g).safe.on && !(s.gather g).seq.live && !s.twin.swapping && !s.twin.takeover && s.twin.st != 4

/-- The gather owes no replay any more. -/
def State.replayPaid (s : State) (g : Nat) : State :=
  let s := s.modG g fun G => { G with safe := { G.safe with replayDue := false } }
  s.setTwin { s.twin with replayOwed := s.twin.replayOwed.filter (· != s.siteOf g) }

/-- Does a checkpoint's successor reach a stroke that streams from an open context? [DESIGN CHOICE, safe: log 88.] -/
def State.reachesStream (s : State) (g : Nat) (c : Ckpt) : Bool :=
  let w : Who := if c.bcast then .p c.prog else .g g
  (reach (fun j => (s.entryOf w j).walkNext) walkFuel [c.succ] []).any fun i =>
    let e := s.entryOf w i
    e.vectors && e.stream && (s.ctx e.ctx).isOpen

/-- The REASON for which a site is LOST (R475), 0 when its checkpoint may be replayed. The stream images of the two devices are compared
only in a replay from the mirror; whether they differ is open. [DEDUCED, unsafe: log 87, 99; DESIGN CHOICE, safe: log 88.] -/
def State.replayReason (s : State) (g : Nat) (mirror : Bool) (c : Ckpt) : Nat × State :=
  if c.tileDigest != (s.patch (tileOf g)).digest then (2, s)
  else if c.cfgDigest != (s.gather g).cfgDigest || (mirror && !s.twin.shadowHeld) || (c.mode == 0 && !(s.prog c.prog).loaded) then (3, s)
  else if mirror && s.reachesStream g c then
    let (differ, s) := s.choose
    (if differ then 4 else 0, s)
  else (0, s)

/-- A LOST record (R478). -/
def State.reportLost (s : State) (g reason trigger run cseq : Nat) : State :=
  s.report { site := s.siteOf g, result := 1, reason := reason, trigger := trigger, run := run, cseq := cseq, time := s.netNs }

/-! ## Restoring -/

/-- The first stroke of an opcode along NEXT; none where a HALT, a RET or the fuel ends the search. -/
def alongNext (tbl : Nat → Ent) (op : Nat) : Nat → Nat → Option Nat
  | 0, _ => none
  | fuel + 1, i =>
    let e := tbl i
    if e.op == op then some i
    else if e.op == opHalt || e.op == opRet then none
    else alongNext tbl op fuel e.next

/-- An index that no stroke has: a diverged member that joins nowhere. -/
def noStroke : Nat := 4096

/-- The RENDEZVOUS at which a replayed diverged member joins (R475). [DESIGN CHOICE, unsafe: log 91.] -/
def State.joinOf (s : State) (c : Ckpt) : Nat :=
  (alongNext (s.entryOf (.p c.prog)) opRdv 4096 (s.entryOf (.p c.prog) c.leftAt).next).getD noStroke

def Ckpt.loopTab (c : Ckpt) : Tab Nat := (c.loops.zipIdx).foldl (fun t x => if x.1 == 0 then t else Tab.put t x.2 x.1) []

/-- A late jump that a checkpoint carries; it is taken at boundary 2 of the stroke that starts (R64). [DESIGN CHOICE, unsafe: log 91.] -/
def Ckpt.pending (c : Ckpt) : Option Pend := if bit c.pend 0 then some { target := c.pendTarget, due := 2, late := false, reg := 0 } else none

/-- Restore a gather from its checkpoint (R475): counters, stack, PEND and divergence; its trips are released, Marver steps end (R349), and
its replay begins with a start record (R478). A member that follows plays when its program starts. -/
def State.restore (s : State) (g : Nat) (c : Ckpt) (mirror : Bool) (trigger : Nat) : State :=
  let s := s.replayPaid g
  let s := (s.preempt g fun _ => true).flushEtchEnds g
  let bc : Option Bc :=
    match c.mode with
    | 0 => some { prog := c.prog, lateLeave := if bit c.pend 1 then some (c.pendTarget, 0) else none }
    | 1 => some { prog := c.prog, mode := .diverged, leftAt := c.leftAt }
    | _ => none
  let own := c.mode != 0
  let s := s.modG g fun G =>
    { (G.mapPins fun _ x => x.stopEdges) with
      seq := { st := .running, cur := c.succ, startS := 24 * pclkU, start := if own then some (0, 0) else none, loops := if own then c.loopTab else []
               stack := if own then c.stack else [], pend := if own then c.pending else none, fails := c.fails, slow := bit c.flags 0
               lateJump := b2n (bit c.flags 1) }
      play := { G.play.still bc with results := [], lateDiverge := b2n (bit c.flags 2) }
      replay := some { mirror := mirror, run := c.run, cseq := c.cseq, trigger := trigger
                       joinAt := if c.mode == 1 then some (s.joinOf c) else none } }
  let x := s.gSite g
  let s := s.setSite (s.siteOf g) { x with run := c.run, cseq := c.cseq, result := c.result }
  let s := s.modG g fun G => (List.range 16).foldl (fun G p => G.releaseTrip p) G
  let s := forAll (List.range 4) (fun s u => s.setSmu g u ((s.smu g u).release (s.gather g).safe.on)) s
  let s := s.comparatorsChanged g
  let s := s.report { site := s.siteOf g, trigger := trigger, run := c.run, cseq := c.cseq, time := s.netNs }
  if own then
    let res := s.resolve (.g g) c.succ
    s.modSeq g fun q => { q with cont := some { res := res, ckpts := res.ckpts, phaseReset := true } }
  else s

/-- Start a program for the replayed members only (R475): at a stroke, with the counters and stack of a checkpoint. Members that are not
replayed follow it no longer. [DESIGN CHOICE, unsafe: log 91.] -/
def State.replayProg (s : State) (p succ : Nat) (loops : Tab Nat) (stack : List Nat) (pend : Option Pend) (gs : List Nat) : State :=
  let s := forAll (s.prog p).members (fun s g =>
    match (s.gather g).play.bc with
    | some b => if b.mode == .following && !gs.contains g then s.modPlay g fun y => { y with bc := none } else s
    | none => s) s
  s.beginProg p { cur := succ, start := some (0, 0), loops := loops, stack := stack, pend := pend }

/-! ## REPLAY_START -/

/-- Check one gather's checkpoint, and restore it or report it LOST. Answers whether it is restored. -/
def State.replayOne (s : State) (g : Nat) : Bool × State :=
  match s.replayKind g with
  | none => (false, s)
  | some (mirror, trigger) =>
    match (s.gSite g).newest mirror with
    | none => (false, (s.replayPaid g).reportLost g 1 trigger (s.gSite g).run 0)
    | some c =>
      let (reason, s) := s.replayReason g mirror c
      if reason != 0 then (false, (s.replayPaid g).reportLost g reason trigger c.run c.cseq) else (true, s.restore g c mirror trigger)

/-- The checkpoint from which a gather that owes a replay, and can start it, would replay. -/
def State.replayCkpt (s : State) (g : Nat) : Option Ckpt :=
  match s.replayKind g with
  | some (mirror, _) => if s.replayFree g then (s.gSite g).newest mirror else none
  | none => none

/-- A member of a program replays: with it every member of the program that owes a replay from the same place, and the diverged ones. [DESIGN CHOICE, unsafe: log 91.] -/
def State.replayMembers (s : State) (g : Nat) (c : Ckpt) : State :=
  let p := c.prog
  let due := (List.range 64).filterMap fun h => match s.replayCkpt h with
    | some d => if d.prog == p && d.mode != 2 then some (h, d) else none
    | none => none
  let lead := if c.mode == 0 then some c else ((due.filter (·.2.mode == 0)).head?).map (·.2)
  let same := due.filter fun d => d.1 == g || d.2.mode == 1 ||
    match lead with | some l => d.2.succ == l.succ && d.2.loops == l.loops && d.2.stack == l.stack && d.2.pend % 2 == l.pend % 2 | none => false
  let (gs, s) := same.foldl (fun (acc : List Nat × State) d =>
    let (ok, s) := acc.2.replayOne d.1
    (if ok && d.2.mode == 0 then acc.1 ++ [d.1] else acc.1, s)) ([], s)
  match lead with
  | some l => if gs.isEmpty then s else s.replayProg p l.succ l.loopTab l.stack l.pending gs
  | none => s

/-- A replayed diverged member runs a local RENDEZVOUS while its program is not running (R475): the program starts at the RENDEZVOUS where
the member joins; where there is none, the member halts at the program's HALT. [DESIGN CHOICE, unsafe: log 91.] -/
def State.replayJoin (s : State) (g : Nat) : State :=
  let G := s.gather g
  match G.play.bc, G.replay.bind (·.joinAt) with
  | some b, some j =>
    if b.mode == .diverged && G.inRendezvous && !(s.prog b.prog).seq.live then
      if j == noStroke then
        let tbl := s.entryOf (.p b.prog)
        let r := match alongNext tbl opHalt 4096 (tbl b.leftAt).next with | some h => bits (tbl h).rep 7 0 | none => 0
        s.haltWho (.g g) 1 r 0
      else
        let s := s.modPlay g fun y => { y with bc := some { b with joins := [j] } }
        s.replayProg b.prog j [] [] none []
    else s
  | _, _ => s

/-- REPLAY_START (R472, R475, R495): a site of the half in service that owes a replay, or one that awaits its program. Replay that needs a
program waits until it is not running. [DEDUCED, unsafe: log 99.] -/
def execReplayStart (site : Fin 128) (s : State) : Host.Outcome State Fault Refusal :=
  if site.val / 64 != s.halfIx then .next s
  else
    let g := site.val % 64
    if (s.replayKind g).isSome && s.replayFree g then
      match s.replayCkpt g with
      | some c =>
        if c.mode == 2 then .next (s.replayOne g).2
        else if (s.prog c.prog).seq.live then .next s
        else .next (s.replayMembers g c)
      | none => .next (s.replayOne g).2
    else .next (if s.frozen || s.twin.swapping then s else s.replayJoin g)

/-! ## Outcomes (R475, R477) -/

/-- The outcome of R477 for a VFY stroke's result: 1 ETCHED, 2 NOT_ETCHED, 3 UNCERTAIN. `blank` is the state of an unwritten bit. -/
def classify (v : StrokeRes) (blank : Bool) : Nat :=
  if v.plainFails > 0 then 3
  else if v.fail0 + v.fail1 == 0 then 1
  else if (if blank then v.fail1 == 0 && v.pass0 == 0 else v.fail0 == 0 && v.pass1 == 0) then 2
  else 3

/-- The last strobes of a VFY stroke that has ended are registered, where that comes before the next granule boundary. -/
def State.vfySettle (s : State) (g : Nat) : State :=
  match (s.gather g).replay.bind (·.vfyTag) with
  | some v =>
    let last := ((s.gather g).play.strobes.filter (·.tag == v)).foldl (fun a x => max a x.reg) 0
    let w := s.whoOn g
    if (s.seqOf w).passes last then s.settleAll w ((last + 1) * pclkU) [g] else s
  | none => s

/-- VFY_OUTCOME_WRITE: the VFY stroke that ran in place of an ETCH stroke has ended and its last strobes are registered. -/
def execVfyOutcomeWrite (g : GIx) (s : State) : Host.Outcome State Fault Refusal :=
  let s := s.vfySettle g
  match (s.gather g).replay with
  | some r =>
    match r.etch, r.vfyDone with
    | some e, some v =>
      let o := classify v (s.journal.blank.getLsbD (s.siteOf g))
      let s := s.writeMarker (s.markerOf g 3 o (e % 4096) (e / 4096 == 1))
      let s := s.report { site := s.siteOf g, etch := o, trigger := r.trigger, stroke := e, run := r.run, cseq := r.cseq, time := s.netNs }
      .next (s.modG g fun G => { G with replay := some { r with etch := none, vfyDone := none, vfyTag := none } })
    | _, _ => .next s
  | none => .next s

/-! ## Commands -/

/-- JRN_CONFIG: BLANK of each gather. -/
def jrnConfigBody (s : State) (r : Req) : State × Act :=
  let t := s.target r
  let w := w32 r.payload 0
  guarded s (checks [needLen r 4, unless' (w.toNat < 2) stBadField]) fun _ =>
    let b := t.units.foldl (fun (b : BitVec 128) g =>
      let m := 1#128 <<< s.siteOf g
      if w == 1 then b ||| m else b &&& ~~~m) s.journal.blank
    let s := s.setJournal { s.journal with blank := b }
    (s, s.configAct t)

def jrnCheckpointBody (s : State) (r : Req) : State × Act :=
  let p := r.payload
  guarded s (checks [needLen r 4, unless' (u16 p 0 < 128) stBadRange, unless' (u8 p 2 ≤ 1 && zeros p 3 1) stBadField]) fun _ =>
    match (s.site (u16 p 0)).newest (u8 p 2 == 1) with
    | some c => (s, .ok c.bytes)
    | none => (s, .st stBadRange)

/-- JRN_MARKERS: the records as stored; one never written reads as zeros. [DEDUCED, unsafe: log 81.] -/
def jrnMarkersBody (s : State) (r : Req) : State × Act :=
  let first := u16 r.payload 0
  let n := u16 r.payload 2
  guarded s (checks [needLen r 4, rangeOk first n 254 markerRing]) fun _ =>
    (s, .done { blocks := (List.range n).map fun i =>
      match s.journal.markers.find? (·.1 == first + i) with | some (_, m) => m.bytes | none => List.replicate 16 0#8 })

/-- A report record (Table 18-7). -/
def Report.bytes (r : Report) : List Byte :=
  toLE 2 r.site ++ toLE 1 r.result ++ toLE 1 r.reason ++ toLE 1 r.etch ++ toLE 1 r.trigger ++ toLE 2 r.stroke ++ toLE 4 r.run ++ toLE 4 r.cseq
    ++ toLE 8 r.time ++ toLE 8 0

/-- JRN_REPORT: up to 127 records, oldest first, which it removes. [DESIGN CHOICE, unsafe: log 8.] -/
def jrnReportBody (s : State) (r : Req) : State × Act :=
  guarded s (needLen r 0) fun _ =>
    let j := s.journal
    (s.setJournal { j with reports := j.reports.drop 127 }, .done { blocks := (j.reports.take 127).map Report.bytes })

/-- JRN_CONFIG. -/
def execJrnConfig (r : Req) (s : State) : Host.Outcome State Fault Refusal := .next (s.firmware 0x0D05 (us 20) [6, 0xC] r jrnConfigBody)
/-- JRN_CHECKPOINT. -/
def execJrnCheckpoint (r : Req) (s : State) : Host.Outcome State Fault Refusal := .next (s.firmware 0x0D06 (us 50) [8] r jrnCheckpointBody)
/-- JRN_MARKERS. -/
def execJrnMarkers (r : Req) (s : State) : Host.Outcome State Fault Refusal := .next (s.firmware 0x0D07 (us 100) [8] r jrnMarkersBody)
/-- JRN_REPORT. -/
def execJrnReport (r : Req) (s : State) : Host.Outcome State Fault Refusal := .next (s.firmware 0x0D08 (us 100) [8] r jrnReportBody)

end Sys2Proof.Machine
end

