-- ==== Sys2Proof/Machine/Clear.lean ====
section
/-!
DEFINITION. CLEAR_N (R153–R156, R190, R234, R296), the headroom check of R532, RAIL_PE's arming (R529) and the end of a sentinel's dwell
(R177, R180).
-/
namespace Sys2Proof.Machine

/-! ## CLEAR_N -/

/-- Does a low pulse act: never below `lo` ns, always from `hi` ns, and between them as it happens? [DESIGN CHOICE, safe: log 67.] -/
def State.pulseActs (s : State) (ns lo hi : Nat) : Bool × State :=
  if ns < lo then (false, s) else if hi ≤ ns then (true, s) else s.choose

/-- CLEAR_N reaches a pin: those of its five DACs for which `f` holds. A pin with one of them is CLEARED and held (R153, R154). -/
def Pin.clearN (x : Pin) (f : Nat → Bool) : Pin :=
  let c := fun k (d : Dac) code => if f k then d.clear code else d
  if (List.range 5).any f then
    { x with vih := c 0 x.vih x.clr.vih, vil := c 1 x.vil x.clr.vil, vt := c 2 x.vt x.clr.vt, voh := c 3 x.voh x.clr.voh
             vol := c 4 x.vol x.clr.vol, cleared := true, clearHold := true }
  else x
/-- Its force and clamp DACs go to their clear codes (R190). -/
def Smu.clearN (x : Smu) : Smu := { x with cleared := true, clearHold := true, dac := x.clr }
def Dig.clearN (x : Dig) : Dig := { x.clear with clearHold := true }
/-- An emulator that is not OPEN goes to zero output (R234). -/
def Bridge.clearN (b : Bridge) : Bridge := if b.isOpen then b else { b with cleared := true, atZero := true, clip := false }

/-- CLEAR_N reaches the elements of a gather for which `f` holds: DAC k of pin p by 5p + k, unit u by 80 + u, digitiser d by 84 + d, the
bridge emulator by 86. A gather in the safe state is marked and held; its outputs stand already (R154). -/
def State.clearGather (s : State) (g : Nat) (f : Nat → Bool) : State :=
  let s := s.modG g fun G =>
    let G := (List.range 16).foldl (fun G p => G.setPin p ((G.pin p).clearN fun k => f (5 * p + k))) G
    let G := ((List.range 4).filter fun u => f (80 + u)).foldl (fun G u => G.setSmu u (G.smu u).clearN) G
    { G with digs := ([0, 1].filter fun d => f (84 + d)).foldl (fun t d => Tab.put t d (Tab.get {} t d).clearN) G.digs }
  let s := s.modG g (·.flagNow)
  let bridged := f 86 && s.amp.gathers.any (·.1 == g)
  let s := if bridged then s.setBridge g (s.bridge g).clearN else s
  let s := forAll ((List.range 4).filter fun u => f (80 + u)) (fun s u => s.disturb g u) s
  s.flagRuns g (if bridged then afDisturbed else 0)

/-- Every level DAC of the device to its clear code, CLEARED and the holds. -/
def State.clearGathers (s : State) : State := forAll (List.range 64) (fun s g => s.clearGather g fun _ => true) { s with clearLow := true }

/-- CLEAR_N acts on the whole device, and CLEAR_SEEN is posted once. -/
def State.clearAll (s : State) : State := s.clearGathers.advise fClearSeen hDevice

/-- A CLEAR_N that is low as a device reset ends is an assertion (R155); one that came during the start has posted CLEAR_SEEN itself. -/
def State.clearAtStart (s : State) : State :=
  if !s.clearLow then s else if s.faults.recs.any (·.names fClearSeen hDevice) then s.clearGathers else s.clearAll

/-- A pulse between the two bounds of R153: each DAC goes wholly to its clear code or keeps its code, as it happens, and so does each
unit; whether the pulse counts as an assertion (R155) is open too. [DESIGN CHOICE, safe: log 67.] -/
def State.clearPartly (s : State) : State :=
  let k := s.freeCount
  let seen := Config.choice k
  let s := forAll (List.range 64) (fun s g => s.clearGather g fun n => Config.choice (k + 1 + 87 * g + n))
    { s with freeCount := k + 5569, clearLow := seen }
  if seen then s.advise fClearSeen hDevice else s

/-- CLEAR_N_ASSERT (R153): a low pulse shorter than 30 ns never acts, one of 50 ns or longer always does. [DESIGN CHOICE, safe: log 67.] -/
def execClearNAssert (pulseNs : Nat) (s : State) : Host.Outcome State Fault Refusal :=
  if s.clearLow then .next s
  else .next (if pulseNs < 30 then s else if 50 ≤ pulseNs then s.clearAll else s.clearPartly)

/-- CLEAR_N_RELEASE (R154): the refusals end; what has been cleared stays so. -/
def execClearNRelease (s : State) : Host.Outcome State Fault Refusal := .next { s with clearLow := false }

/-! ## Headroom (R148, R532) -/

/-- A driver DAC's output at the reachable code nearest to its register's. [DEDUCED, unsafe: log 104.] -/
def Dac.reach (d : Dac) (lo hi : Nat) : Dac := if d.hold then d else { d with out := max lo (min hi d.code) }

/-- A pin whose DACs stand at their written levels takes the nearest reachable ones. -/
def Pin.headroom (x : Pin) (lo hi : Nat) : Pin :=
  if x.parked || x.cleared then x
  else
    let out := fun (d : Dac) => decide (d.code < lo ∨ hi < d.code)
    { x with vih := x.vih.reach lo hi, vil := x.vil.reach lo hi, vt := x.vt.reach lo hi, clamped := out x.vih || out x.vil || out x.vt }

/-- A unit's force value or a clamp is out of reach. -/
def State.smuShort (s : State) (x : Smu) : Bool :=
  x.on && !(s.smuReach (v18 x.set.v) && s.smuReach (v16 x.set.vclHi) && s.smuReach (v16 x.set.vclLo))

/-- PWR_STATUS.HEADROOM: some output of the device is affected. -/
def State.headroomBit (s : State) : Bool :=
  s.gathers.any fun g => g.2.pins.any (·.2.clamped) || g.2.smus.any fun u => s.smuShort u.2

/-- Are both rails inside their windows (Table 21-1), in µV? -/
def railsPe (vph vpl : Int) : Bool := decide (6300000 ≤ vph ∧ vph ≤ 9200000 ∧ -3700000 ≤ vpl ∧ vpl ≤ -800000)

/-- HEADROOM_CLAMP: a rail check with what the monitors read. The units follow the rails in `State.smuOut`. -/
def execHeadroomClamp (vphUv vplUv : Int) (s : State) : Host.Outcome State Fault Refusal :=
  let s := { s with power := { s.power with vphUv := vphUv, vplUv := vplUv } }
  if !railsPe vphUv vplUv then .next s
  else
    let (lo, hi) := s.codeRange 65536
    .next { s with gathers := s.gathers.map fun g => (g.1, ({ g.2 with pins := g.2.pins.map fun p => (p.1, p.2.headroom lo hi) } : Gather).flagNow) }

/-- PE_RAIL_ARM (R529): VPH and VPL have stayed inside their windows for 1 ms. -/
def execPeRailArm (s : State) : Host.Outcome State Fault Refusal :=
  .next (if railsPe s.power.vphUv s.power.vplUv then { s with power := { s.power with peArmed := true } } else s)

/-! ## Sentinels -/

/-- SENTINEL_DWELL_END (R177): DWELL µs after the raw output took its side. [DEDUCED, unsafe: log 63.] -/
def execSentinelDwellEnd (g : GIx) (n : Two) (s : State) : Host.Outcome State Fault Refusal :=
  let x := s.sent g n
  if !x.timing || x.frozen || x.asleep || !sentEn x.cfg || !s.passed x.timeNs (us x.dwell) then .next s
  else .next ((s.setDwelled g n (rawActive (sentDir x.cfg) x.raw)).comparatorsChanged g)

end Sys2Proof.Machine
end

