-- ==== Sys2Proof/Machine/Seal.lean ====
section
/-!
DEFINITION. The seal, adjustments and sheets (chapter 10): the commands of Table 10-5 and the events at the legal state.
-/
namespace Sys2Proof.Machine

/-! ## Commands -/

/-- AMP_SHEET_CLOSE: the open sheet, or else the newest that is being sealed (R264). -/
def ampSheetCloseBody (s : State) (r : Req) : State × Act :=
  let which := match s.openSheet with
    | some x => some x.num
    | none => (s.amp.sheets.filter fun (x : Sheet) => x.close.isSome && x.block.isNone).getLast?.map Sheet.num
  ampEnter s r 0 false fun _ =>
    ampGuard s (checks [s.ampOnline, unless' which.isSome stSheetEmpty]) fun _ =>
      (s.closeSheet 1, .wait { kind := .ampSheet, units := [], nums := [which.getD 0] })

/-- AMP_SHEET_READ: the sealed block, or entries of a sheet in the store (Table 10-6). -/
def ampSheetReadBody (s : State) (r : Req) : State × Act :=
  let p := r.payload
  let part := u8 p 4
  let first := u16 p 6
  let count := u16 p 8
  let sheet := s.amp.sheets.find? (·.num == u32 p 0)
  let found := match sheet with
    | some x => if part == 0 then x.block.isSome else first + count ≤ x.entries.length
    | none => false
  ampEnter s r 16 false fun _ =>
    ampGuard s (checks [
        unless' (match part with | 0 => count == 0 | 1 => decide (1 ≤ count ∧ count ≤ 31) | _ => true) stBadRange,
        unless' (part ≤ 1 && zeros p 5 1 && zeros p 10 6) stBadField,
        unless' found stSheetUnknown]) fun _ =>
      match sheet with
      | some x => (s, .ok (if part == 0 then x.block.getD [] else (slice x.entries first count).flatten))
      | none => (s, .ok)

/-- A complete candidate set (R360). -/
def State.candidateComplete (s : State) : Bool := s.amp.candidate.length ≥ 64

/-- [DEDUCED, unsafe: log 52.] -/
def ampAdjustBody (s : State) (r : Req) : State × Act :=
  let p := r.payload
  let discard := u8 p 0 == 1
  let cert := u32 p 4
  let busy := s.amp.gathers.any fun g => g.2.chans.any fun c => c.2.run.isSome || !c.2.queue.isEmpty
  ampEnter s r 40 true fun _ =>
    ampGuard s (checks [
        unless' (u8 p 0 ≤ 1 && zeros p 1 3 && (if discard then cert == 0 else 499000000 ≤ cert && cert ≤ 501000000)) stBadField,
        s.ampOnline,
        unless' (s.amp.legal == 1) stSealClosed,
        unless' s.candidateComplete stNoCandidate,
        unless' (discard || !busy) stAmpBusy,
        unless' (discard || s.amp.lec < 0xFFFF_FFFF) stCounterFull]) fun _ =>
      if discard then (s.newCandidate, .ok (toLE 4 s.amp.lec))
      else (s.setAmp { s.amp with commits := s.amp.commits ++ [{ mbx := r.mbx.val, refp := cert, context := slice p 8 32, set := s.amp.candidate }] },
        .wait { kind := .adjust })

/-- [DESIGN CHOICE, unsafe: log 8.] -/
def ampCounterBody (s : State) (r : Req) : State × Act :=
  ampEnter s r 0 false fun _ =>
    let a := s.amp
    let (num, count) := match s.openSheet with | some x => (x.num, x.entries.length) | none => (a.nextSheet, 0)
    (s, .ok (toLE 4 s.sealStatus ++ toLE 4 a.lec ++ toLE 4 s.sealOpens ++ toLE 4 a.starts ++ toLE 4 a.compStep ++ toLE 4 num ++ toLE 2 count
      ++ toLE 2 0 ++ toLE 8 a.hssNext))

/-- AMP_SHEET_CLOSE: readable when the sealing is complete. -/
def execAmpSheetClose (r : Req) (s : State) : Host.Outcome State Fault Refusal := .next (s.firmware 0x0708 (us 7000) [8] r ampSheetCloseBody)
/-- AMP_SHEET_READ. -/
def execAmpSheetRead (r : Req) (s : State) : Host.Outcome State Fault Refusal := .next (s.firmware 0x0709 (us 2000) [8] r ampSheetReadBody)
/-- AMP_ADJUST: legal path only (R249). -/
def execAmpAdjust (r : Req) (s : State) : Host.Outcome State Fault Refusal := .next (s.firmware 0x070A (us 1000) [8] r ampAdjustBody)
/-- AMP_COUNTER. -/
def execAmpCounter (r : Req) (s : State) : Host.Outcome State Fault Refusal := .next (s.firmware 0x070B (us 50) [8] r ampCounterBody)

/-! ## The legal state (R245–R247) -/

/-- SEAL_OPEN: SEAL_N has read high for 10 ms. While the Ampoule is in reset or unpowered the opening waits in the pending count. -/
def execSealOpen (s : State) : Host.Outcome State Fault Refusal :=
  let a := s.amp
  if a.legal == 1 then .next (s.setAmp { a with sealRaw := 1, sealNs := s.upNs })
  else
    let a' := { a with legal := 1, sealRaw := 1, sealNs := s.upNs }
    if a.inReset || s.power.pstate == 3 then .next (s.setAmp { a' with opensPending := sat32 a.opensPending })
    else .next ((s.setAmp { a' with opens := sat32 a.opens }).closeSheet 3).newCandidate

/-- SEAL_CLOSE: SEAL_N has read low for 10 ms; the candidate set is deleted (R360). -/
def execSealClose (s : State) : Host.Outcome State Fault Refusal :=
  .next (s.setAmp { s.amp with legal := 0, sealRaw := 0, sealNs := s.upNs }).newCandidate

/-! ## Adjustment (R250–R253, R360) -/

/-- What the adjustment run finds on a gather (R360): free values, drawn with one number. [DESIGN CHOICE, safe: log 147.] -/
def adjusted (k : Nat) : AmpSet :=
  let v := fun (n at0 : Nat) => (List.range n).map fun i => Config.measured k (at0 + i)
  { caps := (List.range 2).map fun c => Config.chosen k c % 17, ratios := v 6 0, gains := v 8 6, offsets := v 8 14
    direct := Config.measured k 22, ratio := Config.measured k 23 }

/-- ADJUSTMENT_GATHER_DONE: a gather whose emulator is OPEN, whose multiplexer holds no claim and whose channels are idle. -/
def execAdjustmentGatherDone (g : GIx) (s : State) : Host.Outcome State Fault Refusal :=
  let b := s.bridge g
  let noClaim := [0, 1].all fun c => (claimPins (s.chan g c).source).isEmpty && (claimUnit (s.chan g c).source).isNone
  if !s.amp.adjusting || s.amp.inReset || b.mode != 0 || b.span.isSome || !noClaim || !(s.chan g 0).idle || !(s.chan g 1).idle
      || s.amp.candidate.any (·.1 == g.val) then .next s
  else
    let (k, s) := s.fresh
    .next (s.setAmp { s.amp with candidate := Tab.put s.amp.candidate g (adjusted k), adjusting := s.amp.candidate.length + 1 < 64 })

/-- A commit of the Ampoule is durable: counter and the candidate set take effect together (R250, R253); for an image, counter and pointer (R524). [DEDUCED, unsafe: log 52.] -/
def State.ampCommit (s : State) : State :=
  let a := s.amp
  match a.commits with
  | [] => s
  | c :: rest =>
    let a := { a with commits := rest, lec := sat32 a.lec, intAdj := false }
    match c.slot with
    | none =>
      let clean := a.gathers.map fun g => (g.1, { g.2 with chans := g.2.chans.map fun x => (x.1, { x.2 with comps := [] }) })
      let s := s.setAmp { a with stopComp := false, stopNoAdjust := false, compStep := 0, refpCert := c.refp, adjustContext := c.context
                                 candidate := [], sealedSet := c.set, adjusting := false, gathers := clean }
      s.respond c.mbx (us 1000) (.ok (toLE 4 a.lec))
    | some (k, floor) =>
      let v := (Tab.get {} s.sec.slots (2 + k)).secVersion
      let floors := if floor then s.sec.floors.set 1 (max v (s.sec.floors.getD 1 0)) else s.sec.floors
      let s := { s.setAmp a with sec := { s.sec with active := s.sec.active.set 1 k, floors := floors } }
      s.respond c.mbx (us 1000) (Reply.ok [])

/-- ADJUST_COMMIT_DURABLE. -/
def execAdjustCommitDurable (s : State) : Host.Outcome State Fault Refusal := .next s.ampCommit.lifeTry

/-! ## Sealing (R262–R268) -/

/-- Sheets waited for by AMP_SHEET_CLOSE answer. [DESIGN CHOICE, unsafe: log 53.] -/
def State.answerSheet (s : State) (num : Nat) (rep : Reply) : State :=
  forAll (s.waiters .ampSheet) (fun s m =>
    match s.waiting m with
    | some (_, w) => if w.nums.headD 0 == num then s.respond m (us 7000) rep else s
    | none => s) s

/-- SIGNING_INDEX_RESERVED (R266): index q is reserved by writing q + 1 into word q mod 64, in the park too (R534). A third failed verify stops
receipts (AMP_LMS_STATE) and the sheet, which cannot be signed, is abandoned. [DESIGN CHOICE, unsafe: log 53.] -/
def execSigningIndexReserved (ok : Bool) (s : State) : Host.Outcome State Fault Refusal :=
  match s.sealing with
  | none => .next s
  | some x =>
    let a := s.amp
    if x.index.isSome || a.stopExhausted then .next s
    else if ok then
      let (q, s) := s.takeIndex
      .next (s.setSheets (updFirst (fun (y : Sheet) => y.num == x.num) (fun y => { y with index := some q }) s.amp.sheets))
    else
      let (v, s) := s.fresh
      let left := (a.sheets.filter (·.num != x.num)).map fun y => if y.prev == x.num then { y with prevState := 1 } else y
      let s := s.setAmp { a with stopLms := true, hssRing := ringTear a.hssRing v, sheets := left, prevState := if a.prevSheet == x.num then 1 else a.prevState }
      .next (((s.closeSheet 2).advise fAmpLmsState hDevice).answerSheet x.num (Reply.err stSheetEmpty)).lifeTry

/-- The store keeps the open sheet, those being sealed and the last 64 closed (R260). -/
def keep64 (l : List Sheet) : List Sheet :=
  let done := (l.filter (·.block.isSome)).length
  if done ≤ 64 then l else match l with | _ :: t => t | [] => []

/-- SHEET_SEALED (R262, R264): both signatures are complete. -/
def execSheetSealed (s : State) : Host.Outcome State Fault Refusal :=
  match s.sealing with
  | none => .next s
  | some x =>
    if x.index.isNone || s.power.parked then .next s
    else
      let block := x.sealed s.ampIdent s.ampChecksum
      let l := updFirst (fun (y : Sheet) => y.num == x.num) (fun y => { y with block := some block }) s.amp.sheets
      let s := (s.setSheets (keep64 l)).emitRec 6 0xFFFF block
      .next (s.answerSheet x.num (.ok block)).lifeTry

/-- LEVEL1_TREE_DONE (R268). -/
def execLevel1TreeDone (s : State) : Host.Outcome State Fault Refusal :=
  if s.amp.treeBusy then .next (s.setAmp { s.amp with treeBusy := false, trees := s.amp.trees + 1 }) else .next s

end Sys2Proof.Machine
end

