-- ==== Sys2Proof/Machine/Reset.lean ====
section
/-!
DEFINITION. Device reset (R414, R516, R536–R538), the power-fail park (R533, Table 21-2), and DORMANT (R544, R545).
-/
namespace Sys2Proof.Machine

/-! ## Operations already started (R534, R538) -/

/-- Apply an update n times. -/
def times (n : Nat) (f : State → State) (s : State) : State := (List.range n).foldl (fun s _ => f s) s

/-- What has started completes: a Marver commit record, Ampoule commits, etch-end markers, fault-log records. [DEDUCED, unsafe: log 110.] -/
def State.finishStarted (s : State) : State :=
  let s := times s.amp.commits.length State.ampCommit s.calCommit
  let s := forAll (s.gathers.map (·.1)) State.flushEtchEnds s
  times (s.faults.recs.filter fun (r : Rec) => srcClass r.src ≥ 0xC && !r.logged).length State.logFault s

/-! ## Device reset -/

/-- What a device reset keeps of the Ampoule (Table 20-5): the calibration store and its commit record's counter, SEAL_OPENS with the
pending count, AMP_STARTS, sheet numbers and the HSS ring; the legal state is UNRESOLVED (R246). The sheet store is SRAM. [DESIGN CHOICE, unsafe: log 15.] -/
def Amp.reset (a : Amp) (now : Nat) : Amp :=
  { a with legal := 2, sealRaw := 2, sealNs := now, sheets := [], pllLost := false, noImage := false, lmsRetry := true }

/-- The foreground set that the half in force holds, with T_LAST; a store that the reset cut short is found at start-up (R361). [DESIGN CHOICE, unsafe: log 16; DEDUCED, unsafe: log 110.] -/
def Cal.reset (c : Cal) : Cal :=
  { factory := c.factory, held := c.held, other := c.other, storeInt := c.storeInt || c.storing != 0, coefs := c.held.coefs, base := c.held.factory
    tiles := (List.range 4).map fun t => (t, { tLast := c.held.last.getD t 0 }) }

/-- A device reset with a cause: everything but what Table 20-5 keeps, what the always-on domain holds, and what the card supplies. A TRIG_IN ball
that lies within its hysteresis is UNRESOLVED afterwards (R181); which does is open. [See R539.] [DESIGN CHOICE, unsafe: log 13; DEDUCED, unsafe: log 83.] -/
def State.deviceReset (s : State) (cause : Nat) : State :=
  let s := (s.endReservation (cause == 0)).ampReset
  let z : State := {}
  { z with
    pending := s.pending, upNs := s.upNs, freeCount := s.freeCount + 4, clearLow := s.clearLow
    faults := { causes := s.faults.causes.filter fun c => srcClass c.1 ≥ 0xC, log := s.faults.log, dLatch := s.faults.dLatch, lockstepS := s.faults.lockstepS }
    chain := { pos := s.chain.pos, last := s.chain.last, twinId := s.chain.twinId }
    hatch := { haltnLow := s.hatch.haltnLow, trigBall := s.hatch.trigBall.filter fun b => Config.choice (s.freeCount + b.1 % 4) }
    amp := s.amp.reset s.upNs
    cal := s.cal.reset
    twin := { solo := s.twin.solo, st := if s.twin.solo then 0 else 1, hosNs := s.upNs }
    journal := { markers := s.journal.markers, nextMarker := s.journal.nextMarker }
    power := { cause := cause, vphUv := s.power.vphUv, vplUv := s.power.vplUv, resetNs := s.upNs }
    sec := { s.sec with running := [none, none], fallback := false, sessions := [none, none], challenge := none
                        boots := if s.sec.life == 0 then s.sec.boots else sat32 s.sec.boots }
    jtag := s.jtag }

/-- A reset by RESET_N, SYS_RESET, a lifecycle transition or PFAIL_N returning waits for what has started (R535, R538). -/
def State.orderlyReset (s : State) (cause : Nat) : State := s.finishStarted.deviceReset cause

/-! ## Power-fail park (Table 21-2) -/

/-- A unit: 0 V, then the switch opens, with no range change. -/
def Smu.park (x : Smu) : Smu := { x with cleared := true, meas := none, run := none, dac := x.clr, compl := false, raw := false }

def State.parkGather (s : State) (g : Nat) : State :=
  let s := (s.leaveProgram g 3 0).haltG g 3 0
  let s := s.calStrokeEnd g
  let s := s.preempt g fun _ => true
  let s := s.modG g fun G =>
    let G := (List.range 16).foldl (fun G p => G.setPin p (G.pin p).safe) G
    { G with play := { G.play with holding := false } }
  let s := forAll (List.range 4) (fun s u => s.setSmu g u (s.smu g u).park) s
  let s := (s.endTius g tfAborted).endDigs g cfAborted
  let s := forAll [0, 1] (fun s d => s.setDig g d (s.dig g d).clear) s
  s.ampSafe g afPfail

/-- What writes MRAM is abandoned: a Marver data phase, and sheet closes whose reservation has not started (R534). -/
def State.parkStores (s : State) : State :=
  let kept := if s.reserving then s.sealing.map Sheet.num else none
  let left := s.amp.sheets.filter fun (x : Sheet) => x.close.isNone || x.index.isSome || x.block.isSome || kept == some x.num
  { s with
    cal := { s.cal with storing := if s.cal.storing == 1 then 0 else s.cal.storing, storeInt := s.cal.storeInt || s.cal.storing == 1 }
    amp := { s.amp with sheets := left, prevState := if left.length == s.amp.sheets.length then s.amp.prevState else 1 } }

/-- Everything that drives a ball goes to its safe state, and the programs halt. -/
def State.parkGathers (s : State) : State :=
  forAll (List.range 4) (fun s p => if (s.prog p).seq.live then s.haltProgram p 3 0 else s) (forAll (List.range 64) State.parkGather s)

/-- Hatch is frozen with nothing in flight, and the compare units are disarmed. -/
def State.parkEvents (s : State) : State :=
  { s with tcmps := s.tcmps.map fun (t : Nat × Tcmp) => (t.1, t.2.abort), hatch := { s.hatch with inflight := [] } }

/-- The park: nothing that writes MRAM starts, everything that drives a ball goes to its safe state, Hatch is frozen. [DEDUCED, unsafe: log 66.] -/
def State.park (s : State) : State :=
  let s := { s with power := { s.power with pfail := true, parked := true, parkNs := s.upNs } }
  s.parkStores.parkGathers.parkEvents.rangesDone.syncLines

/-! ## DORMANT -/

/-- Entry begins (R544): the partner is told, the open sheet closes, units go to 0 V and open, measurements end, compare units disarm. -/
def State.startDormant (s : State) : State :=
  let s := { s with power := { s.power with entering := true } }
  let s := s.setTwin { s.twin with dormantSent := s.twin.st == 2 }
  let s := if s.openSheet.isSome then s.closeSheet 1 else s
  let s := forAll (s.gathers.map (·.1)) (fun s g =>
    let s := forAll (List.range 4) (fun s u => let x := s.smu g u; s.setSmu g u { x.safeState with cleared := x.cleared }) s
    let s := (s.endTius g tfAborted).endDigs g cfAborted
    s.preempt g fun _ => true) s
  { s with tcmps := s.tcmps.map fun (t : Nat × Tcmp) => (t.1, t.2.abort) }

/-- Has everything that entry waits for ended: unit sequences, the sealing of the closed sheet, and Ampoule commits, which complete once
started (R250)? -/
def State.dormantReady (s : State) : Bool := s.gathers.all (fun g => g.2.safeReached) && s.sealing.isNone && s.amp.commits.isEmpty

/-- Entry is complete: everything but what Table 21-6 keeps is powered down. -/
def State.enterDormant (s : State) : State :=
  let s := (s.ampReset).ampDrop
  let s := { s with power := { s.power with pstate := 3, entering := false }, ports := s.ports.map fun (p : Nat × Port) => (p.1, { p.2 with up := false }) }
  let s := s.setTwin { s.twin with link := false }
  forAll (s.gathers.map (·.1)) (fun s g =>
    let s := s.modG g fun G =>
      let G := (List.range 16).foldl (fun G p => G.setPin p (G.pin p).safe) G
      let G := { G with digs := [0, 1].foldl (fun (t : Tab Dig) (d : Nat) => Tab.put t d (Tab.get ({} : Dig) t d).clear) G.digs }
      let G := [0, 1].foldl (fun G n => G.setSent n (G.sent n).sleep) G
      { G with contact := G.contactNow }
    (s.probes g).sync g) s

/-- A wake request (R545): the saved state is restored, or, where its check fails, the device resets with CAUSE 5, and WAKE_SRC has its reset value (Table 21-7). [DESIGN CHOICE, unsafe: log 62.] -/
def State.wake (s : State) (restored : Bool) (dormantNs : Nat) : State :=
  let src := s.power.wakeHeld.getD 1
  if !restored then
    let s := s.deviceReset 5
    { s with power := { s.power with wakeNs := some s.upNs } }
  else
    let s := { s with
      power := { s.power with pstate := 1, wakeSrc := src, wakeHeld := none, wakeNs := some s.upNs }
      time := { s.time with net := (s.time.net + dormantNs * 2 ^ 32) % 2 ^ 96, sync := 2, good := 0 }
      tref := { s.tref with epoch := sat16 s.tref.epoch, zeroNs := s.upNs } }
    let s := s.setTwin { s.twin with waking := s.twin.st == 2 }
    forAll (s.gathers.map (·.1)) (fun s g =>
      let s := s.modG g fun G =>
        let G := (List.range 16).foldl (fun G p => G.setPin p (G.pin p).written) G
        let G := (List.range 4).foldl (fun G u => G.setSmu u (G.smu u).written) G
        let G := { G with digs := [0, 1].foldl (fun (t : Tab Dig) (d : Nat) => Tab.put t d (Tab.get ({} : Dig) t d).written) G.digs }
        let G := G.mapPins fun p x => G.restPin p x
        let G := [0, 1].foldl (fun G n => G.setSent n ((G.sent n).wake s.upNs)) G
        { G with contact := G.contactNow }
      (s.probes g).comparatorsChanged g) s

/-- Is WAKE_N held low: for 100 µs of a wake (R545)? -/
def State.wakeLow (s : State) : Bool := match s.power.wakeNs with | some t => !s.passed t (us 100) | none => false

/-- A change of power state begins (R420, R541): ACTIVE, IDLE or entry to DORMANT; 0 stands for none, where the command named the state of its
time (R542). -/
def State.enterPower (s : State) (st : Nat) : State := if st == 0 then s else if st == 3 then s.startDormant else s.setPstate st

end Sys2Proof.Machine
end

