-- ==== Sys2Proof/Machine/Tiu.lean ====
section
/-!
DEFINITION. The TIU commands (Tables 11-6, 11-7) and the events at the time-interval units and at TREF.
-/
namespace Sys2Proof.Machine

/-! ## Stamps -/

/-- Does a transition qualify for a channel (R275, Table 11-1)? The active side of the PIN_LO kinds is the falling one. -/
def Tiu.qualifies (x : Tiu) (stop rising inWindow : Bool) : Bool :=
  let kind := tiuKind stop x.src
  let active := if kind == 1 || kind == 3 then !rising else rising
  let window := if kind == 2 || kind == 3 then inWindow else true
  window && match tiuEdge stop x.src with | 0 => active | 1 => !active | _ => true

/-- Can a source of Table 11-1 present an edge now: its comparator is powered, no range change masks it (R195), and the kinds of an E symbol have one of that pin under way (R276)? -/
def State.tiuSource (s : State) (g kind src : Nat) : Bool :=
  let marked := (s.gather g).play.eWins.any (·.1 == src)
  match kind with
  | 0 | 1 => s.power.pstate != 3
  | 2 | 3 => s.power.pstate != 3 && marked
  | 4 => marked
  | 5 => sentEn (s.sent g src).cfg && !(s.sent g src).asleep
  | 6 => s.complPowered g src && (s.smu g src).run.isNone
  | _ => true

/-- Is a stamp within the dead time of 8 TUCLK cycles, 512 LSB, after the channel's last one (R274)? -/
def inDead (last : Option Nat) (t : Nat) : Bool :=
  match last with | some a => let d := stampDiff t a; decide (0 ≤ d ∧ d < 512) | none => false

/-- The stamp of an edge: the coarse counter and the phase at its place within the 12 cycles of the present 4 ns (R271). -/
def State.rawStamp (s : State) (place : Nat) : Nat := (64 * s.coarse + place) % 2 ^ 54

/-- A stamp with the corrections that the Marver last measured, of its phase and of the unit's source, referred to the ball of a pin (R273), in whole
LSB. [DESIGN CHOICE, safe: log 147.] -/
def State.corrected (s : State) (g u kind src raw : Nat) : Nat :=
  let c := s.cal
  let ball := if kind < 4 then c.coef g (64 + src) 0 else 0
  ((raw + c.coef g u (raw % 64) + c.coef g u (64 + 32 * kind + src) - ball) % 2 ^ 54).toNat

/-- Both channels name the same source (Table 11-3, PERIOD). -/
def Tiu.sameSource (x : Tiu) : Bool := tiuKind false x.src == tiuKind true x.src && tiuSrc false x.src == tiuSrc true x.src

/-- A closed sample of STATS (R285). [DEDUCED, unsafe: log 132.] -/
def TiuMeas.close (m : TiuMeas) (sub : Bool) (a b : Nat) : TiuMeas :=
  let d := stampDiff b a
  let m := { m with edges := m.edges + 1, start := none, stop := none, last := b }
  let add := fun (m : TiuMeas) (d : Int) =>
    { m with samples := m.samples + 1, sum := m.sum + d, sumSq := m.sumSq + d.natAbs * d.natAbs
             min := if m.samples == 0 then d else Min.min m.min d, max := if m.samples == 0 then d else Max.max m.max d }
  if d == 0 then add { m with nCoincident := m.nCoincident + 1 } 0
  else if d < 0 && sub then { m with nOrder := m.nOrder + 1 }
  else add (if d < 0 then { m with nOrder := m.nOrder + 1 } else m) d

/-- Does a channel take a stamp of a qualifying edge: START in INTERVAL and PERIOD of the first alone, STOP up to the COUNT-th, and in STATS until
the sample closes (Table 11-3, R285)? A period on one source, in STATS too, ends with the edge after the one that starts it, and the next sample
starts with a later edge. -/
def Tiu.takes (x : Tiu) (m : TiuMeas) (stop : Bool) (t : Nat) : Bool :=
  let mode := tiuMode x.cfg
  let later := fun (a : Nat) => decide (0 < stampDiff t a)
  let period := x.sameSource && (mode == 1 || mode == 4 && tiuSub x.cfg)
  match mode, stop with
  | 2, _ | 3, _ => true
  | 4, false => !period || (m.start.isNone && (m.edges == 0 || later m.last))
  | _, false => m.start.isNone
  | _, true => m.stop.isNone && (!period || match m.start with | some a => later a | none => false)

/-- A stamp t taken on a channel, `raw` before its corrections: the measurement after it, and whether it has reached its COUNT. [DEDUCED, unsafe: log 132.] -/
def Tiu.stamp (x : Tiu) (m : TiuMeas) (stop : Bool) (raw t : Nat) : TiuMeas × Bool :=
  let m := if stop then { m with deadStop := some raw } else
    { m with deadStart := some raw, first := if m.deadStart.isNone then t else m.first }
  match tiuMode x.cfg with
  | 2 => let m := { m with edges := m.edges + 1, last := t }; (m, m.edges ≥ x.count)
  | 3 => let m := { m with edges := m.edges + 1, last := t }; (m, m.edges ≥ x.count)
  | 4 =>
    let m := if stop then { m with stop := some t }
      else
        let m := if m.start.isSome && m.stop.isNone then { m with nRestart := m.nRestart + 1 } else m
        { m with start := some t }
    match m.start, m.stop with
    | some a, some b => let m := m.close (tiuSub x.cfg) a b; (m, m.edges ≥ x.count)
    | _, _ => (m, false)
  | _ =>
    let m :=
      if !stop then { m with start := some t }
      else
        let n := m.edges + 1
        { m with edges := n, stop := if n ≥ x.count then some t else none, last := t }
    (m, m.start.isSome && m.stop.isSome)

/-- The entry of the stamp buffer (R286). -/
def stampEntry (t : Nat) (rising fallback : Bool) : DWord := BitVec.ofNat 64 (t % 2 ^ 54 + b2n rising * 2 ^ 54 + b2n fallback * 2 ^ 55)

/-- TIU_EDGE_STAMP (R271–R274, R282–R286): an edge in the present 4 ns. [DESIGN CHOICE, unsafe: log 102.] -/
def execTiuEdgeStamp (g : GIx) (u : UIx) (stop : Bool) (place : Fin 768) (rising inWindow : Bool) (s : State) :
    Host.Outcome State Fault Refusal :=
  let x := s.tiu g u
  let raw := s.rawStamp place
  let t := s.corrected g u (tiuKind stop x.src) (tiuSrc stop x.src) raw
  let mode := tiuMode x.cfg
  match x.meas with
  | some m =>
    if x.st != .armed || !s.tiuSource g (tiuKind stop x.src) (tiuSrc stop x.src) || !x.qualifies stop rising inWindow || (stop && (mode == 2 || mode == 3)) then .next s
    else if inDead (if stop then m.deadStop else m.deadStart) raw then
      .next (s.setTiu g u { x with meas := some { m with deadMiss := m.deadMiss + 1 } })
    else if !x.takes m stop t then .next s
    else
      let (m, done) := x.stamp m stop raw t
      let x := if mode == 3 then { x with stamps := x.stamps ++ [stampEntry t rising s.tref.fallback] } else x
      let s := s.setTiu g u { x with meas := some m }
      .next (if done then s.closeTiu g u 0 else s)
  | none => .next s

/-! ## Gates -/

/-- Arm a waiting unit: the window and the network time of arming begin. -/
def Tiu.arm (x : Tiu) (now up : Nat) (fallback : Bool) : Tiu :=
  { x with st := .armed, meas := x.meas.map fun m => { m with atNs := up, armedNs := now, fallback := fallback } }

/-- Has a unit's gate asserted since its start: it stands asserted under LEVEL, or has presented an event (R279)? -/
def State.gateCame (s : State) (g : Nat) (x : Tiu) : Bool :=
  let key := gateKey g (tiuGateIx x.cfg)
  (!tiuEdgeGate x.cfg && s.lvl key) || decide ((x.meas.map (·.mark)).getD 0 < (s.line key).events)

/-- TIU_GATE (R279): an assertion of the gate arms a waiting unit; under LEVEL its deassertion ends the window. [DEDUCED, unsafe: log 28.] -/
def execTiuGate (g : GIx) (u : UIx) (asserted : Bool) (s : State) : Host.Outcome State Fault Refusal :=
  let x := s.tiu g u
  match x.st, asserted with
  | .waitGate, true => .next (if s.gateCame g x then s.setTiu g u (x.arm s.netNs s.upNs s.tref.fallback) else s)
  | .armed, false => .next (if tiuEdgeGate x.cfg || s.lvl (gateKey g (tiuGateIx x.cfg)) then s else s.closeTiu g u 0)
  | _, _ => .next s

/-- Has the time that a unit's measurement is given, in µs, run out? -/
def State.measOver (s : State) (x : Tiu) (span : TiuMeas → Nat) : Bool :=
  match x.meas with | some m => s.passed m.atNs (us (span m)) | none => false

/-- TIU_GATE_TIMEOUT (R279): TIMEOUT µs without the gate. [DEDUCED, unsafe: log 41.] -/
def execTiuGateTimeout (g : GIx) (u : UIx) (s : State) : Host.Outcome State Fault Refusal :=
  let x := s.tiu g u
  if x.st != .waitGate || !s.measOver x (·.timeout) then .next s
  else .next (s.setTiu g u { x with st := .idle, meas := none, timedOut := true }).tiusDone

/-- TIU_WINDOW_END (R279, R282): WINDOW µs after arming. -/
def execTiuWindowEnd (g : GIx) (u : UIx) (s : State) : Host.Outcome State Fault Refusal :=
  if (s.tiu g u).st == .armed && s.measOver (s.tiu g u) (·.window) then .next (s.closeTiu g u 0) else .next s

/-- The span of the coarse counter, 2^48 TUCLK cycles of 1/3 ns, in ns. -/
def coarseSpan : Nat := 2 ^ 48 / 3

/-- Has a unit under SERVICE arming measured for 2^48 TUCLK cycles (R281)? -/
def State.serviceOver (s : State) (g u : Nat) : Bool :=
  (s.tiu g u).st == .service && match (s.tiu g u).meas with | some m => s.passed m.atNs coarseSpan | none => false

/-- TIU_SERVICE_OVERFLOW (R281): a SERVICE measurement closes with OVERFLOW and no value. -/
def execTiuServiceOverflow (g : GIx) (u : UIx) (s : State) : Host.Outcome State Fault Refusal :=
  if s.serviceOver g u then .next (s.closeTiu g u tfOverflow) else .next s

/-! ## TREF (R272, R277, R278) -/

/-- Every armed measurement overlaps a time during which TUCLK is not locked to TREF. -/
def State.markFallback (s : State) : State :=
  { s with gathers := s.gathers.map fun g => (g.1, { g.2 with tius := g.2.tius.map fun u =>
      (u.1, if u.2.st == .armed then { u.2 with meas := u.2.meas.map fun m => { m with fallback := true } } else u.2) }) }

/-- TREF_LOSS (R278). Where the PLL runs on REFCLK, the TREF lost is one that was back for less than 100 ms: the advisory is posted, and the 100 ms
begin anew. [DEDUCED, unsafe: log 40.] -/
def execTrefLoss (s : State) : Host.Outcome State Fault Refusal :=
  let s := { s with tref := { s.tref with present := false, freq := 0, fallback := true, lossNs := s.upNs
                                          relockNs := if s.tref.present then some s.upNs else s.tref.relockNs } }
  .next (s.markFallback.advise fTrefLoss hDevice)

/-- TREF_RETURN (R278): 10 MHz or 100 MHz, present for the 100 ms since it was last absent. [DEDUCED, unsafe: log 40.] -/
def execTrefReturn (mhz100 : Bool) (s : State) : Host.Outcome State Fault Refusal :=
  if s.tref.present || !s.passed s.tref.lossNs 100000000 then .next s
  else
    let s := { s with tref := { s.tref with present := true, freq := if mhz100 then 2 else 1, fallback := false, relockNs := none } }
    .next (s.markFallback.advise fTrefBack hDevice)

/-- TUCLK_WRAP (R272): the coarse counter has counted 2^48 cycles and is zero again; EPOCH saturates. -/
def execTuclkWrap (s : State) : Host.Outcome State Fault Refusal :=
  if !s.passed s.tref.zeroNs coarseSpan then .next s
  else .next { s with tref := { s.tref with epoch := sat16 s.tref.epoch, zeroNs := s.tref.zeroNs + coarseSpan } }

/-! ## Commands -/

/-- TIU_BUSY, or MEMBER_BUSY on a cane, while any unit is not IDLE, one in SERVICE too (R290): a write so refused reaches no element in the sense of
R349. [DEDUCED, unsafe: log 43.] -/
def State.tiusIdle (s : State) (t : Tgt) : Half :=
  if t.units.all fun u => (s.tiu (u / 4) (u % 4)).st == .idle then stOK else t.busy stTiuBusy

/-- A channel's KIND, SRC and EDGE are in range (R275, Table 11-1). -/
def tiuChannelOk (stop : Bool) (v : Word) : Bool :=
  let edge := tiuEdge stop v
  edge != 3 && match tiuKind stop v with
  | 4 => tiuSrc stop v < 16 && edge == 0
  | 5 => tiuSrc stop v < 2
  | 6 => tiuSrc stop v < 4
  | 7 => true
  | _ => tiuSrc stop v < 16

/-- COUNT's range in a mode (Table 11-3). -/
def tiuCountOk (mode n : Nat) : Bool :=
  match mode with
  | 2 => decide (2 ≤ n ∧ n ≤ 16777216)
  | 3 => decide (1 ≤ n ∧ n ≤ 512)
  | _ => decide (1 ≤ n ∧ n ≤ 16777216)

/-- The refusals of R290 and reserved bits. -/
def tiuConfigOk (cfg src cnt : Word) : Bool :=
  let mode := tiuMode cfg
  let single := mode == 2 || mode == 3
  bits cfg.toNat 31 12 == 0 && bits cfg.toNat 4 3 == 0 && mode ≤ 4 && (!tiuSub cfg || mode == 4) &&
    bits src.toNat 26 21 == 0 && bits src.toNat 10 5 == 0 && tiuChannelOk false src &&
    (if single then bits src.toNat 31 16 == 0 else tiuChannelOk true src) && bits cnt.toNat 31 25 == 0 && tiuCountOk mode cnt.toNat

/-- [See R293.] -/
def tiuConfigBody (s : State) (r : Req) : State × Act :=
  let t := s.target r
  let cfg := w32 r.payload 0
  let src := w32 r.payload 4
  let cnt := w32 r.payload 8
  guarded s (checks [needLen r 12, unless' (tiuConfigOk cfg src cnt) stBadField, s.tiusIdle t]) fun _ =>
    let s := forAll t.units (fun s u => s.setTiu (u / 4) (u % 4) { s.tiu (u / 4) (u % 4) with cfg := cfg, src := src, count := cnt.toNat }) s
    (s, s.configAct t)

/-- A unit starts: it waits for its gate, or under LEVEL is armed at once by a gate that is asserted. [DEDUCED, unsafe: log 42.] -/
def State.startTiu (s : State) (u : Nat) (m : TiuMeas) : State :=
  let x := s.tiu (u / 4) (u % 4)
  let m := { m with mark := (s.line (gateKey (u / 4) (tiuGateIx x.cfg))).events, atNs := s.upNs }
  let x := { x with st := .waitGate, meas := some m, stamps := [], result := none, timedOut := false }
  let on := !tiuEdgeGate x.cfg && s.lvl (gateKey (u / 4) (tiuGateIx x.cfg))
  s.setTiu (u / 4) (u % 4) (if on then x.arm s.netNs s.upNs s.tref.fallback else x)

/-- [See R292.] -/
def tiuStartBody (s : State) (r : Req) : State × Act :=
  let t := s.target r
  let p := r.payload
  let live := s.liveUnits t
  guarded s (checks [needLen r 24, unless' (u32 p 0 != 0 && u32 p 4 != 0) stNoTimeout, unless' (i64 p 8 ≤ i64 p 16) stBadField,
      s.tiusIdle t, unless' (t.cane.isSome || !live.isEmpty) stSafeState]) fun _ =>
    let m : TiuMeas := { timeout := u32 p 0, window := u32 p 4, lo := i64 p 8, hi := i64 p 16 }
    if live.isEmpty then (s, .members t (s.safePos t) [] tiuLayout)
    else (forAll live (fun s u => s.startTiu u m) s, .wait { kind := .tiuRun, units := live, safe := s.safePos t, nums := [u32 p 0, u32 p 4] })

def tiuAbortBody (s : State) (r : Req) : State × Act :=
  let t := s.target r
  guarded s (needLen r 0) fun _ =>
    let s := forAll t.units (fun s u => if (s.tiu (u / 4) (u % 4)).st == .idle then s else s.closeTiu (u / 4) (u % 4) tfAborted) s
    (s, s.configAct t)

def tiuStampsBody (s : State) (r : Req) : State × Act :=
  let t := s.target r
  let us := if t.cane.isSome then s.liveUnits t else t.units
  let first := u16 r.payload 0
  let n := u16 r.payload 2
  guarded s (checks [needLen r 8, firstStatus us fun u => rangeOf first n (s.tiu (u / 4) (u % 4)).stamps.length, unless' (zeros r.payload 4 4) stBadField,
      firstStatus us fun u => unless' ((s.tiu (u / 4) (u % 4)).st == .idle) (t.busy stTiuBusy)]) fun _ =>
    (s, s.readMembers t (fun u => { bytes := (slice (s.tiu (u / 4) (u % 4)).stamps first n).flatMap fun w => toLE 8 w.toNat }) { len := 8 * n, grain := 8 })
where rangeOf (first n stored : Nat) : Half := unless' (first ≤ 511 && 1 ≤ n && n ≤ 496 && first + n ≤ stored) stBadRange

def tiuStatusBody (s : State) (r : Req) : State × Act :=
  let t := s.target r
  guarded s (needLen r 0) fun _ =>
    if t.cls == cDevice then (s, .ok (toLE 4 s.trefImage))
    else (s, s.readMembers t (fun u => { bytes := toLE 4 ((s.tiu (u / 4) (u % 4)).st.code + 8 * b2n s.tref.fallback) }) { len := 4, flag := some 0 })

def tiuReadBody (s : State) (r : Req) : State × Act :=
  guarded s (needLen r 0) fun _ =>
    (s, s.readMembers (s.target r) (fun u =>
      let x := s.tiu (u / 4) (u % 4)
      { bytes := toLE 4 x.cfg.toNat ++ toLE 4 x.src.toNat ++ toLE 4 x.count }) { len := 12 })

/-- The end of one unit's self-test (R294): the outcome, the rms error and the deviation are measured, so they are free; a failure raises
TIU_SELFTEST for its gather. A unit that the self-test has not armed, or whose arming has ended early, is left out. [DESIGN CHOICE, unsafe: log 8; DESIGN CHOICE, safe: log 44.] -/
def State.selftestUnit (armed : List Nat) (acc : State × MemRec) (u : Nat) : State × MemRec :=
  let (s, r) := acc
  let put := fun (outcome rms dev : Nat) => toLE 2 (0x5000 + u) ++ toLE 2 outcome ++ toLE 4 rms ++ toLE 4 dev
  if !armed.contains u || (s.tiu (u / 4) (u % 4)).st != .service then (s, { r with bytes := r.bytes ++ put 2 0 0 })
  else
    let s := s.freeService (u / 4) [u % 4]
    let (pass, s) := s.choose
    let (rms, s) := s.fresh
    let (dev, s) := s.fresh
    let s := if pass then s else s.raise fTiuSelftest (s.gHandle (u / 4)) (BitVec.ofNat 32 (0x5000 + u))
    (s, { bytes := r.bytes ++ put (b2n pass) rms dev, failed := r.failed || !pass })

/-- The end of the self-tests of a gather's four units. -/
def State.selftestGather (armed : List Nat) (acc : State × List (Nat × MemRec)) (pg : Nat × Nat) : State × List (Nat × MemRec) :=
  let (s, r) := (List.range 4).foldl (fun a k => State.selftestUnit armed a (4 * pg.2 + k)) (acc.1, { bytes := [] })
  (s, acc.2 ++ [(pg.1, r)])

/-- The gathers that a self-test tests: all 64 of the device, or the live members of its target, by position. -/
def Tgt.tested (t : Tgt) (safe : List Nat) : List (Nat × Nat) :=
  if t.cls == cDevice then (List.range 64).map fun g => (g, g) else t.here.filter fun pg => !safe.contains pg.1

/-- Self-tests whose time has come end: their units become IDLE and the commands answer. -/
def State.selftestsDone (s : State) : State :=
  forAll (s.waiters .selftest) (fun s m =>
    match s.waiting m with
    | some (_, w) =>
      if s.upNs < w.nums.headD 0 then s
      else
        let (s, recs) := (w.tgt.tested w.safe).foldl (State.selftestGather w.units) (s, [])
        s.respond m (us 2000) (if w.tgt.cls == cDevice then { blocks := recs.map fun x => x.2.bytes } else memberReply w.tgt w.safe recs { len := 48 })
    | none => s) s

/-- TIU_SELFTEST: every idle unit of the target is armed under SERVICE, for a time within the 2 ms of R290 that is open (none on a
twin-spanning cane, whose other half answers by itself); TIU_BUSY with no idle unit, and the answer of R49 with no live member. [DESIGN CHOICE, safe: log 44.] -/
def tiuSelftestBody (s : State) (r : Req) : State × Act :=
  let t := s.target r
  let safe := if t.cane.isSome then s.safePos t else []
  let gs := t.tested safe
  let idle := (gs.flatMap fun pg => (List.range 4).map (4 * pg.2 + ·)).filter fun u => (s.tiu (u / 4) (u % 4)).st == .idle
  guarded s (checks [needLen r 0, unless' (gs.isEmpty || !idle.isEmpty) stTiuBusy]) fun _ =>
    if gs.isEmpty then (s, .members t safe [] { len := 48 })
    else
      let (d, s) := s.fresh
      let s := forAll idle (fun s u => s.setTiu (u / 4) (u % 4) ((s.tiu (u / 4) (u % 4)).serve s.netNs s.upNs s.tref.fallback)) s
      if s.namesSpan r then
        let (s, recs) := gs.foldl (State.selftestGather idle) (s, [])
        (s, .members t safe recs { len := 48 })
      else (s, .wait { kind := .selftest, units := idle, safe := safe, nums := [s.upNs + d % us 1900] })

/-- TIU_CONFIG. -/
def execTiuConfig (r : Req) (s : State) : Host.Outcome State Fault Refusal := .next (s.firmware 0x0801 (us 20) [5, 0xC] r tiuConfigBody)
/-- TIU_START: holds its mailbox until the measurement closes (R288). -/
def execTiuStart (r : Req) (s : State) : Host.Outcome State Fault Refusal := .next (s.firmware 0x0802 0 [5, 0xC] r tiuStartBody)
/-- TIU_ABORT. -/
def execTiuAbort (r : Req) (s : State) : Host.Outcome State Fault Refusal := .next (s.firmware 0x0803 (us 10) [5, 0xC] r tiuAbortBody)
/-- TIU_STAMPS. -/
def execTiuStamps (r : Req) (s : State) : Host.Outcome State Fault Refusal := .next (s.firmware 0x0804 (us 50) [5, 0xC] r tiuStampsBody)
/-- TIU_STATUS. -/
def execTiuStatus (r : Req) (s : State) : Host.Outcome State Fault Refusal := .next (s.firmware 0x0805 (us 20) [5, 8, 0xC] r tiuStatusBody)
/-- TIU_SELFTEST. -/
def execTiuSelftest (r : Req) (s : State) : Host.Outcome State Fault Refusal := .next (s.firmware 0x0806 (us 2000) [6, 8, 0xC] r tiuSelftestBody)
/-- TIU_READ. -/
def execTiuRead (r : Req) (s : State) : Host.Outcome State Fault Refusal := .next (s.firmware 0x0807 (us 20) [5, 0xC] r tiuReadBody)

end Sys2Proof.Machine
end

