-- ==== Sys2Proof/Machine/Time.lean ====
section
/-!
DEFINITION. Network time: the counter, steps and the servo (R430–R436), the time-compare units (R437–R440), and their commands.
-/
namespace Sys2Proof.Machine

/-! ## The counter -/

/-- One TSCLK edge, 4 ns: the counter adds the increment in force, then a written one comes into force (R430, R433). In DORMANT the
counter stands still. [DESIGN CHOICE, unsafe: log 2, 10.] -/
def State.tick (s : State) : State :=
  if s.power.pstate == 3 then { s with upNs := s.upNs + 4 }
  else { s with upNs := s.upNs + 4, time := { s.time with net := (s.time.net + s.time.incrNow) % 2 ^ 96, incrNow := s.time.incr } }

/-- The PCLK cycles, waves in Hatch, that go by with one edge of the time base (R331). -/
def wavesPerTick : Nat := 3

/-- An edge of the time base with no command waiting: the counter counts, self-tests end in their time, and what is in flight in Hatch goes on: an event recurs in a closed loop as
long as the loop stays closed (R331). [DESIGN CHOICE, unsafe: log 2, 21.] -/
def State.idle (s : State) : State :=
  let t := s.tick.selftestsDone
  if t.hatch.inflight.isEmpty then t
  else ((t.setHatch { t.hatch with inflight := [] }).waves wavesPerTick t.hatch.inflight).syncAfter

/-- A change to the SYNC field or the servo's state. -/
def State.modTime (s : State) (f : NetTime → NetTime) : State := { s with time := f s.time }

/-! ## Time-compare units -/


/-- Is now − target, as a signed 64-bit difference, 0 or more (R437)? -/
def reached (now target : Nat) : Bool := (now + 2 ^ 64 - target % 2 ^ 64) % 2 ^ 64 < 2 ^ 63

/-- A unit after its firing (R438): ONCE disarms; PERIODIC takes the first target in the future, counting what it skips. -/
def Tcmp.fired (x : Tcmp) (now : Nat) : Tcmp :=
  let x := { x with fires := x.fires + 1 }
  if x.mode != 2 || x.period == 0 then { x with armed := false }
  else
    let next := (x.target + x.period) % 2 ^ 64
    if !reached now next then { x with target := next }
    else
      let k := (now + 2 ^ 64 - next) % 2 ^ 64 / x.period + 1
      { x with target := (next + k * x.period) % 2 ^ 64, stepped := true, skipped := satAdd 3 x.skipped k }

/-- Does a stroke, a capture or a measurement wait for a unit's match (R90, R203, Table 12-3)? -/
def State.tcmpAwaited (s : State) (n : Nat) : Bool :=
  let due := fun (q : Seq) => q.live && q.start == some (2, n)
  (s.gathers.any fun g => due g.2.seq
      || (g.2.smus.any fun u => match u.2.meas with | some q => !q.started && q.mode == 2 && q.source == n | none => false)
      || g.2.digs.any fun d => d.2.st != .idle && bits d.2.trig.toNat 31 30 == 3 && bits d.2.trig.toNat 25 21 == n)
    || s.progs.any fun p => due p.2.seq

/-- Fire a unit: its pulse is device producer n (Table 13-2). Consumers that wait in TIME mode take it by their own start rows. In IDLE a firing that something waits for returns the
device to ACTIVE (R543). [DEDUCED, unsafe: log 28.] -/
def State.fireTcmp (s : State) (n : Nat) (late stepped : Bool) : State :=
  let x := s.tcmp n
  let x := { x with late := x.late || late, stepped := x.stepped || stepped }
  let s := if s.power.pstate == 2 && s.tcmpAwaited n then s.setPstate 1 else s
  (s.setTcmp n (x.fired s.netNs)).syncAll [] [n]

/-- TCMP_FIRE: a unit that is armed and has reached its TARGET. -/
def execTcmpFire (n : Fin 16) (s : State) : Host.Outcome State Fault Refusal :=
  let x := s.tcmp n.val
  .next (if x.armed && reached s.netNs x.target && s.power.pstate != 3 then s.fireTcmp n.val false false else s)

/-- A step of ADJ ns at one TSCLK edge (R432); a forward step past an armed TARGET fires its unit there (R439). -/
def State.stepTime (s : State) (adj : Int) (forced : Bool) : State :=
  let old := s.netNs
  let s := s.modTime fun t => { t with net := (((t.net : Int) + adj * 2 ^ 32) % (2 ^ 96 : Int)).toNat, forced := t.forced || forced
                                       stepped := true }
  let passed := (List.range 16).filter fun n =>
    (s.tcmp n).armed && 0 < adj && !reached old (s.tcmp n).target && reached s.netNs (s.tcmp n).target
  forAll passed (fun s n => s.fireTcmp n false true) s

/-- A refused step (R432). -/
def State.refuseStep (s : State) : State := (s.modTime fun t => { t with refused := true }).advise fTimeStep hDevice

/-! ## IEEE 1588 -/

/-- The time at which a message passes the PCS boundary, stamped by the MAC in quarters of a ns (R434), in twentieths of a ns. -/
def State.macStamp (s : State) (quarter : Fin 16) : Int := ((s.time.net * 4 / 2 ^ 32 + quarter.val) * 5 : Nat)

/-- A stamp as reported (R434, Table 17-2): the ingress correction and the card's trace are taken off. -/
def Port.ingress (x : Port) (stamp : Int) : Int := stamp - 2 * (if x.fec then 2533 else 485) - 2 * (x.ing : Int)

/-- A stamp as reported (R434, Table 17-2): the egress correction and the card's trace are added. -/
def Port.egress (x : Port) (stamp : Int) : Int := stamp + 2 * (if x.fec then 426 else 362) + 2 * (x.egr : Int)

/-- A correction field, in 2^-16 ns, in twentieths of a ns. -/
def corrUnits (corr : Int) : Int := corr * 20 / 65536

/-- Three Sync intervals of 2^log s, in ns. -/
def syncIntervals (log : Int) : Nat := if 0 ≤ log then 3 * 10 ^ 9 * 2 ^ min log.toNat 32 else 3 * 10 ^ 9 / 2 ^ min log.natAbs 32

/-- A measured offset ends the HOLDOVER of a refused step once it is within THRESH, and 16 in a row below 100 ns lock (R432, R436). -/
def NetTime.measure (t : NetTime) (offset : Int) : NetTime :=
  let good := if offset.natAbs < 100 then min 16 (t.good + 1) else 0
  let t := { t with offset := offset, good := good }
  let t := match t.syncBefore with
    | some b => if offset.natAbs ≤ t.thresh then { t with sync := b, syncBefore := none } else t
    | none => t
  if good == 16 && t.syncBefore.isNone then { t with sync := 1 } else t

/-- The servo's own step of −offset: the first after SYNC NONE is forced, another beyond THRESH is refused and leaves HOLDOVER. [DESIGN CHOICE, safe: log 50.] -/
def State.servoStep (s : State) (offset : Int) : State :=
  if !s.time.stepped then s.stepTime (-offset) true
  else if offset.natAbs > s.time.thresh then
    s.refuseStep.modTime fun t => { t with sync := 2, syncBefore := some (t.syncBefore.getD t.sync) }
  else (s.stepTime (-offset) false).modTime fun t =>
    match t.syncBefore with
    | some b => { t with sync := b, syncBefore := none }
    | none => t

/-- A rate within ±500 ppm, as the servo writes it. [DESIGN CHOICE, safe: log 50.] -/
def servoIncr (v : Nat) : Nat := 17171279347 + 1 + v % 17179869

/-- Does the port carry the PTP clock now? -/
def State.ptpOn (s : State) (p : Nat) : Bool := s.time.ptpPort == p && (s.port p).up && s.processorRuns

/-- With SERVO INTERNAL the firmware writes TIME_INCR and steps; how far the servo steers by rate and when it steps is its own. -/
def State.servo (s : State) (offset : Int) : State :=
  if s.time.host then s
  else
    let (v, s) := s.fresh
    let (asks, s) := s.choose
    let s := s.modTime fun t => { t with incr := servoIncr v }
    if !s.time.stepped || offset.natAbs > s.time.thresh || asks then s.servoStep offset else s

/-- A Sync's stamp less its origin, in twentieths of a ns: less the mean path delay it is the offset, which the servo takes up. [DESIGN CHOICE, unsafe: log 131.] -/
def State.synced (s : State) (diff : Int) : State :=
  let offset := (diff - s.time.pathDelay) / 20
  (s.modTime fun t => ({ t with syncIn := none, syncDiff := some diff } : NetTime).measure offset).servo offset

/-- PTP_SYNC: a two-step Sync waits for its Follow_Up. [DESIGN CHOICE, safe: log 50; DESIGN CHOICE, unsafe: log 131.] -/
def execPtpSync (port : Two) (m : PtpSync) (s : State) : Host.Outcome State Fault Refusal :=
  if !s.ptpOn port.val then .next s
  else
    let t := (s.port port.val).ingress (s.macStamp m.quarter) - corrUnits m.corr
    let s := s.modTime fun x => { x with synced := true, syncNs := s.upNs, syncSpan := syncIntervals m.log }
    .next (if m.twoStep then s.modTime fun x => { x with syncIn := some t } else s.synced (t - 20 * (m.origin : Int)))

/-- SYNC_TIMEOUT: three Sync intervals without a Sync. [DEDUCED, unsafe: log 51.] -/
def execSyncTimeout (s : State) : Host.Outcome State Fault Refusal :=
  .next (if s.time.ptpPort == 3 || !s.time.synced || !s.passed s.time.syncNs s.time.syncSpan then s else s.modTime fun t => { t with sync := 2, good := 0, syncBefore := none })

/-- A mean path delay, from twice itself, of the delay mechanism that PTP_CONFIG names. -/
def State.delayed (s : State) (p2p : Bool) (twice : Int) : State :=
  if bit s.time.ptpMode 1 == p2p then s.modTime fun t => { t with pathDelay := twice / 2 } else s

/-- PTP_MESSAGE (R435): the offset of a two-step Sync, the mean path delay, end to end or peer to peer, the best master, and the answer to
a Pdelay_Req with its own stamps. [DESIGN CHOICE, unsafe: log 131.] -/
def execPtpMessage (port : Two) (m : PtpMsg) (s : State) : Host.Outcome State Fault Refusal :=
  if !s.ptpOn port.val then .next s
  else .next (match m with
    | .announce gm better => if better then s.modTime fun t => { t with grandmaster := gm } else s
    | .followUp origin corr => match s.time.syncIn with
      | some t => s.synced (t - 20 * (origin : Int) - corrUnits corr)
      | none => s
    | .delayResp egress received corr => match s.time.syncDiff with
      | some d => s.delayed false (d + 20 * (received : Int) - (s.port port.val).egress (5 * (egress : Int)) - corrUnits corr)
      | none => s
    | .pdelayResp egress quarter turn =>
      let x := s.port port.val
      s.delayed true (x.ingress (s.macStamp quarter) - x.egress (5 * (egress : Int)) - corrUnits turn)
    | .pdelayReq quarter egress =>
      let x := s.port port.val
      s.send port.val (.pdelayResp (x.ingress (s.macStamp quarter)) (x.egress (5 * (egress : Int))) (bit s.time.ptpMode 0)))

/-! ## Commands (Table 17-8) -/

def ptpConfigBody (s : State) (r : Req) : State × Act :=
  let p := r.payload
  let c := u32 p 8
  guarded s (checks [needLen r 12,
      unless' ((u8 p 0 ≤ 1 || u8 p 0 == 3) && u8 p 1 ≤ 127 && u8 p 2 ≤ 3 && u8 p 3 ≤ 2 && zeros p 4 4 && !bit c 30
        && 1 ≤ bits c 29 0 && bits c 29 0 ≤ 1000000000) stBadField]) fun _ =>
    (s.modTime fun t => { t with ptpPort := u8 p 0, domain := u8 p 1, ptpMode := u8 p 2, transport := u8 p 3, host := bit c 31
                                 thresh := bits c 29 0 }, .ok)

/-- The TIME_STATUS register. [See R447.] [DEDUCED, unsafe: log 133.] -/
def State.timeImage (s : State) : Nat :=
  let t := s.time
  b2n t.forced * 128 + b2n t.refused * 64 + b2n (s.port 1).up * 32 + b2n (s.port 0).up * 16 + t.ptpPort * 4 + t.sync

/-- [See R448.] [DESIGN CHOICE, unsafe: log 8.] -/
def timeStatusBody (s : State) (r : Req) : State × Act :=
  let t := s.time
  guarded s (needLen r 0) fun _ =>
    (s, .ok (toLE 4 (b2n t.host * 2 ^ 31 + t.thresh) ++ toLE 4 s.timeImage ++ toLE 8 t.incr ++ toLEi 8 t.offset ++ toLEi 8 (t.pathDelay / 20)
      ++ toLE 8 t.grandmaster.toNat))

/-- TIME_INCR of 3.998–4.002 ns (R431). -/
def incrOk (v : Nat) : Bool := v < 2 ^ 40 && decide (3998 * 2 ^ 32 ≤ 1000 * v ∧ 1000 * v ≤ 4002 * 2 ^ 32)

def timeAdjustBody (s : State) (r : Req) : State × Act :=
  let v := u64 r.payload 0
  guarded s (checks [needLen r 8, unless' (incrOk v) stBadField]) fun _ => (s.modTime fun t => { t with incr := v }, .ok)

def timeStepBody (s : State) (r : Req) : State × Act :=
  let p := r.payload
  let adj := i64 p 0
  let force := bit (u8 p 8) 0
  guarded s (checks [needLen r 12, unless' (u8 p 8 ≤ 1 && zeros p 9 3) stBadField]) fun _ =>
    if adj.natAbs > s.time.thresh && !force then (s.refuseStep, .st stBadRange) else (s.stepTime adj force, .ok)

def tcmpArmBody (s : State) (r : Req) : State × Act :=
  let p := r.payload
  let n := u8 p 0
  let mode := u8 p 1
  let per := u32 p 4
  guarded s (checks [needLen r 16,
      unless' (n ≤ 15 && mode ≤ 2 && zeros p 2 2 && (if mode == 2 then 1000 ≤ per && per ≤ 4000000000 else per == 0)) stBadField]) fun _ =>
    let s := s.setTcmp n { mode := mode, armed := mode != 0, target := u64 p 8, period := per, fires := (s.tcmp n).fires }
    ((if mode != 0 && reached s.netNs (u64 p 8) then s.fireTcmp n true false else s), .ok)

/-- TCMPn_CFG, TARGET and PERIOD. -/
def Tcmp.image (x : Tcmp) : List Byte :=
  toLE 4 (b2n x.late * 128 + b2n x.stepped * 64 + b2n x.aborted * 32 + b2n x.armed * 16 + x.skipped * 4 + x.mode)
    ++ toLE 8 x.target ++ toLE 4 x.period

def tcmpStatusBody (s : State) (r : Req) : State × Act :=
  guarded s (needLen r 0) fun _ => (s, .ok ((List.range 16).flatMap fun n => (s.tcmp n).image))

/-- PTP_CONFIG. -/
def execPtpConfig (r : Req) (s : State) : Host.Outcome State Fault Refusal := .next (s.firmware 0x0C03 (us 50) [8] r ptpConfigBody)
/-- TIME_STATUS. -/
def execTimeStatus (r : Req) (s : State) : Host.Outcome State Fault Refusal := .next (s.firmware 0x0C04 (us 20) [8] r timeStatusBody)
/-- TIME_ADJUST. -/
def execTimeAdjust (r : Req) (s : State) : Host.Outcome State Fault Refusal := .next (s.firmware 0x0C05 (us 20) [8] r timeAdjustBody)
/-- TIME_STEP. -/
def execTimeStep (r : Req) (s : State) : Host.Outcome State Fault Refusal := .next (s.firmware 0x0C06 (us 20) [8] r timeStepBody)
/-- TCMP_ARM. -/
def execTcmpArm (r : Req) (s : State) : Host.Outcome State Fault Refusal := .next (s.firmware 0x0C07 (us 20) [8] r tcmpArmBody)
/-- TCMP_STATUS. -/
def execTcmpStatus (r : Req) (s : State) : Host.Outcome State Fault Refusal := .next (s.firmware 0x0C08 (us 20) [8] r tcmpStatusBody)

end Sys2Proof.Machine
end

