-- ==== Sys2Proof/Machine/Transport.lean ====
section
/-!
DEFINITION. The bytes of a request (R399–R402), response windows and their acknowledgement (R406–R408), mailbox 7 (R416, R417), and the
resends of R428.
-/
namespace Sys2Proof.Machine

/-! ## The bytes of a request and of a response (Tables 16-2, 16-3) -/

def windowBytes : Nat := 4096

/-- Round up to a multiple of 4. -/
def pad4 (n : Nat) : Nat := (n + 3) / 4 * 4

/-- A payload with its header, padding and CRC (R399, R400). -/
def framed (header payload : List Byte) : List Byte :=
  let b := header ++ payload
  b ++ List.replicate (pad4 payload.length - payload.length) 0#8 ++ toLE 4 (crc32c b).toNat

def Part.bytes (p : Part) : List Byte :=
  framed (toLE 2 p.opcode.toNat ++ toLE 2 p.tag.toNat ++ toLE 4 p.payload.length ++ toLE 2 p.status.toNat
    ++ toLE 1 (b2n p.late) ++ toLE 1 p.part ++ toLE 4 p.elapsed.toNat) p.payload

/-- Read a window as a request: its opcode, its fields, and what steps 2 and 3 of R402 say. [DEDUCED, unsafe: log 22.] -/
def parseReq (m : Fin 7) (b : List Byte) : Half × Req × Half :=
  let len := u32 b 4
  let st := if len > 4076 then stBadEnvelope
    else if u32 b (16 + pad4 len) != (crc32c (b.take (16 + len))).toNat then stBadCrc else stOK
  (h16 b 0, { mbx := m, tag := h16 b 2, target := w32 b 8, flags := h16 b 12, rsv := h16 b 14
              payload := if len > 4076 then [] else slice b 16 len }, st)

/-- Are the MBX_ registers answered (R390)? In DORMANT writes to them are discarded. [DEDUCED, unsafe: log 64.] -/
def State.mbxAnswers (s : State) : Bool := s.power.pstate != 3

/-! ## Acknowledgement -/

/-- The last 16 transaction numbers of a mailbox (R427). -/
def keepXseq (l : List Word) (x : Option Word) : List Word :=
  match x with
  | some w => (l ++ [w]).drop ((l ++ [w]).length - 16)
  | none => l

/-- What begins when a response is acknowledged in its mailbox: the reset of SYS_RESET or of a lifecycle transition, the change of power state
of SYS_POWER (R420). Responses of one mailbox are acknowledged in the order in which they were formed. -/
def State.afterAck (s : State) (m : Nat) (op st : Half) : State :=
  if st != stOK then s
  else if op == 0x0105 || op == 0x0F0A then
    match s.power.resetDue.find? (·.mbx == m) with
    | some d => s.orderlyReset d.code
    | none => s
  else if op == 0x0106 then
    match s.power.stateDue.find? (·.mbx == m) with
    | some d => { s with power := { s.power with stateDue := s.power.stateDue.erase d } }.enterPower d.code
    | none => s
  else s

/-- Acknowledge the part shown in a mailbox where the word is its TAG (R408); the last part of a command returns its credit. -/
def State.ackPart (s : State) (m : Nat) (word : Word) : State :=
  let x := s.mailbox m
  match x.shown with
  | none => s
  | some (e, p) =>
    if word != p.tag.setWidth 32 then s
    else
      match e.phase with
      | .formed (_ :: q :: ps) =>
        (s.setMbx m { x with entries := { e with phase := .formed (q :: ps) } :: x.entries.tail, sends := 0 }).pumpMbx m
      | _ =>
        let s := s.setMbx m { x with entries := x.entries.tail, sends := 0, doneXseq := keepXseq x.doneXseq e.xseq }
        (s.pumpMbx m).afterAck m e.opcode p.status

/-- Acknowledge the batch shown with BATCH[15:0] (R417). -/
def State.ackBatch (s : State) (word : Word) : State :=
  let o := s.outbox
  if o.shown.isNone || word != (o.batch.setWidth 16).setWidth 32 then s
  else { s with outbox := { o with shown := none, batch := o.batch + 1, sends := 0 } }

/-- RESPONSE_ACK: a write of a word into the response window of a mailbox; only offset 0 acknowledges. -/
def execResponseAck (m : Fin 8) (offset : BitVec 12) (word : Word) (s : State) : Host.Outcome State Fault Refusal :=
  .next (if offset != 0 || !s.mbxAnswers then s else if m.val == 7 then s.ackBatch word else s.ackPart m.val word)

/-- NOTIFY_BATCH_ACK. -/
def execNotifyBatchAck (offset : BitVec 12) (word : Word) (s : State) : Host.Outcome State Fault Refusal :=
  .next (if offset != 0 || !s.mbxAnswers then s else s.ackBatch word)

/-! ## Mailbox 7 -/

/-- The bytes of the batch shown (Table 16-5). -/
def Outbox.bytes (o : Outbox) : List Byte :=
  match o.shown with
  | none => []
  | some (es, ns) =>
    let b := toLE 4 o.batch.toNat ++ toLE 2 es.length ++ toLE 2 0 ++ toLE 8 ns ++ es.flatten
    b ++ toLE 4 (crc32c b).toNat

/-- The ports that carry mailboxes. -/
def State.mbxPorts (s : State) : List Nat := [0, 1].filter fun p => (s.port p).enable && (s.port p).mailbox

def State.sendBatch (s : State) : State := forAll s.mbxPorts (fun s p => s.send p (.batch s.outbox.bytes)) s

/-- NOTIFY_BATCH_FORM. -/
def execNotifyBatchForm (s : State) : Host.Outcome State Fault Refusal :=
  let q := s.hatch.queue
  if q.isEmpty || s.outbox.shown.isSome || s.power.pstate == 3 then .next s
  else
    let s := s.setHatch { s.hatch with queue := q.drop 254 }
    let s := { s with outbox := { s.outbox with shown := some (q.take 254, s.netNs), formed := s.outbox.formed + 1, sends := 1, sendNs := s.upNs } }
    .next s.sendBatch

/-! ## Addresses of the ports -/

/-- The MAC address of a port (R423). -/
def portMac (p : Nat) : BitVec 48 := Config.macOf ((List.range 4).map Config.deviceId) p

/-- The IPv6 link-local address formed from a MAC address (R520). [PRESUMED, unsafe: log 151.] -/
def linkLocal (mac : BitVec 48) : List Byte :=
  let m := be 6 mac.toNat
  [0xFE#8, 0x80#8, 0#8, 0#8, 0#8, 0#8, 0#8, 0#8, byteAt m 0 ^^^ 2#8] ++ slice m 1 2 ++ [0xFF#8, 0xFE#8] ++ slice m 3 3

/-! ## Resends (R428) -/

/-- Send the shown part of mailbox 2 or 3 again. -/
def State.sendShown (s : State) (m : Nat) : State :=
  match (s.mailbox m).shown with
  | some (e, p) => s.send (m - 2) (.response m (e.xseq.getD 0) p)
  | none => s

/-- The spacing of the resends (R428). -/
def resendNs : Nat := 10 ^ 6

/-- RESPONSE_RESEND_TIMER: 1 ms after the last send, at most 3 sends in all. -/
def execResponseResendTimer (m : Fin 8) (s : State) : Host.Outcome State Fault Refusal :=
  if m.val == 7 then
    .next (if s.outbox.shown.isSome && s.outbox.sends < 3 && !s.mbxPorts.isEmpty && s.passed s.outbox.sendNs resendNs then
      { s with outbox := { s.outbox with sends := s.outbox.sends + 1, sendNs := s.upNs } }.sendBatch else s)
  else if m.val == 2 || m.val == 3 then
    let x := s.mailbox m.val
    .next (if x.shown.isSome && x.sends < 3 && s.passed x.sendNs resendNs then (s.setMbx m.val { x with sends := x.sends + 1, sendNs := s.upNs }).sendShown m.val else s)
  else .next s

end Sys2Proof.Machine
end

