-- ==== Sys2Proof/Machine/Net.lean ====
section
/-!
DEFINITION. The Ethernet ports (R422–R429) and result export (R441–R445), with the NET and EXPORT commands of Table 17-7.
-/
namespace Sys2Proof.Machine

def State.modPort (s : State) (p : Nat) (f : Port → Port) : State := s.setPort p (f (s.port p))

/-! ## Received frames -/

/-- A port's own IPv4 address, or its IPv6 address (R423). -/
def Port.ip (x : Port) (v6 : Bool) : List Byte := if v6 then slice x.address 8 16 else x.address.take 4

/-- Is an address one of a port's own? One of zeros alone is none. [PRESUMED, unsafe: log 151.] -/
def Port.isOwn (x : Port) (a : List Byte) : Bool := a.any (· != 0) && (a == x.ip false || a == x.ip true)

/-- The HOST address that NET_CONFIG sets. -/
def Port.hostIp (x : Port) : List Byte := if x.ipv6 then x.host else x.host.take 4

/-- Why a port discards a frame, if it does: the first that holds of a bad FCS, a PAUSE frame, a VLAN tag, an IP fragment, an address that is not its own
and, for a mailbox datagram, a source that is not HOST (R422, R423, R426). [DESIGN CHOICE, unsafe: log 149.] -/
def Port.refuses (x : Port) (p : Nat) (mailbox : Bool) (f : EthFrame) : Option FrameFault :=
  if !f.fcsOk then some .badFcs
  else if f.pause then some .pauseFrame
  else if f.tagged then some .tagged
  else if f.fragment then some .fragment
  else if f.dstMac != portMac p && !x.isOwn f.dstIp then some .misaddressed
  else if mailbox && !x.host.isEmpty && f.srcIp != x.hostIp then some .foreignHost
  else none

/-- Count a discarded frame (R422, R423, R426). -/
def Port.discard (x : Port) : FrameFault → Port
  | .tagged => { x with tagged := x.tagged + 1 }
  | .badFcs => { x with badFcs := x.badFcs + 1 }
  | .fragment => { x with fragments := x.fragments + 1 }
  | .misaddressed => { x with misaddressed := x.misaddressed + 1 }
  | .foreignHost => { x with foreign := x.foreign + 1 }
  | .pauseFrame => { x with pauses := x.pauses + 1 }

/-- Is a port in use: enabled by NET_CONFIG, or port 0 under the recovery loader (R520)? [DESIGN CHOICE, unsafe: log 17; DEDUCED, unsafe: log 69.] -/
def State.portOn (s : State) (p : Nat) : Bool := (s.port p).enable || (s.power.img == 2 && p == 0)

/-- Does a port serve its mailbox? -/
def State.portMbx (s : State) (p : Nat) : Bool := ((s.port p).enable && (s.port p).mailbox) || (s.power.img == 2 && p == 0)

/-- A frame that a port receives: nothing while its link is down, and nothing where it is longer than 9,216 bytes; a discarded one is counted; another
is handled. [DEDUCED, unsafe: log 107.] -/
def State.receive (s : State) (p : Nat) (mailbox : Bool) (frame : EthFrame) (f : State → State) : State :=
  if !(s.port p).up || decide (9216 < frame.length) then s
  else match (s.port p).refuses p mailbox frame with
    | some e => s.modPort p (·.discard e)
    | none => f s

/-! ## Mailboxes over UDP -/

/-- Is a transaction number remembered (R427)? -/
def Mailbox.knows (x : Mailbox) (n : Word) : Bool := x.entries.any (fun e => !e.refusal && e.xseq == some n) || x.doneXseq.contains n

/-- UDP_ACK. -/
def execUdpAck (port : Two) (frame : EthFrame) (mbx : Byte) (word : Word) (s : State) : Host.Outcome State Fault Refusal :=
  .next (s.receive port.val true frame fun s =>
    if !s.portMbx port.val then s
    else if mbx.toNat == 2 + port.val then s.ackPart (2 + port.val) word
    else if mbx.toNat == 7 then s.ackBatch word
    else s)

/-- UDP_POLL. -/
def execUdpPoll (port : Two) (frame : EthFrame) (mbx : Byte) (s : State) : Host.Outcome State Fault Refusal :=
  .next (s.receive port.val true frame fun s =>
    if !s.portMbx port.val then s
    else if mbx.toNat == 2 + port.val then s.sendShown (2 + port.val)
    else if mbx.toNat == 7 && s.outbox.shown.isSome then s.send port.val (.batch s.outbox.bytes)
    else s)

/-- Does a request ask in IPv6? -/
def echoV6 : EchoKind → Bool
  | .arp | .icmp => false
  | .neighbour | .icmp6 => true

/-- ARP_NEIGHBOUR_ECHO: a port answers for its own addresses alone. -/
def execArpNeighbourEcho (port : Two) (frame : EthFrame) (kind : EchoKind) (s : State) : Host.Outcome State Fault Refusal :=
  .next (s.receive port.val false frame fun s =>
    let x := s.port port.val
    if x.isOwn frame.dstIp && frame.dstIp == x.ip (echoV6 kind) then s.send port.val (.echo kind) else s)

/-! ## Links (R422, R425) -/

/-- ETH_LINK_UP: what was held is sent. [DESIGN CHOICE, unsafe: log 49; DEDUCED, unsafe: log 107.] -/
def execEthLinkUp (port : Two) (s : State) : Host.Outcome State Fault Refusal :=
  let x := s.port port.val
  .next (if !s.portOn port.val || x.up || s.power.pstate == 3 then s
    else s.setPort port.val { x with up := true, sent := x.sent ++ x.held, held := [] })

/-- ETH_LINK_LOSS. [DESIGN CHOICE, unsafe: log 49.] -/
def execEthLinkLoss (port : Two) (s : State) : Host.Outcome State Fault Refusal :=
  .next (if !(s.port port.val).up then s
    else (s.modPort port.val fun x => { x with up := false }).advise fNetLink hDevice (BitVec.ofNat 32 port.val))

/-! ## Export -/

def State.modExp (s : State) (f : Exporter → Exporter) : State := { s with exporter := f s.exporter }

/-- Send a held datagram again with RETRANSMIT. -/
def State.resend (s : State) (seq : Nat) : State :=
  match s.exporter.held.find? (·.seq == seq) with
  | none => s
  | some d =>
    let s := s.modExp fun x => { x with resent := sat32 x.resent, held := x.held.map fun (e : Dgram) => if e.seq == seq then { e with sends := e.sends + 1, sendNs := s.upNs } else e }
    s.send s.exporter.port (.datagram (d.bytes true))

/-- The close ends: the context is free, and the commands that wait for it are answered (R445). [DESIGN CHOICE, unsafe: log 48.] -/
def State.closeExport (s : State) : State :=
  let bound := 3 * s.exporter.rto * 1000 + us 100
  forAll (s.waiters .expClose) (fun s m => s.respond m bound (Reply.ok []))
    (s.modExp fun x => { x with isOpen := false, closing := false, held := [], records := [] })

/-- After an acknowledgement or a close. -/
def State.exportDone (s : State) : State := if s.exporter.closing && s.exporter.held.isEmpty then s.closeExport else s

/-- EXPORT_DATAGRAM_SEND: FLUSH µs after the first record of those that collect; a full datagram goes where its next record is formed. -/
def execExportDatagramSend (s : State) : Host.Outcome State Fault Refusal := .next (if s.exporter.isOpen && s.passed s.exporter.firstNs (us s.exporter.flush) then s.sendDgram else s)

/-- Does ACK_SEQ name a datagram that has been sent? -/
def Exporter.sent (x : Exporter) (ack : Nat) : Bool := decide (0 < x.next) && decide ((x.next - 1 + 2 ^ 32 - ack) % 2 ^ 32 < min x.next (2 ^ 31))

/-- EXPORT_ACK. -/
def execExportAck (fromDest crcOk : Bool) (ackSeq : Word) (naks : List Word) (s : State) : Host.Outcome State Fault Refusal :=
  let x := s.exporter
  let ack := ackSeq.toNat
  .next (if !x.isOpen || !(s.port x.port).up then s
    else if !fromDest || !crcOk || naks.length > 8 || !x.sent ack then s.modPort x.port fun p => { p with ackDiscards := p.ackDiscards + 1 }
    else
      let s := s.modExp fun x => { x with held := x.held.filter fun (d : Dgram) => !decide ((ack + 2 ^ 32 - d.seq) % 2 ^ 32 < 2 ^ 31) }
      (forAll naks (fun s n => s.resend n.toNat) s).exportDone)

/-- EXPORT_RTO: RTO after the last send, at most 3 sends in all, then EXP_STALE. -/
def execExportRto (seq : Word) (s : State) : Host.Outcome State Fault Refusal :=
  match s.exporter.held.find? (·.seq == seq.toNat) with
  | none => .next s
  | some d =>
    .next (if !s.passed d.sendNs (us s.exporter.rto) then s
      else if d.sends < 3 then s.resend seq.toNat
      else if d.stale then s
      else (s.modExp fun x => { x with stale := sat32 x.stale, held := x.held.map fun (e : Dgram) => if e.seq == seq.toNat then { e with stale := true } else e }).advise
        fExpStale hDevice seq)

/-- EXPORT_CLOSE_TIMEOUT. -/
def execExportCloseTimeout (s : State) : Host.Outcome State Fault Refusal := .next (if s.exporter.closing && s.passed s.exporter.closeNs (us (3 * s.exporter.rto)) then s.closeExport else s)

/-! ## Commands (Table 17-8) -/

/-- [DESIGN CHOICE, unsafe: log 49.] -/
def netConfigBody (s : State) (r : Req) : State × Act :=
  let p := r.payload
  let n := u8 p 0
  let fl := u8 p 1
  guarded s (checks [needLen r 52,
      unless' (n ≤ 1 && fl ≤ 15 && 1500 ≤ u16 p 2 && u16 p 2 ≤ 9000 && 8 ≤ u8 p 8 && u8 p 8 ≤ 30 && zeros p 9 3 && zeros p 46 2
        && u16 p 48 ≤ 1000 && u16 p 50 ≤ 1000 && (!bit fl 2 || 4160 ≤ u16 p 2)) stBadField]) fun _ =>
    (s.modPort n fun x => { x with
      enable := bit fl 0, fec := bit fl 1, mailbox := bit fl 2, ipv6 := bit fl 3, mtu := u16 p 2, address := slice p 4 24
      host := slice p 28 16, hostPort := u16 p 44, egr := u16 p 48, ing := u16 p 50, up := false }, .ok)

/-- A port's part of NET_STATUS. [DESIGN CHOICE, unsafe: log 8.] -/
def Port.status (x : Port) : List Byte :=
  toLE 1 (b2n x.up) ++ toLE 1 (b2n x.fec) ++ toLE 2 0 ++
    [x.tagged, x.badFcs, x.fragments, x.misaddressed, x.foreign, x.pauses, x.ackDiscards].flatMap (toLE 4)

def netStatusBody (s : State) (r : Req) : State × Act :=
  guarded s (needLen r 0) fun _ => (s, .ok ((s.port 0).status ++ (s.port 1).status))

def exportOpenBody (s : State) (r : Req) : State × Act :=
  let p := r.payload
  let n := u8 p 0
  guarded s (checks [needLen r 36,
      unless' (n ≤ 1 && zeros p 1 1 && u16 p 2 < 128 && 4096 ≤ u16 p 4 && u16 p 4 ≤ 8900 && u16 p 4 ≤ (s.port n).mtu && 1 ≤ u16 p 6
        && 1 ≤ u32 p 8 && u32 p 8 ≤ 1250 && 100 ≤ u32 p 12 && u32 p 12 ≤ 1000000 && zeros p 34 2) stBadField,
      unless' (!s.exporter.isOpen) stCtxBusy,
      unless' (s.bandwidth + u32 p 8 ≤ bandwidthCap) stBwFull]) fun _ =>
    ({ s with exporter := { isOpen := true, port := n, classes := u16 p 2, dgramMax := u16 p 4, flush := u16 p 6, reserve := u32 p 8
                            rto := u32 p 12, dest := slice p 16 16, destPort := u16 p 32 } }, .ok)

def exportCloseBody (s : State) (r : Req) : State × Act :=
  guarded s (needLen r 0) fun _ =>
    if !s.exporter.isOpen then (s, .ok)
    else
      let s := s.sendDgram
      let s := s.modExp fun x => { x with closing := true, closeNs := if x.closing then x.closeNs else s.upNs }
      if s.exporter.held.isEmpty then (s.closeExport, .ok) else (s, .wait { kind := .expClose })

/-- [DESIGN CHOICE, unsafe: log 8.] -/
def exportStatusBody (s : State) (r : Req) : State × Act :=
  let x := s.exporter
  guarded s (needLen r 0) fun _ =>
    let next := x.next % 2 ^ 32
    (s, .ok ([next, (x.held.head?.map (·.seq)).getD next, x.fill, x.lost, x.resent, x.stale].flatMap (toLE 4)))

def exportResendBody (s : State) (r : Req) : State × Act :=
  let first := u32 r.payload 0
  let n := u32 r.payload 4
  let held := fun k => s.exporter.held.any (·.seq == (first + k) % 2 ^ 32)
  guarded s (checks [needLen r 8, unless' (1 ≤ n && n ≤ 65536) stBadRange, unless' (n ≤ s.exporter.held.length) stBadRange,
      unless' ((List.range n).all held) stBadRange]) fun _ =>
    (forAll (List.range n) (fun s k => s.resend ((first + k) % 2 ^ 32)) s, .ok)

/-- NET_CONFIG. -/
def execNetConfig (r : Req) (s : State) : Host.Outcome State Fault Refusal := .next (s.firmware 0x0C01 (us 200) [8] r netConfigBody)
/-- NET_STATUS. -/
def execNetStatus (r : Req) (s : State) : Host.Outcome State Fault Refusal := .next (s.firmware 0x0C02 (us 20) [8] r netStatusBody)
/-- EXPORT_OPEN. -/
def execExportOpen (r : Req) (s : State) : Host.Outcome State Fault Refusal := .next (s.firmware 0x0C09 (us 100) [8] r exportOpenBody)
/-- EXPORT_CLOSE. -/
def execExportClose (r : Req) (s : State) : Host.Outcome State Fault Refusal :=
  .next (s.firmware 0x0C0A (3 * s.exporter.rto * 1000 + us 100) [8] r exportCloseBody)
/-- EXPORT_STATUS. -/
def execExportStatus (r : Req) (s : State) : Host.Outcome State Fault Refusal := .next (s.firmware 0x0C0B (us 20) [8] r exportStatusBody)
/-- EXPORT_RESEND. -/
def execExportResend (r : Req) (s : State) : Host.Outcome State Fault Refusal := .next (s.firmware 0x0C0C (us 50) [8] r exportResendBody)

end Sys2Proof.Machine
end

