-- ==== Sys2Proof/Machine/Front.lean ====
section
/-!
DEFINITION. The chain port's registers as they are read: the front registers (Table 15-5) and the Ampoule window (Table 15-6), and CHN_STATUS's
position check (R368).
-/
namespace Sys2Proof.Machine

/-! ## Paths -/

def Chain.path (c : Chain) : Path → ChainPath
  | .front => c.front
  | .window => c.window

def Chain.setPath (c : Chain) (p : Path) (x : ChainPath) : Chain :=
  match p with
  | .front => { c with front := x }
  | .window => { c with window := x }

def State.setChain (s : State) (c : Chain) : State := { s with chain := c }
def State.modPath (s : State) (p : Path) (f : ChainPath → ChainPath) : State := s.setChain (s.chain.setPath p (f (s.chain.path p)))

/-! ## Register images -/

/-- Is a record of a class held? -/
def Faults.hasClass (f : Faults) (c : Nat) : Bool := f.recs.any fun r => srcClass r.src == c

/-- The four class bits, class A lowest. -/
def Faults.classBits (f : Faults) : Nat :=
  b2n (f.hasClass 0xA) + 2 * b2n (f.hasClass 0xB) + 4 * b2n (f.hasClass 0xC) + 8 * b2n (f.hasClass 0xD)

/-- BEACON. -/
def State.beacon (s : State) : Nat :=
  s.power.mpTick * 2 ^ 24 + s.power.pstate * 2 ^ 22 + b2n s.faults.anneal * 2 ^ 21 + s.twin.st * 2 ^ 18 + s.sealStatus % 4 * 2 ^ 16
    + s.sec.life * 2 ^ 13 + b2n s.power.wipe * 2 ^ 12 + s.faults.classBits * 2 ^ 8 + s.power.img * 2 ^ 6 + s.chain.pos.toNat

/-- FLT_SUMMARY. -/
def State.fltSummary (s : State) : Nat :=
  b2n s.faults.anneal * 2 ^ 31 + s.faults.classBits * 2 ^ 27 + s.faults.lastSrc.toNat

/-- FLT_SAFE: bit g is gather g site-safe. [DEDUCED, unsafe: log 65.] -/
def State.fltSafe (s : State) : Nat :=
  (List.range 64).foldl (fun a g => a + b2n (s.gather g).safe.on * 2 ^ g) 0

/-- CHN_STATUS. -/
def Chain.status (c : Chain) : Nat :=
  c.pos.toNat * 2 ^ 26 + b2n c.last * 2 ^ 25 + b2n c.twinId * 2 ^ 24 + b2n c.stall * 2 ^ 7 + b2n c.mismatch * 2 ^ 6 + c.sticky.toNat

def Chain.timing (c : Chain) : Nat := c.lead * 65536 + c.lag * 256 + c.gap

/-- One byte of MBX_STATUS (R398); mailbox 7's is that of R417. -/
def State.mbxByte (s : State) (m : Nat) : Nat :=
  if m == 7 then
    let n := s.hatch.queue.length
    b2n s.outbox.shown.isSome * 128 + b2n (n == 512) * 64 + min 16 ((n + 31) / 32)
  else
    let x := s.mailbox m
    let n := x.outstanding
    b2n x.shown.isSome * 128 + b2n (n == 16) * 64 + n

/-- The mailbox that a path's MBX_PTR points at: mailbox 5 on the Ampoule window (Table 15-6). -/
def ChainPath.box (x : ChainPath) : Path → Nat
  | .front => x.ptrMbx
  | .window => 5

def ChainPath.ptr (x : ChainPath) : Nat := x.ptrMbx * 2 ^ 29 + b2n x.ptrWin * 2 ^ 28 + x.ptrOff

/-- A 32-bit word of a byte list. -/
def wordOf (n : Nat) : Word := BitVec.ofNat 32 n

/-! ## Reads -/

/-- The word a mailbox window shows at an offset (R395, R407, R416). -/
def State.windowWord (s : State) (m : Nat) (response : Bool) (off : Nat) : Word :=
  if !response then wordOf (leNat (Mem.readAll (s.mailbox m).window off 4) 0 4)
  else if m == 7 then w32 s.outbox.bytes off
  else match (s.mailbox m).shown with
    | some (_, p) => w32 p.bytes off
    | none => 0

/-- The 64-bit pairs of the front registers: the address of LO, and the value (R389). [DEDUCED, unsafe: log 65.] -/
def State.pair (s : State) (a : Nat) : Option Nat :=
  if a == 0x044 then some s.fltSafe
  else if a == 0x100 then some s.netNs
  else if a == 0x184 then some (s.patch 0).digest.toNat
  else if a == 0x190 then some (s.patch 1).digest.toNat
  else if a == 0x19C then some (s.patch 2).digest.toNat
  else if a == 0x1A8 then some (s.patch 3).digest.toNat
  else none

/-- A front register that is neither a pair nor a mailbox register. -/
def State.frontReg (s : State) (a : Nat) : Word :=
  if a == 0x000 then 0x6410
  else if a == 0x004 then 0xB0
  else if a == 0x008 then wordOf (s.runningVersion 0)
  else if a == 0x00C then wordOf (s.runningVersion 1)
  else if 0x010 ≤ a && a ≤ 0x01C then Config.deviceId ((a - 0x010) / 4)
  else if a == 0x020 then wordOf s.beacon
  else if a == 0x040 then wordOf s.fltSummary
  else if a == 0x0C0 then wordOf s.chain.devices
  else if a == 0x0C4 then wordOf s.chain.timing
  else if a == 0x0C8 then wordOf s.chain.status
  else if a == 0x0CC then s.chain.frames
  else if a == 0x140 then wordOf s.sealStatus
  else if a == 0x144 then wordOf s.amp.lec
  else if a == 0x148 then wordOf s.sealOpens
  else if a == 0x180 then (s.patch 0).version
  else if a == 0x18C then (s.patch 1).version
  else if a == 0x198 then (s.patch 2).version
  else if a == 0x1A4 then (s.patch 3).version
  else 0

/-- A register of the Ampoule window but its mailbox registers. -/
def State.windowReg (s : State) (a : Nat) : Word :=
  if a == 0x000 then w32 s.ampIdent 0
  else if a == 0x004 then w32 s.ampIdent 4
  else if a == 0x008 then w32 s.ampChecksum 0
  else if a == 0x010 then wordOf s.sealStatus
  else if a == 0x014 then wordOf s.amp.lec
  else if a == 0x018 then wordOf s.sealOpens
  else 0

/-- What an access found beside its value. -/
structure Access where
  value : Word := 0
  ovr : Bool := false
  navl : Bool := false
  bad : Bool := false

/-- Is an address of the mailbox registers? -/
def isMbxReg (a : Nat) : Bool := 0x080 ≤ a && a ≤ 0x08C

/-- R390: MBX_ and TIME_ registers in DORMANT; of the window everything but SEAL_ while the Ampoule is in reset. -/
def State.notAvailable (s : State) (p : Path) (a : Nat) : Bool :=
  match p with
  | .front => s.power.pstate == 3 && (isMbxReg a || a == 0x100 || a == 0x104)
  | .window => s.amp.inReset && !(0x010 ≤ a && a ≤ 0x018)

/-- The end of a mailbox window. -/
def windowEnd : Nat := 0x1000

/-- Read one word (R381, R389). `keep` leaves MBX_PTR where it is. [See R388, R393.] -/
def State.readWord (s : State) (p : Path) (a : Nat) : State × Access :=
  if a ≥ 0x1000 then (s, { ovr := true })
  else if s.notAvailable p a then (s, { navl := true })
  else
    let x := s.chain.path p
    if isMbxReg a then
      if a == 0x080 then (s, {})
      else if a == 0x084 then
        (s, { value := match p with
          | .front => wordOf (s.mbxByte 7 * 2 ^ 24 + s.mbxByte 6 * 2 ^ 16 + s.mbxByte 1 * 2 ^ 8 + s.mbxByte 0)
          | .window => wordOf (s.mbxByte 5) })
      else if a == 0x088 then (s, { value := wordOf x.ptr })
      else if x.ptrOff ≥ windowEnd then (s, { ovr := true })
      else (s.modPath p fun x => { x with ptrOff := x.ptrOff + 4 }, { value := s.windowWord (x.box p) x.ptrWin x.ptrOff })
    else match p with
      | .window => (s, { value := s.windowReg a })
      | .front =>
        match s.pair a with
        | some v => (s.modPath .front fun x => { x with holding := Tab.put x.holding (a + 4) (wordOf (v / 2 ^ 32)) }, { value := wordOf v })
        | none =>
          if a ≥ 4 && (s.pair (a - 4)).isSome then (s, { value := Tab.get 0 x.holding a })
          else (s, { value := s.frontReg a })

/-! ## The position check -/

/-- R368's condition, and CHAIN_POS on its change to 1. -/
def State.checkPos (s : State) : State :=
  let c := s.chain
  let bad := c.devices != 0 && (c.pos.toNat ≥ c.devices || (c.last && c.pos.toNat + 1 != c.devices))
  let s := s.setChain { c with mismatch := bad }
  if bad && !c.mismatch then s.advise fChainPos hDevice else s

end Sys2Proof.Machine
end

