-- ==== Sys2Proof/Machine/Sys.lean ====
section
/-!
DEFINITION. The SYS commands (R419, R420), PWR_STATUS (R546) and the refusals of R542.
-/
namespace Sys2Proof.Machine

/-- PWR_STATUS. -/
def State.pwrStatus (s : State) : Nat :=
  let p := s.power
  b2n s.headroomBit * 2 ^ 15 + b2n p.peArmed * 2 ^ 14 + b2n p.pfail * 2 ^ 13 + p.wakeSrc * 2 ^ 8 + p.pstate * 2 ^ 4 + p.cause

/-- SYS_PING returns its payload. -/
def sysPingBody (s : State) (r : Req) : State × Act := (s, .ok r.payload)

/-- SYS_INFO: the front registers 0x000–0x020, then CHN_STATUS. [DESIGN CHOICE, unsafe: log 8.] -/
def State.infoBytes (s : State) : List Byte :=
  ((List.range 9).flatMap fun i => toLE 4 (s.frontReg (4 * i)).toNat) ++ toLE 4 s.chain.status

def sysInfoBody (s : State) (r : Req) : State × Act := guarded s (needLen r 0) fun _ => (s, .ok s.infoBytes)

/-- The six counters of a mailbox. [DESIGN CHOICE, unsafe: log 8.] -/
def State.mbxInfo (s : State) (m : Nat) : List Byte :=
  if m == 7 then toLE 4 s.outbox.formed.toNat ++ toLE 20 0
  else
    let x := s.mailbox m
    toLE 4 x.outstanding ++ [x.accepted, x.fulls, x.ignored, x.badCrc, x.late].flatMap fun w => toLE 4 w.toNat

def sysMbxInfoBody (s : State) (r : Req) : State × Act :=
  guarded s (needLen r 0) fun _ => (s, .ok ((List.range 8).flatMap s.mbxInfo))

/-- The mailboxes a fence names: MASK 0 every one, its own never. -/
def fenced (mask own : Nat) : List Nat := (List.range 7).filter fun m => m != own && (mask == 0 || mask.testBit m)

/-- What is left of the bound of a command that has not formed its response: of one that executes or waits, since it came to the head; of one that
is queued, all of it. None where the model counts no bound for it. [DEDUCED, unsafe: log 79.] -/
def Entry.left (e : Entry) (now : Nat) : Option Nat :=
  if e.bound == 0 then none
  else match e.phase with
    | .running _ since => some (since + e.bound + (if e.woke then us 50 else 0) - now)
    | .queued => some e.bound
    | .formed _ => some 0

/-- SYS_FENCE's bound: the longest remaining one among the fenced commands, and 20 µs (Table 16-7). [DEDUCED, unsafe: log 79.] -/
def State.fenceBound (s : State) (r : Req) : Nat :=
  let es := (fenced (u8 r.payload 0) r.mbx.val).flatMap fun m => (s.mailbox m).entries.filter fun e => !e.refusal && !e.isFormed
  let left := es.map (·.left s.upNs)
  if left.any (·.isNone) then 0 else left.foldl (fun a l => max a (l.getD 0)) 0 + us 20

/-- SYS_FENCE waits for what the named mailboxes had accepted. -/
def sysFenceBody (s : State) (r : Req) : State × Act :=
  let mask := u8 r.payload 0
  guarded s (checks [needLen r 4, unless' (mask < 128 && zeros r.payload 1 3) stBadField]) fun _ =>
    let ms := fenced mask r.mbx.val
    let counts := ms.map fun m => (s.mailbox m).accepted.toNat
    if (ms.zip counts).all fun un => (s.mailbox un.1).passed un.2 then (s, .ok) else (s, .wait { kind := .fence, units := ms, nums := counts })

/-- R420: a class D fault recorded, or the cause of a class C fault still asserted. -/
def State.resetRefused (s : State) : Bool :=
  s.faults.hasClass 0xD || !s.faults.dLatch.isEmpty || s.faults.causes.any fun c => srcClass c.1 == 0xC

def sysResetBody (s : State) (r : Req) : State × Act :=
  guarded s (checks [needLen r 4, unless' (u32 r.payload 0 == 0xA55A) stBadField, unless' (!s.resetRefused) stInAnneal]) fun _ =>
    ({ s with power := s.power.resetBy 2 r.mbx.val s.upNs }, .ok)

/-- A sequencer is RUNNING, HELD or DIVERGED. -/
def State.anySeqBusy (s : State) : Bool :=
  s.gathers.any (fun g => g.2.seq.live) || s.progs.any fun p => p.2.seq.live

def State.anyCapBusy (s : State) : Bool := s.gathers.any fun g => g.2.digs.any fun d => d.2.st != .idle
def State.anyTiuBusy (s : State) : Bool := s.gathers.any fun g => g.2.tius.any fun u => u.2.st != .idle

/-- An Ampoule channel holds a request in progress. -/
def State.anyAmpBusy (s : State) : Bool :=
  s.amp.gathers.any fun g => g.2.chans.any fun c => !c.2.queue.isEmpty || c.2.run.isSome || !c.2.held.isEmpty

def sysPowerBody (s : State) (r : Req) : State × Act :=
  let st := u8 r.payload 0
  guarded s (checks [needLen r 4, unless' (1 ≤ st && st ≤ 3 && zeros r.payload 1 3) stBadField]) fun _ =>
    let due : Due := { code := if st == s.power.pstate then 0 else st, mbx := r.mbx.val, ns := s.upNs }
    if st == s.power.pstate then ({ s with power := { s.power with stateDue := s.power.stateDue ++ [due] } }, .ok (toLE 4 s.pwrStatus))
    else
      guarded s (checks [unless' (st == 1 || !s.anySeqBusy) stSeqBusy, unless' (st == 1 || !s.anyCapBusy) stCapBusy,
          unless' (st == 1 || !s.anyTiuBusy) stTiuBusy, unless' (st != 3 || !s.anyAmpBusy) stAmpBusy]) fun _ =>
        let s := if st == 3 && s.twin.st == 2 then s.linkSend .dormant else s
        ({ s with power := { s.power with stateDue := s.power.stateDue ++ [due] } }, .ok (toLE 4 s.pwrStatus))

/-- SYS_PING. -/
def execSysPing (r : Req) (s : State) : Host.Outcome State Fault Refusal := .next (s.firmware 0x0101 (us 50) [8] r sysPingBody)
/-- SYS_INFO. -/
def execSysInfo (r : Req) (s : State) : Host.Outcome State Fault Refusal := .next (s.firmware 0x0102 (us 20) [8] r sysInfoBody)
/-- SYS_MBX_INFO. -/
def execSysMbxInfo (r : Req) (s : State) : Host.Outcome State Fault Refusal := .next (s.firmware 0x0103 (us 20) [8] r sysMbxInfoBody)
/-- SYS_FENCE. -/
def execSysFence (r : Req) (s : State) : Host.Outcome State Fault Refusal := .next (s.firmware 0x0104 (s.fenceBound r) [8] r sysFenceBody)
/-- SYS_RESET. -/
def execSysReset (r : Req) (s : State) : Host.Outcome State Fault Refusal := .next (s.firmware 0x0105 (us 100) [8] r sysResetBody)
/-- SYS_POWER. -/
def execSysPower (r : Req) (s : State) : Host.Outcome State Fault Refusal := .next (s.firmware 0x0106 (us 100) [8] r sysPowerBody)

end Sys2Proof.Machine
end

