-- ==== Sys2Proof/Machine/Power.lean ====
section
/-!
DEFINITION. Power failure, resets, start-up and DORMANT as they happen (chapter 21), with the image that runs (R519, R520) and the marker
scan (R470, R479).
-/
namespace Sys2Proof.Machine

/-! ## Power failure and resets -/

/-- PFAIL_ASSERT (R533): below 1 µs never, from 2 µs always. [DESIGN CHOICE, safe: log 67.] -/
def execPfailAssert (pulseNs : Nat) (s : State) : Host.Outcome State Fault Refusal :=
  if s.power.pfail then .next s
  else
    let (acts, s) := s.pulseActs pulseNs 1000 2000
    .next (if acts then s.park else s)

/-- PFAIL_HIGH_EXPIRY (R535): PFAIL_N has been high for 10 ms, which cannot be sooner than that after the park. [DEDUCED, unsafe: log 66.] -/
def execPfailHighExpiry (s : State) : Host.Outcome State Fault Refusal := .next (if s.power.parked && s.passed s.power.parkNs (us 10000) then s.orderlyReset 4 else s)

/-- RESET_N_ASSERT (R537): below 100 ns never, from 1 µs always. [DESIGN CHOICE, safe: log 67.] -/
def execResetNAssert (pulseNs : Nat) (s : State) : Host.Outcome State Fault Refusal :=
  let (acts, s) := s.pulseActs pulseNs 100 1000
  .next (if acts then s.orderlyReset 1 else s)

/-- Power-on reset (R530). The loss of VDDAO takes the always-on domain with it: the class D latch, the time of the last LOCKSTEP and the
count of openings that the Ampoule has not yet taken (R247). -/
def State.powerOnReset (s : State) (vddaoLost : Bool) : State :=
  let s := s.deviceReset 0
  let s := { s with jtag := {} }
  if vddaoLost then { s with faults := { s.faults with dLatch := [], lockstepS := none }, amp := { s.amp with opensPending := 0 } } else s

/-- POWER_ON_RESET. -/
def execPowerOnReset (vddaoLost : Bool) (s : State) : Host.Outcome State Fault Refusal := .next (s.powerOnReset vddaoLost)

/-- RESET_TIMER: 10 ms after the response of SYS_RESET or of a lifecycle transition. -/
def execResetTimer (s : State) : Host.Outcome State Fault Refusal :=
  .next (match s.power.resetDue.find? fun d => s.passed d.ns (us 10000) with
    | some d => s.orderlyReset d.code
    | none => s)

/-- RAIL_OUT_OF_WINDOW (R528, Table 21-1), with the rail's voltage in mV. -/
def execRailOutOfWindow (r : Rail) (mv : Int) (s : State) : Host.Outcome State Fault Refusal :=
  let detail : Word := BitVec.ofNat 32 ((mv % 65536).toNat)
  let logic := fun (k : Nat) (s : State) =>
    if s.railRaised fRailLogic then (s.addCause fRailLogic hDevice).raise fRailLogic hDevice (BitVec.ofNat 32 (k * 65536) + detail) else s
  let pe := fun (k : Nat) (s : State) =>
    if s.railRaised fRailPe then (s.addCause fRailPe hDevice).raise fRailPe hDevice (BitVec.ofNat 32 (k * 65536) + detail) else s
  let out := fun (lo hi : Int) => decide (mv < lo ∨ hi < mv)
  .next (match r with
    | .vddao => if mv < 1600 then s.powerOnReset true else s
    | .vdd => if mv < 700 then s.powerOnReset false else if out 770 980 then logic 1 s else s
    | .vddm => if out 970 1130 then logic 2 s else s
    | .vddio => if out 1650 1930 then logic 3 s else s
    | .vdda => if out 1650 1930 then logic 4 s else s
    | .vddamp => if mv < 770 then s.ampRailLost else s
    | .vddampa => if mv < 1650 then s.ampRailLost else s
    | .vph =>
      let s := { s with power := { s.power with vphUv := mv * 1000 } }
      if out 6300 9200 then pe 7 s else s
    | .vpl =>
      let s := { s with power := { s.power with vplUv := mv * 1000 } }
      if out (-3700) (-800) then pe 8 s else s)

/-! ## Start-up (R540, Table 21-5) -/

/-- The marker ring's records, oldest first as the ring is written round. -/
def Journal.ringOrder (j : Journal) : List Marker :=
  (j.markers.filter fun m => j.nextMarker ≤ m.1).map (·.2) ++ (j.markers.filter fun m => m.1 < j.nextMarker).map (·.2)

/-- The newest BEGIN of a site: the highest RUN and CSEQ, the later in the ring of equals. -/
def newestBegin (ms : List Marker) (site : Nat) : Option Marker :=
  (ms.filter fun m => m.kind == 1 && m.site == site).foldl (fun b m =>
    match b with
    | none => some m
    | some x => if x.run < m.run || (x.run == m.run && x.cseq ≤ m.cseq) then some m else some x) none

/-- One site of the start-up scan: its next RUN, and the report of an ETCH stroke begun and not ended (R470, R479). -/
def State.scanSite (s : State) (site : Nat) : State :=
  let ms := s.journal.ringOrder
  let run := (ms.filter (·.site == site)).foldl (fun a (m : Marker) => max a m.run) 0
  let s := if run == 0 then s else s.setSite site { s.site site with run := run }
  match newestBegin ms site with
  | none => s
  | some b =>
    if ms.any fun m => m.kind != 1 && m.site == site && m.run == b.run && m.stroke == b.stroke then s
    else s.report { site := site, result := 1, reason := 5, etch := 4, trigger := 3, stroke := b.stroke, run := b.run, cseq := b.cseq, time := s.netNs }

/-- [DESIGN CHOICE, unsafe: log 70.] -/
def State.scanMarkers (s : State) : State := forAll (List.range 128) State.scanSite s

/-- The slot the ROM boots: ACTIVE's, else the other's, else none (R519). -/
def bootSlot (active : Nat) (a b : Bool) : Option Nat :=
  let ok := fun k => if k == 0 then a else b
  if ok active then some active else if ok (1 - active) then some (1 - active) else none

/-- The image that runs, with IMG and BOOT_FALLBACK. -/
def State.bootImage (s : State) (slotA slotB : Bool) : State :=
  let valid := fun k => (Tab.get {} s.sec.slots k).valid
  let active := s.sec.active.getD 0 0
  match bootSlot active (slotA && valid 0) (slotB && valid 1) with
  | some k => { s with power := { s.power with img := k }
                       sec := { s.sec with running := s.sec.running.set 0 (some k), fallback := k != active } }
  | none => { s with power := { s.power with img := 2 }, sec := { s.sec with running := s.sec.running.set 0 none } }

/-- The recovery loader has port 0 under its link-local address; its host is not known yet (R520). [DEDUCED, unsafe: log 69.] -/
def State.loaderPort (s : State) : State :=
  if s.power.img == 2 then s.setPort 0 { s.port 0 with ipv6 := true, address := List.replicate 8 0#8 ++ linkLocal (portMac 0) } else s

/-- What DISPOSED leaves, finished before anything else (R515). -/
def Sec.dispose (x : Sec) : Sec := if x.life == 4 then { x with erased := true, root := none, certs := [] } else x

/-- A class D latch held in the always-on domain (R499): its records stand again, and the device is in Anneal. [DESIGN CHOICE, unsafe: log 70.] -/
def State.relatch (s : State) : State :=
  match s.faults.dLatch with
  | [] => s
  | d :: ds =>
    let f := (d :: ds).foldl (fun (f : Faults) r => if f.recs.any (·.names r.src r.scope) then f else f.keep r) s.faults
    let s := s.setFaults { f with lastSrc := d.src }
    let s := s.enterAnneal d.src
    if (d :: ds).any fun r => srcHoldsProcessor r.src then s.holdProcessor else s

/-- Put a stored set in force: its coefficients, and T_LAST of each tile. -/
def Cal.inForce (c : Cal) (x : CalSet) : Cal :=
  { c with held := x, coefs := x.coefs, base := x.factory
           tiles := c.tiles.map fun t => (t.1, { t.2 with tLast := x.last.getD t.1 0 }) }

/-- The factory set (R361). [DESIGN CHOICE, unsafe: log 16.] -/
def CalSet.ofFactory : CalSet := { epoch := Config.factoryEpoch.toNat, last := (List.range 4).map Config.factoryLast, factory := true }

/-- The Marver's set at power-up (R361): the newer half where its check and MAC are intact, else the other, else the factory set, whose
epoch and T_LAST are open. [See R361.] [DESIGN CHOICE, unsafe: log 16.] -/
def State.bootCal (s : State) (newer older : Bool) : State :=
  if newer && !s.cal.factory then { s with cal := s.cal.inForce s.cal.held }
  else match s.cal.other, older with
    | some x, true => { s with cal := { s.cal.inForce x with other := none } }
    | _, _ => ({ s with cal := { s.cal.inForce CalSet.ofFactory with other := none, factory := true } } : State).advise fCalFactory hDevice

/-- STARTUP: the whole timeline to PSTATE ACTIVE, with what the straps, the ROM's slot checks and the checks of the Marver's two stored
halves give, and what TREF carries. [DESIGN CHOICE, unsafe: log 13, 14, 70; DEDUCED, unsafe: log 69, 110.] -/
def execStartup (chainPos : BitVec 6) (chainLast twinId : Bool) (slotA slotB calNewer calOlder : Bool) (clocks : Clocks)
    (s : State) : Host.Outcome State Fault Refusal :=
  if s.power.pstate != 0 || s.power.parked then .next s
  else
    let s := (s.setChain { s.chain with pos := chainPos, last := chainLast, twinId := twinId }).checkPos
    let s := { s with sec := s.sec.dispose, power := { s.power with wipe := false } }
    let s := ((s.bootImage slotA slotB).loaderPort.bootCal calNewer calOlder).scanMarkers
    let s := { s.setPstate 1 with tref := TiuRef.atStart clocks.tref s.upNs }
    let s := s.clearAtStart
    let s := s.relatch.syncAll (touch [] ((List.range 4).map lineC))
    let s := forAll s.faults.causes (fun s c => s.raise c.1 c.2) s
    .next (if clocks.refclk then s else (s.addCause fRefclkLoss hDevice).raise fRefclkLoss hDevice)

/-- WIPE_END (R516). [DESIGN CHOICE, unsafe: log 14, 70.] -/
def execWipeEnd (s : State) : Host.Outcome State Fault Refusal := .next { s with power := { s.power with wipe := false } }

/-! ## DORMANT -/

/-- DORMANT_ENTRY_DONE: a wake request that came during the entry is acted on (R544). [DESIGN CHOICE, unsafe: log 62.] -/
def execDormantEntryDone (s : State) : Host.Outcome State Fault Refusal :=
  if !s.power.entering || !s.dormantReady then .next s
  else
    let s := s.enterDormant
    .next (if s.power.wakeHeld.isSome then s.wake true 0 else s)

/-- WAKE_N_ASSERT: WAKE_N low for 1 µs, or the sentinel's own wake of R180 that stands; the row gives what the restore found and how long
DORMANT lasted. [DEDUCED, unsafe: log 63.] -/
def execWakeNAssert (restored : Bool) (dormantNs : Nat) (s : State) : Host.Outcome State Fault Refusal :=
  .next (if s.power.pstate == 3 then s.wake restored dormantNs
    else if s.power.entering then { s with power := { s.power with wakeHeld := s.power.wakeHeld.orElse fun _ => some 1 } }
    else s)

end Sys2Proof.Machine
end

