-- ==== Sys2Proof/Machine/Sec.lean ====
section
/-!
DEFINITION. Identity, images and lifecycle (chapter 20): the commands of Table 20-8. Keys are open functions of the device (R507): a key's
bytes, its signatures and whether a signature verifies are constants of Config.
-/
namespace Sys2Proof.Machine

/-! ## Open bytes -/

/-- n open bytes named by a number and a context. [DESIGN CHOICE, unsafe: log 18; DESIGN CHOICE, safe: log 76.] -/
def openBytes (k : Nat) (ctx : List Byte) (n : Nat) : List Byte := (List.range n).map fun i => byteAt (Config.digest k ctx) i

def hssSigLen : Nat := 3604

/-- The public keys the device derives for a role (R507, R510): 97 bytes, then 60, which are the levels and the level-0 LMS key. [DESIGN CHOICE, safe: log 76.] -/
def ownKeys (role : Nat) : List Byte := 4#8 :: openBytes (20 + role) deviceId 96 ++ be 4 2 ++ lmsPublic role 0

/-! ## Certificates (Table 20-2) -/

/-- Bytes 0–211 of a certificate. [See R509.] -/
def certHead (role : Nat) (issuer dates keys : List Byte) : List Byte :=
  toLE 2 1 ++ toLE 1 role ++ toLE 1 0 ++ deviceId ++ issuer ++ dates ++ keys ++ toLE 3 0

def issuerOf (ecKey : List Byte) : List Byte := (sha384 ecKey).take 16

/-- The root's 157 bytes. [DESIGN CHOICE, unsafe: log 18.] -/
def rootBytes : Installed → List Byte
  | .factory => openBytes 30 [] 157
  | .given b => b

/-- A certificate's bytes: as brought, or as the root of manufacture signed it. [DESIGN CHOICE, unsafe: log 18.] -/
def certBytes (role : Nat) : Installed → List Byte
  | .given b => b
  | .factory =>
    let root := openBytes 30 [] 157
    let head := certHead role (issuerOf (root.take 97)) (openBytes 31 (toLE 1 role) 16) (ownKeys role)
    head ++ openBytes 32 head 96 ++ toLE 4 hssSigLen ++ openBytes 33 head hssSigLen

/-- A signing request: a certificate signed with the subject's own keys (R510). -/
def csrBytes (role index : Nat) : List Byte :=
  let keys := ownKeys role
  let head := certHead role (issuerOf (keys.take 97)) (openBytes 34 (toLE 1 role) 16) keys
  head ++ ecdsa role head ++ toLE 4 hssSigLen ++ hss role index head

/-- Do both signatures of some bytes verify under a root? -/
def rootVerifies (root msg ec hssSig : List Byte) : Bool := Config.verifies 0 (root ++ msg) ec && Config.verifies 1 (root ++ msg) hssSig

/-- The conditions of R510 on a certificate. -/
def certOk (root : List Byte) (role : Nat) (b : List Byte) : Bool :=
  u16 b 0 == 1 && u8 b 2 == role && zeros b 3 1 && slice b 4 16 == deviceId && slice b 52 157 == ownKeys role && zeros b 209 3
    && 1 ≤ u32 b 308 && u32 b 308 ≤ 3760 && rootVerifies root (b.take 212) (slice b 212 96) (b.drop 312)

/-! ## Reading identity -/

/-- [DEDUCED, unsafe: log 75.] -/
def secCertBody (s : State) (r : Req) : State × Act :=
  let role := u8 r.payload 0
  guarded s (checks [needLen r 4, unless' (zeros r.payload 1 3) stBadField, unless' (role ≤ 2) stBadRange]) fun _ =>
    if role == 0 then (s, match s.sec.root with | some x => .ok (rootBytes x) | none => .st stBadRange)
    else (s, match s.sec.certs.find? (·.1 == role) with | some (_, x) => .ok (certBytes role x) | none => .st stBadRange)

/-- The device HSS key reserves its next index (R508). -/
def State.deviceIndex (s : State) : Nat × State :=
  let q := s.sec.hssNext
  (q, { s with sec := { s.sec with hssRing := ringReserve s.sec.hssRing } })

/-- Is the JTAG debug of the management processor, of the Ampoule, open (Table 20-3)? -/
def mpDebugOpen (life : Nat) : Bool := life == 0 || life == 1 || life == 3
def ampDebugOpen (life : Nat) : Bool := life == 0 || life == 3

/-- SHA-384 over the image that runs for a target; zero when none does. The image of manufacture is not listed: its digest is open. -/
def State.imageDigest (s : State) (target : Nat) : List Byte :=
  match s.sec.running.getD target none with
  | none => List.replicate 48 0#8
  | some k =>
    let x : Slot := Tab.get {} s.sec.slots (2 * target + k)
    match x.imageBytes with
    | none => openBytes 35 (toLE 1 target ++ toLE 4 x.version) 48
    | some b => sha384 b

/-- The report of Table 20-7. -/
def State.report256 (s : State) (nonce : List Byte) : List Byte :=
  toLE 2 1 ++ toLE 1 s.sec.life ++ toLE 1 (s.sealStatus % 4) ++ toLE 1 0xB0 ++ toLE 1 s.power.img
    ++ toLE 1 ((s.sec.running.getD 1 none).getD 3) ++ toLE 1 s.twin.st ++ nonce ++ deviceId ++ toLE 4 (s.runningVersion 0)
    ++ toLE 4 (s.runningVersion 1) ++ s.imageDigest 0 ++ s.imageDigest 1 ++ s.ampChecksum ++ toLE 4 s.amp.lec ++ toLE 4 s.sealOpens
    ++ toLE 4 s.sealStatus ++ ((List.range 4).flatMap fun t => toLE 4 (s.patch t).version.toNat ++ toLE 8 (s.patch t).digest.toNat)
    ++ toLE 4 (s.sec.floors.getD 0 0) ++ toLE 4 (s.sec.floors.getD 1 0) ++ toLE 8 s.netNs ++ toLE 4 s.sec.boots
    ++ toLE 4 (b2n (mpDebugOpen s.sec.life) + 2 * b2n (ampDebugOpen s.sec.life) + 4 * b2n s.sec.fallback) ++ toLE 8 0

/-- SEC_ATTEST; once the seeds are erased no key is derived (R515), and what the signatures then hold is open. [DEDUCED, unsafe: log 75; DESIGN CHOICE, safe: log 76.] -/
def secAttestBody (s : State) (r : Req) : State × Act :=
  guarded s (needLen r 32) fun _ =>
    let b := s.report256 r.payload
    let (q, s) := s.deviceIndex
    let key := if s.sec.erased then 11 else 1
    (s, .ok (b ++ ecdsa key b ++ hss key q b))

/-! ## Images (R517–R524) -/

def State.slot (s : State) (target k : Nat) : Slot := Tab.get {} s.sec.slots (2 * target + k)
def State.setSlot (s : State) (target k : Nat) (x : Slot) : State := { s with sec := { s.sec with slots := Tab.put s.sec.slots (2 * target + k) x } }
def slotSize (target : Nat) : Nat := if target == 0 then 4 * 1024 * 1024 else 512 * 1024
def State.active (s : State) (target : Nat) : Nat := s.sec.active.getD target 0
def State.session (s : State) (target : Nat) : Option Nat := s.sec.sessions.getD target none
def State.setSession (s : State) (target : Nat) (x : Option Nat) : State := { s with sec := { s.sec with sessions := s.sec.sessions.set target x } }

/-- The slot a session writes: the one that is not ACTIVE. -/
def State.writeSlot (s : State) (t : Nat) : Nat := 1 - s.active t

/-- [DEDUCED, unsafe: log 74.] -/
def imgWriteBody (s : State) (r : Req) : State × Act :=
  let p := r.payload
  let t := u8 p 0
  let off := u32 p 4
  let n := p.length - 8
  let k := s.writeSlot t
  let m := r.mbx.val
  guarded s (checks [unless' (12 ≤ p.length && p.length ≤ 4072 && p.length % 4 == 0) stBadLength,
      unless' (t > 1 || off + n ≤ slotSize t) stBadRange, unless' (t ≤ 1 && zeros p 1 3 && off % 4 == 0) stBadField,
      unless' (off == 0 || (s.session t).isSome) stBadRange,
      unless' ((s.session t).isNone || s.session t == some m) stSlotBusy,
      unless' (s.sec.running.getD t none != some k) stSlotBusy,
      unless' (s.sec.life != 4) stLifecycle,
      unless' (t == 0 || !s.amp.inReset) stAmpOffline]) fun _ =>
    let s := if off == 0 then (s.setSession t (some m)).setSlot t k {} else s
    let x := s.slot t k
    (s.setSlot t k { x with data := Mem.writeAll x.data off (p.drop 8) }, .ok)

/-- The header's fields are as Table 20-6 requires. -/
def headerOk (target : Nat) (h : List Byte) : Bool :=
  u32 h 0 == 0x4D495745 && u8 h 4 == target && u8 h 5 == 0xB0 && zeros h 6 2 && zeros h 20 4 && zeros h 72 56
    && 3828 + u32 h 16 ≤ slotSize target

/-- The checks of R518 on a slot, in the order of R523. [DEDUCED, unsafe: log 74.] -/
def State.imageStatus (s : State) (t : Nat) (data : Mem) : Half :=
  let h := Mem.readAll data 0 3828
  let body := Mem.readAll data 3828 (u32 h 16)
  if !headerOk t h then stBadField
  else if sha384 body != slice h 24 48 then stSigFail
  else if !(Config.verifies (2 + 2 * t) (h.take 128) (slice h 128 96) && Config.verifies (3 + 2 * t) (h.take 128) (slice h 224 3604)) then stSigFail
  else if u32 h 12 < s.sec.floors.getD t 0 then stRollback
  else stOK

/-- [DEDUCED, unsafe: log 74.] -/
def imgCommitBody (s : State) (r : Req) : State × Act :=
  let t := u8 r.payload 0
  let k := s.writeSlot t
  guarded s (checks [needLen r 4, unless' (t ≤ 1 && zeros r.payload 1 3) stBadField, unless' (s.sec.life != 4) stLifecycle,
      unless' ((s.session t).isNone || s.session t == some r.mbx.val) stSlotBusy, unless' (s.session t).isSome stBadField,
      unless' (t == 0 || !s.amp.inReset) stAmpOffline]) fun _ =>
    let x := s.slot t k
    let st := s.imageStatus t x.data
    let s := s.setSession t none
    if st != stOK then (s.setSlot t k {}, .st st)
    else
      let h := Mem.readAll x.data 0 16
      (s.setSlot t k { x with valid := true, version := u32 h 8, secVersion := u32 h 12 }, .ok (toLE 4 (u32 h 8)))

/-- [DEDUCED, unsafe: log 74.] -/
def imgActivateBody (s : State) (r : Req) : State × Act :=
  let p := r.payload
  let t := u8 p 0
  let k := u8 p 1
  let floor := bit (u8 p 2) 0
  let legal := t == 1 && s.sec.life == lifeProduction
  guarded s (checks [needLen r 4, unless' (t ≤ 1 && k ≤ 1 && u8 p 2 ≤ 1 && zeros p 3 1 && (s.slot t k).valid) stBadField,
      unless' (s.sec.life != 4) stLifecycle,
      unless' (t == 0 || !s.amp.inReset) stAmpOffline,
      unless' (!legal || s.amp.legal == 1) stSealClosed,
      unless' (!legal || s.amp.lec < 0xFFFF_FFFF) stCounterFull,
      unless' (t == 0 || !s.anyAmpBusy) stAmpBusy]) fun _ =>
    if legal then
      (s.setAmp { s.amp with commits := s.amp.commits ++ [{ mbx := r.mbx.val, slot := some (k, floor) }] }, .wait { kind := .adjust })
    else
      let floors := if floor then s.sec.floors.set t (max (s.slot t k).secVersion (s.sec.floors.getD t 0)) else s.sec.floors
      ({ s with sec := { s.sec with active := s.sec.active.set t k, floors := floors } }, .ok)

/-- A slot in IMG_STATUS: 0 EMPTY, 1 VALID, 2 RUNNING, with VERSION and SECURITY_VERSION. -/
def State.slotImage (s : State) (t k : Nat) : List Byte :=
  let x := s.slot t k
  toLE 1 (if s.sec.running.getD t none == some k then 2 else b2n x.valid) ++ toLE 3 0 ++ toLE 4 x.version ++ toLE 4 x.secVersion

/-- [See R526.] [DESIGN CHOICE, unsafe: log 8.] -/
def imgStatusBody (s : State) (r : Req) : State × Act :=
  guarded s (needLen r 0) fun _ =>
    let one := fun t => s.slotImage t 0 ++ s.slotImage t 1 ++ toLE 1 (s.active t) ++ toLE 1 ((s.session t).getD 0xFF) ++ toLE 2 0
      ++ toLE 4 (s.sec.floors.getD t 0)
    (s, .ok (one 0 ++ one 1 ++ toLE 4 (b2n s.sec.fallback)))

/-! ## Lifecycle (R510–R515) -/

def lcChallengeBody (s : State) (r : Req) : State × Act :=
  guarded s (needLen r 0) fun _ =>
    let (v, s) := s.fresh
    let c := openBytes 36 (toLE 8 v) 32
    ({ s with sec := { s.sec with challenge := some c } }, .ok c)

/-- [DEDUCED, unsafe: log 75.] -/
def lcCsrBody (s : State) (r : Req) : State × Act :=
  let role := u8 r.payload 0
  guarded s (checks [needLen r 4, unless' ((role == 1 || role == 2) && zeros r.payload 1 3) stBadField, unless' (s.sec.life == 0) stLifecycle,
      unless' (role == 1 || !s.amp.inReset) stAmpOffline]) fun _ =>
    if role == 1 then
      let (q, s) := s.deviceIndex
      (s, .ok (csrBytes 1 q))
    else
      let (q, s) := s.takeIndex
      (s, .ok (csrBytes 2 q))

/-- [DEDUCED, unsafe: log 75.] -/
def lcInstallBody (s : State) (r : Req) : State × Act :=
  let p := r.payload
  let item := u8 p 0
  let b := p.drop 4
  let lenOk := p.length ≥ 4 && (if item == 0 then b.length == 157 else if item ≤ 2 then b.length ≥ 312 && b.length == 312 + u32 b 308 else true)
  guarded s (checks [unless' lenOk stBadLength, unless' (item ≤ 2 && zeros p 1 3) stBadField, unless' (s.sec.life == 0) stLifecycle,
      unless' (item != 2 || !s.amp.inReset) stAmpOffline,
      unless' (match s.sec.root with | none => item == 0 | some x => item != 0 && certOk (rootBytes x) item b) stAuthFail]) fun _ =>
    let x := s.sec
    ({ s with sec := if item == 0 then { x with root := some (.given b) } else { x with certs := Tab.put x.certs item (.given b) } }, .ok)

/-- The message a TOKEN signs (R513). -/
def tokenMessage (target : Nat) (challenge : List Byte) : List Byte :=
  [0x45#8, 0x54#8, 0x57#8, 0x2D#8, 0x4C#8, 0x43#8, 0x00#8] ++ deviceId ++ toLE 1 target ++ challenge

/-- The authorisation of a transition: CONFIRM, or a TOKEN over the CHALLENGE in force. -/
def State.authorised (s : State) (target : Nat) (p : List Byte) : Half :=
  let token := p.drop 8
  if s.sec.life == 2 then
    if token.isEmpty || u32 p 4 != 0 then stLifecycle
    else match s.sec.challenge, s.sec.root with
      | some c, some x => unless' (rootVerifies (rootBytes x) (tokenMessage target c) (token.take 96) (token.drop 96)) stAuthFail
      | _, _ => stAuthFail
  else unless' (token.isEmpty && u32 p 4 == 0xA55A) stLifecycle

/-- [DEDUCED, unsafe: log 75.] -/
def lcTransitionBody (s : State) (r : Req) : State × Act :=
  let p := r.payload
  let target := u8 p 0
  guarded s (checks [unless' (p.length == 8 || p.length == 3708) stBadLength, unless' (zeros p 1 3) stBadField]) fun _ =>
    let st := checks [unless' (s.sec.mayGo target) stLifecycle, s.authorised target p]
    let s := { s with sec := { s.sec with challenge := none } }
    if st != stOK then (s, .st st)
    else if s.lifeBusy then (s, .wait { kind := .signIndex, nums := [target] })
    else (s.lifeSet target r.mbx.val, .ok)

/-- SEC_CERT. -/
def execSecCert (r : Req) (s : State) : Host.Outcome State Fault Refusal := .next (s.firmware 0x0F01 (us 50) [8] r secCertBody)
/-- SEC_ATTEST. -/
def execSecAttest (r : Req) (s : State) : Host.Outcome State Fault Refusal := .next (s.firmware 0x0F02 (us 8000) [8] r secAttestBody)
/-- IMG_WRITE. -/
def execImgWrite (r : Req) (s : State) : Host.Outcome State Fault Refusal := .next (s.firmware 0x0F03 (us 2000) [8] r imgWriteBody)
/-- IMG_COMMIT. -/
def execImgCommit (r : Req) (s : State) : Host.Outcome State Fault Refusal :=
  .next (s.firmware 0x0F04 (if u8 r.payload 0 == 0 then us 40000 else us 20000) [8] r imgCommitBody)
/-- IMG_ACTIVATE. -/
def execImgActivate (r : Req) (s : State) : Host.Outcome State Fault Refusal := .next (s.firmware 0x0F05 (us 1000) [8] r imgActivateBody)
/-- IMG_STATUS. -/
def execImgStatus (r : Req) (s : State) : Host.Outcome State Fault Refusal := .next (s.firmware 0x0F06 (us 20) [8] r imgStatusBody)
/-- LC_CHALLENGE. -/
def execLcChallenge (r : Req) (s : State) : Host.Outcome State Fault Refusal := .next (s.firmware 0x0F07 (us 20) [8] r lcChallengeBody)
/-- LC_CSR. -/
def execLcCsr (r : Req) (s : State) : Host.Outcome State Fault Refusal := .next (s.firmware 0x0F08 (us 8000) [8] r lcCsrBody)
/-- LC_INSTALL. -/
def execLcInstall (r : Req) (s : State) : Host.Outcome State Fault Refusal := .next (s.firmware 0x0F09 (us 20000) [8] r lcInstallBody)
/-- LC_TRANSITION. -/
def execLcTransition (r : Req) (s : State) : Host.Outcome State Fault Refusal := .next (s.firmware 0x0F0A (us 300) [8] r lcTransitionBody)

end Sys2Proof.Machine
end

