-- ==== Sys2Proof/Machine/Ucode.lean ====
section
/-!
DEFINITION. Sequencer patches: the UCODE commands of Tables 5-7 and 5-8 (R135–R138, R142).
-/
namespace Sys2Proof.Machine

/-- The gathers of a tile. -/
def tileGathers (t : Nat) : List Nat := (List.range 16).map (16 * t + ·)

/-- SEQ_BUSY, or MEMBER_BUSY on a cane, unless all gathers of every tile are IDLE or HALTED (R135). -/
def State.tilesIdle (s : State) (t : Tgt) : Half :=
  if t.units.all fun k => (tileGathers k).all fun g => (s.gather g).idle then stOK else t.busy stSeqBusy

/-- The digest register: the first 64 bits of SHA-384 over words and match registers (R138), little-endian (R6). [DEDUCED, unsafe: log 30.] -/
def Patch.digestOf (p : Patch) : DWord :=
  let m := (p.words.map fun w => toLE 3 w.toNat).flatten ++ (p.regs.map fun w => toLE 4 w.toNat).flatten
  BitVec.ofNat 64 (leNat (sha384 m) 0 8)

/-- The UCODE_LOAD payload (Table 5-8) as a patch set. -/
def patchOf (p : List Byte) : Patch :=
  let q : Patch := { words := (List.range 64).map fun i => BitVec.ofNat 24 (u32 p (8 + 4 * i))
                     regs := (List.range 16).map fun i => w32 p (264 + 4 * i), version := w32 p 0 }
  { q with digest := q.digestOf }

/-- A microword that may be loaded: no reserved MOP, no JMP into 0xC40–0xFFF (R131, R136). -/
def wordOk (w : Nat) : Bool := w < 2 ^ 24 && bits w 23 19 ≤ 0xD && !(bits w 23 19 == 7 && bits w 11 0 ≥ 0xC40)

/-- The conditions of R136 and the reserved bits of Tables 5-4 and 5-8. -/
def patchPayloadOk (p : List Byte) : Bool :=
  let q := patchOf p
  let en := q.regs.filter (·.getLsbD 31)
  let addrs := en.map fun m => bits m.toNat 11 0
  zeros p 4 4 && (List.range 64).all (fun i => wordOk (u32 p (8 + 4 * i))) &&
    q.regs.all (fun m => bits m.toNat 30 22 == 0 && bits m.toNat 15 12 == 0) && addrs.all (· ≤ 0xBFF) &&
    addrs.eraseDups.length == addrs.length && !en.isEmpty && q.version != 0

/-- [See R141.] -/
def ucodeLoadBody (s : State) (r : Req) : State × Act :=
  let t := s.target r
  guarded s (checks [needLen r 328, unless' (patchPayloadOk r.payload) stBadField, s.tilesIdle t]) fun _ =>
    let q := patchOf r.payload
    let s := forAll t.units (fun s k => forAll (tileGathers k) State.holdDigs { s with patches := Tab.put s.patches k q }) s
    (s, .members t [] (t.here.map fun pu => (pu.1, { bytes := toLE 8 q.digest.toNat })) { len := 8 })

def ucodeClearBody (s : State) (r : Req) : State × Act :=
  let t := s.target r
  guarded s (checks [needLen r 0, s.tilesIdle t]) fun _ =>
    let s := forAll t.units (fun s k => { s with patches := Tab.del s.patches k }) s
    (s, s.configAct t)

/-- VERSION, digest, enabled match count, and the flag word with VERSION_MIXED in bit 0 on a cane (Table 2-2). [DESIGN CHOICE, unsafe: log 7.] -/
def State.ucodeRec (s : State) (k : Nat) (mixed : Bool) : List Byte :=
  let p := s.patch k
  toLE 4 p.version.toNat ++ toLE 8 p.digest.toNat ++ toLE 4 (p.regs.filter (·.getLsbD 31)).length ++ toLE 4 (b2n mixed)

def ucodeQueryBody (s : State) (r : Req) : State × Act :=
  let t := s.target r
  guarded s (needLen r 0) fun _ =>
    let mixed := (t.units.map fun k => (s.patch k).version).eraseDups.length > 1
    (s, s.readMembers t (fun k => { bytes := s.ucodeRec k mixed }) { len := 20, flag := some 16 })

/-- The patch set in the layout of UCODE_LOAD. [DEDUCED, unsafe: log 30.] -/
def Patch.bytes (p : Patch) : List Byte :=
  toLE 4 p.version.toNat ++ toLE 4 0 ++ (p.words.map fun w => toLE 4 w.toNat).flatten ++ (p.regs.map fun w => toLE 4 w.toNat).flatten

def ucodeReadBody (s : State) (r : Req) : State × Act :=
  let t := s.target r
  guarded s (needLen r 0) fun _ => (s, s.readMembers t (fun k => { bytes := (s.patch k).bytes }) { len := (s.patch 0).bytes.length })

/-- UCODE_LOAD: patch RAM and match registers, then version and digest together (R137). -/
def execUcodeLoad (r : Req) (s : State) : Host.Outcome State Fault Refusal := .next (s.firmware 0x1001 (us 200) [7, 0xC] r ucodeLoadBody)
/-- UCODE_CLEAR. -/
def execUcodeClear (r : Req) (s : State) : Host.Outcome State Fault Refusal := .next (s.firmware 0x1002 (us 50) [7, 0xC] r ucodeClearBody)
/-- UCODE_QUERY. -/
def execUcodeQuery (r : Req) (s : State) : Host.Outcome State Fault Refusal := .next (s.firmware 0x1003 (us 20) [7, 0xC] r ucodeQueryBody)
/-- UCODE_READ. -/
def execUcodeRead (r : Req) (s : State) : Host.Outcome State Fault Refusal := .next (s.firmware 0x1004 (us 50) [7, 0xC] r ucodeReadBody)

end Sys2Proof.Machine
end

