-- ==== Sys2Proof/Machine/Twin.lean ====
section
/-!
DEFINITION. The counterproof twin (R450–R469, R480–R482): the link, mirroring, the hand-over bus, failure and takeover, DOUBLE duty, and the
TWIN commands.
-/
namespace Sys2Proof.Machine

/-! ## Commands by opcode, as the twin's traffic names them -/

/-- The own part of a command that can reach members of either half: through a twin-spanning cane, or through the shadow. -/
def bodyOf (op : Half) : Option (State → Req → State × Act) :=
  match op.toNat with
  | 0x0202 => some caneDefineBody
  | 0x0203 => some caneDeleteBody
  | 0x0205 => some caneMaskBody
  | 0x0301 => some strokeLoadBody
  | 0x0302 => some tsetLoadBody
  | 0x0303 => some strokeStartBody
  | 0x0304 => some strokeHaltBody
  | 0x0305 => some strokeStatusBody
  | 0x0306 => some strokeReadBody
  | 0x0307 => some seqConfigBody
  | 0x0401 => some vmemWriteBody
  | 0x0402 => some vmemReadBody
  | 0x0403 => some vmemPinBody
  | 0x0404 => some streamOpenBody
  | 0x0405 => some streamCloseBody
  | 0x0407 => some bcastLoadBody
  | 0x0408 => some bcastStartBody
  | 0x0409 => some bcastUnloadBody
  | 0x040A => some stencilLoadBody
  | 0x040B => some stencilClearBody
  | 0x040C => some streamStatusBody
  | 0x0501 => some pinConfigBody
  | 0x0502 => some pinLevelsBody
  | 0x0503 => some pinLoadBody
  | 0x0504 => some pinClearBody
  | 0x0505 => some pinComparatorBody
  | 0x0509 => some sentConfigBody
  | 0x050A => some sentStatusBody
  | 0x050B => some contactCheckBody
  | 0x0601 => some smuConfigBody
  | 0x0602 => some smuForceBody
  | 0x0603 => some smuSafeBody
  | 0x0604 => some smuTripBody
  | 0x0801 => some tiuConfigBody
  | 0x0806 => some tiuSelftestBody
  | 0x0901 => some capConfigBody
  | 0x0902 => some capLimitsBody
  | 0x0A01 => some hatchLineBody
  | 0x0A02 => some hatchProducerBody
  | 0x0A03 => some hatchForwardBody
  | 0x0A05 => some hatchBindBody
  | 0x0A07 => some hatchRestoreBody
  | 0x0A09 => some hatchStatusBody
  | 0x0B02 => some calPinmaskBody
  | 0x0D05 => some jrnConfigBody
  | 0x0E06 => some fltReleaseBody
  | 0x1001 => some ucodeLoadBody
  | 0x1002 => some ucodeClearBody
  | _ => none

/-- Apply a write that the shadow holds; its answer goes nowhere. A descriptor has passed its checks when it was written, and is put as it
stands, a twin-spanning one too (R46). -/
def State.applyWrite (s : State) (w : Half × Req) : State :=
  if w.1 == 0x0202 then s.putCane (defined w.2).1 (defined w.2).2
  else match bodyOf w.1 with | some b => (b s w.2).1 | none => s

/-! ## The hand-over chain (R459–R462) -/

/-- Table 18-3 by site: 0 OPEN, 1 HOME, 2 AWAY. `away` says that the turn is the partner's. -/
def State.chainContent (s : State) (away : Bool) : List Nat :=
  (List.range 128).map fun site =>
    let mine := site / 64 == b2n s.chain.twinId
    match s.twin.st with
    | 0 => if mine then 1 else 0
    | 3 => if mine then (if away then 0 else 1) else if away then 2 else 0
    | _ => 1

/-- The owner writes the chain; a LOST device has no content to write. -/
def State.writeChain (s : State) (away : Bool) : State :=
  let t := s.twin
  if t.owner && t.st != 4 then s.setTwin { t with chain := s.chainContent away, writes := t.writes + 1, writeNs := s.upNs } else s

/-- The 256-bit chain as 32 bytes: site 127 first, two bits each, most significant first. -/
def chainBytes (c : List Nat) : List Byte :=
  (List.range 32).map fun i =>
    let at' := fun k => c.getD (127 - (4 * i + k)) 0
    BitVec.ofNat 8 (at' 0 * 64 + at' 1 * 16 + at' 2 * 4 + at' 3)

/-! ## Acknowledgements (R452, R458, R474) -/

/-- What the acknowledgement of one mirror entry does: a mirrored checkpoint releases its site's older markers. -/
def State.ackEntry (s : State) (m : LinkMsg) : State :=
  match m with
  | .checkpoint b =>
    let s := s.releaseMarkers (u16 b 0) (u32 b 4) (u32 b 8)
    if u16 b 0 / 64 == s.halfIx then s.etchRecheck (u16 b 0 % 64) else s
  | _ => s

/-- The partner has made everything up to a sequence durable. -/
def State.ackTo (s : State) (seq : Nat) : State :=
  let t := s.twin
  let done := t.unacked.filter fun e => decide (e.1 ≤ seq)
  let s := s.setTwin { t with unacked := t.unacked.filter (fun e => decide (seq < e.1)), ackSeq := max t.ackSeq (min seq t.sentSeq) }
  done.foldl (fun s e => s.ackEntry e.2.2) s

/-! ## Failure and takeover (R46, R463, R464) -/

/-- Commands that await the twin's members are answered with those failing as TWIN_DOWN (R46); a change of a descriptor is refused with
TWIN_DOWN (R44). [DESIGN CHOICE, unsafe: log 73.] -/
def State.spansDown (s : State) : State :=
  forAll (s.waiters .twinReport) (fun s m =>
    match s.waiting m with
    | some (e, w) => s.respond m (w.nums.getD 0 0) (if groupOf e.opcode == 2 then Reply.err stTwinDown else w.spanReply [] [])
    | none => s) s

/-- A sequencer is inside an ETCH stroke. -/
def State.inEtch (s : State) (w : Who) : Bool :=
  let q := s.seqOf w
  q.live && q.begun && q.cont.isNone && (s.entryOf w q.cur).etch

/-- Halt with source COMMAND every sequencer that runs, but, where `spare`, those inside an ETCH stroke, which halt at its end (R87). -/
def State.stopAll (s : State) (spare : Bool) : State :=
  let s := forAll (List.range 4) (fun s p =>
    if (s.prog p).seq.live && !(spare && s.inEtch (.p p)) then s.haltWho (.p p) 3 0 0 else s) s
  let s := forAll (s.gathers.map (·.1)) (fun s g =>
    if !(s.gather g).seq.live then s
    else match s.whoOn g with
      | .g _ => if spare && s.inEtch (.g g) then s else s.haltWho (.g g) 3 0 0
      | _ => s) s
  s.setTwin { s.twin with etchStop := spare && s.gathers.any fun g => g.2.seq.live }

/-- The twin-wide sites of the gathers that run. [DEDUCED, unsafe: log 89.] -/
def State.liveSites (s : State) : List Nat := (s.gathers.filter fun g => g.2.seq.live).map fun g => s.siteOf g.1

/-- The partner's sites of which a mirrored checkpoint is held. [DEDUCED, unsafe: log 89.] -/
def State.mirroredSites (s : State) : List Nat :=
  (s.journal.sites.filter fun x => x.1 / 64 != b2n s.chain.twinId && x.2.ring.any (·.mirrored)).map (·.1)

/-- Takeover (Table 18-4): DOUBLE, the partner's turn first, and replays owed for what was in flight in both halves. [DEDUCED, unsafe: log 89.] -/
def State.takeOver (s : State) : State :=
  let s := s.requestTurn
  s.setTwin { s.twin with st := 3, takeover := true, replayOwed := s.twin.replayOwed ++ s.mirroredSites }

/-- A PAIRED device declares its partner down (R463): an owner halts its own gathers, an ETCH stroke at its end, and takes over; a non-owner
halts all of them at once and watches HOS_CLK. -/
def State.declareDown (s : State) : State :=
  if s.twin.st != 2 || s.faults.anneal || s.power.pstate == 3 then s
  else
    let s := s.setTwin { s.twin with down := true, replayOwed := s.liveSites, dormantTold := false, waking := false }
    let s := ((s.syncDevice []).advise fTwinTakeover hDevice).spansDown
    if s.twin.owner then (s.stopAll true).takeOver
    else let s := s.stopAll false; s.setTwin { s.twin with watching := true, hosNs := s.upNs }

/-- How long a device waits for a heartbeat or for the acknowledgement of a mirror entry (R452). -/
def partnerNs : Nat := 30000

/-- HEARTBEAT_TIMEOUT (R452): not after a DORMANT frame (R457). -/
def execHeartbeatTimeout (s : State) : Host.Outcome State Fault Refusal := .next (if s.twin.dormantTold || !s.passed s.twin.beatNs partnerNs then s else s.declareDown)
/-- MIRROR_ACK_TIMEOUT (R452). -/
def execMirrorAckTimeout (s : State) : Host.Outcome State Fault Refusal := 
  .next (if s.twin.unacked.any fun e => s.passed e.2.1 partnerNs then s.declareDown else s)
/-- ANNEAL_FRAME (R452). -/
def execAnnealFrame (s : State) : Host.Outcome State Fault Refusal := .next s.declareDown
/-- The attempts of an internal transfer (R31): the last one's failure is the loss or the fault. -/
def maxAttempts : Nat := 3
/-- LINK_LOSS (R450, R452): the link is down, for its lanes or for a frame that failed its last attempt; after a DORMANT frame that is no failure (R457). -/
def execLinkLoss (s : State) : Host.Outcome State Fault Refusal :=
  if !s.twin.link then .next s
  else
    let (frame, s) := s.choose
    let s := s.setTwin { s.twin with link := false, losses := satAdd 0xFFFF_FFFF s.twin.losses 1
                                     resends := satAdd 0xFFFF_FFFF s.twin.resends (if frame then maxAttempts - 1 else 0) }
    .next (if s.twin.dormantTold then s else s.declareDown)
/-- WAKE_LINK_TIMEOUT (R457): the link is not up 10 ms after wake. -/
def execWakeLinkTimeout (s : State) : Host.Outcome State Fault Refusal := 
  .next (if s.twin.waking && !s.twin.link && s.passed (s.power.wakeNs.getD 0) (us 10000) then s.declareDown else s)
/-- DORMANT_FRAME (R457). -/
def execDormantFrame (s : State) : Host.Outcome State Fault Refusal :=
  .next (if s.twin.st == 2 then s.setTwin { s.twin with dormantTold := true } else s)

/-! ## The link and pairing (R450–R456) -/

/-- COUNTERPROOF_LINK_UP (R450). -/
def execCounterproofLinkUp (s : State) : Host.Outcome State Fault Refusal :=
  .next (if s.power.pstate == 3 then s else s.setTwin { s.twin with link := true, dormantTold := false, dormantSent := false, waking := false })

/-- The writes owed to the partner are repeated there. [DESIGN CHOICE, unsafe: log 86.] -/
def State.sendOwed (s : State) (asked : Bool) : State :=
  let ws := s.twin.owed
  let s := s.setTwin { s.twin with owed := [] }
  ws.foldl (fun s w => if asked then s.mirrorSend (.shadow w.1 w.2) else s.linkSend (.shadow w.1 w.2)) s

/-- LINK_PAIRED (R451, R455): with the link up and each holding the other's shadow, two devices that match are PAIRED; others stay PAIRING
with PAIR_CLASH. [DESIGN CHOICE, unsafe: log 86.] -/
def execLinkPaired (matching shadows : Bool) (s : State) : Host.Outcome State Fault Refusal :=
  if s.twin.st != 1 || !s.twin.link || s.faults.anneal then .next s
  else if !matching then .next (s.advise fPairClash hDevice)
  else if !shadows then .next s
  else
    let s := s.sendOwed false
    .next (s.setTwin { s.twin with st := 2, shadowHeld := true, beatNs := s.upNs })

/-- TWIN_ABSENT_TIMEOUT (R456): once, 1 s after the reset that left the device PAIRING. -/
def execTwinAbsentTimeout (s : State) : Host.Outcome State Fault Refusal :=
  .next (if s.twin.st == 1 && !s.twin.absent && s.passed s.power.resetNs (10 ^ 9) then (s.setTwin { s.twin with absent := true }).advise fTwinAbsent hDevice else s)

/-- HEARTBEAT_SEND (R452), every 10 µs in PAIRED and DOUBLE: the state, the highest mirror sequence made durable, and the bus ownership. -/
def execHeartbeatSend (s : State) : Host.Outcome State Fault Refusal :=
  let t := s.twin
  let due : Bool := match t.beat with | some b => s.passed b.2.2.2 10000 | none => true
  .next (if (t.st == 2 || t.st == 3) && t.link && s.power.pstate != 3 && due then
      s.setTwin { t with beats := t.beats + 1, beat := some (t.st, t.gotSeq, t.owner, s.upNs) }
    else s)

/-- HEARTBEAT_RECEIVE (R452, R455): the partner's state, its bus ownership, and the mirror sequence it has made durable. A partner in DOUBLE
makes a PAIRING device LOST. [DESIGN CHOICE, unsafe: log 97.] -/
def execHeartbeatReceive (state : BitVec 3) (mirrorSeq : Nat) (ownsBus : Bool) (s : State) : Host.Outcome State Fault Refusal :=
  if !s.twin.link then .next s
  else
    let t := s.twin
    let s := s.setTwin { t with partner := state.toNat, partnerOwns := ownsBus, beatNs := s.upNs, st := if t.st == 1 && state == 3 then 4 else t.st }
    .next (s.ackTo mirrorSeq)

/-- MIRROR_ENTRY_ACK (R458). -/
def execMirrorEntryAck (seq : Nat) (s : State) : Host.Outcome State Fault Refusal := .next (if s.twin.link then s.ackTo seq else s)

/-! ## The hand-over bus (R460, R461, R463) -/

/-- Does the device act on the bus? In Anneal it leaves the lines alone. -/
def State.onBus (s : State) : Bool := !s.faults.anneal && s.power.pstate != 0

/-- AOCLK cycles in ns, rounded up: 32,768 Hz. -/
def aoNs (n : Nat) : Nat := (n * 10 ^ 9 + 32767) / 32768

/-- The wait without a HOS_CLK edge before a device owns the bus, in AOCLK cycles (R461). -/
def State.hosCycles (s : State) : Nat := if s.twin.st == 0 || !s.chain.twinId then 12 else 24

/-- HOS_OWNER_WAIT_EXPIRY (R461). -/
def execHosOwnerWaitExpiry (s : State) : Host.Outcome State Fault Refusal :=
  .next (if s.twin.hosWait && s.onBus && s.passed s.twin.hosNs (aoNs s.hosCycles) then (s.setTwin { s.twin with owner := true, hosWait := false }).writeChain s.twin.otherIn else s)

/-- HOS_EDGE_SEEN (R461, R463): a waiting device is non-owner; one that watches after its declaration is LOST. [DESIGN CHOICE, unsafe: log 97.] -/
def execHosEdgeSeen (s : State) : Host.Outcome State Fault Refusal :=
  let t := s.twin
  .next (s.setTwin { t with hosWait := false, watching := false, st := if t.watching then 4 else t.st
                            replayOwed := if t.watching then [] else t.replayOwed })

/-- HOS_SILENCE_EXPIRY (R463): the watching device becomes the owner and takes over. -/
def execHosSilenceExpiry (s : State) : Host.Outcome State Fault Refusal :=
  .next (if s.twin.watching && s.onBus && s.passed s.twin.hosNs (aoNs 12) then (s.setTwin { s.twin with watching := false, owner := true }).takeOver else s)

/-- HOS_READBACK_CONFLICT (R461). -/
def execHosReadbackConflict (s : State) : Host.Outcome State Fault Refusal :=
  .next (if s.twin.owner then s.setTwin { s.twin with owner := false, hosWait := true, hosNs := s.upNs } else s)

/-- HOS_REFRESH (R460): every 100 ms. -/
def execHosRefresh (s : State) : Host.Outcome State Fault Refusal :=
  .next (if s.onBus && s.power.pstate != 3 && s.passed s.twin.writeNs (us 100000) then s.writeChain (s.twin.otherIn != s.twin.swapping) else s)

/-- HOS_BEACON (R460): every 4 AOCLK cycles, in every power state but OFF. -/
def execHosBeacon (s : State) : Host.Outcome State Fault Refusal :=
  .next (if s.twin.owner && s.onBus && s.passed s.twin.beaconNs (aoNs 4) then
      s.setTwin { s.twin with beacons := s.twin.beacons + 1, beaconNs := s.upNs }
    else s)

/-! ## Turns (R465–R468) -/

/-- An Ampoule request of the half in turn is in progress; once the turn is forced, one that waits for its trigger is none. [DEDUCED, unsafe: log 92.] -/
def State.ampInTurn (s : State) : Bool :=
  s.amp.gathers.any fun g => g.2.chans.any fun c =>
    c.2.run.isSome || !c.2.held.isEmpty || (!s.twin.forced && c.2.queue.any (·.half == s.halfIx))

/-- The condition of R465. [DEDUCED, unsafe: log 92.] -/
def State.turnReady (s : State) : Bool :=
  !s.anySeqBusy && !s.anyCapBusy && !s.ampInTurn &&
    s.gathers.all fun g => g.2.tius.all (fun u => u.2.st == .idle || u.2.st == .service) && g.2.smus.all (·.2.meas.isNone)

/-- Does the half that is not in turn owe a replay which the half in turn does not? -/
def State.replayTurn (s : State) : Bool :=
  s.twin.replayOwed.any (· / 64 != s.halfIx) && !s.twin.replayOwed.any (· / 64 == s.halfIx)

/-- Every bridge emulator goes to OPEN and every claim ends (R466). -/
def State.openBridges (s : State) : State := forAll (s.amp.gathers.map (·.1)) State.ampOpen s

/-- A turn ends (R466, Table 22-1): every Marver step in progress ends with CAL_PREEMPT, and its pins' switches have closed when the other half's
switches have settled; bridges go to OPEN and claims end. -/
def State.endTurn (s : State) : State :=
  (forAll (s.cal.gathers.map (·.1)) (fun s g => (s.preempt g fun _ => true).modG g fun G => G.mapPins fun _ x => { x with iso := false }) s).openBridges

/-- The checkpoints of the partner's sites as they stand. [DESIGN CHOICE, unsafe: log 93.] -/
def State.partnerCkpts (s : State) : List (List Byte) :=
  (s.journal.sites.filter fun x => x.1 / 64 != b2n s.chain.twinId).flatMap fun x => (x.2.ring ++ x.2.queue).map (·.bytes)

/-- TWIN_RELEASE once the condition of R465 holds (R469): the partner's half goes back, the own half is served, the chain is written for
PAIRED, and what the partner has not been told is repeated there. [DESIGN CHOICE, unsafe: log 93.] -/
def State.release (s : State) : State :=
  let s := s.linkSend (.halfBack s.twin.shadow s.partnerCkpts)
  let s := if s.twin.otherIn then s.swapHalves else s
  let t := s.twin
  let s := s.setTwin { t with st := 2, down := false, shelf := {}, turnWanted := false, forced := false, etchStop := false, takeover := false
                              beatNs := s.upNs, replayOwed := t.replayOwed.filter (· / 64 == b2n s.chain.twinId), unacked := [], ackSeq := t.sentSeq }
  let s := ((s.writeChain false).sendOwed true).syncLines
  forAll (s.waiters .twinRelease) (fun s m => s.respond m 0 (Reply.ok [])) s

/-- TURN_CHANGE (R465, R466, R469): the chain is written for the other half, bridges open and claims end; the swap begins. -/
def execTurnChange (s : State) : Host.Outcome State Fault Refusal :=
  let t := s.twin
  if t.st != 3 || t.swapping || !t.owner || s.frozen || !s.turnReady then .next s
  else if !(s.waiters .twinRelease).isEmpty then .next s.endTurn.release
  else if !(t.turnWanted || s.replayTurn) then .next s
  else
    let s := (s.writeChain (!t.otherIn)).endTurn
    .next (s.setTwin { s.twin with swapping := true, swapNs := s.upNs, turnWanted := false, forced := false, etchStop := false })

/-- The own part of a command as it acts on a target accepted before (R43): the cane stands for the membership that it had then. -/
def State.runOn (s : State) (t : Tgt) (body : State → Req → State × Act) (r : Req) : State × Act :=
  match t.cane with
  | none => body s r
  | some i =>
    let kept := s.canes
    let (u, a) := body (s.putCane i { cls := t.cls, gang := t.gang, twinSpan := true, members := t.handles, masked := t.masked }) r
    ({ u with canes := kept }, a)

/-- A command on both halves runs for the half now in turn, on the membership it was accepted with, and is answered over all its members
(R43, R467). -/
def State.runOther (s : State) (m : Nat) : State :=
  match s.waiting m with
  | some (e, w) =>
    match bodyOf e.opcode with
    | some body =>
      let (s, a) := s.runOn w.tgt body e.req
      let s := if a.accepted then s.shadowWrite e.opcode e.req else s
      let bound := w.nums.getD 0 0
      match a with
      | .members _ safe recs _ => s.respond m bound (w.spanReply safe recs)
      | .done rep => s.respond m bound (if rep.status == stOK then w.spanReply [] [] else rep)
      | .wait _ => s.respond m bound (w.spanReply [] [])
    | none => s.respond m 0 (w.spanReply [] [])
  | none => s

/-- TURN_SWAP_DONE (R465), once the chain is written and the switches have settled: the new half is served; at a takeover it is loaded from the shadow. -/
def execTurnSwapDone (s : State) : Host.Outcome State Fault Refusal :=
  if !s.twin.swapping || !s.passed s.twin.swapNs (12900 + us s.twin.settle) then .next s
  else
    let first := s.twin.takeover
    let s := s.swapHalves
    let s := s.setTwin { s.twin with swapping := false, takeover := false }
    let s := if first then s.twin.shadow.foldl State.applyWrite s else s
    .next (forAll (s.waiters .otherHalf) State.runOther s.syncLines)

/-- TURN_LIMIT_EXPIRY (R468): what keeps the half in turn is ended. -/
def execTurnLimitExpiry (s : State) : Host.Outcome State Fault Refusal :=
  let t := s.twin
  if t.st != 3 || !t.turnWanted || t.swapping || t.forced || s.turnReady || !s.passed t.turnDueNs 0 then .next s
  else
    let s := (s.setTwin { t with forced := true }).stopAll true
    let s := forAll (s.gathers.map (·.1)) (fun s g => (s.endTius g tfAborted).endDigs g cfAborted) s
    let s := forAll (s.amp.gathers.map (·.1)) (fun s g => s.ampAbort g afTurn false) s
    .next (s.advise fTurnForced hDevice)

/-! ## The link's traffic on mailbox 4 (R45, R457, R458, R469) -/

/-- A checkpoint out of its bytes. -/
def ckptOf (b : List Byte) : Ckpt :=
  { site := u16 b 0, succ := u16 b 2 % 4096, bcast := bit (u16 b 2) 12, run := u32 b 4, cseq := u32 b 8, prog := u8 b 12, mode := u8 b 13
    leftAt := u16 b 14, loops := (List.range 8).map fun i => leNat b (16 + 3 * i) 3
    stack := (List.range (u8 b 52)).map fun i => leNat b 40 12 / 4096 ^ i % 4096
    pend := u8 b 53, pendTarget := u16 b 54, tileDigest := BitVec.ofNat 64 (u64 b 56), cfgDigest := BitVec.ofNat 64 (u64 b 64)
    result := slice b 72 32, time := u64 b 104, fails := u32 b 112, flags := u32 b 116 }

/-- A marker out of its bytes. -/
def markerOf (b : List Byte) : Marker := { kind := u8 b 0, outcome := u8 b 1, site := u16 b 2, stroke := u16 b 4, run := u32 b 8, cseq := u32 b 12 }

/-- A checkpoint goes into its site's ring of 256 (R470) and releases the site's older markers (R474). -/
def State.storeCkpt (s : State) (c : Ckpt) : State :=
  let x := s.site c.site
  let ring := x.ring ++ [c]
  let s := s.setSite c.site { x with ring := if ring.length > 256 then ring.drop 1 else ring, run := max x.run c.run, cseq := c.cseq }
  s.releaseMarkers c.site c.run c.cseq

/-- A mirror entry has been made durable here. [DEDUCED, unsafe: log 98.] -/
def State.gotEntry (s : State) : State := s.setTwin { s.twin with gotSeq := s.twin.gotSeq + 1 }

/-- The report that answers a forwarded command, and acknowledges it: its entry leaves mailbox 4 (R394, R396). -/
def State.answerForwarded (s : State) (r : Req) (st : Half) (recs : List (Nat × Bool × List Byte)) : State :=
  let x := s.mailbox 4
  (s.setMbx 4 { x with entries := x.entries.filter (!·.isRunning), formedNs := s.upNs }).linkSend (.report r.mbx r.tag st recs)

/-- The own part of a forwarded command runs for this device's own members, and the twin is told its status and their records (R45). A command
that takes a gather cane never waits. [DEDUCED, unsafe: log 95.] -/
def State.forwardedBody (s : State) (op : Half) (r : Req) (body : State → Req → State × Act) : State :=
  let (s', a) := guarded s (s.spanFree op r) fun _ => body s r
  let s' := if a.accepted then (s'.wakeIdle op).shadowWrite op r else s'
  match a with
  | .members _ safe recs _ =>
    s'.answerForwarded r stOK (safe.map (fun p => (p, true, [])) ++ recs.map fun x => (x.1, x.2.failed, x.2.bytes))
  | .done rep => s'.answerForwarded r rep.status []
  | .wait _ => s'.answerForwarded r stOK []

/-- A forwarded command comes to mailbox 4 (R394): it takes a credit and its place in doorbell order (R396, R403), is turned away where the
mailbox is full (R397), and at the head passes the checks of R402 as the twin's mailbox would make them. [DEDUCED, unsafe: log 95.] -/
def State.runForwarded (s : State) (op : Half) (r : Req) : State :=
  let r4 := { r with mbx := 4 }
  let matchHead : Bool := match (s.mailbox 4).head with | some e => e.isQueued && e.opcode == op && e.req == r4 | none => false
  let free := (s.mailbox 4).head.isNone
  let x := s.mailbox 4
  let (s, taken) := if matchHead then (s, true)
    else if x.outstanding ≥ 16 then (s.setMbx 4 { x with fulls := x.fulls + 1 }, false) else s.ring op r4
  if !taken then s.linkSend (.report r.mbx r.tag stMbxFull [])
  else if !(matchHead || free) then s
  else
    let s := s.startHead 4
    let st := s.envelope op r (if op == 0x0202 then [8] else [6, 0xC])
    if st != stOK then s.answerForwarded r st []
    else match bodyOf op with
      | none => s.answerForwarded r stUnknownOpcode []
      | some body => s.forwardedBody op r body

/-- The twin's report completes the command that awaits it (R44, R45): members that it does not report count as failing, and so do all
where it refused the command; a change of a descriptor is made here once the twin has made it, and refused where the twin refused it.
 [DESIGN CHOICE, unsafe: log 73; DEDUCED, unsafe: log 95.] -/
def State.gotReport (s : State) (m : Nat) (tag st : Half) (recs : List (Nat × Bool × List Byte)) : State :=
  match s.waiting m with
  | some (e, w) =>
    if w.kind == .twinReport && e.req.tag == tag then
      let bound := w.nums.getD 0 0
      if groupOf e.opcode == 2 then
        if st != stOK then s.respond m bound (Reply.err st)
        else match bodyOf e.opcode with
          | some body =>
            let (u, a) := body s e.req
            match a with
            | .done rep => (if a.accepted then u.shadowWrite e.opcode e.req else u).respond m bound rep
            | _ => u
          | none => s
      else
        let mine := recs.filter fun x => w.units.contains x.1
        let lost := w.units.filter fun p => !mine.any fun x => x.1 == p && x.2.2.length == w.lay.len
        let rs := (mine.filter fun x => !lost.contains x.1).map fun x => (x.1, ({ bytes := x.2.2, failed := x.2.1 } : MemRec))
        s.respond m bound (w.spanReply lost rs)
    else s
  | none => s

/-- TWIN_LINK_FRAME (R480): what the twin sends on mailbox 4, by what it carries. -/
def execTwinLinkFrame (m : LinkMsg) (s : State) : Host.Outcome State Fault Refusal :=
  let t := s.twin
  if !t.link || s.faults.anneal || s.power.pstate == 0 || s.power.pstate == 3 then .next s
  else
    let pairing := t.st == 1 || t.st == 2
    .next (match m with
    | .forwarded op r => if t.st == 2 then s.runForwarded op r else s
    | .report mb tag st recs => if t.st == 2 then s.gotReport mb.val tag st recs else s
    | .checkpoint b => if t.st == 2 then (s.storeCkpt { ckptOf b with mirrored := true }).gotEntry else s
    | .marker b =>
      if t.st == 2 then
        let j := s.journal
        let i := j.nextFree markerRing j.nextMarker
        (s.setJournal { j with markers := Tab.put j.markers i (markerOf b), nextMarker := (i + 1) % markerRing }).gotEntry
      else s
    | .shadow op r => if pairing then ((s.setTwin { t with shadow := t.shadow ++ [(op, r)] })).gotEntry else s
    | .halfBack writes cks =>
      if t.st == 4 then
        let s := s.setTwin { t with st := 2, down := false, unacked := [], ackSeq := t.sentSeq, shadowHeld := true, beatNs := s.upNs }
        let s := writes.foldl State.applyWrite s
        (cks.foldl (fun s b => s.storeCkpt (ckptOf b)) s).syncLines
      else s
    | .dormant =>
      if t.st == 2 && !s.anySeqBusy && !s.anyCapBusy && !s.anyTiuBusy && !s.anyAmpBusy && !s.power.entering then s.startDormant else s)

/-! ## Commands -/

/-- TWIN_CONFIG: MODE is in force from the next device reset. -/
def twinConfigBody (s : State) (r : Req) : State × Act :=
  let p := r.payload
  guarded s (checks [needLen r 8,
      unless' (u8 p 0 ≤ 1 && zeros p 1 1 && decide (100 ≤ u16 p 2 ∧ u16 p 2 ≤ 2000) && decide (1 ≤ u32 p 4 ∧ u32 p 4 ≤ 10000)) stBadField]) fun _ =>
    (s.setTwin { s.twin with solo := u8 p 0 == 1, settle := u16 p 2, turnLimit := u32 p 4 }, .ok)

/-- Does a mirror entry repeat an accepted write (R458)? -/
def isShadowed : LinkMsg → Bool
  | .shadow _ _ => true
  | _ => false

/-- TWIN_STATE (Table 18-10): SHADOW_OK while no accepted write is left to acknowledge (R458). -/
def State.twinState (s : State) : Nat :=
  let t := s.twin
  t.st + t.partner * 2 ^ 6 + b2n t.solo * 2 ^ 9 + b2n t.link * 2 ^ 10 + b2n (t.st == 3 && t.otherIn) * 2 ^ 11
    + b2n (t.st == 2 && !t.unacked.any (isShadowed ·.2.2)) * 2 ^ 12 + b2n t.owner * 2 ^ 13

/-- TWIN_STATUS: the image, the partner's DEVICE_ID, the resend count, to which the link has added an open number, the losses, the chain and REPORT_LOST. [DESIGN CHOICE, unsafe: log 8; DESIGN CHOICE, safe: log 94.] -/
def twinStatusBody (s : State) (r : Req) : State × Act :=
  guarded s (needLen r 0) fun _ =>
    let (k, s) := s.fresh
    let resends := satAdd 0xFFFF_FFFF s.twin.resends k
    let s := s.setTwin { s.twin with resends := resends }
    (s, .ok (toLE 4 s.twinState ++ (List.range 4).flatMap (fun i => toLE 4 (Config.partnerId i).toNat) ++ toLE 4 resends ++ toLE 4 s.twin.losses
      ++ chainBytes s.twin.chain ++ toLE 4 s.journal.reportLost))

/-- TWIN_HALF: the half that unit handles name on this mailbox. -/
def twinHalfBody (s : State) (r : Req) : State × Act :=
  guarded s (checks [needLen r 4, unless' (u8 r.payload 0 ≤ 1 && zeros r.payload 1 3) stBadField]) fun _ =>
    (s.setMbx r.mbx.val { s.mailbox r.mbx.val with half := u8 r.payload 0 }, .ok)

/-- TWIN_RELEASE waits for the condition of R465. -/
def twinReleaseBody (s : State) (r : Req) : State × Act :=
  guarded s (checks [needLen r 0, unless' (s.twin.st == 3 && s.twin.link && s.twin.partner == 4) stTwinDown]) fun _ =>
    (s, .wait { kind := .twinRelease })

/-- TWIN_CONFIG. -/
def execTwinConfig (r : Req) (s : State) : Host.Outcome State Fault Refusal := .next (s.firmware 0x0D01 (us 1000) [8] r twinConfigBody)
/-- TWIN_STATUS. -/
def execTwinStatus (r : Req) (s : State) : Host.Outcome State Fault Refusal := .next (s.firmware 0x0D02 (us 20) [8] r twinStatusBody)
/-- TWIN_HALF. -/
def execTwinHalf (r : Req) (s : State) : Host.Outcome State Fault Refusal := .next (s.firmware 0x0D03 (us 20) [8] r twinHalfBody)
/-- TWIN_RELEASE: its bound of 15 ms counts from the condition, which TURN_CHANGE finds. -/
def execTwinRelease (r : Req) (s : State) : Host.Outcome State Fault Refusal := .next (s.firmware 0x0D04 0 [8] r twinReleaseBody)

end Sys2Proof.Machine
end

