-- ==== Sys2Proof/Machine/Table.lean ====
section
/-!
DEFINITION. The firmware commands by opcode (Table 16-8), for a doorbell that brings the bytes of a request.
-/
namespace Sys2Proof.Machine

/-- What a command's chapter gives: the target classes that it takes, its completion bound in ns, and its own part. -/
structure Firm where
  accept : List Nat
  bound : Nat
  body : State → Req → State × Act

/-- Every class of Table 2-1. -/
def allClasses : List Nat := [0, 1, 2, 3, 4, 5, 6, 7, 8, 9, 0xC]

/-- An undefined command of group 0x07 is the Ampoule's to refuse, and to count (R421). [DEDUCED, unsafe: log 64.] -/
def unknownBody (s : State) (_ : Req) : State × Act :=
  if s.amp.inReset || s.amp.noImage then (s, .st stAmpOffline)
  else ({ s with amp := { s.amp with refusals := sat32 s.amp.refusals } }, .st stAmpUnknown)

/-- The command of an opcode. One that is not defined and passes step 4 of R402 is the Ampoule's. -/
def State.commandOf (s : State) (op : Half) (r : Req) : Firm :=
  match op.toNat with
  | 0x0101 => ⟨[8], (us 50), sysPingBody⟩
  | 0x0102 => ⟨[8], (us 20), sysInfoBody⟩
  | 0x0103 => ⟨[8], (us 20), sysMbxInfoBody⟩
  | 0x0104 => ⟨[8], (s.fenceBound r), sysFenceBody⟩
  | 0x0105 => ⟨[8], (us 100), sysResetBody⟩
  | 0x0106 => ⟨[8], (us 100), sysPowerBody⟩
  | 0x0201 => ⟨[0, 1, 2, 3, 4, 5, 6, 7, 8, 9, 0xC], (us 20), unitInfoBody⟩
  | 0x0202 => ⟨[8], (if bit (u8 r.payload 3) 1 then us 350 else us 300), caneDefineBody⟩
  | 0x0203 => ⟨[0, 1, 2, 3, 4, 5, 6, 7, 0xC], (s.caneBound r), caneDeleteBody⟩
  | 0x0204 => ⟨[0, 1, 2, 3, 4, 5, 6, 7, 0xC], (us 300), caneQueryBody⟩
  | 0x0205 => ⟨[0, 1, 2, 3, 4, 5, 6, 7, 0xC], (s.caneBound r), caneMaskBody⟩
  | 0x0206 => ⟨[8], (us 20), caneListBody⟩
  | 0x0301 => ⟨[6, 0xC], (us 200), strokeLoadBody⟩
  | 0x0302 => ⟨[6, 0xC], (us 100), tsetLoadBody⟩
  | 0x0303 => ⟨[6, 0xC], (us 400), strokeStartBody⟩
  | 0x0304 => ⟨[6, 0xC], (us 5), strokeHaltBody⟩
  | 0x0305 => ⟨[6, 0xC], (us 20), strokeStatusBody⟩
  | 0x0306 => ⟨[6, 8, 0xC], (us 100), strokeReadBody⟩
  | 0x0307 => ⟨[6, 0xC], (us 20), seqConfigBody⟩
  | 0x0401 => ⟨[6, 0xC], (us 100), vmemWriteBody⟩
  | 0x0402 => ⟨[6, 0xC], (us 100), vmemReadBody⟩
  | 0x0403 => ⟨[6, 0xC], (us 4000), vmemPinBody⟩
  | 0x0404 => ⟨[8, 6, 0xC], (us 50), streamOpenBody⟩
  | 0x0405 => ⟨[8], (us 50), streamCloseBody⟩
  | 0x0406 => ⟨[8], (us 100), streamWriteBody⟩
  | 0x0407 => ⟨[6, 0xC], (us 3000), bcastLoadBody⟩
  | 0x0408 => ⟨[6, 0xC], (us 500), bcastStartBody⟩
  | 0x0409 => ⟨[6, 0xC], (us 50), bcastUnloadBody⟩
  | 0x040A => ⟨[6, 0xC], (us 50), stencilLoadBody⟩
  | 0x040B => ⟨[6, 0xC], (us 20), stencilClearBody⟩
  | 0x040C => ⟨[6, 8, 0xC], (us 20), streamStatusBody⟩
  | 0x0501 => ⟨[0, 0xC], (us 50), pinConfigBody⟩
  | 0x0502 => ⟨[0, 0xC], (us 40), pinLevelsBody⟩
  | 0x0503 => ⟨[0, 0xC], (us 20), pinLoadBody⟩
  | 0x0504 => ⟨[0, 0xC], (us 20), pinClearBody⟩
  | 0x0505 => ⟨[0, 0xC], (us 20), pinComparatorBody⟩
  | 0x0506 => ⟨[0, 0xC], (us 10), pinReleaseBody⟩
  | 0x0507 => ⟨[0, 0xC], (us 20), pinStatusBody⟩
  | 0x0508 => ⟨[0, 0xC], (us 20), pinReadBody⟩
  | 0x0509 => ⟨[6, 0xC], (us 20), sentConfigBody⟩
  | 0x050A => ⟨[6, 0xC], (us 20), sentStatusBody⟩
  | 0x050B => ⟨[6, 0xC], (us 20), contactCheckBody⟩
  | 0x0601 => ⟨[1, 0xC], (us 20), smuConfigBody⟩
  | 0x0602 => ⟨[1, 0xC], (us 450), smuForceBody⟩
  | 0x0603 => ⟨[1, 0xC], (us 20), smuSafeBody⟩
  | 0x0604 => ⟨[1, 0xC], (us 20), smuTripBody⟩
  | 0x0605 => ⟨[1, 0xC], 0, smuMeasureBody⟩
  | 0x0606 => ⟨[1, 0xC], (us 10), smuReleaseBody⟩
  | 0x0607 => ⟨[1, 0xC], (us 20), smuStatusBody⟩
  | 0x0608 => ⟨[1, 0xC], (us 20), smuReadBody⟩
  | 0x0701 => ⟨[8], (us 50), ampIdentBody⟩
  | 0x0702 => ⟨[3, 0xC], (us 100), ampConnectBody⟩
  | 0x0703 => ⟨[3, 0xC], (us 20), ampDisconnectBody⟩
  | 0x0704 => ⟨[3, 0xC], 0, ampConvertBody⟩
  | 0x0705 => ⟨[2, 0xC], (us 100), ampBridgeBody⟩
  | 0x0706 => ⟨[2, 0xC], (us 50), ampBridgeStatusBody⟩
  | 0x0707 => ⟨[8], (us 50), ampStatusBody⟩
  | 0x0708 => ⟨[8], (us 7000), ampSheetCloseBody⟩
  | 0x0709 => ⟨[8], (us 2000), ampSheetReadBody⟩
  | 0x070A => ⟨[8], (us 1000), ampAdjustBody⟩
  | 0x070B => ⟨[8], (us 50), ampCounterBody⟩
  | 0x070C => ⟨[8], (us 60000), ampRefcheckBody⟩
  | 0x0801 => ⟨[5, 0xC], (us 20), tiuConfigBody⟩
  | 0x0802 => ⟨[5, 0xC], 0, tiuStartBody⟩
  | 0x0803 => ⟨[5, 0xC], (us 10), tiuAbortBody⟩
  | 0x0804 => ⟨[5, 0xC], (us 50), tiuStampsBody⟩
  | 0x0805 => ⟨[5, 8, 0xC], (us 20), tiuStatusBody⟩
  | 0x0806 => ⟨[6, 8, 0xC], (us 2000), tiuSelftestBody⟩
  | 0x0807 => ⟨[5, 0xC], (us 20), tiuReadBody⟩
  | 0x0901 => ⟨[4, 0xC], (us 20), capConfigBody⟩
  | 0x0902 => ⟨[4, 0xC], (us 20), capLimitsBody⟩
  | 0x0903 => ⟨[4, 0xC], (us 50), capArmBody⟩
  | 0x0904 => ⟨[4, 0xC], (us 10), capForceBody⟩
  | 0x0905 => ⟨[4, 0xC], (us 10), capAbortBody⟩
  | 0x0906 => ⟨[4, 0xC], (us 20), capStatusBody⟩
  | 0x0907 => ⟨[4, 0xC], (us 50), capHeaderBody⟩
  | 0x0908 => ⟨[4, 0xC], (us 100), capReadBody⟩
  | 0x0909 => ⟨[4, 0xC], (us 20), capReadCfgBody⟩
  | 0x0A01 => ⟨[6, 8, 0xC], (us 100), hatchLineBody⟩
  | 0x0A02 => ⟨[6, 8, 0xC], (us 50), hatchProducerBody⟩
  | 0x0A03 => ⟨[6, 7, 8, 0xC], (us 100), hatchForwardBody⟩
  | 0x0A04 => ⟨[8], (us 100), hatchTaskBody⟩
  | 0x0A05 => ⟨[6, 8, 0xC], (us 20), hatchBindBody⟩
  | 0x0A06 => ⟨[8], (us 10), hatchGroupBody⟩
  | 0x0A07 => ⟨[6, 8, 0xC], (us 20), hatchRestoreBody⟩
  | 0x0A08 => ⟨[8], (us 10), hatchPulseBody⟩
  | 0x0A09 => ⟨[6, 7, 8, 0xC], (us 50), hatchStatusBody⟩
  | 0x0B01 => ⟨[8], (us 20), calConfigBody⟩
  | 0x0B02 => ⟨[6, 0xC], (us 20), calPinmaskBody⟩
  | 0x0B03 => ⟨[7, 0xC], (us 20), calRunBody⟩
  | 0x0B04 => ⟨[7, 8, 0xC], (us 20), calStatusBody⟩
  | 0x0B05 => ⟨[0, 1, 3, 4, 5, 0xC], (us 50), calQualityBody⟩
  | 0x0B06 => ⟨[8], (us 10000), calStoreBody⟩
  | 0x0B07 => ⟨[8], (us 20), calTempsBody⟩
  | 0x0C01 => ⟨[8], (us 200), netConfigBody⟩
  | 0x0C02 => ⟨[8], (us 20), netStatusBody⟩
  | 0x0C03 => ⟨[8], (us 50), ptpConfigBody⟩
  | 0x0C04 => ⟨[8], (us 20), timeStatusBody⟩
  | 0x0C05 => ⟨[8], (us 20), timeAdjustBody⟩
  | 0x0C06 => ⟨[8], (us 20), timeStepBody⟩
  | 0x0C07 => ⟨[8], (us 20), tcmpArmBody⟩
  | 0x0C08 => ⟨[8], (us 20), tcmpStatusBody⟩
  | 0x0C09 => ⟨[8], (us 100), exportOpenBody⟩
  | 0x0C0A => ⟨[8], (3 * s.exporter.rto * 1000 + us 100), exportCloseBody⟩
  | 0x0C0B => ⟨[8], (us 20), exportStatusBody⟩
  | 0x0C0C => ⟨[8], (us 50), exportResendBody⟩
  | 0x0D01 => ⟨[8], (us 1000), twinConfigBody⟩
  | 0x0D02 => ⟨[8], (us 20), twinStatusBody⟩
  | 0x0D03 => ⟨[8], (us 20), twinHalfBody⟩
  | 0x0D04 => ⟨[8], 0, twinReleaseBody⟩
  | 0x0D05 => ⟨[6, 0xC], (us 20), jrnConfigBody⟩
  | 0x0D06 => ⟨[8], (us 50), jrnCheckpointBody⟩
  | 0x0D07 => ⟨[8], (us 100), jrnMarkersBody⟩
  | 0x0D08 => ⟨[8], (us 100), jrnReportBody⟩
  | 0x0E01 => ⟨[8], (us 50), fltReadBody⟩
  | 0x0E02 => ⟨[8], (us 20), fltAckBody⟩
  | 0x0E03 => ⟨[8], (us 20), fltForceBody⟩
  | 0x0E04 => ⟨[8], (us 20), fltConfigBody⟩
  | 0x0E05 => ⟨[8], (us 2000), fltLogBody⟩
  | 0x0E06 => ⟨[6, 0xC], (us 20), fltReleaseBody⟩
  | 0x0F01 => ⟨[8], (us 50), secCertBody⟩
  | 0x0F02 => ⟨[8], (us 8000), secAttestBody⟩
  | 0x0F03 => ⟨[8], (us 2000), imgWriteBody⟩
  | 0x0F04 => ⟨[8], (if u8 r.payload 0 == 0 then us 40000 else us 20000), imgCommitBody⟩
  | 0x0F05 => ⟨[8], (us 1000), imgActivateBody⟩
  | 0x0F06 => ⟨[8], (us 20), imgStatusBody⟩
  | 0x0F07 => ⟨[8], (us 20), lcChallengeBody⟩
  | 0x0F08 => ⟨[8], (us 8000), lcCsrBody⟩
  | 0x0F09 => ⟨[8], (us 20000), lcInstallBody⟩
  | 0x0F0A => ⟨[8], (us 300), lcTransitionBody⟩
  | 0x1001 => ⟨[7, 0xC], (us 200), ucodeLoadBody⟩
  | 0x1002 => ⟨[7, 0xC], (us 50), ucodeClearBody⟩
  | 0x1003 => ⟨[7, 0xC], (us 20), ucodeQueryBody⟩
  | 0x1004 => ⟨[7, 0xC], (us 50), ucodeReadBody⟩
  | _ => ⟨allClasses, 0, unknownBody⟩

end Sys2Proof.Machine
end

