-- ==== Sys2Proof/Machine/Doorbell.lean ====
section
/-!
DEFINITION. Doorbells with the bytes of a request (R395–R402), on the chain port and by UDP (R426, R427).
-/
namespace Sys2Proof.Machine

/-- Ring a mailbox with the bytes of its request window. The window is zeroed where its buffer is taken (R395, R397); then the checks of R402 follow, the
length and the CRC before the others. [DEDUCED, unsafe: log 22, 134.] -/
def State.doorbell (s : State) (m : Fin 7) (xseq : Option Word := none) : State :=
  let b := Mem.readAll (s.mailbox m.val).window 0 windowBytes
  let (op, r, st) := parseReq m b
  let (s, taken) := s.ring op r xseq
  if !taken then s
  else
    let s := s.setMbx m.val { s.mailbox m.val with window := [] }
    match (s.mailbox m.val).entries.getLast? with
    | some e =>
      if !e.isQueued then s
      else if st != stOK then s.refuseLast m.val (Reply.err st)
      else
        let c := s.commandOf op r
        s.bellCheck op c.bound c.accept r c.body
    | none => s

/-- A write of MBX_DOORBELL or AWIN_MBX_DOORBELL with a mailbox its path does not ring is BAD (Tables 15-5, 15-6). [DEDUCED, unsafe: log 64.] -/
def State.doorbellBad (s : State) : State := { s with chain := { s.chain with sticky := s.chain.sticky ||| 0x02#6 } }

/-- MBX_DOORBELL: mailboxes 0, 1 and 6 on SEL_N, mailbox 5 on ASEL_N. [DEDUCED, unsafe: log 64.] -/
def execMbxDoorbell (m : Fin 8) (s : State) : Host.Outcome State Fault Refusal :=
  .next (if m.val == 5 then s.doorbell 5
    else if !s.mbxAnswers then s
    else if h : m.val < 7 then (if m.val == 0 || m.val == 1 || m.val == 6 then s.doorbell ⟨m.val, h⟩ else s.doorbellBad)
    else s.doorbellBad)

/-- The recovery loader takes for its host the source of the first valid REQUEST (R520): one whose envelope holds. [DEDUCED, unsafe: log 69.] -/
def State.learnHost (s : State) (p m : Nat) (src : List Byte) (body : List Byte) : State :=
  if h : m < 7 then
    if s.power.img == 2 && (s.port p).host.isEmpty && (parseReq ⟨m, h⟩ body).2.2 == stOK then
      s.setPort p { s.port p with host := src }
    else s
  else s

/-- UDP_REQUEST. -/
def execUdpRequest (port : Two) (frame : EthFrame) (mbx : Byte) (xseq : Word) (body : List Byte) (s : State) :
    Host.Outcome State Fault Refusal :=
  .next (s.receive port.val true frame fun s =>
    let m := 2 + port.val
    let x := s.mailbox m
    if !s.portMbx port.val || mbx.toNat != m then s
    else if x.knows xseq then
      match x.shown with
      | some (e, _) => if e.xseq == some xseq then s.sendShown m else s
      | none => s
    else ((s.setMbx m { x with window := Mem.writeAll x.window 0 (body.take windowBytes) }).learnHost port.val m frame.srcIp body).doorbell ⟨2 + port.val, by omega⟩ (some xseq))

end Sys2Proof.Machine
end

