-- ==== Sys2Proof/Machine/Chain.lean ====
section
/-!
DEFINITION. The chain port as it is written and driven: register writes, frames and their responses (R372–R376), bursts and bypass
(R377–R380), and the delays (R382–R385).
-/
namespace Sys2Proof.Machine

/-! ## Writes -/

/-- A write into a mailbox window: the request window takes it, the response window takes an acknowledgement (R408, R417). -/
def State.windowWrite (s : State) (m : Nat) (response : Bool) (off : Nat) (v : Word) : State :=
  if !response then
    let x := s.mailbox m
    s.setMbx m { x with window := Mem.writeAll x.window off (toLE 4 v.toNat) }
  else if off != 0 then s
  else if m == 7 then s.ackBatch v
  else s.ackPart m v

/-- May MBX_PTR name this mailbox and window on a path (Tables 15-5, 15-6)? -/
def ptrOk (p : Path) (m : Nat) (win : Bool) : Bool :=
  match p with
  | .front => m == 0 || m == 1 || m == 6 || (m == 7 && win)
  | .window => m == 5

/-- Write one word. The registers not named here ignore writes. [DESIGN CHOICE, unsafe: log 106.] -/
def State.writeWord (s : State) (p : Path) (a : Nat) (v : Word) : State × Access :=
  let n := v.toNat
  if a ≥ 0x1000 then (s, { ovr := true })
  else if s.notAvailable p a then (s, { navl := true })
  else
    let x := s.chain.path p
    if a == 0x080 then
      match p with
      | .front =>
        let m := n % 8
        if m == 0 then (s.doorbell 0, {}) else if m == 1 then (s.doorbell 1, {}) else if m == 6 then (s.doorbell 6, {}) else (s, { bad := true })
      | .window => if n % 8 == 5 then (s.doorbell 5, {}) else (s, { bad := true })
    else if a == 0x088 then
      let m := bits n 31 29
      let win := bit n 28
      if !ptrOk p m win then (s, { bad := true })
      else (s.modPath p fun x => { x with ptrMbx := m, ptrWin := win, ptrOff := 4 * bits n 12 2 }, {})
    else if a == 0x08C then
      if x.ptrOff ≥ windowEnd then (s, { ovr := true })
      else ((s.modPath p fun x => { x with ptrOff := x.ptrOff + 4 }).windowWrite (x.box p) x.ptrWin x.ptrOff v, {})
    else match p with
      | .window => (s, {})
      | .front =>
        if a == 0x0C0 then
          if n % 128 > 64 then (s, { bad := true }) else ((s.setChain { s.chain with devices := n % 128 }).checkPos, {})
        else if a == 0x0C4 then
          let lead := bits n 23 16
          let lag := bits n 15 8
          let gap := bits n 7 0
          if lead < 2 || lag < 2 || lead + gap < 20 then (s, { bad := true })
          else (s.setChain { s.chain with lead := lead, lag := lag, gap := gap }, {})
        else if a == 0x0C8 then
          (s.setChain { s.chain with stall := s.chain.stall && !bit n 7, sticky := s.chain.sticky &&& ~~~(BitVec.ofNat 6 n) }, {})
        else (s, {})

/-! ## Flags (Table 15-3) -/

def cfOvr : Byte := 0x08
def cfBad : Byte := 0x04
def cfNavl : Byte := 0x02
def cfRst : Byte := 0x01
def cfClash : Byte := 0x10
def cfTiming : Byte := 0x20
def cfLen : Byte := 0x40
def cfCrc : Byte := 0x80

/-- The sticky bits of CHN_STATUS for response flags. -/
def stickyOf (f : Byte) : BitVec 6 :=
  let b := fun (i j : Nat) => if f.getLsbD i then BitVec.ofNat 6 (2 ^ j) else 0
  b 6 5 ||| b 5 4 ||| b 7 3 ||| b 4 2 ||| b 2 1 ||| b 3 0

def State.setSticky (s : State) (f : Byte) : State := s.setChain { s.chain with sticky := s.chain.sticky ||| stickyOf f }

/-- A discarded frame: the response register keeps its content, with the flags added (R376). -/
def State.flagResp (s : State) (p : Path) (f : Byte) : State :=
  (s.modPath p fun x => { x with resp := { x.resp with flags := x.resp.flags ||| f } }).setSticky f

/-! ## Single accesses -/

def Access.flags (a : Access) : Byte :=
  (if a.ovr then cfOvr else 0) ||| (if a.bad then cfBad else 0) ||| (if a.navl then cfNavl else 0)

/-- One register read or write taken alone: what it read, and its sticky bits. [DESIGN CHOICE, unsafe: log 106.] -/
def State.single (s : State) (r : State × Access) : State :=
  let (t, a) := r
  if a.bad then s.setSticky cfBad else { t with chain := { t.chain with readData := a.value } }.setSticky a.flags

/-- MBX_DATA_ACCESS. [DESIGN CHOICE, unsafe: log 31.] -/
def execMbxDataAccess (path : Path) (write : Option Word) (s : State) : Host.Outcome State Fault Refusal :=
  .next (s.single (match write with | some v => s.writeWord path 0x08C v | none => s.readWord path 0x08C))

/-- CHN_TIMING_WRITE. -/
def execChnTimingWrite (value : Word) (s : State) : Host.Outcome State Fault Refusal := .next (s.single (s.writeWord .front 0x0C4 value))

/-- HOLDING_WORD_READ: a read of a pair's LO word; any other address is an ordinary read. [DESIGN CHOICE, unsafe: log 31.] -/
def execHoldingWordRead (path : Path) (addr : BitVec 12) (s : State) : Host.Outcome State Fault Refusal :=
  .next (s.single (if addr.toNat % 4 != 0 then (s, { bad := true }) else s.readWord path addr.toNat))

/-- TIME_SNAP_READ. [DESIGN CHOICE, unsafe: log 31.] -/
def execTimeSnapRead (path : Path) (s : State) : Host.Outcome State Fault Refusal := .next (s.single (s.readWord path 0x100))

/-- REGISTER_WRITE. -/
def execRegisterWrite (path : Path) (addr : BitVec 12) (value : Word) (s : State) : Host.Outcome State Fault Refusal :=
  .next (s.single (if addr.toNat % 4 != 0 then (s, { bad := true }) else s.writeWord path addr.toNat value))

/-! ## Delays (R382–R384) -/

def delaysOf (f : Frame) : Delays := { lead := f.lead, lag := f.lag, gap := f.gap }

/-- Does the first SCK edge come within the 80 ns in which the response of the release before it is written (R375, R385)? -/
def soon (d : Delays) : Bool := decide (d.lead + d.gap < 80)

/-- A measured delay against its programmed value in ns: too short below 90 %, never too short at or above it, and between them as the
device finds. [DESIGN CHOICE, safe: log 68.] -/
def State.tooShort (s : State) (measured want : Nat) : Bool × State :=
  if measured ≥ want then (false, s) else if 10 * measured < 9 * want then (true, s) else s.choose

/-- Has a transfer broken LEAD, LAG or GAP? The next transfer's gap is checked against the GAP that holds now, before the transfer writes
(R383). [DESIGN CHOICE, safe: log 68.] -/
def State.timingErr (s : State) (p : Path) (d : Delays) : Bool × State :=
  let c := s.chain
  let (lead, lag, gap) := match p with | .front => (c.lead, c.lag, c.gapNow) | .window => (4, 4, 20)
  let (a, s) := s.tooShort d.lead (5 * lead)
  let (b, s) := s.tooShort d.lag (5 * lag)
  let (e, s) := s.tooShort d.gap (5 * gap)
  (a || b || e, match p with | .front => s.setChain { s.chain with gapNow := s.chain.gap } | .window => s)

/-! ## Frames -/

/-- Bits [127:16] of a request. -/
def frameBody (f : Frame) (op : Nat) : Nat :=
  op * 2 ^ 108 + f.cnt.toNat * 2 ^ 100 + f.addr.toNat * 2 ^ 88 + f.data.toNat * 2 ^ 24 + f.seq.toNat * 2 ^ 16 + f.flags.toNat * 2 ^ 8
    + f.rsv.toNat

/-- The response of an executed frame. -/
def frameResp (f : Frame) (data : Nat) (flags : Byte) : ChainResp :=
  { cnt := f.cnt, addr := f.addr, data := BitVec.ofNat 64 data, seq := f.seq, flags := flags }

/-- A response as 128 bits: OP NOP, its fields, and the CRC over bits [127:16] (Table 15-1). -/
def ChainResp.image (r : ChainResp) : Nat :=
  let body := r.cnt.toNat * 2 ^ 100 + r.addr.toNat * 2 ^ 88 + r.data.toNat * 2 ^ 24 + r.seq.toNat * 2 ^ 16 + r.flags.toNat * 2 ^ 8
  body * 2 ^ 16 + (crc16 112 body).toNat

/-- The value of words taken most significant bit first. -/
def wordsBits (ws : List Word) : Nat := ws.foldl (fun a w => a * 2 ^ 32 + w.toNat) 0

/-- A request as 128 bits (Table 15-1). -/
def frameImage (f : Frame) (op : Nat) : BitVec 128 := BitVec.ofNat 128 (frameBody f op * 2 ^ 16 + f.crc.toNat)

/-- What the device puts on SDO of its own in a transfer (R375, R378): its response register, or the words of a read burst with their CRC;
nothing in bypass or a write burst. -/
def ChainPath.shifts (x : ChainPath) (resp : ChainResp) : Option (Nat × Nat) :=
  match x.mode with
  | .normal => some (resp.image, 128)
  | .burstRead _ _ _ ws _ =>
    let n := 32 * ws.length
    some (wordsBits ws * 2 ^ 16 + (crc16 n (wordsBits ws)).toNat, n + 16)
  | _ => none

/-- The response that a transfer finds in the response register: the earlier one where its first edge comes before the release's has been
written (R385). -/
def ChainPath.shown (x : ChainPath) (early : Bool) : ChainResp := if early then x.earlier else x.resp

/-- A transfer with an SCK edge on a path: what the device presents. One whose first edge comes within the 80 ns of the release before it may
find the response of that release not yet written, and shifts out the earlier one (R375, R385). -/
def State.shiftOut (s : State) (p : Path) (soon : Bool) : State :=
  let (early, s) := if soon then s.choose else (false, s)
  s.modPath p fun x => { x with sent := x.shifts (x.shown early), earlier := x.resp }

/-- RSTB after `k` bits of a transfer (R371): the CHAIN_LAST device drives it low while both selects are high and toggles it with each bit it
presents, rising first; any other holds it at high impedance. -/
def Chain.rstb (c : Chain) (k : Nat) : Option Bool := if c.last then some (k % 2 == 1) else none

/-- The bit on SDO after `k` bits of a transfer, with the bits that SDI has brought (R370): low while both selects are high; first the device's
own bits, most significant first, then what came in, as a shift register gives it. In bypass and around a burst's own bits it is SDI one bit
later. `early` says that the transfer came before the response of the release before it was written (R385). -/
def ChainPath.sdo (x : ChainPath) (pos : Nat) (early : Bool) (sdi : List Bool) (k : Nat) : Bool :=
  if k == 0 then false
  else match x.mode, x.shifts (x.shown early) with
    | .normal, some (v, n) => if k ≤ n then v.testBit (n - k) else sdi.getD (k - n - 1) false
    | _, some (v, n) => if pos < k && k ≤ pos + n then v.testBit (pos + n - k) else 2 ≤ k && sdi.getD (k - 2) false
    | _, none => 2 ≤ k && sdi.getD (k - 2) false

/-- Write the response of an executed frame. A reset that the frame itself has begun leaves its own response register (R376). [See R385.] -/
def State.putResp (s : State) (p : Path) (first : Bool) (r : ChainResp) : State :=
  if (s.chain.path p).rst then s
  else (s.modPath p fun x => { x with resp := { r with flags := r.flags ||| (if first then cfRst else 0) } }).setSticky r.flags

/-- Accesses in address order; at MBX_DATA the address stays (R380). -/
def State.readWords (s : State) (p : Path) (a : Nat) : Nat → State × List Access
  | 0 => (s, [])
  | n + 1 =>
    let (s, x) := s.readWord p a
    let (s, xs) := s.readWords p (if a == 0x08C then a else a + 4) n
    (s, x :: xs)

def State.writeWords (s : State) (p : Path) (a : Nat) : List Word → State × List Access
  | [] => (s, [])
  | v :: vs =>
    let (s, x) := s.writeWord p a v
    let (s, xs) := s.writeWords p (if a == 0x08C then a else a + 4) vs
    (s, x :: xs)

def flagsOf (xs : List Access) : Byte := xs.foldl (fun f x => f ||| x.flags) 0
def dataOf (xs : List Access) : Nat := ((xs.map (·.value)).zipIdx.foldl (fun a wi => a + wi.1.toNat * 2 ^ (32 * wi.2)) 0)

/-- Do two words of a two-word frame stand at following addresses? RD and WR always advance by 4 (R374), burst accesses as R380 says. -/
def State.readTwo (s : State) (p : Path) (a n : Nat) : State × List Access :=
  let (s, x) := s.readWord p a
  if n == 1 then (s, [x]) else let (s, y) := s.readWord p (a + 4); (s, [x, y])

def State.writeTwo (s : State) (p : Path) (a : Nat) (data : DWord) (n : Nat) : State × List Access :=
  let (s, x) := s.writeWord p a (data.setWidth 32)
  if n == 1 then (s, [x]) else let (s, y) := s.writeWord p (a + 4) ((data >>> 32).setWidth 32); (s, [x, y])

/-- MBX_DATA words among the words of a burst. -/
def mbxWords (a n : Nat) : Nat := if a ≤ 0x08C then n - (0x08C - a) / 4 else 0

/-! ## Burst transfers (R378–R380) -/

/-- The words and the CRC of a write burst out of the bits that a transfer brought (R378): the first p bits are discarded, the next L taken. -/
def burstPayload (pos bits n sdi : Nat) : List Word × Half :=
  let l := 32 * n + 16
  let v := sdi / 2 ^ (bits - pos - l) % 2 ^ l
  ((List.range n).map fun i => BitVec.ofNat 32 (v / 2 ^ (16 + 32 * (n - 1 - i))), BitVec.ofNat 16 v)

/-- The release of a transfer on the front path that latches no frame of its own: bypass, or an armed burst. `sdi` are the bits that came in,
the first most significant; `flags` what the transfer itself has set. -/
def State.burst (s : State) (bits sdi : Nat) (flags : Byte) : State :=
  let back := fun (s : State) => s.modPath .front fun x => { x with mode := .normal }
  match s.chain.front.mode with
  | .burstRead cnt addr seq got found =>
    let n := cnt.toNat + 1
    let s := back s
    let flags := flags ||| (if bits == s.chain.devices - 1 + 32 * n + 16 then 0 else cfLen)
    if flags != 0 then s.flagResp .front flags
    else
      let first := s.chain.front.rst
      let done := if found &&& cfNavl == 0 then mbxWords addr.toNat got.length else 0
      let s := s.modPath .front fun x => { x with rst := false, ptrOff := min windowEnd (x.ptrOff + 4 * done) }
      s.putResp .front first { cnt := cnt, addr := addr, data := BitVec.ofNat 64 n, seq := seq, flags := found }
  | .burstWrite cnt addr seq =>
    let n := cnt.toNat + 1
    let s := back s
    let flags := flags ||| (if bits == s.chain.devices - 1 + 32 * n + 16 then 0 else cfLen)
    let (words, crc) := burstPayload s.chain.pos.toNat bits n sdi
    let flags := flags ||| (if crc16 (32 * n) (wordsBits words) == crc then 0 else cfCrc)
    if flags != 0 then s.flagResp .front flags
    else
      let first := s.chain.front.rst
      let s0 := s.modPath .front fun x => { x with rst := false }
      let (t, xs) := s0.writeWords .front addr.toNat words
      if xs.any (·.bad) then s.flagResp .front cfBad
      else t.putResp .front first { cnt := cnt, addr := addr, data := BitVec.ofNat 64 n, seq := seq, flags := flagsOf xs }
  | .bypass => let s := back s; if flags != 0 then s.flagResp .front flags else s
  | .normal =>
    let flags := flags ||| (if bits % 128 != 0 then cfLen else 0)
    if flags != 0 then s.flagResp .front flags else s

/-- What a path's registers hold of a transfer: the last 128 bits shifted in. -/
def State.shiftIn (s : State) (p : Path) (v : BitVec 128) : State := s.modPath p fun x => { x with shift := v }

/-- Both selects low at a release (R376, R387): SDO carries the front path, and each path judges the transfer's length and its delays by its own
values, sets SEL_CLASH and latches nothing; an armed burst or a bypass of the front path ends. The CRC of a frame that is not latched is not judged.
 [DESIGN CHOICE, unsafe: log 106.] -/
def State.clashed (s : State) (bits sdi : Nat) (d : Delays) : State :=
  let s := s.shiftOut .front (soon d)
  let (late, s) := s.timingErr .front d
  let (lateW, s) := s.timingErr .window d
  let s := (s.shiftIn .front (BitVec.ofNat 128 sdi)).shiftIn .window (BitVec.ofNat 128 sdi)
  let flag := fun (late : Bool) => cfClash ||| (if late then cfTiming else 0)
  let s := s.flagResp .window (flag lateW ||| (if bits % 128 != 0 then cfLen else 0))
  s.burst bits sdi (flag late)

/-- CHAIN_BURST_TRANSFER: a transfer of `bits` bits on SDI, the first most significant in `sdi`. One without an edge, or that overlaps a reset,
changes nothing (R372, R376). -/
def execChainBurstTransfer (bits sdi : Nat) (delays : Delays) (clash overReset : Bool) (s : State) : Host.Outcome State Fault Refusal :=
  if bits == 0 || overReset then .next s
  else if clash then .next (s.clashed bits sdi delays)
  else
    let s := s.shiftOut .front (soon delays)
    let (late, s) := s.timingErr .front delays
    .next ((s.shiftIn .front (BitVec.ofNat 128 sdi)).burst bits sdi (if late then cfTiming else 0))

/-! ## A latched frame -/

/-- The BAD conditions of a frame (Table 15-3). -/
def State.frameBad (s : State) (p : Path) (op : Nat) (f : Frame) : Bool :=
  op ≥ 6 || f.flags != 0 || f.rsv != 0 || f.addr.toNat % 4 != 0 || ((op == 1 || op == 2) && f.cnt.toNat > 1)
    || ((op == 3 || op == 4) && s.chain.devices == 0) || (3 ≤ op && op ≤ 5 && p == .window)

/-- Execute a frame that has passed its checks. [DESIGN CHOICE, unsafe: log 106.] -/
def State.runFrame (s : State) (p : Path) (op : Nat) (f : Frame) : State :=
  let first := (s.chain.path p).rst
  let s0 := s
  let s := s.setChain { s.chain with frames := s.chain.frames + 1 }
  let s := s.modPath p fun x => { x with rst := false }
  let a := f.addr.toNat
  match op with
  | 1 =>
    let (s, xs) := s.readTwo p a (f.cnt.toNat + 1)
    s.putResp p first (frameResp f (dataOf xs) (flagsOf xs))
  | 2 =>
    let (s, xs) := s.writeTwo p a f.data (f.cnt.toNat + 1)
    if xs.any (·.bad) then s0.flagResp p cfBad else s.putResp p first (frameResp f 0 (flagsOf xs))
  | 3 =>
    let (t, xs) := s.readWords p a (f.cnt.toNat + 1)
    let t := t.modPath p fun x => { x with ptrOff := (s.chain.path p).ptrOff, rst := first }
    t.modPath p fun x => { x with mode := .burstRead f.cnt f.addr f.seq (xs.map (·.value)) (flagsOf xs) }
  | 4 => s.modPath p fun x => { x with mode := .burstWrite f.cnt f.addr f.seq, rst := first }
  | 5 => (s.putResp p first (frameResp f 0 0)).modPath p fun x => { x with mode := .bypass }
  | _ => s.putResp p first (frameResp f 0 0)

/-- The release of a transfer with what this device latched (R372–R376). A transfer in bypass latches nothing, one in which a burst was
armed is that burst's. [DESIGN CHOICE, unsafe: log 106.] -/
def State.frame (s : State) (p : Path) (op : Nat) (f : Frame) : State :=
  let d := delaysOf f
  let image := frameImage f op
  if f.bits == 0 || f.overReset then s
  else if f.clash then s.clashed f.bits image.toNat d
  else
    let s := s.shiftOut p (soon d)
    let (late, s) := s.timingErr p d
    let s := s.shiftIn p image
    match (s.chain.path p).mode with
    | .normal =>
      let wrongCrc := crc16 112 (frameBody f op) != f.crc
      let flags := (if late then cfTiming else 0) ||| (if f.bits % 128 != 0 then cfLen else 0) ||| (if wrongCrc then cfCrc else 0)
      if flags != 0 then s.flagResp p flags
      else
        let s := s.modPath p fun x => { x with latch := image }
        if s.frameBad p op f then s.flagResp p cfBad else s.runFrame p op f
    | _ => s.burst f.bits image.toNat (if late then cfTiming else 0)

/-- The frame in 128 latched bits, with what the path measured of its transfer (Table 15-1). -/
def frameOf (v : BitVec 128) (bits : Nat) (d : Delays) : Frame :=
  { cnt := v.extractLsb' 116 8, addr := v.extractLsb' 104 12, data := v.extractLsb' 40 64, seq := v.extractLsb' 32 8, flags := v.extractLsb' 24 8
    rsv := v.extractLsb' 16 8, crc := v.extractLsb' 0 16, bits := bits, lead := d.lead, lag := d.lag, gap := d.gap, clash := false, overReset := false }

/-- The command of a latched frame, by OP (Table 15-2). -/
def chainCommand (p : Path) (v : BitVec 128) (bits : Nat) (d : Delays) : Instr :=
  let f := frameOf v bits d
  let op : BitVec 4 := v.extractLsb' 124 4
  match op.toNat with
  | 1 => .chainRd p f
  | 2 => .chainWr p f
  | 3 => .chainRdb p f
  | 4 => .chainWrb p f
  | 5 => .chainByp p f
  | _ => .chainNop p op f

/-- CHAIN_NOP, with the reserved operations. -/
def execChainNop (path : Path) (op : BitVec 4) (f : Frame) (s : State) : Host.Outcome State Fault Refusal :=
  .next (if op.toNat == 0 || op.toNat ≥ 6 then s.frame path op.toNat f else s)
/-- CHAIN_RD. -/
def execChainRd (path : Path) (f : Frame) (s : State) : Host.Outcome State Fault Refusal := .next (s.frame path 1 f)
/-- CHAIN_WR. -/
def execChainWr (path : Path) (f : Frame) (s : State) : Host.Outcome State Fault Refusal := .next (s.frame path 2 f)
/-- CHAIN_RDB. -/
def execChainRdb (path : Path) (f : Frame) (s : State) : Host.Outcome State Fault Refusal := .next (s.frame path 3 f)
/-- CHAIN_WRB. -/
def execChainWrb (path : Path) (f : Frame) (s : State) : Host.Outcome State Fault Refusal := .next (s.frame path 4 f)
/-- CHAIN_BYP. -/
def execChainByp (path : Path) (f : Frame) (s : State) : Host.Outcome State Fault Refusal := .next (s.frame path 5 f)

/-- CHAIN_STALL_TIMEOUT (R386). -/
def execChainStallTimeout (s : State) : Host.Outcome State Fault Refusal := .next (s.setChain { s.chain with stall := true })

/-- MP_TICK: every 1 ms while the management processor serves its watchdog. -/
def execMpTick (s : State) : Host.Outcome State Fault Refusal :=
  .next (if s.processorRuns then { s with power := { s.power with mpTick := (s.power.mpTick + 1) % 256 } } else s)

end Sys2Proof.Machine
end

