-- ==== Sys2Proof/Machine/Jtag.lean ====
section
/-!
DEFINITION. The test access port (R564–R566): its instructions, the boundary register and the balls it takes from the core. Cell i of
R565, counted from TDI in the order of Table 23-7, is bit i.
-/
namespace Sys2Proof.Machine

/-- The instruction a code selects (Table 23-8): any code not listed, and a debug instruction that the lifecycle state closes, is BYPASS. -/
def tapInstruction (life : Nat) (ir : Byte) : Byte :=
  let n := ir.toNat
  if 1 ≤ n && n ≤ 5 then ir
  else if n == 0x20 && mpDebugOpen life then ir
  else if n == 0x21 && ampDebugOpen life then ir
  else 0xFF

def State.tap (s : State) : Byte := tapInstruction s.sec.life s.jtag.ir

/-- Do the output balls follow the boundary register (R566): EXTEST, CLAMP or HIGHZ? [DESIGN CHOICE, unsafe: log 78.] -/
def State.boundaryDrives (s : State) : Bool := 3 ≤ s.tap.toNat && s.tap.toNat ≤ 5

/-- Cells of the open-drain outputs HALT_N, FAULT_N, ALERT_N, WAKE_N, HOS_CLK, HOS_DAT and HOS_LAT. -/
def cellHalt : Nat := 5
def cellFault : Nat := 6
def cellAlert : Nat := 7
def cellWake : Nat := 9
def cellHosClk : Nat := 19
def cellHosDat : Nat := 21
def cellHosLat : Nat := 23

/-- An open-drain output: low by the core's drive, or by its cell while the boundary register has the balls; HIGHZ drives nothing. [DESIGN CHOICE, unsafe: log 78.] -/
def State.openDrain (s : State) (core : Bool) (cell : Nat) : Bool :=
  if !s.boundaryDrives then core else s.tap.toNat != 5 && !s.jtag.cells.getLsbD cell

/-- FAULT_N, ALERT_N and HALT_N driven low at their balls (R335, R502, R566). -/
def State.faultBallLow (s : State) : Bool := s.openDrain s.faultLow cellFault
def State.alertBallLow (s : State) : Bool := s.openDrain s.alertLow cellAlert
def State.haltBallLow (s : State) : Bool := s.openDrain (s.hatch.haltnOut && s.d15Own && !s.frozen) cellHalt

/-- WAKE_N at its ball: low for 100 µs of a wake (R545, R566). -/
def State.wakeBallLow (s : State) : Bool := s.openDrain s.wakeLow cellWake

/-- Where the owner stands in a chain write of 12.9 µs, in ns (R460). -/
def State.hosWriteAt (s : State) : Option Nat :=
  let t := s.upNs - s.twin.writeNs
  if s.twin.owner && s.onBus && s.twin.writes != 0 && t < 12900 then some t else none

/-- HOS_CLK, low in the first half of each of the 256 bits and for the 100 ns of a beacon; HOS_DAT, which holds the bit from the falling
edge on; and HOS_LAT, low for the last 100 ns (R460). Nobody else drives them (R461). -/
def State.hosClkLow (s : State) : Bool :=
  s.openDrain (match s.hosWriteAt with
    | some t => decide (t < 12800) && decide (t % 50 < 25)
    | none => s.twin.owner && s.onBus && s.twin.beacons != 0 && decide (s.upNs < s.twin.beaconNs + 100)) cellHosClk
def State.hosDatLow (s : State) : Bool :=
  s.openDrain (match s.hosWriteAt with
    | some t => decide (t < 12800) && !(byteAt (chainBytes s.twin.chain) (t / 50 / 8)).getLsbD (7 - t / 50 % 8)
    | none => false) cellHosDat
def State.hosLatLow (s : State) : Bool :=
  s.openDrain (match s.hosWriteAt with | some t => decide (12800 ≤ t) | none => false) cellHosLat

/-- A push-pull output: the core's level, or its cell's while the boundary register has the balls; under HIGHZ it is not driven. -/
def State.pushPull (s : State) (core : Bool) (cell : Nat) : Option Bool :=
  if !s.boundaryDrives then some core else if s.tap.toNat == 5 then none else some (s.jtag.cells.getLsbD cell)

/-- TRIG_OUT j at its ball (R337): the level of its card line, a forced-off line low, an event for at least 8 PCLK cycles. -/
def State.trigOutBall (s : State) (j : Fin 4) : Option Bool :=
  let l := s.line (lineC (4 + j.val))
  let recent := match l.eventNs with | some t => decide (pclkOfNs (s.upNs - t) < 8) | none => false
  s.pushPull (l.level || (recent && !s.lineDead l)) (17 - j.val)

/-- SDO at its ball after `k` bits of a transfer on a path, whose SDI has brought `sdi` (R370). -/
def State.sdoBall (s : State) (p : Path) (early : Bool) (sdi : List Bool) (k : Nat) : Option Bool :=
  s.pushPull ((s.chain.path p).sdo s.chain.pos.toNat early sdi k) 36

/-- RSTB at its ball after `k` bits of a transfer (R371, R565): its data cell where its enable cell is set. [DESIGN CHOICE, unsafe: log 78.] -/
def State.rstbBall (s : State) (k : Nat) : Option Bool :=
  if !s.boundaryDrives then s.chain.rstb k
  else if s.tap.toNat == 5 || !s.jtag.cells.getLsbD 38 then none else some (s.jtag.cells.getLsbD 37)

/-- JTAG_UPDATE_IR. -/
def execJtagUpdateIr (ir : Byte) (s : State) : Host.Outcome State Fault Refusal := .next { s with jtag := { s.jtag with ir := ir } }

/-- JTAG_UPDATE_DR: under SAMPLE/PRELOAD, EXTEST and CLAMP the boundary register takes the cells. [DESIGN CHOICE, unsafe: log 78.] -/
def execJtagUpdateDr (cells : BitVec 39) (s : State) : Host.Outcome State Fault Refusal :=
  .next (if 2 ≤ s.tap.toNat && s.tap.toNat ≤ 4 then { s with jtag := { s.jtag with cells := cells } } else s)

/-- JTAG_TEST_LOGIC_RESET: IDCODE is selected, and the core has the balls again. -/
def execJtagTestLogicReset (s : State) : Host.Outcome State Fault Refusal := .next { s with jtag := { s.jtag with ir := 0x01 } }

end Sys2Proof.Machine
end

