-- ==== Sys2Proof/Machine/Dispatch.lean ====
section
/-!
DEFINITION. One arm for every command of the block: the direct call of its meaning.
-/
namespace Sys2Proof.Machine

def exec (i : Instr) (s : State) : Host.Outcome State Fault Refusal :=
  match i with
  | .mbxDoorbell m => Sys2Proof.Machine.execMbxDoorbell m s
  | .responseAck m offset word => Sys2Proof.Machine.execResponseAck m offset word s
  | .notifyBatchForm => Sys2Proof.Machine.execNotifyBatchForm s
  | .notifyBatchAck offset word => Sys2Proof.Machine.execNotifyBatchAck offset word s
  | .mbxDataAccess path write => Sys2Proof.Machine.execMbxDataAccess path write s
  | .chnTimingWrite value => Sys2Proof.Machine.execChnTimingWrite value s
  | .holdingWordRead path addr => Sys2Proof.Machine.execHoldingWordRead path addr s
  | .timeSnapRead path => Sys2Proof.Machine.execTimeSnapRead path s
  | .registerWrite path addr value => Sys2Proof.Machine.execRegisterWrite path addr value s
  | .chainNop path op f => Sys2Proof.Machine.execChainNop path op f s
  | .chainRd path f => Sys2Proof.Machine.execChainRd path f s
  | .chainWr path f => Sys2Proof.Machine.execChainWr path f s
  | .chainRdb path f => Sys2Proof.Machine.execChainRdb path f s
  | .chainWrb path f => Sys2Proof.Machine.execChainWrb path f s
  | .chainByp path f => Sys2Proof.Machine.execChainByp path f s
  | .chainBurstTransfer bits sdi delays clash overReset => Sys2Proof.Machine.execChainBurstTransfer bits sdi delays clash overReset s
  | .chainStallTimeout => Sys2Proof.Machine.execChainStallTimeout s
  | .udpRequest port frame mbx xseq body => Sys2Proof.Machine.execUdpRequest port frame mbx xseq body s
  | .udpAck port frame mbx word => Sys2Proof.Machine.execUdpAck port frame mbx word s
  | .udpPoll port frame mbx => Sys2Proof.Machine.execUdpPoll port frame mbx s
  | .responseResendTimer m => Sys2Proof.Machine.execResponseResendTimer m s
  | .arpNeighbourEcho port frame kind => Sys2Proof.Machine.execArpNeighbourEcho port frame kind s
  | .ethLinkUp port => Sys2Proof.Machine.execEthLinkUp port s
  | .ethLinkLoss port => Sys2Proof.Machine.execEthLinkLoss port s
  | .ptpSync port m => Sys2Proof.Machine.execPtpSync port m s
  | .syncTimeout => Sys2Proof.Machine.execSyncTimeout s
  | .tcmpFire n => Sys2Proof.Machine.execTcmpFire n s
  | .exportDatagramSend => Sys2Proof.Machine.execExportDatagramSend s
  | .exportAck fromDest crcOk ackSeq naks => Sys2Proof.Machine.execExportAck fromDest crcOk ackSeq naks s
  | .exportRto seq => Sys2Proof.Machine.execExportRto seq s
  | .trigInEdge j level => Sys2Proof.Machine.execTrigInEdge j level s
  | .relayPulse r => Sys2Proof.Machine.execRelayPulse r s
  | .stormLimit line => Sys2Proof.Machine.execStormLimit line s
  | .ringDetect line => Sys2Proof.Machine.execRingDetect line s
  | .notifyCoalesceEnd line => Sys2Proof.Machine.execNotifyCoalesceEnd line s
  | .evqLostPost => Sys2Proof.Machine.execEvqLostPost s
  | .haltNReceive => Sys2Proof.Machine.execHaltNReceive s
  | .comparatorChange e => Sys2Proof.Machine.execComparatorChange e s
  | .modeChangeHoldEnd e => Sys2Proof.Machine.execModeChangeHoldEnd e s
  | .sentinelDwellEnd g n => Sys2Proof.Machine.execSentinelDwellEnd g n s
  | .driverOvercurrent g p => Sys2Proof.Machine.execDriverOvercurrent g p s
  | .deglitchRelease g p => Sys2Proof.Machine.execDeglitchRelease g p s
  | .levelOrderedLatch g p => Sys2Proof.Machine.execLevelOrderedLatch g p s
  | .dacSettled m => Sys2Proof.Machine.execDacSettled m s
  | .clearNAssert pulseNs => Sys2Proof.Machine.execClearNAssert pulseNs s
  | .headroomClamp vphUv vplUv => Sys2Proof.Machine.execHeadroomClamp vphUv vplUv s
  | .complianceSwitch g u value => Sys2Proof.Machine.execComplianceSwitch g u value s
  | .openLoopDetect g u => Sys2Proof.Machine.execOpenLoopDetect g u s
  | .rangeStepEnd g u => Sys2Proof.Machine.execRangeStepEnd g u s
  | .smuMeasureTrigger m => Sys2Proof.Machine.execSmuMeasureTrigger m s
  | .smuConversion g u code => Sys2Proof.Machine.execSmuConversion g u code s
  | .smuMeasureComplete m => Sys2Proof.Machine.execSmuMeasureComplete m s
  | .strokeStartTrigger q => Sys2Proof.Machine.execStrokeStartTrigger q s
  | .jumpRequest q cause cycle => Sys2Proof.Machine.execJumpRequest q cause cycle s
  | .granuleBoundary q obs => Sys2Proof.Machine.execGranuleBoundary q obs s
  | .checkpointEntryFree g => Sys2Proof.Machine.execCheckpointEntryFree g s
  | .resolutionComplete q => Sys2Proof.Machine.execResolutionComplete q s
  | .etchBeginMarkerDurable g => Sys2Proof.Machine.execEtchBeginMarkerDurable g s
  | .etchEndMarkerWrite g => Sys2Proof.Machine.execEtchEndMarkerWrite g s
  | .streamGranulePresent g => Sys2Proof.Machine.execStreamGranulePresent g s
  | .stallResume q => Sys2Proof.Machine.execStallResume q s
  | .stallLimitExpiry q => Sys2Proof.Machine.execStallLimitExpiry q s
  | .haltHoldExpiry g => Sys2Proof.Machine.execHaltHoldExpiry g s
  | .bcastPrimeComplete p => Sys2Proof.Machine.execBcastPrimeComplete p s
  | .ampTrigger t => Sys2Proof.Machine.execAmpTrigger t s
  | .ampTriggerTimeout g c => Sys2Proof.Machine.execAmpTriggerTimeout g c s
  | .ampConversionEnd g c code inj => Sys2Proof.Machine.execAmpConversionEnd g c code inj s
  | .ampAnswerPost g c => Sys2Proof.Machine.execAmpAnswerPost g c s
  | .claimGrant g c => Sys2Proof.Machine.execClaimGrant g c s
  | .spanPhaseEnd g => Sys2Proof.Machine.execSpanPhaseEnd g s
  | .excOutOfRange g uv => Sys2Proof.Machine.execExcOutOfRange g uv s
  | .modclkLockLoss => Sys2Proof.Machine.execModclkLockLoss s
  | .modclkLockReturn => Sys2Proof.Machine.execModclkLockReturn s
  | .ampRailLoss => Sys2Proof.Machine.execAmpRailLoss s
  | .ampouleStart romOk => Sys2Proof.Machine.execAmpouleStart romOk s
  | .refpCheckDue g c => Sys2Proof.Machine.execRefpCheckDue g c s
  | .refpCheckEnd g c uv residuals => Sys2Proof.Machine.execRefpCheckEnd g c uv residuals s
  | .selfTraffic g c code inj => Sys2Proof.Machine.execSelfTraffic g c code inj s
  | .codeDensityDue g => Sys2Proof.Machine.execCodeDensityDue g s
  | .codeDensityEnd g inlPpb => Sys2Proof.Machine.execCodeDensityEnd g inlPpb s
  | .calBlockStale g c range offset => Sys2Proof.Machine.execCalBlockStale g c range offset s
  | .compensationUpdate g c range => Sys2Proof.Machine.execCompensationUpdate g c range s
  | .sealOpen => Sys2Proof.Machine.execSealOpen s
  | .adjustmentGatherDone g => Sys2Proof.Machine.execAdjustmentGatherDone g s
  | .sealClose => Sys2Proof.Machine.execSealClose s
  | .signingIndexReserved ok => Sys2Proof.Machine.execSigningIndexReserved ok s
  | .sheetSealed => Sys2Proof.Machine.execSheetSealed s
  | .level1TreeDone => Sys2Proof.Machine.execLevel1TreeDone s
  | .adjustCommitDurable => Sys2Proof.Machine.execAdjustCommitDurable s
  | .tiuGate g u asserted => Sys2Proof.Machine.execTiuGate g u asserted s
  | .tiuGateTimeout g u => Sys2Proof.Machine.execTiuGateTimeout g u s
  | .tiuWindowEnd g u => Sys2Proof.Machine.execTiuWindowEnd g u s
  | .tiuEdgeStamp g u stop place rising inWindow => Sys2Proof.Machine.execTiuEdgeStamp g u stop place rising inWindow s
  | .tiuServiceOverflow g u => Sys2Proof.Machine.execTiuServiceOverflow g u s
  | .trefLoss => Sys2Proof.Machine.execTrefLoss s
  | .trefReturn mhz100 => Sys2Proof.Machine.execTrefReturn mhz100 s
  | .tuclkWrap => Sys2Proof.Machine.execTuclkWrap s
  | .capTrigger g d fire place => Sys2Proof.Machine.execCapTrigger g d fire place s
  | .capArbitrationEnd g d => Sys2Proof.Machine.execCapArbitrationEnd g d s
  | .capItemWrite g d samples drained => Sys2Proof.Machine.execCapItemWrite g d samples drained s
  | .capRecordEnd g d => Sys2Proof.Machine.execCapRecordEnd g d s
  | .capHoldoffEnd g d => Sys2Proof.Machine.execCapHoldoffEnd g d s
  | .capConverterReady g d => Sys2Proof.Machine.execCapConverterReady g d s
  | .tempRead t readings => Sys2Proof.Machine.execTempRead t readings s
  | .tjCrit sensor reading => Sys2Proof.Machine.execTjCrit sensor reading s
  | .calStepStart g e => Sys2Proof.Machine.execCalStepStart g e s
  | .calStepEnd g e figure more => Sys2Proof.Machine.execCalStepEnd g e figure more s
  | .calwinIsolationClose g => Sys2Proof.Machine.execCalwinIsolationClose g s
  | .calOverdueTimer t => Sys2Proof.Machine.execCalOverdueTimer t s
  | .calStoreDataDone => Sys2Proof.Machine.execCalStoreDataDone s
  | .calStoreCommitDone => Sys2Proof.Machine.execCalStoreCommitDone s
  | .faultOccurrence src scope detail => Sys2Proof.Machine.execFaultOccurrence src scope detail s
  | .faultLogWrite => Sys2Proof.Machine.execFaultLogWrite s
  | .safeReleaseCheck => Sys2Proof.Machine.execSafeReleaseCheck s
  | .replayStart site => Sys2Proof.Machine.execReplayStart site s
  | .vfyOutcomeWrite g => Sys2Proof.Machine.execVfyOutcomeWrite g s
  | .watchdogExpiry => Sys2Proof.Machine.execWatchdogExpiry s
  | .fclkGap => Sys2Proof.Machine.execFclkGap s
  | .collectorMismatch => Sys2Proof.Machine.execCollectorMismatch s
  | .refclkLoss => Sys2Proof.Machine.execRefclkLoss s
  | .pllLoss p => Sys2Proof.Machine.execPllLoss p s
  | .railOutOfWindow r mv => Sys2Proof.Machine.execRailOutOfWindow r mv s
  | .peRailArm => Sys2Proof.Machine.execPeRailArm s
  | .linkPaired matching shadows => Sys2Proof.Machine.execLinkPaired matching shadows s
  | .twinAbsentTimeout => Sys2Proof.Machine.execTwinAbsentTimeout s
  | .heartbeatSend => Sys2Proof.Machine.execHeartbeatSend s
  | .heartbeatTimeout => Sys2Proof.Machine.execHeartbeatTimeout s
  | .mirrorAckTimeout => Sys2Proof.Machine.execMirrorAckTimeout s
  | .linkLoss => Sys2Proof.Machine.execLinkLoss s
  | .annealFrame => Sys2Proof.Machine.execAnnealFrame s
  | .mirrorEntryAck seq => Sys2Proof.Machine.execMirrorEntryAck seq s
  | .twinLinkFrame m => Sys2Proof.Machine.execTwinLinkFrame m s
  | .dormantFrame => Sys2Proof.Machine.execDormantFrame s
  | .wakeLinkTimeout => Sys2Proof.Machine.execWakeLinkTimeout s
  | .hosOwnerWaitExpiry => Sys2Proof.Machine.execHosOwnerWaitExpiry s
  | .hosSilenceExpiry => Sys2Proof.Machine.execHosSilenceExpiry s
  | .hosEdgeSeen => Sys2Proof.Machine.execHosEdgeSeen s
  | .hosReadbackConflict => Sys2Proof.Machine.execHosReadbackConflict s
  | .hosRefresh => Sys2Proof.Machine.execHosRefresh s
  | .hosBeacon => Sys2Proof.Machine.execHosBeacon s
  | .turnChange => Sys2Proof.Machine.execTurnChange s
  | .turnSwapDone => Sys2Proof.Machine.execTurnSwapDone s
  | .turnLimitExpiry => Sys2Proof.Machine.execTurnLimitExpiry s
  | .pfailAssert pulseNs => Sys2Proof.Machine.execPfailAssert pulseNs s
  | .pfailHighExpiry => Sys2Proof.Machine.execPfailHighExpiry s
  | .resetNAssert pulseNs => Sys2Proof.Machine.execResetNAssert pulseNs s
  | .powerOnReset vddaoLost => Sys2Proof.Machine.execPowerOnReset vddaoLost s
  | .resetTimer => Sys2Proof.Machine.execResetTimer s
  | .startup chainPos chainLast twinId slotA slotB calNewer calOlder clocks => Sys2Proof.Machine.execStartup chainPos chainLast twinId slotA slotB calNewer calOlder clocks s
  | .wipeEnd => Sys2Proof.Machine.execWipeEnd s
  | .dormantEntryDone => Sys2Proof.Machine.execDormantEntryDone s
  | .wakeNAssert restored dormantNs => Sys2Proof.Machine.execWakeNAssert restored dormantNs s
  | .sysPing r => Sys2Proof.Machine.execSysPing r s
  | .sysInfo r => Sys2Proof.Machine.execSysInfo r s
  | .sysMbxInfo r => Sys2Proof.Machine.execSysMbxInfo r s
  | .sysFence r => Sys2Proof.Machine.execSysFence r s
  | .sysReset r => Sys2Proof.Machine.execSysReset r s
  | .sysPower r => Sys2Proof.Machine.execSysPower r s
  | .unitInfo r => Sys2Proof.Machine.execUnitInfo r s
  | .caneDefine r => Sys2Proof.Machine.execCaneDefine r s
  | .caneDelete r => Sys2Proof.Machine.execCaneDelete r s
  | .caneQuery r => Sys2Proof.Machine.execCaneQuery r s
  | .caneMask r => Sys2Proof.Machine.execCaneMask r s
  | .caneList r => Sys2Proof.Machine.execCaneList r s
  | .strokeLoad r => Sys2Proof.Machine.execStrokeLoad r s
  | .tsetLoad r => Sys2Proof.Machine.execTsetLoad r s
  | .strokeStart r => Sys2Proof.Machine.execStrokeStart r s
  | .strokeHalt r => Sys2Proof.Machine.execStrokeHalt r s
  | .strokeStatus r => Sys2Proof.Machine.execStrokeStatus r s
  | .strokeRead r => Sys2Proof.Machine.execStrokeRead r s
  | .seqConfig r => Sys2Proof.Machine.execSeqConfig r s
  | .vmemWrite r => Sys2Proof.Machine.execVmemWrite r s
  | .vmemRead r => Sys2Proof.Machine.execVmemRead r s
  | .vmemPin r => Sys2Proof.Machine.execVmemPin r s
  | .streamOpen r => Sys2Proof.Machine.execStreamOpen r s
  | .streamClose r => Sys2Proof.Machine.execStreamClose r s
  | .streamWrite r => Sys2Proof.Machine.execStreamWrite r s
  | .bcastLoad r => Sys2Proof.Machine.execBcastLoad r s
  | .bcastStart r => Sys2Proof.Machine.execBcastStart r s
  | .bcastUnload r => Sys2Proof.Machine.execBcastUnload r s
  | .stencilLoad r => Sys2Proof.Machine.execStencilLoad r s
  | .stencilClear r => Sys2Proof.Machine.execStencilClear r s
  | .streamStatus r => Sys2Proof.Machine.execStreamStatus r s
  | .ucodeLoad r => Sys2Proof.Machine.execUcodeLoad r s
  | .ucodeClear r => Sys2Proof.Machine.execUcodeClear r s
  | .ucodeQuery r => Sys2Proof.Machine.execUcodeQuery r s
  | .ucodeRead r => Sys2Proof.Machine.execUcodeRead r s
  | .pinConfig r => Sys2Proof.Machine.execPinConfig r s
  | .pinLevels r => Sys2Proof.Machine.execPinLevels r s
  | .pinLoad r => Sys2Proof.Machine.execPinLoad r s
  | .pinClearCodes r => Sys2Proof.Machine.execPinClearCodes r s
  | .pinComparator r => Sys2Proof.Machine.execPinComparator r s
  | .pinRelease r => Sys2Proof.Machine.execPinRelease r s
  | .pinStatus r => Sys2Proof.Machine.execPinStatus r s
  | .pinRead r => Sys2Proof.Machine.execPinRead r s
  | .sentConfig r => Sys2Proof.Machine.execSentConfig r s
  | .sentStatus r => Sys2Proof.Machine.execSentStatus r s
  | .contactCheck r => Sys2Proof.Machine.execContactCheck r s
  | .smuConfig r => Sys2Proof.Machine.execSmuConfig r s
  | .smuForce r => Sys2Proof.Machine.execSmuForce r s
  | .smuSafe r => Sys2Proof.Machine.execSmuSafe r s
  | .smuTrip r => Sys2Proof.Machine.execSmuTrip r s
  | .smuMeasure r => Sys2Proof.Machine.execSmuMeasure r s
  | .smuRelease r => Sys2Proof.Machine.execSmuRelease r s
  | .smuStatus r => Sys2Proof.Machine.execSmuStatus r s
  | .smuRead r => Sys2Proof.Machine.execSmuRead r s
  | .ampIdent r => Sys2Proof.Machine.execAmpIdent r s
  | .ampConnect r => Sys2Proof.Machine.execAmpConnect r s
  | .ampDisconnect r => Sys2Proof.Machine.execAmpDisconnect r s
  | .ampConvert r => Sys2Proof.Machine.execAmpConvert r s
  | .ampBridge r => Sys2Proof.Machine.execAmpBridge r s
  | .ampBridgeStatus r => Sys2Proof.Machine.execAmpBridgeStatus r s
  | .ampStatus r => Sys2Proof.Machine.execAmpStatus r s
  | .ampSheetClose r => Sys2Proof.Machine.execAmpSheetClose r s
  | .ampSheetRead r => Sys2Proof.Machine.execAmpSheetRead r s
  | .ampAdjust r => Sys2Proof.Machine.execAmpAdjust r s
  | .ampCounter r => Sys2Proof.Machine.execAmpCounter r s
  | .ampRefcheck r => Sys2Proof.Machine.execAmpRefcheck r s
  | .tiuConfig r => Sys2Proof.Machine.execTiuConfig r s
  | .tiuStart r => Sys2Proof.Machine.execTiuStart r s
  | .tiuAbort r => Sys2Proof.Machine.execTiuAbort r s
  | .tiuStamps r => Sys2Proof.Machine.execTiuStamps r s
  | .tiuStatus r => Sys2Proof.Machine.execTiuStatus r s
  | .tiuSelftest r => Sys2Proof.Machine.execTiuSelftest r s
  | .tiuRead r => Sys2Proof.Machine.execTiuRead r s
  | .capConfig r => Sys2Proof.Machine.execCapConfig r s
  | .capLimits r => Sys2Proof.Machine.execCapLimits r s
  | .capArm r => Sys2Proof.Machine.execCapArm r s
  | .capForce r => Sys2Proof.Machine.execCapForce r s
  | .capAbort r => Sys2Proof.Machine.execCapAbort r s
  | .capStatus r => Sys2Proof.Machine.execCapStatus r s
  | .capHeader r => Sys2Proof.Machine.execCapHeader r s
  | .capRead r => Sys2Proof.Machine.execCapRead r s
  | .capReadCfg r => Sys2Proof.Machine.execCapReadCfg r s
  | .hatchLineConfig r => Sys2Proof.Machine.execHatchLineConfig r s
  | .hatchProducer r => Sys2Proof.Machine.execHatchProducer r s
  | .hatchForward r => Sys2Proof.Machine.execHatchForward r s
  | .hatchTask r => Sys2Proof.Machine.execHatchTask r s
  | .hatchBind r => Sys2Proof.Machine.execHatchBind r s
  | .hatchGroup r => Sys2Proof.Machine.execHatchGroup r s
  | .hatchRestore r => Sys2Proof.Machine.execHatchRestore r s
  | .hatchPulse r => Sys2Proof.Machine.execHatchPulse r s
  | .hatchStatus r => Sys2Proof.Machine.execHatchStatus r s
  | .calConfig r => Sys2Proof.Machine.execCalConfig r s
  | .calPinmask r => Sys2Proof.Machine.execCalPinmask r s
  | .calRun r => Sys2Proof.Machine.execCalRun r s
  | .calStatus r => Sys2Proof.Machine.execCalStatus r s
  | .calQuality r => Sys2Proof.Machine.execCalQuality r s
  | .calStore r => Sys2Proof.Machine.execCalStore r s
  | .calTemps r => Sys2Proof.Machine.execCalTemps r s
  | .netConfig r => Sys2Proof.Machine.execNetConfig r s
  | .netStatus r => Sys2Proof.Machine.execNetStatus r s
  | .ptpConfig r => Sys2Proof.Machine.execPtpConfig r s
  | .timeStatus r => Sys2Proof.Machine.execTimeStatus r s
  | .timeAdjust r => Sys2Proof.Machine.execTimeAdjust r s
  | .timeStep r => Sys2Proof.Machine.execTimeStep r s
  | .tcmpArm r => Sys2Proof.Machine.execTcmpArm r s
  | .tcmpStatus r => Sys2Proof.Machine.execTcmpStatus r s
  | .exportOpen r => Sys2Proof.Machine.execExportOpen r s
  | .exportClose r => Sys2Proof.Machine.execExportClose r s
  | .exportStatus r => Sys2Proof.Machine.execExportStatus r s
  | .exportResend r => Sys2Proof.Machine.execExportResend r s
  | .twinConfig r => Sys2Proof.Machine.execTwinConfig r s
  | .twinStatus r => Sys2Proof.Machine.execTwinStatus r s
  | .twinHalf r => Sys2Proof.Machine.execTwinHalf r s
  | .twinRelease r => Sys2Proof.Machine.execTwinRelease r s
  | .jrnConfig r => Sys2Proof.Machine.execJrnConfig r s
  | .jrnCheckpoint r => Sys2Proof.Machine.execJrnCheckpoint r s
  | .jrnMarkers r => Sys2Proof.Machine.execJrnMarkers r s
  | .jrnReport r => Sys2Proof.Machine.execJrnReport r s
  | .fltRead r => Sys2Proof.Machine.execFltRead r s
  | .fltAck r => Sys2Proof.Machine.execFltAck r s
  | .fltForce r => Sys2Proof.Machine.execFltForce r s
  | .fltConfig r => Sys2Proof.Machine.execFltConfig r s
  | .fltLog r => Sys2Proof.Machine.execFltLog r s
  | .fltRelease r => Sys2Proof.Machine.execFltRelease r s
  | .secCert r => Sys2Proof.Machine.execSecCert r s
  | .secAttest r => Sys2Proof.Machine.execSecAttest r s
  | .imgWrite r => Sys2Proof.Machine.execImgWrite r s
  | .imgCommit r => Sys2Proof.Machine.execImgCommit r s
  | .imgActivate r => Sys2Proof.Machine.execImgActivate r s
  | .imgStatus r => Sys2Proof.Machine.execImgStatus r s
  | .lcChallenge r => Sys2Proof.Machine.execLcChallenge r s
  | .lcCsr r => Sys2Proof.Machine.execLcCsr r s
  | .lcInstall r => Sys2Proof.Machine.execLcInstall r s
  | .lcTransition r => Sys2Proof.Machine.execLcTransition r s
  | .clearNRelease => Sys2Proof.Machine.execClearNRelease s
  | .haltNRelease => Sys2Proof.Machine.execHaltNRelease s
  | .heartbeatReceive state mirrorSeq ownsBus => Sys2Proof.Machine.execHeartbeatReceive state mirrorSeq ownsBus s
  | .counterproofLinkUp => Sys2Proof.Machine.execCounterproofLinkUp s
  | .ptpMessage port m => Sys2Proof.Machine.execPtpMessage port m s
  | .faultCauseClear src scope => Sys2Proof.Machine.execFaultCauseClear src scope s
  | .mpTick => Sys2Proof.Machine.execMpTick s
  | .jtagUpdateIr ir => Sys2Proof.Machine.execJtagUpdateIr ir s
  | .jtagUpdateDr cells => Sys2Proof.Machine.execJtagUpdateDr cells s
  | .jtagTestLogicReset => Sys2Proof.Machine.execJtagTestLogicReset s
  | .clip g uv => Sys2Proof.Machine.execClip g uv s
  | .smuOutputSettled m => Sys2Proof.Machine.execSmuOutputSettled m s
  | .exportCloseTimeout => Sys2Proof.Machine.execExportCloseTimeout s

end Sys2Proof.Machine
end

