-- ==== Sys2Proof/Machine/Step.lean ====
section
/-!
DEFINITION. One step of the block: the command at the front of the queue, or, with none waiting, one edge of the time base.
-/
namespace Sys2Proof.Machine

/-- The command at the front takes effect on everything but the queue's rest; on an empty queue the timestamp clock counts one edge
(R430). [DESIGN CHOICE, unsafe: log 1, 2, 4.] -/
def step (s : State) : Host.Outcome State Fault Refusal :=
  match s.pending with
  | [] => .next s.idle
  | c :: rest => exec c { s with pending := rest }

/-- The state with the command that a word spells at the front of its queue; where the word spells none, the state itself. [DESIGN CHOICE, safe: log 20.] -/
def State.withFetchWord (s : State) (nbits w : Nat) : State :=
  match decodeTableWord nbits w with
  | some c => { s with pending := c :: s.pending }
  | none => s

end Sys2Proof.Machine
end

