-- ==== Sys2Proof/Safety.lean ====
section
/-!
DEFINITION. The terms in which the statements speak: what stays true of every state that a step reaches, how a firmware command runs
and answers, and what a state is apart from its mailboxes and ports.
-/
namespace Sys2Proof.Machine

/-! ## What every step keeps -/

/-- The collector's records (R492): at most 256, one for each pair of source and SCOPE, SEQ strictly rising and below the next; and the
MRAM log holds at most 256 (R493). -/
def Faults.orderly (f : Faults) : Prop :=
  f.recs.length ≤ 256 ∧ f.log.length ≤ 256 ∧ f.recs.Pairwise (fun a b => ¬ (a.src = b.src ∧ a.scope = b.scope))
    ∧ f.recs.Pairwise (fun a b => a.seq < b.seq) ∧ ∀ r ∈ f.recs, r.seq < f.nextSeq

/-- The event notification queue holds at most 512 entries (R19). -/
def Hatch.bounded (h : Hatch) : Prop := h.queue.length ≤ 512

/-- At most 1,024 reports (R478), and at most 256 checkpoints in the ring of a site (R470). -/
def Journal.bounded (j : Journal) : Prop := j.reports.length ≤ 1024 ∧ ∀ n, (Tab.get ({} : SiteJrn) j.sites n).ring.length ≤ 256

/-- SETTLE and TURN_LIMIT within the ranges of TWIN_CONFIG (R459, R468). -/
def Twin.inRange (t : Twin) : Prop := 100 ≤ t.settle ∧ t.settle ≤ 2000 ∧ 1 ≤ t.turnLimit ∧ t.turnLimit ≤ 10000

/-- A mailbox within its credits: at most 16 commands outstanding and one in the refusal slot (R396, R397); its window in canonical form. -/
def Mailbox.fits (x : Mailbox) : Prop := x.outstanding ≤ 16 ∧ (x.entries.filter (·.refusal)).length ≤ 1 ∧ Mem.wf x.window = true

def credits (t : Tab Mailbox) : Prop := ∀ m, (Tab.get ({} : Mailbox) t m).fits

/-- The invariant of the block. -/
def State.wf (s : State) : Prop :=
  s.faults.orderly ∧ s.hatch.bounded ∧ s.journal.bounded ∧ s.twin.inRange ∧ Mem.wf s.dram = true ∧ credits s.mbx

/-- The ring of an HSS key: a value v that stands intact is in word (v - 1) mod 64, where R266 writes it. -/
def ringOrdered (ring : Tab Nat) : Prop := ∀ e ∈ ring, ringIntact e.2 = true → 0 < e.2 % 2 ^ 40 → e.1 = (e.2 % 2 ^ 40 - 1) % 64

/-- A ring in order stays so, and its next free index is not lower (R266, R267). -/
def ringGrows (a b : Tab Nat) : Prop := ringOrdered a → ringOrdered b ∧ ringNext a ≤ ringNext b

/-- What no command, reset, lifecycle change or wipe lowers: the legal event counter (R252), the two signing indices (R266, R508), the
minimum security versions (R523) and the lifecycle state (R512). -/
def State.neverFalls (s t : State) : Prop :=
  (s.amp.lec ≤ 0xFFFF_FFFF → s.amp.lec ≤ t.amp.lec ∧ t.amp.lec ≤ 0xFFFF_FFFF) ∧ ringGrows s.amp.hssRing t.amp.hssRing
    ∧ ringGrows s.sec.hssRing t.sec.hssRing
    ∧ (∀ k, s.sec.floors.getD k 0 ≤ t.sec.floors.getD k 0) ∧ s.sec.life ≤ t.sec.life

/-! ## Mailboxes -/

/-- Nothing is in any mailbox or on its way from one, and both chain paths show RST (R414). -/
def State.mailboxesEmpty (t : State) : Prop :=
  (∀ m, t.mailbox m = {}) ∧ t.outbox = {} ∧ t.hatch.queue = [] ∧ (∀ p, (t.port p).sent = [] ∧ (t.port p).held = [])
    ∧ t.chain.front.resp.flags = cfRst ∧ t.chain.window.resp.flags = cfRst

/-- A mailbox takes no request into its queue (R397): its refusal slot is occupied, or 16 commands are outstanding. -/
def Mailbox.full (x : Mailbox) : Prop := x.entries.any (·.refusal) = true ∨ 16 ≤ x.outstanding

/-- A doorbell on a full mailbox (R397): the answer takes the refusal slot behind the others, or the doorbell is ignored and counted. -/
def State.doorbellRefused (s : State) (m : Nat) (e : Entry) : State :=
  if (s.mailbox m).entries.any (·.refusal) then s.setMbx m { s.mailbox m with ignored := (s.mailbox m).ignored + 1 }
  else (s.setMbx m { s.mailbox m with fulls := (s.mailbox m).fulls + 1, entries := (s.mailbox m).entries ++ [e] }).pumpMbx m

/-! ## How a firmware command runs -/

/-- The request waits, queued, at the head of its mailbox. -/
def State.atHead (s : State) (op : Half) (r : Req) : Bool :=
  match (s.mailbox r.mbx.val).head with | some e => e.isQueued && e.opcode == op && e.req == r | none => false

/-- The mailbox takes one more request: its refusal slot is free and fewer than 16 commands are outstanding (R396, R397). -/
def Mailbox.takes (x : Mailbox) : Bool := !x.entries.any (·.refusal) && decide (x.outstanding < 16)

/-- The mailbox takes one more request, and every command before it has formed its response (R396, R403). -/
def State.hasRoom (s : State) (r : Req) : Bool := (s.mailbox r.mbx.val).head.isNone && (s.mailbox r.mbx.val).takes

/-- A request as it joins its mailbox, queued. -/
def State.queuedEntry (s : State) (op : Half) (r : Req) : Entry := { opcode := op, req := r, rungNs := s.upNs }

/-- The request is rung, unless it waits at the head already: it joins the mailbox behind the commands before it (R396, R403). -/
def State.rung (s : State) (op : Half) (r : Req) : State :=
  if s.atHead op r then s
  else s.setMbx r.mbx.val { s.mailbox r.mbx.val with
    accepted := (s.mailbox r.mbx.val).accepted + 1, entries := (s.mailbox r.mbx.val).entries ++ [s.queuedEntry op r] }

/-- Does the mailbox take commands at all: the device has started and its management processor runs, or the Ampoule is out of reset
(R412, R413, R498)? -/
def State.taking (s : State) (r : Req) : Bool :=
  if r.mbx.val == 5 then !s.amp.inReset else s.power.pstate != 0 && !(s.faults.anneal && s.faults.held)

/-- The request executes now: it waits at the head of its mailbox or finds it free; the device is neither parked nor DORMANT; it does not
wait for the half that it names, and starts of work are not held back (R467, R468). -/
def State.reached (s : State) (op : Half) (accept : List Nat) (r : Req) : Bool :=
  (s.atHead op r || s.hasRoom r) && (s.atHead op r || s.taking r) && !s.power.parked && s.power.pstate != 3 && !s.waitsForHalf op r accept
    && !(s.twin.turnWanted && startsWork op)

/-- The recovery loader, where it runs, accepts the command (R520). -/
def State.loaderTakes (s : State) (op : Half) (r : Req) : Bool := r.mbx.val == 5 || s.power.img != 2 || recoveryAllows op

/-- Anneal, where the device is in it, allows the command (R498). -/
def State.annealTakes (s : State) (op : Half) (r : Req) : Bool := r.mbx.val == 5 || !s.faults.anneal || annealAllows op

/-- The request executes now and passes the envelope: steps 2 to 7 of R402 find nothing (R402, R412), and the device accepts
the command in Anneal and under the recovery loader. -/
def State.ready (s : State) (op : Half) (accept : List Nat) (r : Req) : Bool :=
  s.reached op accept r && s.loaderTakes op r && s.envelope op r accept == stOK && s.annealTakes op r

/-- The state in which the command's own part runs: the request is in its mailbox and executes since now (R403). -/
def State.begun (s : State) (op : Half) (r : Req) : State := (s.rung op r).startHead r.mbx.val

/-- The reply of a command's own part, or none while it waits. -/
def Act.reply : Act → Option Reply
  | .done rep => some rep
  | .members t safe recs lay => some (memberReply t safe recs lay)
  | .wait _ => none

/-- The firmware commands: opcode, the target classes that the command takes, and the request. -/
def requestOf : Instr → Option (Half × List Nat × Req)
  | .sysPing r => some (0x0101, [8], r)
  | .sysInfo r => some (0x0102, [8], r)
  | .sysMbxInfo r => some (0x0103, [8], r)
  | .sysFence r => some (0x0104, [8], r)
  | .sysReset r => some (0x0105, [8], r)
  | .sysPower r => some (0x0106, [8], r)
  | .unitInfo r => some (0x0201, [0, 1, 2, 3, 4, 5, 6, 7, 8, 9, 0xC], r)
  | .caneDefine r => some (0x0202, [8], r)
  | .caneDelete r => some (0x0203, [0, 1, 2, 3, 4, 5, 6, 7, 0xC], r)
  | .caneQuery r => some (0x0204, [0, 1, 2, 3, 4, 5, 6, 7, 0xC], r)
  | .caneMask r => some (0x0205, [0, 1, 2, 3, 4, 5, 6, 7, 0xC], r)
  | .caneList r => some (0x0206, [8], r)
  | .strokeLoad r => some (0x0301, [6, 0xC], r)
  | .tsetLoad r => some (0x0302, [6, 0xC], r)
  | .strokeStart r => some (0x0303, [6, 0xC], r)
  | .strokeHalt r => some (0x0304, [6, 0xC], r)
  | .strokeStatus r => some (0x0305, [6, 0xC], r)
  | .strokeRead r => some (0x0306, [6, 8, 0xC], r)
  | .seqConfig r => some (0x0307, [6, 0xC], r)
  | .vmemWrite r => some (0x0401, [6, 0xC], r)
  | .vmemRead r => some (0x0402, [6, 0xC], r)
  | .vmemPin r => some (0x0403, [6, 0xC], r)
  | .streamOpen r => some (0x0404, [8, 6, 0xC], r)
  | .streamClose r => some (0x0405, [8], r)
  | .streamWrite r => some (0x0406, [8], r)
  | .bcastLoad r => some (0x0407, [6, 0xC], r)
  | .bcastStart r => some (0x0408, [6, 0xC], r)
  | .bcastUnload r => some (0x0409, [6, 0xC], r)
  | .stencilLoad r => some (0x040A, [6, 0xC], r)
  | .stencilClear r => some (0x040B, [6, 0xC], r)
  | .streamStatus r => some (0x040C, [6, 8, 0xC], r)
  | .ucodeLoad r => some (0x1001, [7, 0xC], r)
  | .ucodeClear r => some (0x1002, [7, 0xC], r)
  | .ucodeQuery r => some (0x1003, [7, 0xC], r)
  | .ucodeRead r => some (0x1004, [7, 0xC], r)
  | .pinConfig r => some (0x0501, [0, 0xC], r)
  | .pinLevels r => some (0x0502, [0, 0xC], r)
  | .pinLoad r => some (0x0503, [0, 0xC], r)
  | .pinClearCodes r => some (0x0504, [0, 0xC], r)
  | .pinComparator r => some (0x0505, [0, 0xC], r)
  | .pinRelease r => some (0x0506, [0, 0xC], r)
  | .pinStatus r => some (0x0507, [0, 0xC], r)
  | .pinRead r => some (0x0508, [0, 0xC], r)
  | .sentConfig r => some (0x0509, [6, 0xC], r)
  | .sentStatus r => some (0x050A, [6, 0xC], r)
  | .contactCheck r => some (0x050B, [6, 0xC], r)
  | .smuConfig r => some (0x0601, [1, 0xC], r)
  | .smuForce r => some (0x0602, [1, 0xC], r)
  | .smuSafe r => some (0x0603, [1, 0xC], r)
  | .smuTrip r => some (0x0604, [1, 0xC], r)
  | .smuMeasure r => some (0x0605, [1, 0xC], r)
  | .smuRelease r => some (0x0606, [1, 0xC], r)
  | .smuStatus r => some (0x0607, [1, 0xC], r)
  | .smuRead r => some (0x0608, [1, 0xC], r)
  | .ampIdent r => some (0x0701, [8], r)
  | .ampConnect r => some (0x0702, [3, 0xC], r)
  | .ampDisconnect r => some (0x0703, [3, 0xC], r)
  | .ampConvert r => some (0x0704, [3, 0xC], r)
  | .ampBridge r => some (0x0705, [2, 0xC], r)
  | .ampBridgeStatus r => some (0x0706, [2, 0xC], r)
  | .ampStatus r => some (0x0707, [8], r)
  | .ampSheetClose r => some (0x0708, [8], r)
  | .ampSheetRead r => some (0x0709, [8], r)
  | .ampAdjust r => some (0x070A, [8], r)
  | .ampCounter r => some (0x070B, [8], r)
  | .ampRefcheck r => some (0x070C, [8], r)
  | .tiuConfig r => some (0x0801, [5, 0xC], r)
  | .tiuStart r => some (0x0802, [5, 0xC], r)
  | .tiuAbort r => some (0x0803, [5, 0xC], r)
  | .tiuStamps r => some (0x0804, [5, 0xC], r)
  | .tiuStatus r => some (0x0805, [5, 8, 0xC], r)
  | .tiuSelftest r => some (0x0806, [6, 8, 0xC], r)
  | .tiuRead r => some (0x0807, [5, 0xC], r)
  | .capConfig r => some (0x0901, [4, 0xC], r)
  | .capLimits r => some (0x0902, [4, 0xC], r)
  | .capArm r => some (0x0903, [4, 0xC], r)
  | .capForce r => some (0x0904, [4, 0xC], r)
  | .capAbort r => some (0x0905, [4, 0xC], r)
  | .capStatus r => some (0x0906, [4, 0xC], r)
  | .capHeader r => some (0x0907, [4, 0xC], r)
  | .capRead r => some (0x0908, [4, 0xC], r)
  | .capReadCfg r => some (0x0909, [4, 0xC], r)
  | .hatchLineConfig r => some (0x0A01, [6, 8, 0xC], r)
  | .hatchProducer r => some (0x0A02, [6, 8, 0xC], r)
  | .hatchForward r => some (0x0A03, [6, 7, 8, 0xC], r)
  | .hatchTask r => some (0x0A04, [8], r)
  | .hatchBind r => some (0x0A05, [6, 8, 0xC], r)
  | .hatchGroup r => some (0x0A06, [8], r)
  | .hatchRestore r => some (0x0A07, [6, 8, 0xC], r)
  | .hatchPulse r => some (0x0A08, [8], r)
  | .hatchStatus r => some (0x0A09, [6, 7, 8, 0xC], r)
  | .calConfig r => some (0x0B01, [8], r)
  | .calPinmask r => some (0x0B02, [6, 0xC], r)
  | .calRun r => some (0x0B03, [7, 0xC], r)
  | .calStatus r => some (0x0B04, [7, 8, 0xC], r)
  | .calQuality r => some (0x0B05, [0, 1, 3, 4, 5, 0xC], r)
  | .calStore r => some (0x0B06, [8], r)
  | .calTemps r => some (0x0B07, [8], r)
  | .netConfig r => some (0x0C01, [8], r)
  | .netStatus r => some (0x0C02, [8], r)
  | .ptpConfig r => some (0x0C03, [8], r)
  | .timeStatus r => some (0x0C04, [8], r)
  | .timeAdjust r => some (0x0C05, [8], r)
  | .timeStep r => some (0x0C06, [8], r)
  | .tcmpArm r => some (0x0C07, [8], r)
  | .tcmpStatus r => some (0x0C08, [8], r)
  | .exportOpen r => some (0x0C09, [8], r)
  | .exportClose r => some (0x0C0A, [8], r)
  | .exportStatus r => some (0x0C0B, [8], r)
  | .exportResend r => some (0x0C0C, [8], r)
  | .twinConfig r => some (0x0D01, [8], r)
  | .twinStatus r => some (0x0D02, [8], r)
  | .twinHalf r => some (0x0D03, [8], r)
  | .twinRelease r => some (0x0D04, [8], r)
  | .jrnConfig r => some (0x0D05, [6, 0xC], r)
  | .jrnCheckpoint r => some (0x0D06, [8], r)
  | .jrnMarkers r => some (0x0D07, [8], r)
  | .jrnReport r => some (0x0D08, [8], r)
  | .fltRead r => some (0x0E01, [8], r)
  | .fltAck r => some (0x0E02, [8], r)
  | .fltForce r => some (0x0E03, [8], r)
  | .fltConfig r => some (0x0E04, [8], r)
  | .fltLog r => some (0x0E05, [8], r)
  | .fltRelease r => some (0x0E06, [6, 0xC], r)
  | .secCert r => some (0x0F01, [8], r)
  | .secAttest r => some (0x0F02, [8], r)
  | .imgWrite r => some (0x0F03, [8], r)
  | .imgCommit r => some (0x0F04, [8], r)
  | .imgActivate r => some (0x0F05, [8], r)
  | .imgStatus r => some (0x0F06, [8], r)
  | .lcChallenge r => some (0x0F07, [8], r)
  | .lcCsr r => some (0x0F08, [8], r)
  | .lcInstall r => some (0x0F09, [8], r)
  | .lcTransition r => some (0x0F0A, [8], r)
  | _ => none

/-- What ends a command's exec: after AMP_CONNECT, AMP_DISCONNECT, AMP_CONVERT and AMP_BRIDGE the Ampoule takes up what it can at once (R226, R227,
R237). -/
def State.settled (s : State) (op : Half) : State :=
  if op == 0x0704 then s.ampNext.convertsDone else if op == 0x0702 || op == 0x0703 || op == 0x0705 then s.ampNext else s

/-- A firmware command completes: whenever its request executes and the command's own conditions hold, `exec` answers the next state in
which its effect has taken place and its response is formed or awaited. `bound` is its completion bound in ns. -/
def CompletesIn (op : Half) (accept : List Nat) (bound : State → Req → Nat) (command : Req → Instr) (when : State → Req → Prop)
    (effect : State → Req → State × Act) : Prop :=
  ∀ (s : State) (r : Req), s.ready op accept r = true → when (s.begun op r) r →
    exec (command r) s = .next (((s.begun op r).conclude op (bound s r) r (effect (s.begun op r) r).1 (effect (s.begun op r) r).2).settled op)

/-- The same where the bound is a constant. -/
def Completes (op : Half) (accept : List Nat) (bound : Nat) (command : Req → Instr) (when : State → Req → Prop)
    (effect : State → Req → State × Act) : Prop :=
  CompletesIn op accept (fun _ _ => bound) command when effect

/-- A firmware command whose own conditions do not hold executes nothing: `exec` answers the next state in which the response, with a
status other than OK, is formed and nothing else of the command has come. -/
def RefusedUnless (op : Half) (accept : List Nat) (command : Req → Instr) (when : State → Req → Prop) : Prop :=
  ∀ (s : State) (r : Req), s.ready op accept r = true → ¬ when (s.begun op r) r →
    ∃ (bound : Nat) (rep : Reply), rep.status ≠ stOK ∧ exec (command r) s = .next (((s.begun op r).respond r.mbx.val bound rep).settled op)

/-- The same for a command that the Ampoule judges, which counts what it refuses (R239). -/
def AmpRefusedUnless (op : Half) (accept : List Nat) (command : Req → Instr) (when : State → Req → Prop) : Prop :=
  ∀ (s : State) (r : Req), s.ready op accept r = true → ¬ when (s.begun op r) r →
    ∃ (bound : Nat) (rep : Reply) (count : Nat), rep.status ≠ stOK
      ∧ exec (command r) s =
        .next (((({ s.begun op r with amp := { (s.begun op r).amp with refusals := count } } : State)).respond r.mbx.val bound rep).settled op)

/-- Steps 2 to 6 of R402 find nothing. -/
def headPasses (op : Half) (r : Req) : Bool :=
  r.payload.length ≤ 4076 && opcodePasses op && (r.mbx.val == 5 || groupAccepted r.mbx.val op) && r.flags.toNat / 2 == 0 && r.rsv == 0

/-- The state in which a request that executes now is refused with a status by the checks: nothing but the response has come, and on
mailbox 5 the Ampoule's count. -/
def State.turnedAway (s : State) (op : Half) (r : Req) (bound : Nat) (st : Half) : State :=
  ((((s.rung op r).startHead r.mbx.val).countRefused r.mbx.val st).respond r.mbx.val bound (Reply.err st)).settled op

/-- An event whose condition does not hold changes nothing. [DESIGN CHOICE, unsafe: log 3.] -/
def IdleUnless (c : Instr) (when : State → Prop) : Prop := ∀ s : State, ¬ when s → exec c s = .next s

/-- An event or access: under a condition `exec` answers the next state that a function gives. -/
def Answers (c : Instr) (when : State → Prop) (effect : State → State) : Prop := ∀ s : State, when s → exec c s = .next (effect s)

end Sys2Proof.Machine
end

