-- ==== Sys2Proof/Safety/Conditions.lean ====
section
/-!
DEFINITION. When each command has its own effect: the conditions that its chapter puts on the state and the operands, beyond those that
every firmware command's envelope puts (`State.ready`). A command that is not listed has its effect in every state.
-/
namespace Sys2Proof.Machine

/-! ## Doorbell -/

/-- When MBX_DOORBELL has its effect (R402): case 1. -/
def When.mbxDoorbell (m : Fin 8) (s : State) : Prop :=
  s.mbxAnswers = true ∧ (m.val = 0 ∨ m.val = 1 ∨ m.val = 6)

/-- When MBX_DOORBELL has its effect (R402): case 2. -/
def When.mbxDoorbell2 (m : Fin 8) (s : State) : Prop :=
  s.mbxAnswers = true ∧ (m.val = 2 ∨ m.val = 3 ∨ m.val = 4 ∨ m.val = 7)

/-! ## Transport -/

/-- When RESPONSE_ACK has its effect (R408). -/
def When.responseAck (offset : BitVec 12) (s : State) : Prop :=
  offset = 0 ∧ s.mbxAnswers = true

/-- When NOTIFY_BATCH_FORM has its effect (R416). -/
def When.notifyBatchForm (s : State) : Prop :=
  let q := s.hatch.queue
  q.isEmpty = false ∧ s.outbox.shown.isSome = false ∧ s.power.pstate ≠ 3

/-- When NOTIFY_BATCH_ACK has its effect (R417). -/
def When.notifyBatchAck (offset : BitVec 12) (s : State) : Prop :=
  offset = 0 ∧ s.mbxAnswers = true

/-! ## Chain -/

/-- When CHAIN_NOP has its effect (R375). -/
def When.chainNop (op : BitVec 4) (_ : State) : Prop :=
  (op.toNat == 0 || op.toNat ≥ 6) = true

/-- When CHAIN_BURST_TRANSFER has its effect (R379). -/
def When.chainBurstTransfer (bits : Nat) (overReset : Bool) (_ : State) : Prop :=
  bits ≠ 0 ∧ overReset = false

/-! ## Transport -/

/-- When RESPONSE_RESEND_TIMER has its effect (R428): case 1. -/
def When.responseResendTimer (s : State) : Prop :=
  s.outbox.shown.isSome = true ∧ s.outbox.sends < 3 ∧ s.mbxPorts.isEmpty = false
    ∧ s.passed s.outbox.sendNs resendNs = true

/-- When RESPONSE_RESEND_TIMER has its effect (R428): case 2. -/
def When.responseResendTimer2 (m : Fin 8) (s : State) : Prop :=
  (m.val = 2 ∨ m.val = 3) ∧ (s.mailbox m.val).shown.isSome = true ∧ (s.mailbox m.val).sends < 3
    ∧ s.passed (s.mailbox m.val).sendNs resendNs = true

/-! ## Net -/

/-- When ETH_LINK_UP has its effect (R422). -/
def When.ethLinkUp (port : Two) (s : State) : Prop :=
  let x := s.port port.val
  s.portOn port.val = true ∧ x.up = false ∧ s.power.pstate ≠ 3

/-- When ETH_LINK_LOSS has its effect (R425). -/
def When.ethLinkLoss (port : Two) (s : State) : Prop :=
  (s.port port.val).up = true

/-! ## Time -/

/-- When PTP_SYNC has its effect (R436). -/
def When.ptpSync (port : Two) (s : State) : Prop :=
  s.ptpOn port.val = true

/-- When SYNC_TIMEOUT has its effect (R436). -/
def When.syncTimeout (s : State) : Prop :=
  s.time.ptpPort ≠ 3 ∧ s.time.synced = true ∧ s.passed s.time.syncNs s.time.syncSpan = true

/-- When TCMP_FIRE has its effect (R437). -/
def When.tcmpFire (n : Fin 16) (s : State) : Prop :=
  let x := s.tcmp n.val
  x.armed = true ∧ reached s.netNs x.target = true ∧ s.power.pstate ≠ 3

/-! ## Net -/

/-- When EXPORT_DATAGRAM_SEND has its effect (R442). -/
def When.exportDatagramSend (s : State) : Prop :=
  s.exporter.isOpen = true ∧ s.passed s.exporter.firstNs (us s.exporter.flush) = true

/-- When EXPORT_ACK has its effect (R443). -/
def When.exportAck (s : State) : Prop :=
  let x := s.exporter
  x.isOpen = true ∧ (s.port x.port).up = true

/-- When EXPORT_RTO has its effect (R443): case 1. -/
def When.exportRto (seq : Word) (d : Dgram) (s : State) : Prop :=
  s.exporter.held.find? (·.seq == seq.toNat) = some d ∧ s.passed d.sendNs (us s.exporter.rto) = true ∧ d.sends < 3

/-- When EXPORT_RTO has its effect (R443): case 2. -/
def When.exportRto2 (seq : Word) (d : Dgram) (s : State) : Prop :=
  s.exporter.held.find? (·.seq == seq.toNat) = some d ∧ s.passed d.sendNs (us s.exporter.rto) = true ∧ ¬ (d.sends < 3)
    ∧ d.stale = false

/-! ## Hatch -/

/-- When TRIG_IN_EDGE has its effect (R337): case 1. -/
def When.trigInEdge (level : Lvl) (_ : State) : Prop :=
  level = .low

/-- When TRIG_IN_EDGE has its effect (R337): case 2. -/
def When.trigInEdge2 (level : Lvl) (_ : State) : Prop :=
  level = .high

/-- When RELAY_PULSE has its effect (R328). -/
def When.relayPulse (r : Fin 16) (s : State) : Prop :=
  let x := Tab.get {} s.hatch.relays r
  x.pending = true ∧ ¬ (pclkOfNs (s.upNs - x.pendNs) ≤ x.delay)

/-- When STORM_LIMIT has its effect (R332). -/
def When.stormLimit (line : Half) (k : Nat) (s : State) : Prop :=
  s.lineKey line = some k ∧ (s.line k).limit ≠ 0 ∧ ¬ ((s.line k).recent.length ≤ (s.line k).limit)
    ∧ (s.lineDead (s.line k)) = false

/-- When RING_DETECT has its effect (R333). -/
def When.ringDetect (line : Half) (k : Nat) (s : State) : Prop :=
  s.lineKey line = some k ∧ ((s.line k).clk && k < 0x3000) = false ∧ (s.lineDead (s.line k)) = false

/-- When NOTIFY_COALESCE_END has its effect (R339). -/
def When.notifyCoalesceEnd (line : Half) (k : Nat) (s : State) : Prop :=
  let l := s.line k
  s.lineKey line = some k ∧ l.busyUs = true ∧ s.passed l.busyNs 1000 = true

/-- When EVQ_LOST_POST has its effect (R19). -/
def When.evqLostPost (s : State) : Prop :=
  let h := s.hatch
  h.evqLost ≠ 0 ∧ ¬ (h.queue.length ≥ 512)

/-! ## Comparators -/

/-- When COMPARATOR_CHANGE has its effect (R146). -/
def When.comparatorChange (e : CmpEvent) (s : State) : Prop :=
  s.cmpPowered e = true ∧ (s.modeHeld e) = false

/-- When MODE_CHANGE_HOLD_END has its effect (R172). -/
def When.modeChangeHoldEnd (e : CmpEvent) (s : State) : Prop :=
  s.cmpPowered e = true ∧ s.modeHeld e = true

/-! ## Clear -/

/-- When SENTINEL_DWELL_END has its effect (R177). -/
def When.sentinelDwellEnd (g : GIx) (n : Two) (s : State) : Prop :=
  let x := s.sent g n
  x.timing = true ∧ x.frozen = false ∧ x.asleep = false ∧ sentEn x.cfg = true ∧ s.passed x.timeNs (us x.dwell) = true

/-! ## Pins -/

/-- When DRIVER_OVERCURRENT has its effect (R144). -/
def When.driverOvercurrent (g : GIx) (p : PIx) (s : State) : Prop :=
  let x := s.pin g p
  x.drive ≠ .off

/-- When DEGLITCH_RELEASE has its effect (R151). -/
def When.deglitchRelease (g : GIx) (p : PIx) (s : State) : Prop :=
  let x := s.pin g p
  x.holding = true

/-- When LEVEL_ORDERED_LATCH has its effect (R149). -/
def When.levelOrderedLatch (g : GIx) (p : PIx) (s : State) : Prop :=
  let x := s.pin g p
  x.latchNext ≠ x

/-- When DAC_SETTLED has its effect (R150). -/
def When.dacSettled (m : Fin 7) (e : Entry) (w : Wait) (s : State) : Prop :=
  s.waiting m = some (e, w) ∧ w.kind = .dacSettle ∧ (w.units.any fun u => (s.pin (u / 16) (u % 16)).moving) = false

/-! ## Clear -/

/-- When CLEAR_N_ASSERT has its effect (R153). -/
def When.clearNAssert (pulseNs : Nat) (s : State) : Prop :=
  s.clearLow = false ∧ ¬ (pulseNs < 30)

/-! ## Smu -/

/-- When COMPLIANCE_SWITCH has its effect (R192). -/
def When.complianceSwitch (g : GIx) (u : UIx) (s : State) : Prop :=
  s.complPowered g u = true

/-- When OPEN_LOOP_DETECT has its effect (R193). -/
def When.openLoopDetect (g : GIx) (u : UIx) (s : State) : Prop :=
  s.openLoopSeen g u = true

/-- When RANGE_STEP_END has its effect (R194). -/
def When.rangeStepEnd (g : GIx) (u : UIx) (r : RangeRun) (s : State) : Prop :=
  let x := s.smu g u
  x.run = some r

/-- When SMU_MEASURE_TRIGGER has its effect (R203). -/
def When.smuMeasureTrigger (m : Fin 7) (e : Entry) (w : Wait) (s : State) : Prop :=
  s.waiting m = some (e, w) ∧ w.kind = .measure

/-- When SMU_CONVERSION has its effect (R203). -/
def When.smuConversion (g : GIx) (u : UIx) (q : SmuMeas) (s : State) : Prop :=
  let x := s.smu g u
  x.meas = some q ∧ q.started = true ∧ q.count < q.n

/-- When SMU_MEASURE_COMPLETE has its effect (R204). -/
def When.smuMeasureComplete (m : Fin 7) (e : Entry) (w : Wait) (t : Tgt) (s : State) : Prop :=
  let done := w.units.all fun u => match (s.smu (u / 4) (u % 4)).meas with | some q => q.count == q.n | none => true
  s.targetOfWaiter m = some (e, w, t) ∧ w.kind = .measure ∧ done = true

/-! ## Stroke -/

/-- When STROKE_START_TRIGGER has its effect (R90). -/
def When.strokeStartTrigger (q : Seqr) (mode : Nat) (src : Nat) (s : State) : Prop :=
  let w := whoOf q
  let x := s.seqOf w
  x.start = some (mode, src) ∧ x.live = true ∧ mode ≠ 0 ∧ ¬ (s.startEvents w mode src ≤ x.startMark)

/-- When CHECKPOINT_ENTRY_FREE has its effect (R20). -/
def When.checkpointEntryFree (g : GIx) (s : State) : Prop :=
  (s.ckptBlocked g) = false

/-- When RESOLUTION_COMPLETE has its effect (R67). -/
def When.resolutionComplete (q : Seqr) (c : Cont) (s : State) : Prop :=
  let w := whoOf q
  let x := s.seqOf w
  x.cont = some c ∧ c.unresolved = true

/-- When ETCH_BEGIN_MARKER_DURABLE has its effect (R86). -/
def When.etchBeginMarkerDurable (g : GIx) (e : Etch) (s : State) : Prop :=
  (s.gather g).play.etches.find? Etch.underWay = some e

/-- When ETCH_END_MARKER_WRITE has its effect (R87). -/
def When.etchEndMarkerWrite (g : GIx) (e : EtchEnd) (l : List EtchEnd) (s : State) : Prop :=
  let w := s.whoOn g
  (s.gather g).play.etchEnds = e :: l ∧ (s.seqOf w).passes e.last = true

/-- When STALL_RESUME has its effect (R106). -/
def When.stallResume (q : Seqr) (s : State) : Prop :=
  let w := whoOf q
  let x := s.seqOf w
  x.st = .held ∧ x.why = some .stall ∧ s.granulePresent w x.cur = true

/-- When STALL_LIMIT_EXPIRY has its effect (R107). -/
def When.stallLimitExpiry (q : Seqr) (s : State) : Prop :=
  let w := whoOf q
  let x := s.seqOf w
  let limit := us (s.ctx (s.entryOf w x.cur).ctx).stallLimit
  x.st = .held ∧ x.why = some .stall ∧ ¬ (s.upNs - x.holdNs < limit)

/-- When HALT_HOLD_EXPIRY has its effect (R83). -/
def When.haltHoldExpiry (g : GIx) (s : State) : Prop :=
  let G := s.gather g
  G.seq.st = .halted ∧ G.play.holding = true ∧ G.play.haltHold ≤ pclkOfNs (s.upNs - G.play.haltNs)

/-! ## Stream -/

/-- When BCAST_PRIME_COMPLETE has its effect (R111). -/
def When.bcastPrimeComplete (p : Fin 4) (s : State) : Prop :=
  let P := s.prog p
  P.priming = true

/-! ## Amp -/

/-- When AMP_TRIGGER has its effect (R226). -/
def When.ampTrigger (s : State) : Prop :=
  s.amp.inReset = false ∧ s.amp.pllLost = false

/-- When AMP_TRIGGER_TIMEOUT has its effect (R227). -/
def When.ampTriggerTimeout (g : GIx) (c : Two) (q : AmpReq) (l : List AmpReq) (e : Entry) (w : Wait) (s : State) : Prop :=
  let ms := s.openMembers q.mbx w.units
  (s.chan g c).queue = q :: l ∧ s.waiting q.mbx = some (e, w) ∧ q.mode ≠ 0 ∧ w.kind = .convert
    ∧ s.atHeads q.mbx ms true = true ∧ s.passed (w.headNs.getD s.upNs) (us q.timeout) = true

/-- When AMP_CONVERSION_END has its effect (R223). -/
def When.ampConversionEnd (g : GIx) (c : Two) (inj : Int) (r : AmpRun) (q : AmpReq) (l : List AmpReq) (s : State) : Prop :=
  let x := s.chan g c
  x.run = some r ∧ x.queue = q :: l ∧ injectionOk x.last inj = true

/-- When CLAIM_GRANT has its effect (R215). -/
def When.claimGrant (g : GIx) (c : Two) (src : Nat) (m : Nat) (p : Nat) (e : Entry) (w : Wait) (s : State) : Prop :=
  (s.chan g c).asks = some (src, m, p) ∧ s.waiting m = some (e, w)

/-- When SPAN_PHASE_END has its effect (R232). -/
def When.spanPhaseEnd (g : GIx) (p : Span) (s : State) : Prop :=
  let b := s.bridge g
  b.span = some p

/-- When EXC_OUT_OF_RANGE has its effect (R230). -/
def When.excOutOfRange (g : GIx) (s : State) : Prop :=
  ((s.bridge g).isOpen) = false

/-- When MODCLK_LOCK_LOSS has its effect (R211). -/
def When.modclkLockLoss (s : State) : Prop :=
  s.amp.pllLost = false ∧ s.amp.inReset = false

/-- When MODCLK_LOCK_RETURN has its effect (R211). -/
def When.modclkLockReturn (s : State) : Prop :=
  s.amp.pllLost = true

/-- When AMPOULE_START has its effect (R255). -/
def When.ampouleStart (s : State) : Prop :=
  s.amp.inReset = true ∧ s.power.pstate ≠ 3

/-- When REFP_CHECK_DUE has its effect (R358). -/
def When.refpCheckDue (g : GIx) (c : Two) (s : State) : Prop :=
  let x := s.chan g c
  s.amp.inReset = false ∧ s.amp.noImage = false ∧ s.passed x.refAt refPeriod = true

/-- When REFP_CHECK_END has its effect (R236). -/
def When.refpCheckEnd (g : GIx) (c : Two) (s : State) : Prop :=
  let x := s.chan g c
  x.refRun = true

/-- When SELF_TRAFFIC has its effect (R357). -/
def When.selfTraffic (g : GIx) (c : Two) (inj : Int) (s : State) : Prop :=
  let x := s.chan g c
  s.amp.inReset = false ∧ s.amp.noImage = false ∧ s.amp.pllLost = false ∧ s.faults.anneal = false ∧ x.idle = true
    ∧ (c.val == 0 && (s.bridge g).density) = false ∧ injectionOk x.last inj = true

/-- When CODE_DENSITY_DUE has its effect (R359). -/
def When.codeDensityDue (g : GIx) (s : State) : Prop :=
  let b := s.bridge g
  s.amp.inReset = false ∧ s.amp.noImage = false ∧ s.amp.pllLost = false ∧ s.faults.anneal = false ∧ b.isOpen = true
    ∧ (s.chan g 0).idle = true ∧ s.passed b.densAt (3600 * 10 ^ 9) = true

/-- When CODE_DENSITY_END has its effect (R359). -/
def When.codeDensityEnd (g : GIx) (s : State) : Prop :=
  let b := s.bridge g
  b.density = true

/-- When CAL_BLOCK_STALE has its effect (R355). -/
def When.calBlockStale (g : GIx) (c : Two) (range : Fin 4) (offset : Bool) (s : State) : Prop :=
  let x := s.comp g c range
  let b := if offset then x.oBlock else x.gBlock
  s.passed b.since (600 * 10 ^ 9) = true

/-- When COMPENSATION_UPDATE has its effect (R356). -/
def When.compensationUpdate (g : GIx) (c : Two) (s : State) : Prop :=
  ((s.chan g c).run.isSome) = false

/-! ## Seal -/

/-- When ADJUSTMENT_GATHER_DONE has its effect (R360). -/
def When.adjustmentGatherDone (g : GIx) (s : State) : Prop :=
  let b := s.bridge g
  let noClaim := [0, 1].all fun c => (claimPins (s.chan g c).source).isEmpty && (claimUnit (s.chan g c).source).isNone
  s.amp.adjusting = true ∧ s.amp.inReset = false ∧ b.mode = 0 ∧ b.span.isSome = false ∧ noClaim = true
    ∧ (s.chan g 0).idle = true ∧ (s.chan g 1).idle = true ∧ (s.amp.candidate.any (·.1 == g.val)) = false

/-- When SIGNING_INDEX_RESERVED has its effect (R266). -/
def When.signingIndexReserved (x : Sheet) (s : State) : Prop :=
  let a := s.amp
  s.sealing = some x ∧ x.index.isSome = false ∧ a.stopExhausted = false

/-- When SHEET_SEALED has its effect (R262). -/
def When.sheetSealed (x : Sheet) (s : State) : Prop :=
  s.sealing = some x ∧ x.index.isNone = false ∧ s.power.parked = false

/-- When LEVEL1_TREE_DONE has its effect (R268). -/
def When.level1TreeDone (s : State) : Prop :=
  s.amp.treeBusy = true

/-! ## Tiu -/

/-- When TIU_GATE has its effect (R279): case 1. -/
def When.tiuGate (g : GIx) (u : UIx) (asserted : Bool) (s : State) : Prop :=
  let x := s.tiu g u
  x.st = .waitGate ∧ asserted = true ∧ s.gateCame g x = true

/-- When TIU_GATE has its effect (R279): case 2. -/
def When.tiuGate2 (g : GIx) (u : UIx) (asserted : Bool) (s : State) : Prop :=
  let x := s.tiu g u
  x.st = .armed ∧ asserted = false ∧ (tiuEdgeGate x.cfg) = false ∧ (s.lvl (gateKey g (tiuGateIx x.cfg))) = false

/-- When TIU_GATE_TIMEOUT has its effect (R279). -/
def When.tiuGateTimeout (g : GIx) (u : UIx) (s : State) : Prop :=
  let x := s.tiu g u
  x.st = .waitGate ∧ s.measOver x (·.timeout) = true

/-- When TIU_WINDOW_END has its effect (R279). -/
def When.tiuWindowEnd (g : GIx) (u : UIx) (s : State) : Prop :=
  (s.tiu g u).st = .armed ∧ s.measOver (s.tiu g u) (·.window) = true

/-- When TIU_EDGE_STAMP has its effect (R271): case 1. -/
def When.tiuEdgeStamp (g : GIx) (u : UIx) (stop : Bool) (place : Fin 768) (rising : Bool) (inWindow : Bool) (m : TiuMeas) (s : State) : Prop :=
  let x := s.tiu g u
  let raw := s.rawStamp place
  let mode := tiuMode x.cfg
  x.meas = some m ∧ x.st = .armed ∧ s.tiuSource g (tiuKind stop x.src) (tiuSrc stop x.src) = true
    ∧ x.qualifies stop rising inWindow = true ∧ (stop && (mode == 2 || mode == 3)) = false
    ∧ inDead (if stop then m.deadStop else m.deadStart) raw = true

/-- When TIU_EDGE_STAMP has its effect (R271): case 2. -/
def When.tiuEdgeStamp2 (g : GIx) (u : UIx) (stop : Bool) (place : Fin 768) (rising : Bool) (inWindow : Bool) (m : TiuMeas) (s : State) : Prop :=
  let x := s.tiu g u
  let raw := s.rawStamp place
  let t := s.corrected g u (tiuKind stop x.src) (tiuSrc stop x.src) raw
  let mode := tiuMode x.cfg
  x.meas = some m ∧ x.st = .armed ∧ s.tiuSource g (tiuKind stop x.src) (tiuSrc stop x.src) = true
    ∧ x.qualifies stop rising inWindow = true ∧ (stop && (mode == 2 || mode == 3)) = false
    ∧ (inDead (if stop then m.deadStop else m.deadStart) raw) = false ∧ x.takes m stop t = true

/-- When TIU_SERVICE_OVERFLOW has its effect (R281). -/
def When.tiuServiceOverflow (g : GIx) (u : UIx) (s : State) : Prop :=
  s.serviceOver g u = true

/-- When TREF_RETURN has its effect (R278). -/
def When.trefReturn (s : State) : Prop :=
  s.tref.present = false ∧ s.passed s.tref.lossNs 100000000 = true

/-- When TUCLK_WRAP has its effect (R272). -/
def When.tuclkWrap (s : State) : Prop :=
  s.passed s.tref.zeroNs coarseSpan = true

/-! ## Cap -/

/-- When CAP_TRIGGER has its effect (R300). -/
def When.capTrigger (g : GIx) (d : Two) (fire : CapFire) (place : Nat) (time : Nat) (s : State) : Prop :=
  s.fireTime g d fire place = some time ∧ (s.dig g d).st ≠ .idle

/-- When CAP_ARBITRATION_END has its effect (R305). -/
def When.capArbitrationEnd (g : GIx) (d : Two) (a : CapArm) (t : CapTrig) (s : State) : Prop :=
  let armed := a.group.filter fun u => (s.dig (u / 2) (u % 2)).st == .armed
  (s.dig g d).arm = some a ∧ earliest (armed.filterMap fun u => (s.dig (u / 2) (u % 2)).arm.bind (·.seen)) = some t

/-- When CAP_ITEM_WRITE has its effect (R306): case 1. -/
def When.capItemWrite (g : GIx) (d : Two) (a : CapArm) (s : State) : Prop :=
  let x := s.dig g d
  let recording := x.st == .armed || x.st == .capturing
  x.parked = false ∧ x.arm = some a ∧ recording = true ∧ a.full = true

/-- When CAP_ITEM_WRITE has its effect (R306): case 2. -/
def When.capItemWrite2 (g : GIx) (d : Two) (samples : List Int) (a : CapArm) (s : State) : Prop :=
  let x := s.dig g d
  let recording := x.st == .armed || x.st == .capturing
  x.parked = false ∧ x.arm = some a ∧ recording = true ∧ a.full = false ∧ samples.length = a.rate

/-- When CAP_ITEM_WRITE has its effect (R306): case 3. -/
def When.capItemWrite3 (g : GIx) (d : Two) (s : State) : Prop :=
  let x := s.dig g d
  x.parked = false ∧ (x.arm.isNone = true ∨ (x.st ≠ .armed ∧ x.st ≠ .capturing))

/-- When CAP_RECORD_END has its effect (R311). -/
def When.capRecordEnd (g : GIx) (d : Two) (a : CapArm) (s : State) : Prop :=
  let x := s.dig g d
  x.st = .capturing ∧ x.arm = some a ∧ a.full = true

/-- When CAP_HOLDOFF_END has its effect (R304). -/
def When.capHoldoffEnd (g : GIx) (d : Two) (s : State) : Prop :=
  let x := s.dig g d
  let past : Bool := match x.arm with | some a => s.passed a.endNs (us a.holdoff) | none => false
  x.st = .holdoff ∧ past = true

/-- When CAP_CONVERTER_READY has its effect (R297). -/
def When.capConverterReady (g : GIx) (d : Two) (s : State) : Prop :=
  let x := s.dig g d
  x.warming = true

/-! ## Cal -/

/-- When TEMP_READ has its effect (R343). -/
def When.tempRead (readings : List Int) (_ : State) : Prop :=
  readings.length = 4

/-! ## Faults -/

/-- When TJ_CRIT has its effect (R490). -/
def When.tjCrit (reading : Int) (_ : State) : Prop :=
  ¬ (reading ≤ 16500)

/-! ## Cal -/

/-- When CAL_STEP_START has its effect (R350). -/
def When.calStepStart (g : GIx) (e : CalEl) (s : State) : Prop :=
  let n := elNum e
  s.calTodo g n = true ∧ s.calUsable g n = true ∧ s.calTurn g n = true

/-- When CAL_STEP_END has its effect (R351). -/
def When.calStepEnd (g : GIx) (e : CalEl) (k : Nat) (since : Nat) (s : State) : Prop :=
  let n := elNum e
  let x := s.calG g
  x.running.find? (·.1 == n) = some (k, since) ∧ s.passed since (elSpan n) = true

/-- When CALWIN_ISOLATION_CLOSE has its effect (R348). -/
def When.calwinIsolationClose (g : GIx) (s : State) : Prop :=
  let x := s.calG g
  let ps := (s.gather g).isolated.filter fun p => !x.steps.any fun k => elPin k == some p
  ps.isEmpty = false

/-- When CAL_OVERDUE_TIMER has its effect (R345). -/
def When.calOverdueTimer (t : TIx) (s : State) : Prop :=
  let x := s.calTile t
  x.due = true ∧ x.overdue = false ∧ calOverdue s.cal.cfg ≠ 0
    ∧ s.passed x.dueNs (calOverdue s.cal.cfg * 10 ^ 9) = true

/-- When CAL_STORE_DATA_DONE has its effect (R362). -/
def When.calStoreDataDone (s : State) : Prop :=
  s.cal.storing = 1 ∧ s.power.pfail = false

/-! ## Faults -/

/-- When FAULT_OCCURRENCE has its effect (R484). -/
def When.faultOccurrence (src : Half) (scope : Half) (s : State) : Prop :=
  srcDefined src = true ∧ scopeClassOk src scope = true ∧ handleOk scope = true ∧ s.railRaised src = true

/-! ## SafeState -/

/-- When SAFE_RELEASE_CHECK has its effect (R495). -/
def When.safeReleaseCheck (s : State) : Prop :=
  s.power.parked = false ∧ s.faults.held = false

/-! ## Journal -/

/-- When REPLAY_START has its effect (R475): case 1. -/
def When.replayStart (site : Fin 128) (c : Ckpt) (s : State) : Prop :=
  let g := site.val % 64
  site.val / 64 = s.halfIx ∧ (s.replayKind g).isSome = true ∧ s.replayFree g = true ∧ s.replayCkpt g = some c
    ∧ c.mode = 2

/-- When REPLAY_START has its effect (R475): case 2. -/
def When.replayStart2 (site : Fin 128) (c : Ckpt) (s : State) : Prop :=
  let g := site.val % 64
  site.val / 64 = s.halfIx ∧ (s.replayKind g).isSome = true ∧ s.replayFree g = true ∧ s.replayCkpt g = some c
    ∧ c.mode ≠ 2 ∧ ((s.prog c.prog).seq.live) = false

/-- When REPLAY_START has its effect (R475): case 3. -/
def When.replayStart3 (site : Fin 128) (s : State) : Prop :=
  let g := site.val % 64
  site.val / 64 = s.halfIx ∧ (s.replayKind g).isSome = true ∧ s.replayFree g = true ∧ s.replayCkpt g = none

/-- When REPLAY_START has its effect (R475): case 4. -/
def When.replayStart4 (site : Fin 128) (s : State) : Prop :=
  let g := site.val % 64
  site.val / 64 = s.halfIx ∧ ((s.replayKind g).isSome && s.replayFree g) = false ∧ s.frozen = false
    ∧ s.twin.swapping = false

/-! ## Faults -/

/-- When WATCHDOG_EXPIRY has its effect (R488). -/
def When.watchdogExpiry (s : State) : Prop :=
  s.processorRuns = true

/-! ## Clear -/

/-- When PE_RAIL_ARM has its effect (R529). -/
def When.peRailArm (s : State) : Prop :=
  railsPe s.power.vphUv s.power.vplUv = true

/-! ## Twin -/

/-- When LINK_PAIRED has its effect (R455): case 1. -/
def When.linkPaired (matching : Bool) (s : State) : Prop :=
  s.twin.st = 1 ∧ s.twin.link = true ∧ s.faults.anneal = false ∧ matching = false

/-- When LINK_PAIRED has its effect (R455): case 2. -/
def When.linkPaired2 (matching : Bool) (shadows : Bool) (s : State) : Prop :=
  s.twin.st = 1 ∧ s.twin.link = true ∧ s.faults.anneal = false ∧ matching = true ∧ shadows = true

/-- When TWIN_ABSENT_TIMEOUT has its effect (R456). -/
def When.twinAbsentTimeout (s : State) : Prop :=
  s.twin.st = 1 ∧ s.twin.absent = false ∧ s.passed s.power.resetNs (10 ^ 9) = true

/-- When HEARTBEAT_SEND has its effect (R452). -/
def When.heartbeatSend (s : State) : Prop :=
  let t := s.twin
  let due : Bool := match t.beat with | some b => s.passed b.2.2.2 10000 | none => true
  (t.st == 2 || t.st == 3) = true ∧ t.link = true ∧ s.power.pstate ≠ 3 ∧ due = true

/-- When HEARTBEAT_TIMEOUT has its effect (R452). -/
def When.heartbeatTimeout (s : State) : Prop :=
  s.twin.dormantTold = false ∧ s.passed s.twin.beatNs partnerNs = true

/-- When MIRROR_ACK_TIMEOUT has its effect (R452). -/
def When.mirrorAckTimeout (s : State) : Prop :=
  (s.twin.unacked.any fun e => s.passed e.2.1 partnerNs) = true

/-- When LINK_LOSS has its effect (R450). -/
def When.linkLoss (s : State) : Prop :=
  s.twin.link = true

/-- When MIRROR_ENTRY_ACK has its effect (R458). -/
def When.mirrorEntryAck (s : State) : Prop :=
  s.twin.link = true

/-- When TWIN_LINK_FRAME has its effect (R480). -/
def When.twinLinkFrame (s : State) : Prop :=
  let t := s.twin
  t.link = true ∧ s.faults.anneal = false ∧ s.power.pstate ≠ 0 ∧ s.power.pstate ≠ 3

/-- When DORMANT_FRAME has its effect (R457). -/
def When.dormantFrame (s : State) : Prop :=
  s.twin.st = 2

/-- When WAKE_LINK_TIMEOUT has its effect (R457). -/
def When.wakeLinkTimeout (s : State) : Prop :=
  s.twin.waking = true ∧ s.twin.link = false ∧ s.passed (s.power.wakeNs.getD 0) (us 10000) = true

/-- When HOS_OWNER_WAIT_EXPIRY has its effect (R461). -/
def When.hosOwnerWaitExpiry (s : State) : Prop :=
  s.twin.hosWait = true ∧ s.onBus = true ∧ s.passed s.twin.hosNs (aoNs s.hosCycles) = true

/-- When HOS_SILENCE_EXPIRY has its effect (R463). -/
def When.hosSilenceExpiry (s : State) : Prop :=
  s.twin.watching = true ∧ s.onBus = true ∧ s.passed s.twin.hosNs (aoNs 12) = true

/-- When HOS_READBACK_CONFLICT has its effect (R461). -/
def When.hosReadbackConflict (s : State) : Prop :=
  s.twin.owner = true

/-- When HOS_REFRESH has its effect (R460). -/
def When.hosRefresh (s : State) : Prop :=
  s.onBus = true ∧ s.power.pstate ≠ 3 ∧ s.passed s.twin.writeNs (us 100000) = true

/-- When HOS_BEACON has its effect (R460). -/
def When.hosBeacon (s : State) : Prop :=
  s.twin.owner = true ∧ s.onBus = true ∧ s.passed s.twin.beaconNs (aoNs 4) = true

/-- When TURN_CHANGE has its effect (R465): case 1. -/
def When.turnChange (s : State) : Prop :=
  let t := s.twin
  t.st = 3 ∧ t.swapping = false ∧ t.owner = true ∧ s.frozen = false ∧ s.turnReady = true
    ∧ (s.waiters .twinRelease).isEmpty = false

/-- When TURN_CHANGE has its effect (R465): case 2. -/
def When.turnChange2 (s : State) : Prop :=
  let t := s.twin
  t.st = 3 ∧ t.swapping = false ∧ t.owner = true ∧ s.frozen = false ∧ s.turnReady = true
    ∧ (s.waiters .twinRelease).isEmpty = true ∧ (t.turnWanted || s.replayTurn) = true

/-- When TURN_SWAP_DONE has its effect (R465). -/
def When.turnSwapDone (s : State) : Prop :=
  s.twin.swapping = true ∧ s.passed s.twin.swapNs (12900 + us s.twin.settle) = true

/-- When TURN_LIMIT_EXPIRY has its effect (R468). -/
def When.turnLimitExpiry (s : State) : Prop :=
  let t := s.twin
  t.st = 3 ∧ t.turnWanted = true ∧ t.swapping = false ∧ t.forced = false ∧ s.turnReady = false
    ∧ s.passed t.turnDueNs 0 = true

/-! ## Power -/

/-- When PFAIL_ASSERT has its effect (R533). -/
def When.pfailAssert (s : State) : Prop :=
  s.power.pfail = false

/-- When PFAIL_HIGH_EXPIRY has its effect (R535). -/
def When.pfailHighExpiry (s : State) : Prop :=
  s.power.parked = true ∧ s.passed s.power.parkNs (us 10000) = true

/-- When RESET_TIMER has its effect (R420). -/
def When.resetTimer (d : Due) (s : State) : Prop :=
  s.power.resetDue.find? (fun d => s.passed d.ns (us 10000)) = some d

/-- When STARTUP has its effect (R540). -/
def When.startup (s : State) : Prop :=
  s.power.pstate = 0 ∧ s.power.parked = false

/-- When DORMANT_ENTRY_DONE has its effect (R544). -/
def When.dormantEntryDone (s : State) : Prop :=
  s.power.entering = true ∧ s.dormantReady = true

/-- When WAKE_N_ASSERT has its effect (R545): case 1. -/
def When.wakeNAssert (s : State) : Prop :=
  s.power.pstate = 3

/-- When WAKE_N_ASSERT has its effect (R545): case 2. -/
def When.wakeNAssert2 (s : State) : Prop :=
  s.power.pstate ≠ 3 ∧ s.power.entering = true

/-! ## Sys -/

/-- When SYS_INFO has its effect (R420). -/
def When.sysInfo (_ : State) (r : Req) : Prop :=
  r.payload = []

/-- When SYS_MBX_INFO has its effect (R420). -/
def When.sysMbxInfo (_ : State) (r : Req) : Prop :=
  r.payload = []

/-- When SYS_FENCE has its effect (R405). -/
def When.sysFence (_ : State) (r : Req) : Prop :=
  let mask := u8 r.payload 0
  r.payload.length = 4 ∧ mask < 128 ∧ zeros r.payload 1 3 = true

/-- When SYS_RESET has its effect (R420). -/
def When.sysReset (s : State) (r : Req) : Prop :=
  r.payload.length = 4 ∧ u32 r.payload 0 = 0xA55A ∧ s.resetRefused = false

/-- When SYS_POWER has its effect (R542): case 1. -/
def When.sysPower (s : State) (r : Req) : Prop :=
  let st := u8 r.payload 0
  r.payload.length = 4 ∧ 1 ≤ st ∧ st ≤ 3 ∧ zeros r.payload 1 3 = true ∧ st = s.power.pstate

/-- When SYS_POWER has its effect (R542): case 2. -/
def When.sysPower2 (s : State) (r : Req) : Prop :=
  let st := u8 r.payload 0
  r.payload.length = 4 ∧ 1 ≤ st ∧ st ≤ 3 ∧ zeros r.payload 1 3 = true ∧ st ≠ s.power.pstate
    ∧ (st == 1 || !s.anySeqBusy) = true ∧ (st == 1 || !s.anyCapBusy) = true ∧ (st == 1 || !s.anyTiuBusy) = true
    ∧ (st != 3 || !s.anyAmpBusy) = true

/-! ## Canes -/

/-- When UNIT_INFO has its effect (R52). -/
def When.unitInfo (_ : State) (r : Req) : Prop :=
  r.payload = []

/-- When CANE_DEFINE has its effect (R41). -/
def When.caneDefine (hs : List Half) (depth : Nat) (s : State) (r : Req) : Prop :=
  let p := r.payload
  let n := u16 p 4
  let i := (defined r).1
  let c := (defined r).2
  let away := c.cls == cGather && hs.any fun h => (s.localIx h).isNone
  p.length ≥ 8 ∧ p.length = 8 + 2 * n ∧ 1 ≤ n ∧ n ≤ 128 ∧ hClass (h16 p 0) = 0xC ∧ i < 256 ∧ c.cls ≠ 8 ∧ c.cls ≠ 9
    ∧ c.cls < 8 ∧ u8 p 3 < 4 ∧ zeros p 6 2 = true
    ∧ flattenCheck (Tab.put s.canes i c) (s.canes.map (·.1)) 257 [] i = .ok (hs, depth)
    ∧ (!c.gang || gangOk c.cls hs) = true ∧ ((s.cane i).isNone || s.caneRefs i == 0) = true
    ∧ (away && !c.twinSpan) = false ∧ (c.twinSpan && c.cls != cGather) = false
    ∧ (!c.twinSpan || (s.twin.st == 2 && s.twin.link)) = true

/-- When CANE_DELETE has its effect (R42). -/
def When.caneDelete (s : State) (r : Req) : Prop :=
  let i := reqCane r
  needCane r = stOK ∧ r.payload = [] ∧ s.caneRefs i = 0 ∧ s.spanDown i = stOK

/-- When CANE_QUERY has its effect (R52). -/
def When.caneQuery (c : Cane) (s : State) (r : Req) : Prop :=
  let i := reqCane r
  needCane r = stOK ∧ r.payload = [] ∧ s.cane i = some c

/-- When CANE_MASK has its effect (R588). -/
def When.caneMask (c : Cane) (s : State) (r : Req) : Prop :=
  let i := reqCane r
  let n := (s.flat i).length
  let set := (List.range (8 * r.payload.length)).filter (mapBit r.payload)
  s.cane i = some c ∧ needCane r = stOK ∧ r.payload.length = (n + 7) / 8 ∧ set.all (· < n) = true
    ∧ s.spanDown i = stOK

/-- When CANE_LIST has its effect (R52). -/
def When.caneList (_ : State) (r : Req) : Prop :=
  r.payload = []

/-! ## Stroke -/

/-- When STROKE_LOAD has its effect (R58). -/
def When.strokeLoad (s : State) (r : Req) : Prop :=
  let t := s.target r
  let first := u16 r.payload 0
  let n := u16 r.payload 2
  let es := entriesOf r.payload 8 n
  r.payload.length = 8 + 16 * n ∧ 1 ≤ n ∧ n ≤ 254 ∧ first + n ≤ 4096 ∧ zeros r.payload 4 4 = true
    ∧ firstBad es first (fun b => (entOf b).loadStatus false) = none ∧ ∀ g ∈ t.units, (s.gather g).idle = true

/-- When TSET_LOAD has its effect (R77). -/
def When.tsetLoad (s : State) (r : Req) : Prop :=
  let t := s.target r
  let p := r.payload
  let ix := u8 p 0
  let period := u64 p 8
  let pins := (List.range 16).map fun i => pinTimingOf p (16 + 28 * i)
  r.payload.length = 464 ∧ ix ≤ 31 ∧ zeros p 1 7 = true ∧ period < 2 ^ 46 ∧ 64 ≤ period / 65536
    ∧ pins.all (fun x => x.fmt ≤ 3) = true ∧ ((List.range 16).all fun i => zeros p (17 + 28 * i) 3) = true
    ∧ (pins.all fun x => !x.bad period) = true ∧ ∀ g ∈ t.units, (s.gather g).idle = true

/-- When STROKE_START has its effect (R90). -/
def When.strokeStart (s : State) (r : Req) : Prop :=
  let t := s.target r
  let idx := u16 r.payload 0
  let mode := u8 r.payload 2
  let src := u8 r.payload 3
  r.payload.length = 8 ∧ idx < 4096 ∧ startModeOk mode src 16 = true ∧ zeros r.payload 4 4 = true
    ∧ (∀ g ∈ t.units, (s.gather g).idle = true)
    ∧ (∀ g ∈ t.units, walkStatus (s.entryOf (.g g)) (fun i => (s.gather g).play.tsets.any (·.1 == i)) idx = stOK)
    ∧ (s.startRelease t.units).isSome = true

/-- When STROKE_HALT has its effect (R112). -/
def When.strokeHalt (_ : State) (r : Req) : Prop :=
  r.payload = []

/-- When STROKE_STATUS has its effect (R92). -/
def When.strokeStatus (_ : State) (r : Req) : Prop :=
  r.payload = []

/-- When STROKE_READ has its effect (R92). -/
def When.strokeRead (_ : State) (r : Req) : Prop :=
  let first := u16 r.payload 0
  let n := u16 r.payload 2
  r.payload.length = 4 ∧ 1 ≤ n ∧ n ≤ 254 ∧ first + n ≤ 4096

/-- When SEQ_CONFIG has its effect (R83). -/
def When.seqConfig (s : State) (r : Req) : Prop :=
  let t := s.target r
  let hs := w32 r.payload 4
  r.payload.length = 8 ∧ zeros r.payload 2 2 = true
    ∧ ((List.range 16).all fun p => bits hs.toNat (2 * p + 1) (2 * p) != 3) = true
    ∧ ∀ g ∈ t.units, (s.gather g).idle = true

/-! ## Stream -/

/-- When VMEM_WRITE has its effect (R95). -/
def When.vmemWrite (s : State) (r : Req) : Prop :=
  let t := s.target r
  let first := u16 r.payload 0
  let n := u16 r.payload 2
  r.payload.length = 8 + 256 * n ∧ 1 ≤ n ∧ n ≤ 15 ∧ first + n ≤ 2048 ∧ zeros r.payload 4 4 = true
    ∧ reservedSymbol (r.payload.drop 8) = false ∧ ∀ g ∈ t.units, (s.gather g).idle = true

/-- When VMEM_READ has its effect (R97). -/
def When.vmemRead (s : State) (r : Req) : Prop :=
  let t := s.target r
  let first := u16 r.payload 0
  let n := u16 r.payload 2
  r.payload.length = 8 ∧ 1 ≤ n ∧ n ≤ 15 ∧ first + n ≤ 2048 ∧ zeros r.payload 4 4 = true
    ∧ ∀ g ∈ t.units, (s.gather g).idle = true

/-- When VMEM_PIN has its effect (R98). -/
def When.vmemPin (s : State) (r : Req) : Prop :=
  let t := s.target r
  r.payload = [] ∧ (∀ g ∈ t.units, (s.gather g).idle = true)
    ∧ (t.units.all fun g => (s.bodyCtxs g).all fun c => !s.ctxBusy c) = true

/-- When STREAM_OPEN has its effect (R102). -/
def When.streamOpen (s : State) (r : Req) : Prop :=
  let p := r.payload
  let t := s.target r
  let c := u8 p 0
  let mode := u8 p 1
  let base := u64 p 8
  let len := u32 p 16
  let stride := u32 p 20
  let n := if mode == 1 then t.handles.length else 1
  let size := ((n - 1) * stride + len) * 256
  ((mode == 0 && t.cls == cDevice) || (mode == 1 && t.cane.isSome) || mode > 1) = true ∧ r.payload.length = 32 ∧ c < 4
    ∧ 1 ≤ len ∧ len ≤ 33554432 ∧ mode ≤ 1 ∧ u16 p 2 ≠ 0 ∧ base % 256 = 0
    ∧ (if mode == 1 then decide (len ≤ stride) else stride == 0) = true ∧ dramRegionOk base size = true
    ∧ ((slice p 24 8).all fun b => idleSymbol (b.toNat % 16) && idleSymbol (b.toNat / 16)) = true
    ∧ (s.ctx c).isOpen = false ∧ s.bandwidth + u32 p 4 ≤ bandwidthCap

/-- When STREAM_CLOSE has its effect (R104). -/
def When.streamClose (s : State) (r : Req) : Prop :=
  let c := u8 r.payload 0
  r.payload.length = 8 ∧ c < 4 ∧ zeros r.payload 1 7 = true ∧ s.ctxBusy c = false

/-- When STREAM_WRITE has its effect (R104). -/
def When.streamWrite (s : State) (r : Req) : Prop :=
  let c := u8 r.payload 0
  let off := u32 r.payload 4
  let n := (r.payload.length - 8) / 256
  r.payload.length = 8 + 256 * n ∧ 1 ≤ n ∧ n ≤ 15 ∧ c < 4 ∧ off + n ≤ (s.ctx c).span ∧ zeros r.payload 1 3 = true
    ∧ s.ctxBusy c = false

/-- When BCAST_LOAD has its effect (R110). -/
def When.bcastLoad (s : State) (r : Req) : Prop :=
  let t := s.target r
  let p := u8 r.payload 0
  let c := u8 r.payload 1
  let first := u16 r.payload 2
  let n := u16 r.payload 4
  let others := (List.range 4).filter fun q => q != p && (s.prog q).loaded
  let mine := t.locals.filterMap id
  let es := entriesOf r.payload 8 n
  t.cane.isSome = true ∧ r.payload.length = 8 + 16 * n ∧ p < 4 ∧ c < 4 ∧ 1 ≤ n ∧ n ≤ 254 ∧ first + n ≤ 4096
    ∧ (!others.any fun q => overlap first n (s.prog q).first (s.prog q).count) = true ∧ zeros r.payload 6 2 = true
    ∧ (s.ctx c).isOpen = true ∧ (s.ctx c).mode = 0 ∧ firstBad es first (bcastEntryStatus c first n) = none
    ∧ (s.prog p).seq.live = false ∧ (mine.all fun g => (s.gather g).idle) = true
    ∧ (!others.any fun q => mine.any fun g => (s.prog q).members.contains g) = true ∧ s.ctxBusy c (some p) = false

/-- When BCAST_START has its effect (R111). -/
def When.bcastStart (p : Nat) (s : State) (r : Req) : Prop :=
  let t := s.target r
  let start := u16 r.payload 0
  let mode := u8 r.payload 2
  let src := u8 r.payload 3
  let P := s.prog p
  t.cane.bind s.progOf = some p ∧ r.payload.length = 8 ∧ P.first ≤ start ∧ start < P.first + P.count
    ∧ startModeOk mode src 4 = true ∧ zeros r.payload 4 4 = true ∧ P.seq.live = false
    ∧ (∀ g ∈ t.units, (s.gather g).idle = true) ∧ s.bcastChecks p start t.units = stOK
    ∧ (s.startRelease t.units).isSome = true

/-- When BCAST_UNLOAD has its effect (R126). -/
def When.bcastUnload (p : Nat) (s : State) (r : Req) : Prop :=
  let t := s.target r
  t.cane.bind s.progOf = some p ∧ r.payload = [] ∧ (s.prog p).seq.live = false

/-- When STENCIL_LOAD has its effect (R115). -/
def When.stencilLoad (_ : State) (r : Req) : Prop :=
  let first := u16 r.payload 0
  let n := u16 r.payload 2
  let es := (List.range n).map fun i => BitVec.ofNat 288 (leNat r.payload (8 + 36 * i) 36)
  r.payload.length = 8 + 36 * n ∧ 1 ≤ n ∧ n ≤ 112 ∧ first + n ≤ 256 ∧ zeros r.payload 4 4 = true
    ∧ ∀ i ∈ List.range n, stencilStatus (es.getD i 0) = stOK

/-- When STENCIL_CLEAR has its effect (R115). -/
def When.stencilClear (_ : State) (r : Req) : Prop :=
  let first := u16 r.payload 0
  let n := u16 r.payload 2
  r.payload.length = 8 ∧ 1 ≤ n ∧ n ≤ 256 ∧ first + n ≤ 256 ∧ zeros r.payload 4 4 = true

/-- When STREAM_STATUS has its effect (R127). -/
def When.streamStatus (_ : State) (r : Req) : Prop :=
  r.payload = []

/-! ## Ucode -/

/-- When UCODE_LOAD has its effect (R135). -/
def When.ucodeLoad (s : State) (r : Req) : Prop :=
  let t := s.target r
  r.payload.length = 328 ∧ patchPayloadOk r.payload = true ∧ s.tilesIdle t = stOK

/-- When UCODE_CLEAR has its effect (R138). -/
def When.ucodeClear (s : State) (r : Req) : Prop :=
  let t := s.target r
  r.payload = [] ∧ s.tilesIdle t = stOK

/-- When UCODE_QUERY has its effect (R142). -/
def When.ucodeQuery (_ : State) (r : Req) : Prop :=
  r.payload = []

/-- When UCODE_READ has its effect (R142). -/
def When.ucodeRead (_ : State) (r : Req) : Prop :=
  r.payload = []

/-! ## Pins -/

/-- When PIN_CONFIG has its effect (R158). -/
def When.pinConfig (s : State) (r : Req) : Prop :=
  let t := s.target r
  let cfg := w32 r.payload 0
  r.payload.length = 4 ∧ bits cfg.toNat 31 16 = 0 ∧ bits cfg.toNat 7 6 = 0 ∧ bits cfg.toNat 1 0 = 0 ∧ rateOf cfg ≠ 3
    ∧ s.pinsIdle t = stOK
    ∧ (if cfgBreaksClaim cfg && t.units.any fun u => (s.pin (u / 16) (u % 16)).claimed then t.busy stAmpOwned else stOK) = stOK
    ∧ s.pinPower t (·.configure cfg) = stOK

/-- When PIN_LEVELS has its effect (R149). -/
def When.pinLevels (s : State) (r : Req) : Prop :=
  let t := s.target r
  let l := levelsOf r.payload
  r.payload.length = 12 ∧ u16 r.payload 10 = 0 ∧ l.vil ≤ l.vih ∧ l.vol ≤ l.voh
    ∧ [l.vih, l.vil, l.vt].all s.reachable = true ∧ s.clearLow = false ∧ s.pinsIdle t = stOK
    ∧ (s.pinPower t fun x => { x with lvl := l }) = stOK

/-- When PIN_LOAD has its effect (R166). -/
def When.pinLoad (s : State) (r : Req) : Prop :=
  let t := s.target r
  let v := u32 r.payload 0
  let ioh := bits v 25 16
  let iol := bits v 9 0
  let f := fun (x : Pin) => { x with ioh := ioh, iol := iol }
  r.payload.length = 4 ∧ bits v 31 26 = 0 ∧ bits v 15 10 = 0 ∧ ioh ≤ 1000 ∧ iol ≤ 1000 ∧ s.pinsIdle t = stOK
    ∧ s.pinPower t f = stOK

/-- When PIN_CLEAR_CODES has its effect (R156). -/
def When.pinClearCodes (_ : State) (r : Req) : Prop :=
  r.payload.length = 12 ∧ u16 r.payload 10 = 0

/-- When PIN_COMPARATOR has its effect (R172). -/
def When.pinComparator (s : State) (r : Req) : Prop :=
  let t := s.target r
  let v := u32 r.payload 0
  r.payload.length = 4 ∧ bits v 31 6 = 0 ∧ s.pinsIdle t = stOK
    ∧ (s.pinPower t fun x => { x with mode := bits v 1 0 }) = stOK

/-- When PIN_RELEASE has its effect (R161). -/
def When.pinRelease (_ : State) (r : Req) : Prop :=
  let v := u32 r.payload 0
  r.payload.length = 4 ∧ v < 4

/-- When PIN_STATUS has its effect (R168). -/
def When.pinStatus (_ : State) (r : Req) : Prop :=
  r.payload = []

/-- When PIN_READ has its effect (R168). -/
def When.pinRead (_ : State) (r : Req) : Prop :=
  r.payload = []

/-! ## Comparators -/

/-- When SENT_CONFIG has its effect (R176). -/
def When.sentConfig (_ : State) (r : Req) : Prop :=
  r.payload.length = 16 ∧ sentCfgOk (w32 r.payload 0) = true ∧ sentCfgOk (w32 r.payload 8) = true

/-- When SENT_STATUS has its effect (R183). -/
def When.sentStatus (_ : State) (r : Req) : Prop :=
  r.payload = []

/-- When CONTACT_CHECK has its effect (R183). -/
def When.contactCheck (_ : State) (r : Req) : Prop :=
  r.payload = []

/-! ## Smu -/

/-- When SMU_CONFIG has its effect (R194). -/
def When.smuConfig (s : State) (r : Req) : Prop :=
  let t := s.target r
  let cfg := w32 r.payload 0
  let owned := t.units.any fun u =>
    let x := s.smu (u / 4) (u % 4)
    x.pmux && (cfgMode x.cfg != cfgMode cfg || cfgRange x.cfg != cfgRange cfg || cfgSenseLocal x.cfg != cfgSenseLocal cfg ||
      cfgConnect x.cfg != cfgConnect cfg)
  r.payload.length = 4 ∧ bits cfg.toNat 31 16 = 0 ∧ bits cfg.toNat 13 12 = 0 ∧ bits cfg.toNat 9 8 = 0
    ∧ bits cfg.toNat 3 1 = 0 ∧ cfgMode cfg ≠ 3 ∧ s.ranging t = stOK
    ∧ (if owned then t.busy stAmpOwned else stOK) = stOK ∧ (s.smuConfigured t cfg).smuPower t.units = stOK

/-- When SMU_FORCE has its effect (R186). -/
def When.smuForce (s : State) (r : Req) : Prop :=
  let t := s.target r
  let c := codesOf r.payload 0
  r.payload.length = 16 ∧ c.vclLo ≤ c.vclHi ∧ s.smuReach (v18 c.v) = true ∧ s.smuReach (v16 c.vclHi) = true
    ∧ s.smuReach (v16 c.vclLo) = true ∧ u32 r.payload 0 < 262144 ∧ u32 r.payload 4 < 262144 ∧ s.caneEqual t = stOK
    ∧ s.clearLow = false ∧ s.ranging t = stOK ∧ (s.smuForced t c).smuPower t.units = stOK

/-- When SMU_SAFE has its effect (R186). -/
def When.smuSafe (s : State) (r : Req) : Prop :=
  let t := s.target r
  let safe := u32 r.payload 0
  let c := codesOf r.payload 4
  r.payload.length = 20 ∧ c.vclLo ≤ c.vclHi ∧ s.smuReach (v18 (safe % 262144)) = true ∧ s.smuReach (v18 c.v) = true
    ∧ s.smuReach (v16 c.vclHi) = true ∧ s.smuReach (v16 c.vclLo) = true ∧ safe < 262144 ∧ u32 r.payload 4 < 262144
    ∧ u32 r.payload 8 < 262144 ∧ s.caneEqual t = stOK

/-- When SMU_TRIP has its effect (R198). -/
def When.smuTrip (s : State) (r : Req) : Prop :=
  let t := s.target r
  let v := w32 r.payload 0
  let srcOk := match trKind v with | 0 => true | 1 => trSrc v < 2 | 2 => trSrc v < 4 | _ => false
  r.payload.length = 4 ∧ bits v.toNat 31 12 = 0 ∧ bits v.toNat 3 1 = 0 ∧ srcOk = true ∧ s.caneEqual t = stOK

/-- When SMU_MEASURE has its effect (R203). -/
def When.smuMeasure (s : State) (r : Req) : Prop :=
  let t := s.target r
  let mode := u8 r.payload 0
  let n := u32 r.payload 4
  let live := s.liveUnits t
  r.payload.length = 16 ∧ mode ≤ 2 ∧ u8 r.payload 1 ≤ 15 ∧ (mode != 0 || u8 r.payload 1 == 0) = true
    ∧ zeros r.payload 2 2 = true ∧ 1 ≤ n ∧ n ≤ 65536 ∧ s.caneEqual t = stOK ∧ s.ranging t = stOK
    ∧ (live.all fun u => (s.smu (u / 4) (u % 4)).meas.isNone) = true

/-- When SMU_RELEASE has its effect (R199). -/
def When.smuRelease (s : State) (r : Req) : Prop :=
  let t := s.target r
  let v := u32 r.payload 0
  r.payload.length = 4 ∧ v < 4 ∧ s.caneEqual t = stOK

/-- When SMU_STATUS has its effect (R209). -/
def When.smuStatus (s : State) (r : Req) : Prop :=
  let t := s.target r
  r.payload = [] ∧ s.caneEqual t = stOK

/-- When SMU_READ has its effect (R209). -/
def When.smuRead (_ : State) (r : Req) : Prop :=
  r.payload = []

/-! ## Amp -/

/-- When AMP_IDENT has its effect (R244). -/
def When.ampIdent (s : State) (r : Req) : Prop :=
  s.amp.inReset = false ∧ s.amp.noImage = false ∧ r.payload = [] ∧ s.ampOnline = stOK

/-- When AMP_CONNECT has its effect (R215). -/
def When.ampConnect (s : State) (r : Req) : Prop :=
  let t := s.target r
  let src := u8 r.payload 0
  s.amp.inReset = false ∧ s.amp.noImage = false ∧ r.payload.length = 8 ∧ src ≤ 0xD ∧ zeros r.payload 1 7 = true
    ∧ s.ampOnline = stOK ∧ s.ampLive t = stOK

/-- When AMP_DISCONNECT has its effect (R218). -/
def When.ampDisconnect (s : State) (r : Req) : Prop :=
  s.amp.inReset = false ∧ s.amp.noImage = false ∧ r.payload = [] ∧ s.ampOnline = stOK

/-- When AMP_CONVERT has its effect (R226). -/
def When.ampConvert (s : State) (r : Req) : Prop :=
  let t := s.target r
  let p := r.payload
  let mode := u8 p 2
  let live := t.here.filter fun pu => !s.unitSafe t.cls pu.2
  let source := fun u => (s.chan (u / 2) (u % 2)).sourceAhead
  let trigOk := match mode with | 0 => u8 p 3 == 0 | 1 => u8 p 3 ≤ 8 | _ => u8 p 3 ≤ 15
  s.amp.inReset = false ∧ s.amp.noImage = false ∧ r.payload.length = 48 ∧ u8 p 0 ≤ 3 ∧ u8 p 1 ≤ 16 ∧ mode ≤ 2
    ∧ trigOk = true ∧ 1 ≤ u32 p 4 ∧ u32 p 4 ≤ 16777216 ∧ (u32 p 8 == 0) = (mode == 0) ∧ u8 p 12 < 2
    ∧ zeros p 13 3 = true ∧ (t.units.all fun u => sourceRange (source u) (u8 p 0)) = true ∧ s.ampOnline = stOK
    ∧ s.ampLive t = stOK ∧ (live.all fun pu => source pu.2 != 0) = true ∧ (u8 p 12 == 0 || !s.rcptStop) = true

/-- When AMP_BRIDGE has its effect (R232). -/
def When.ampBridge (s : State) (r : Req) : Prop :=
  let t := s.target r
  let p := r.payload
  let mode := u8 p 0
  let value := i32 p 4
  s.amp.inReset = false ∧ s.amp.noImage = false ∧ r.payload.length = 8 ∧ mode ≤ 2 ∧ u8 p 1 ≤ 3 ∧ zeros p 2 2 = true
    ∧ -8388608 ≤ value ∧ value ≤ 8388607
    ∧ (mode != 2 || t.units.all fun g => !overLevel value ((s.bridge g).exc.getD 0)) = true ∧ s.ampOnline = stOK
    ∧ s.ampLive t = stOK ∧ s.clearLow = false

/-- When AMP_BRIDGE_STATUS has its effect (R244). -/
def When.ampBridgeStatus (s : State) (r : Req) : Prop :=
  s.amp.inReset = false ∧ s.amp.noImage = false ∧ r.payload = [] ∧ s.ampOnline = stOK

/-- When AMP_STATUS has its effect (R244). -/
def When.ampStatus (s : State) (r : Req) : Prop :=
  s.amp.inReset = false ∧ s.amp.noImage = false ∧ r.payload = []

/-! ## Seal -/

/-- When AMP_SHEET_CLOSE has its effect (R264). -/
def When.ampSheetClose (s : State) (r : Req) : Prop :=
  let which := match s.openSheet with
    | some x => some x.num
    | none => (s.amp.sheets.filter fun (x : Sheet) => x.close.isSome && x.block.isNone).getLast?.map Sheet.num
  s.amp.inReset = false ∧ s.amp.noImage = false ∧ r.payload = [] ∧ s.ampOnline = stOK ∧ which.isSome = true

/-- When AMP_SHEET_READ has its effect (R270). -/
def When.ampSheetRead (s : State) (r : Req) : Prop :=
  let p := r.payload
  let part := u8 p 4
  let first := u16 p 6
  let count := u16 p 8
  let sheet := s.amp.sheets.find? (·.num == u32 p 0)
  let found := match sheet with
    | some x => if part == 0 then x.block.isSome else first + count ≤ x.entries.length
    | none => false
  s.amp.inReset = false ∧ s.amp.noImage = false ∧ r.payload.length = 16
    ∧ part ≤ 1 ∧ (if part = 0 then count = 0 else 1 ≤ count ∧ count ≤ 31)
    ∧ zeros p 5 1 = true ∧ zeros p 10 6 = true ∧ found = true

/-- When AMP_ADJUST has its effect (R249). -/
def When.ampAdjust (s : State) (r : Req) : Prop :=
  let p := r.payload
  let discard := u8 p 0 == 1
  let cert := u32 p 4
  let busy := s.amp.gathers.any fun g => g.2.chans.any fun c => c.2.run.isSome || !c.2.queue.isEmpty
  s.amp.inReset = false ∧ s.amp.noImage = false ∧ r.mbx.val = 5 ∧ r.payload.length = 40 ∧ u8 p 0 ≤ 1
    ∧ zeros p 1 3 = true ∧ (if discard then cert == 0 else 499000000 ≤ cert && cert ≤ 501000000) = true
    ∧ s.ampOnline = stOK ∧ s.amp.legal = 1 ∧ s.candidateComplete = true ∧ (discard || !busy) = true
    ∧ (discard || s.amp.lec < 0xFFFF_FFFF) = true

/-- When AMP_COUNTER has its effect (R269). -/
def When.ampCounter (s : State) (r : Req) : Prop :=
  s.amp.inReset = false ∧ s.amp.noImage = false ∧ r.payload = []

/-! ## Amp -/

/-- When AMP_REFCHECK has its effect (R590). -/
def When.ampRefcheck (s : State) (r : Req) : Prop :=
  s.amp.inReset = false ∧ s.amp.noImage = false ∧ r.payload = [] ∧ s.ampOnline = stOK

/-! ## Tiu -/

/-- When TIU_CONFIG has its effect (R290). -/
def When.tiuConfig (s : State) (r : Req) : Prop :=
  let t := s.target r
  let cfg := w32 r.payload 0
  let src := w32 r.payload 4
  let cnt := w32 r.payload 8
  r.payload.length = 12 ∧ tiuConfigOk cfg src cnt = true ∧ s.tiusIdle t = stOK

/-- When TIU_START has its effect (R279). -/
def When.tiuStart (s : State) (r : Req) : Prop :=
  let t := s.target r
  let p := r.payload
  let live := s.liveUnits t
  r.payload.length = 24 ∧ u32 p 0 ≠ 0 ∧ u32 p 4 ≠ 0 ∧ i64 p 8 ≤ i64 p 16 ∧ s.tiusIdle t = stOK
    ∧ (t.cane.isSome || !live.isEmpty) = true

/-- When TIU_ABORT has its effect (R288). -/
def When.tiuAbort (_ : State) (r : Req) : Prop :=
  r.payload = []

/-- When TIU_STAMPS has its effect (R294). -/
def When.tiuStamps (s : State) (r : Req) : Prop :=
  let t := s.target r
  let us := if t.cane.isSome then s.liveUnits t else t.units
  let first := u16 r.payload 0
  let n := u16 r.payload 2
  r.payload.length = 8 ∧ (∀ u ∈ us, first ≤ 511 ∧ 1 ≤ n ∧ n ≤ 496 ∧ first + n ≤ (s.tiu (u / 4) (u % 4)).stamps.length)
    ∧ zeros r.payload 4 4 = true ∧ ∀ u ∈ us, (s.tiu (u / 4) (u % 4)).st = .idle

/-- When TIU_STATUS has its effect (R294). -/
def When.tiuStatus (_ : State) (r : Req) : Prop :=
  r.payload = []

/-- When TIU_SELFTEST has its effect (R294). -/
def When.tiuSelftest (s : State) (r : Req) : Prop :=
  let t := s.target r
  let safe := if t.cane.isSome then s.safePos t else []
  let gs := t.tested safe
  let idle := (gs.flatMap fun pg => (List.range 4).map (4 * pg.2 + ·)).filter fun u => (s.tiu (u / 4) (u % 4)).st == .idle
  r.payload = [] ∧ (gs.isEmpty || !idle.isEmpty) = true

/-- When TIU_READ has its effect (R294). -/
def When.tiuRead (_ : State) (r : Req) : Prop :=
  r.payload = []

/-! ## Cap -/

/-- When CAP_CONFIG has its effect (R299). -/
def When.capConfig (s : State) (r : Req) : Prop :=
  let t := s.target r
  let p := r.payload
  r.payload.length = 28 ∧ digConfigOk (w32 p 0) (w32 p 4) (w32 p 12) (w32 p 20) (w32 p 24) = true
    ∧ s.digsIdle t = stOK ∧ s.clearLow = false

/-- When CAP_LIMITS has its effect (R310). -/
def When.capLimits (s : State) (r : Req) : Prop :=
  let t := s.target r
  let p := r.payload
  let lims := (List.range 10).map fun i => (i64 p (8 + 16 * i), i64 p (16 + 16 * i))
  r.payload.length = 168 ∧ u16 p 0 < 1024 ∧ zeros p 2 6 = true ∧ (lims.all fun l => l.1 ≤ l.2) = true
    ∧ s.digsIdle t = stOK

/-- When CAP_ARM has its effect (R303). -/
def When.capArm (s : State) (r : Req) : Prop :=
  let t := s.target r
  let p := r.payload
  let base := u64 p 0
  let size := u64 p 8
  let len := u32 p 16
  let pre := u32 p 20
  let records := u16 p 24
  let live := t.here.filter fun pu => !s.unitSafe t.cls pu.2
  let mm := match live.map (·.2) ++ t.units with | u :: _ => digMinmax (s.dig (u / 2) (u % 2)).cfg | [] => false
  r.payload.length = 40 ∧ 64 ≤ len ∧ len ≤ 67108864 ∧ pre + 64 ≤ len ∧ 1 ≤ records ∧ records ≤ 1024 ∧ u8 p 32 < 2
    ∧ zeros p 33 7 = true ∧ base % 256 = 0 ∧ t.handles.length * records * recordBytes len (itemWidth mm) ≤ size
    ∧ dramRegionOk base size = true ∧ s.regionTaken base size = false ∧ s.bandwidth + u32 p 28 ≤ bandwidthCap
    ∧ s.digsIdle t = stOK ∧ (live.all fun pu => !(s.dig (pu.2 / 2) (pu.2 % 2)).parked) = true ∧ s.digsMixed t = stOK
    ∧ (t.cane.isSome || !live.isEmpty) = true

/-- When CAP_FORCE has its effect (R316). -/
def When.capForce (_ : State) (r : Req) : Prop :=
  r.payload = []

/-- When CAP_ABORT has its effect (R313). -/
def When.capAbort (_ : State) (r : Req) : Prop :=
  r.payload = []

/-- When CAP_STATUS has its effect (R317). -/
def When.capStatus (_ : State) (r : Req) : Prop :=
  r.payload = []

/-- When CAP_HEADER has its effect (R317). -/
def When.capHeader (s : State) (r : Req) : Prop :=
  let t := s.target r
  let k := u16 r.payload 0
  r.payload.length = 4 ∧ (s.recordsOk t k fun _ _ => true) = true ∧ zeros r.payload 2 2 = true

/-- When CAP_READ has its effect (R317). -/
def When.capRead (s : State) (r : Req) : Prop :=
  let t := s.target r
  let p := r.payload
  let k := u16 p 0
  let off := u32 p 4
  let n := u32 p 8
  r.payload.length = 12 ∧ s.recordsOk t k (fun a items => decide (off + n ≤ items * itemWidth a.minmax)) ∧ off % 4 = 0
    ∧ n % 4 = 0 ∧ 4 ≤ n ∧ n ≤ 3840 ∧ zeros p 2 2 = true

/-- When CAP_READ_CFG has its effect (R317). -/
def When.capReadCfg (_ : State) (r : Req) : Prop :=
  r.payload = []

/-! ## Hatch -/

/-- When HATCH_LINE_CONFIG has its effect (R341). -/
def When.hatchLineConfig (keys : List Nat) (s : State) (r : Req) : Prop :=
  let t := s.target r
  let cfg := u32 r.payload 4
  let storm := u32 r.payload 8
  let s' := forAll keys (fun s k => s.setLine k ((s.line k).configure k cfg storm)) s
  r.payload.length = 12 ∧ s.lineTargets t (h16 r.payload 0) = some keys ∧ zeros r.payload 2 2 = true
    ∧ bits cfg 31 9 = 0 ∧ bits cfg 8 7 ≠ 3 ∧ storm / 65536 ≠ 0
    ∧ (!keys.any fun k => isHaltLine k && (bit cfg 0 || bit cfg 6)) = true ∧ s'.asyncLoop = false

/-- When HATCH_PRODUCER has its effect (R321): case 1. -/
def When.hatchProducer (s : State) (r : Req) : Prop :=
  let t := s.target r
  let i := u8 r.payload 0
  let cond := u8 r.payload 1
  let mask := u64 r.payload 4
  t.cls = cGather ∧ r.payload.length = 12 ∧ zeros r.payload 2 2 = true ∧ i ≤ 42
    ∧ (if i < 16 then decide (cond ≤ 3) else cond == 0) = true ∧ mask < 65536
    ∧ (drivesHalt i || !mask.testBit 15) = true

/-- When HATCH_PRODUCER has its effect (R321): case 2. -/
def When.hatchProducer2 (s : State) (r : Req) : Prop :=
  let t := s.target r
  let i := u8 r.payload 0
  let cond := u8 r.payload 1
  let mask := u64 r.payload 4
  t.cls ≠ cGather ∧ r.payload.length = 12 ∧ zeros r.payload 2 2 = true ∧ i ≤ 20 ∧ cond = 0 ∧ mask.testBit 15 = false

/-- When HATCH_FORWARD has its effect (R322): case 1. -/
def When.hatchForward (s : State) (r : Req) : Prop :=
  let t := s.target r
  let p := r.payload
  r.payload.length = 16 ∧ t.cls = cGather ∧ bit (u32 p 0) 31 = false ∧ zeros p 4 12 = true

/-- When HATCH_FORWARD has its effect (R322): case 2. -/
def When.hatchForward2 (s : State) (r : Req) : Prop :=
  let t := s.target r
  let p := r.payload
  r.payload.length = 16 ∧ t.cls ≠ cGather ∧ t.cls = cTile ∧ bit (u64 p 0) 47 = false ∧ zeros p 8 8 = true

/-- When HATCH_FORWARD has its effect (R322): case 3. -/
def When.hatchForward3 (s : State) (r : Req) : Prop :=
  let t := s.target r
  let p := r.payload
  r.payload.length = 16 ∧ t.cls ≠ cGather ∧ t.cls ≠ cTile ∧ cardMasksOk p 0 = true ∧ cardMasksOk p 8 = true

/-- When HATCH_TASK has its effect (R327). -/
def When.hatchTask (s : State) (r : Req) : Prop :=
  let p := r.payload
  let s' := s.setHatch (s.hatch.setTask p)
  r.payload.length = 16 ∧ taskOk p = true ∧ s'.asyncLoop = false

/-- When HATCH_BIND has its effect (R323): case 1. -/
def When.hatchBind (s : State) (r : Req) : Prop :=
  let t := s.target r
  let p := r.payload
  let sel : Tab Nat := (List.range 16).map fun i => (i, u8 p i)
  t.cls = cGather ∧ r.payload.length = 20 ∧ sel.all (fun e => evtOk 0 e.2) = true ∧ u8 p 16 < 8 ∧ zeros p 17 3 = true

/-- When HATCH_BIND has its effect (R323): case 2. -/
def When.hatchBind2 (s : State) (r : Req) : Prop :=
  let t := s.target r
  let p := r.payload
  let sel : Tab Nat := (List.range 16).map fun i => (i, u8 p i)
  t.cls ≠ cGather ∧ r.payload.length = 20 ∧ sel.all (fun e => evtOk 48 e.2) = true ∧ u8 p 16 < 4 ∧ zeros p 17 3 = true

/-- When HATCH_GROUP has its effect (R326). -/
def When.hatchGroup (_ : State) (r : Req) : Prop :=
  let en := u32 r.payload 0
  let dis := u32 r.payload 4
  r.payload.length = 8 ∧ en &&& dis = 0

/-- When HATCH_RESTORE has its effect (R333). -/
def When.hatchRestore (keys : List Nat) (s : State) (r : Req) : Prop :=
  let t := s.target r
  r.payload.length = 4 ∧ s.lineTargets t (h16 r.payload 0) = some keys ∧ zeros r.payload 2 2 = true

/-- When HATCH_PULSE has its effect (R321). -/
def When.hatchPulse (_ : State) (r : Req) : Prop :=
  let d := u8 r.payload 0
  r.payload.length = 4 ∧ d < 64 ∧ d ≠ 15 ∧ zeros r.payload 1 3 = true

/-- When HATCH_STATUS has its effect (R589). -/
def When.hatchStatus (_ : State) (r : Req) : Prop :=
  r.payload.length = 4 ∧ u8 r.payload 0 < 2 ∧ zeros r.payload 1 3 = true

/-! ## Cal -/

/-- When CAL_CONFIG has its effect (R366). -/
def When.calConfig (_ : State) (r : Req) : Prop :=
  let c := w32 r.payload 0
  r.payload.length = 4 ∧ bits c.toNat 31 24 = 0 ∧ 1 ≤ calThresh c ∧ calThresh c ≤ 64

/-- When CAL_PINMASK has its effect (R364). -/
def When.calPinmask (_ : State) (r : Req) : Prop :=
  r.payload.length = 4 ∧ u32 r.payload 0 < 65536

/-- When CAL_RUN has its effect (R344). -/
def When.calRun (_ : State) (r : Req) : Prop :=
  r.payload.length = 4 ∧ u8 r.payload 0 < 2 ∧ zeros r.payload 1 3 = true

/-- When CAL_STATUS has its effect (R366). -/
def When.calStatus (_ : State) (r : Req) : Prop :=
  r.payload = []

/-- When CAL_QUALITY has its effect (R366). -/
def When.calQuality (_ : State) (r : Req) : Prop :=
  r.payload = []

/-- When CAL_STORE has its effect (R362). -/
def When.calStore (_ : State) (r : Req) : Prop :=
  r.payload = []

/-- When CAL_TEMPS has its effect (R366). -/
def When.calTemps (_ : State) (r : Req) : Prop :=
  r.payload = []

/-! ## Net -/

/-- When NET_CONFIG has its effect (R423). -/
def When.netConfig (_ : State) (r : Req) : Prop :=
  let p := r.payload
  let n := u8 p 0
  let fl := u8 p 1
  r.payload.length = 52 ∧ n ≤ 1 ∧ fl ≤ 15 ∧ 1500 ≤ u16 p 2 ∧ u16 p 2 ≤ 9000 ∧ 8 ≤ u8 p 8 ∧ u8 p 8 ≤ 30
    ∧ zeros p 9 3 = true ∧ zeros p 46 2 = true ∧ u16 p 48 ≤ 1000 ∧ u16 p 50 ≤ 1000
    ∧ (!bit fl 2 || 4160 ≤ u16 p 2) = true

/-- When NET_STATUS has its effect (R449). -/
def When.netStatus (_ : State) (r : Req) : Prop :=
  r.payload = []

/-! ## Time -/

/-- When PTP_CONFIG has its effect (R435). -/
def When.ptpConfig (_ : State) (r : Req) : Prop :=
  let p := r.payload
  let c := u32 p 8
  r.payload.length = 12 ∧ (u8 p 0 ≤ 1 || u8 p 0 == 3) = true ∧ u8 p 1 ≤ 127 ∧ u8 p 2 ≤ 3 ∧ u8 p 3 ≤ 2
    ∧ zeros p 4 4 = true ∧ bit c 30 = false ∧ 1 ≤ bits c 29 0 ∧ bits c 29 0 ≤ 1000000000

/-- When TIME_STATUS has its effect (R449). -/
def When.timeStatus (_ : State) (r : Req) : Prop :=
  r.payload = []

/-- When TIME_ADJUST has its effect (R431). -/
def When.timeAdjust (_ : State) (r : Req) : Prop :=
  let v := u64 r.payload 0
  r.payload.length = 8 ∧ incrOk v = true

/-- When TIME_STEP has its effect (R432): case 1. -/
def When.timeStep (s : State) (r : Req) : Prop :=
  let p := r.payload
  let adj := i64 p 0
  let force := bit (u8 p 8) 0
  r.payload.length = 12 ∧ u8 p 8 ≤ 1 ∧ zeros p 9 3 = true ∧ adj.natAbs > s.time.thresh ∧ force = false

/-- When TIME_STEP has its effect (R432): case 2. -/
def When.timeStep2 (s : State) (r : Req) : Prop :=
  let p := r.payload
  let adj := i64 p 0
  let force := bit (u8 p 8) 0
  r.payload.length = 12 ∧ u8 p 8 ≤ 1 ∧ zeros p 9 3 = true ∧ (adj.natAbs > s.time.thresh && !force) = false

/-- When TCMP_ARM has its effect (R438). -/
def When.tcmpArm (_ : State) (r : Req) : Prop :=
  let p := r.payload
  let n := u8 p 0
  let mode := u8 p 1
  let per := u32 p 4
  r.payload.length = 16 ∧ n ≤ 15 ∧ mode ≤ 2 ∧ zeros p 2 2 = true
    ∧ (if mode == 2 then 1000 ≤ per && per ≤ 4000000000 else per == 0) = true

/-- When TCMP_STATUS has its effect (R449). -/
def When.tcmpStatus (_ : State) (r : Req) : Prop :=
  r.payload = []

/-! ## Net -/

/-- When EXPORT_OPEN has its effect (R441). -/
def When.exportOpen (s : State) (r : Req) : Prop :=
  let p := r.payload
  let n := u8 p 0
  r.payload.length = 36 ∧ n ≤ 1 ∧ zeros p 1 1 = true ∧ u16 p 2 < 128 ∧ 4096 ≤ u16 p 4 ∧ u16 p 4 ≤ 8900
    ∧ u16 p 4 ≤ (s.port n).mtu ∧ 1 ≤ u16 p 6 ∧ 1 ≤ u32 p 8 ∧ u32 p 8 ≤ 1250 ∧ 100 ≤ u32 p 12 ∧ u32 p 12 ≤ 1000000
    ∧ zeros p 34 2 = true ∧ s.exporter.isOpen = false ∧ s.bandwidth + u32 p 8 ≤ bandwidthCap

/-- When EXPORT_CLOSE has its effect (R445). -/
def When.exportClose (_ : State) (r : Req) : Prop :=
  r.payload = []

/-- When EXPORT_STATUS has its effect (R449). -/
def When.exportStatus (_ : State) (r : Req) : Prop :=
  r.payload = []

/-- When EXPORT_RESEND has its effect (R443). -/
def When.exportResend (s : State) (r : Req) : Prop :=
  let first := u32 r.payload 0
  let n := u32 r.payload 4
  let held := fun k => s.exporter.held.any (·.seq == (first + k) % 2 ^ 32)
  r.payload.length = 8 ∧ 1 ≤ n ∧ n ≤ 65536 ∧ n ≤ s.exporter.held.length ∧ (List.range n).all held = true

/-! ## Twin -/

/-- When TWIN_CONFIG has its effect (R454). -/
def When.twinConfig (_ : State) (r : Req) : Prop :=
  let p := r.payload
  r.payload.length = 8 ∧ u8 p 0 ≤ 1 ∧ zeros p 1 1 = true ∧ 100 ≤ u16 p 2 ∧ u16 p 2 ≤ 2000
    ∧ 1 ≤ u32 p 4 ∧ u32 p 4 ≤ 10000

/-- When TWIN_STATUS has its effect (R481). -/
def When.twinStatus (_ : State) (r : Req) : Prop :=
  r.payload = []

/-- When TWIN_HALF has its effect (R467). -/
def When.twinHalf (_ : State) (r : Req) : Prop :=
  r.payload.length = 4 ∧ u8 r.payload 0 ≤ 1 ∧ zeros r.payload 1 3 = true

/-- When TWIN_RELEASE has its effect (R469). -/
def When.twinRelease (s : State) (r : Req) : Prop :=
  r.payload = [] ∧ s.twin.st = 3 ∧ s.twin.link = true ∧ s.twin.partner = 4

/-! ## Journal -/

/-- When JRN_CONFIG has its effect (R477). -/
def When.jrnConfig (_ : State) (r : Req) : Prop :=
  let w := w32 r.payload 0
  r.payload.length = 4 ∧ w.toNat < 2

/-- When JRN_CHECKPOINT has its effect (R481). -/
def When.jrnCheckpoint (c : Ckpt) (s : State) (r : Req) : Prop :=
  let p := r.payload
  r.payload.length = 4 ∧ u16 p 0 < 128 ∧ u8 p 2 ≤ 1 ∧ zeros p 3 1 = true
    ∧ (s.site (u16 p 0)).newest (u8 p 2 == 1) = some c

/-- When JRN_MARKERS has its effect (R481). -/
def When.jrnMarkers (_ : State) (r : Req) : Prop :=
  let first := u16 r.payload 0
  let n := u16 r.payload 2
  r.payload.length = 4 ∧ 1 ≤ n ∧ n ≤ 254 ∧ first + n ≤ markerRing

/-- When JRN_REPORT has its effect (R481). -/
def When.jrnReport (_ : State) (r : Req) : Prop :=
  r.payload = []

/-! ## Faults -/

/-- When FLT_READ has its effect (R506). -/
def When.fltRead (s : State) (r : Req) : Prop :=
  let first := u32 r.payload 0
  let n := u16 r.payload 4
  let f := s.faults
  r.payload.length = 8 ∧ 1 ≤ n ∧ n ≤ 127 ∧ first < f.nextSeq ∧ zeros r.payload 6 2 = true

/-- When FLT_ACK has its effect (R506). -/
def When.fltAck (s : State) (r : Req) : Prop :=
  let first := u32 r.payload 0
  let last := u32 r.payload 4
  let f := s.faults
  r.payload.length = 8 ∧ first ≤ last ∧ last < f.nextSeq

/-- When FLT_FORCE has its effect (R500). -/
def When.fltForce (s : State) (r : Req) : Prop :=
  let src := h16 r.payload 0
  let scope := h16 r.payload 2
  let mode := u8 r.payload 4
  let grave := srcClass src ≥ 0xC
  r.payload.length = 12 ∧ srcDefined src = true ∧ mode ≤ 1 ∧ zeros r.payload 5 3 = true
    ∧ scopeClassOk src scope = true ∧ u32 r.payload 8 = (if grave then 0xA55A else 0) ∧ handleOk scope = true
    ∧ scope ≠ 0x8001 ∧ (hClass scope == cGather && (s.localIx scope).isNone && !s.double) = false
    ∧ (srcClass src == 0xD && s.sec.life == lifeProduction) = false

/-- When FLT_CONFIG has its effect (R504). -/
def When.fltConfig (_ : State) (r : Req) : Prop :=
  let v := u32 r.payload 0
  r.payload.length = 4 ∧ bits v 31 9 = 0 ∧ 2 ≤ bits v 8 2 ∧ bits v 8 2 ≤ 100

/-- When FLT_LOG has its effect (R506). -/
def When.fltLog (s : State) (r : Req) : Prop :=
  let first := u32 r.payload 0
  let n := u16 r.payload 4
  r.payload.length = 8 ∧ 1 ≤ n ∧ n ≤ 127 ∧ first < s.faults.log.length ∧ zeros r.payload 6 2 = true

/-- When FLT_RELEASE has its effect (R506). -/
def When.fltRelease (_ : State) (r : Req) : Prop :=
  r.payload = []

/-! ## Sec -/

/-- When SEC_CERT has its effect (R527). -/
def When.secCert (_ : State) (r : Req) : Prop :=
  let role := u8 r.payload 0
  r.payload.length = 4 ∧ zeros r.payload 1 3 = true ∧ role ≤ 2

/-- When SEC_ATTEST has its effect (R525). -/
def When.secAttest (_ : State) (r : Req) : Prop :=
  r.payload.length = 32

/-- When IMG_WRITE has its effect (R522). -/
def When.imgWrite (s : State) (r : Req) : Prop :=
  let p := r.payload
  let t := u8 p 0
  let off := u32 p 4
  let n := p.length - 8
  let k := s.writeSlot t
  let m := r.mbx.val
  12 ≤ p.length ∧ p.length ≤ 4072 ∧ p.length % 4 = 0 ∧ (t > 1 || off + n ≤ slotSize t) = true ∧ t ≤ 1
    ∧ zeros p 1 3 = true ∧ off % 4 = 0 ∧ (off == 0 || (s.session t).isSome) = true
    ∧ ((s.session t).isNone || s.session t == some m) = true ∧ s.sec.running.getD t none ≠ some k ∧ s.sec.life ≠ 4
    ∧ (t == 0 || !s.amp.inReset) = true

/-- When IMG_COMMIT has its effect (R523). -/
def When.imgCommit (s : State) (r : Req) : Prop :=
  let t := u8 r.payload 0
  r.payload.length = 4 ∧ t ≤ 1 ∧ zeros r.payload 1 3 = true ∧ s.sec.life ≠ 4
    ∧ ((s.session t).isNone || s.session t == some r.mbx.val) = true ∧ (s.session t).isSome = true
    ∧ (t == 0 || !s.amp.inReset) = true

/-- When IMG_ACTIVATE has its effect (R524). -/
def When.imgActivate (s : State) (r : Req) : Prop :=
  let p := r.payload
  let t := u8 p 0
  let k := u8 p 1
  let legal := t == 1 && s.sec.life == lifeProduction
  r.payload.length = 4 ∧ t ≤ 1 ∧ k ≤ 1 ∧ u8 p 2 ≤ 1 ∧ zeros p 3 1 = true ∧ (s.slot t k).valid = true ∧ s.sec.life ≠ 4
    ∧ (t == 0 || !s.amp.inReset) = true ∧ (!legal || s.amp.legal == 1) = true
    ∧ (!legal || s.amp.lec < 0xFFFF_FFFF) = true ∧ (t == 0 || !s.anyAmpBusy) = true

/-- When IMG_STATUS has its effect (R527). -/
def When.imgStatus (_ : State) (r : Req) : Prop :=
  r.payload = []

/-- When LC_CHALLENGE has its effect (R513). -/
def When.lcChallenge (_ : State) (r : Req) : Prop :=
  r.payload = []

/-- When LC_CSR has its effect (R510). -/
def When.lcCsr (s : State) (r : Req) : Prop :=
  let role := u8 r.payload 0
  r.payload.length = 4 ∧ (role == 1 || role == 2) = true ∧ zeros r.payload 1 3 = true ∧ s.sec.life = 0
    ∧ (role == 1 || !s.amp.inReset) = true

/-- When LC_INSTALL has its effect (R510). -/
def When.lcInstall (s : State) (r : Req) : Prop :=
  let p := r.payload
  let item := u8 p 0
  let b := p.drop 4
  let lenOk := p.length ≥ 4 && (if item == 0 then b.length == 157 else if item ≤ 2 then b.length ≥ 312 && b.length == 312 + u32 b 308 else true)
  lenOk = true ∧ item ≤ 2 ∧ zeros p 1 3 = true ∧ s.sec.life = 0 ∧ (item != 2 || !s.amp.inReset) = true
    ∧ (match s.sec.root with | none => item == 0 | some x => item != 0 && certOk (rootBytes x) item b) = true

/-- When LC_TRANSITION has its effect (R514): case 1. -/
def When.lcTransition (s : State) (r : Req) : Prop :=
  let p := r.payload
  let target := u8 p 0
  let st := checks [unless' (s.sec.mayGo target) stLifecycle, s.authorised target p]
  (p.length == 8 || p.length == 3708) = true ∧ zeros p 1 3 = true ∧ st ≠ stOK

/-- When LC_TRANSITION has its effect (R514): case 2. -/
def When.lcTransition2 (s : State) (r : Req) : Prop :=
  let p := r.payload
  let target := u8 p 0
  let st := checks [unless' (s.sec.mayGo target) stLifecycle, s.authorised target p]
  (p.length == 8 || p.length == 3708) = true ∧ zeros p 1 3 = true ∧ st = stOK

/-! ## Twin -/

/-- When HEARTBEAT_RECEIVE has its effect (R452). -/
def When.heartbeatReceive (s : State) : Prop :=
  s.twin.link = true

/-- When COUNTERPROOF_LINK_UP has its effect (R450). -/
def When.counterproofLinkUp (s : State) : Prop :=
  s.power.pstate ≠ 3

/-! ## Time -/

/-- When PTP_MESSAGE has its effect (R435). -/
def When.ptpMessage (port : Two) (s : State) : Prop :=
  s.ptpOn port.val = true

/-! ## Chain -/

/-- When MP_TICK has its effect (R392). -/
def When.mpTick (s : State) : Prop :=
  s.processorRuns = true

/-! ## Jtag -/

/-- When JTAG_UPDATE_DR has its effect (R565). -/
def When.jtagUpdateDr (s : State) : Prop :=
  2 ≤ s.tap.toNat ∧ s.tap.toNat ≤ 4

/-! ## Amp -/

/-- When CLIP has its effect (R231). -/
def When.clip (g : GIx) (s : State) : Prop :=
  (s.bridge g).mode = 2

/-! ## Smu -/

/-- When SMU_OUTPUT_SETTLED has its effect (R208). -/
def When.smuOutputSettled (m : Fin 7) (e : Entry) (w : Wait) (t : Tgt) (s : State) : Prop :=
  s.targetOfWaiter m = some (e, w, t) ∧ w.kind = .smuSettle

/-! ## Net -/

/-- When EXPORT_CLOSE_TIMEOUT has its effect (R445). -/
def When.exportCloseTimeout (s : State) : Prop :=
  s.exporter.closing = true ∧ s.passed s.exporter.closeNs (us (3 * s.exporter.rto)) = true

end Sys2Proof.Machine
end

