-- ==== Sys2Proof/Certificates/Slice0/Obligations.lean ====
section
/-!
DEFINITION. The statements about the block. `Obligations.X` says what its docstring says; the terms stand in Safety.lean and
Safety/Conditions.lean.
-/
open Sys2Proof Sys2Proof.Machine

/-- A step runs the command at the front of the queue. Where the spec leaves something open, this is the choice of the model (assumption log 1). -/
def Obligations.StepRunsTheFrontCommand : Prop :=
  ∀ (c : Instr) (rest : List Instr) (s : State), step { s with pending := c :: rest } = exec c { s with pending := rest }

/-- On an empty queue a step is one edge of the timestamp clock, which stands in DORMANT. Where the spec leaves something open, this is the choice of the model (assumption log 2). -/
def Obligations.AnEmptyQueueCountsOneEdge : Prop :=
  ∀ s : State, s.pending = [] → step s = .next s.idle
    ∧ (s.waiters .selftest = [] → s.hatch.inflight = [] → s.idle = s.tick)
    ∧ (s.power.pstate = 3 → s.tick = { s with upNs := s.upNs + 4 })
    ∧ (s.power.pstate ≠ 3 → s.tick = { s with
      upNs := s.upNs + 4
      time := { s.time with net := (s.time.net + s.time.incrNow) % 2 ^ 96, incrNow := s.time.incr } })

/-- No command changes the queue of waiting commands. Where the spec leaves something open, this is the choice of the model (assumption log 1). -/
def Obligations.ExecLeavesTheQueue : Prop :=
  ∀ (c : Instr) (s t : State), exec c s = .next t → t.pending = s.pending

/-- Every command is answered by a next state, in every state. -/
def Obligations.NoCommandStops : Prop :=
  ∀ (c : Instr) (s : State), ∃ t, exec c s = .next t

/-- The state after reset is well formed. -/
def Obligations.ResetIsWellFormed : Prop :=
  State.reset.wf

/-- Every step keeps the state well formed. -/
def Obligations.EveryStepKeepsWellFormed : Prop :=
  ∀ s t : State, s.wf → step s = .next t → t.wf

/-- The counter, the signing indices, the floors and the lifecycle never go back. -/
def Obligations.NothingFallsThatMustNot : Prop :=
  (∀ s t : State, step s = .next t → s.neverFalls t) ∧ ringOrdered State.reset.amp.hssRing ∧ ringOrdered State.reset.sec.hssRing

/-- What reset leaves. Where the spec leaves something open, this is the choice of the model (assumption logs 11, 13, 14, 18). -/
def Obligations.TheStateAfterReset : Prop :=
  State.reset.power.pstate = 0 ∧ State.reset.power.wipe = true ∧ State.reset.canes = []
    ∧ (∀ g, (State.reset.gather g).play.table = [] ∧ (State.reset.gather g).play.tsets = [] ∧ (State.reset.gather g).play.vmem = []
        ∧ (State.reset.gather g).play.stencils = [])
    ∧ State.reset.netNs = 0 ∧ State.reset.time.sync = 0 ∧ State.reset.time.incr = 0x4_0000_0000
    ∧ (∀ n, (State.reset.tcmp n).armed = false) ∧ State.reset.twin.st = 1 ∧ State.reset.twin.solo = false ∧ State.reset.journal.blank = 0
    ∧ State.reset.chain.lead = 4 ∧ State.reset.chain.lag = 4 ∧ State.reset.chain.gap = 20 ∧ State.reset.faults.recs = []

/-- A device reset discards what the mailboxes hold, and the next chain response carries RST. -/
def Obligations.AResetDiscardsTheMailboxes : Prop :=
  ∀ s : State,
    (∀ pulseNs, 1000 ≤ pulseNs → ∃ t, exec (.resetNAssert pulseNs) s = .next t ∧ t.mailboxesEmpty)
    ∧ (∀ vddaoLost, ∃ t, exec (.powerOnReset vddaoLost) s = .next t ∧ t.mailboxesEmpty)
    ∧ (s.power.parked = true → s.power.parkNs + 10000000 ≤ s.upNs → ∃ t, exec .pfailHighExpiry s = .next t ∧ t.mailboxesEmpty)
    ∧ ((∃ d ∈ s.power.resetDue, d.ns + 10000000 ≤ s.upNs) → ∃ t, exec .resetTimer s = .next t ∧ t.mailboxesEmpty)
    ∧ (∀ cause, (s.deviceReset cause).mailboxesEmpty)

/-- What a device reset keeps and what it clears. Where the spec leaves something open, this is the choice of the model (assumption log 83). -/
def Obligations.AResetKeepsWhatItMust : Prop :=
  ∀ s : State, ∃ t, exec (.powerOnReset false) s = .next t
    ∧ t.twin.solo = s.twin.solo ∧ t.twin.st = (if s.twin.solo then 0 else 1)
    ∧ t.faults.log = s.faults.log ∧ t.faults.dLatch = s.faults.dLatch ∧ t.faults.recs = []
    ∧ t.journal.markers = s.journal.markers ∧ t.journal.nextMarker = s.journal.nextMarker
    ∧ t.amp.lec = s.amp.lec ∧ (s.reserving = false → t.amp.hssRing = s.amp.hssRing) ∧ ringGrows s.amp.hssRing t.amp.hssRing
    ∧ t.sec.hssRing = s.sec.hssRing ∧ t.sec.floors = s.sec.floors
    ∧ t.sec.slots = s.sec.slots ∧ t.sec.life = s.sec.life
    ∧ t.netNs = 0 ∧ t.time.sync = 0 ∧ (∀ n, (t.tcmp n).armed = false) ∧ t.power.pstate = 0 ∧ t.power.wipe = true ∧ t.power.cause = 0

/-- A doorbell on a full mailbox is refused with MBX_FULL, or ignored and counted. -/
def Obligations.AFullMailboxRefuses : Prop :=
  (∀ (c : Instr) (op : Half) (accept : List Nat) (r : Req) (s : State), requestOf c = some (op, accept, r) → s.atHead op r = false →
      (s.mailbox r.mbx.val).full → (r.mbx.val = 5 → s.amp.inReset = false) →
      exec c s = .next ((s.doorbellRefused r.mbx.val (refusalEntry op r none stMbxFull)).settled op))
    ∧ (∀ (m : Fin 7) (s : State), (m.val = 0 ∨ m.val = 1 ∨ m.val = 6) → s.power.pstate ≠ 3 → (s.mailbox m.val).full →
      ∃ (op : Half) (r : Req), exec (.mbxDoorbell ⟨m.val, by omega⟩) s = .next (s.doorbellRefused m.val (refusalEntry op r none stMbxFull)))
    ∧ (∀ (s : State) (i : Nat), i < 7 → slice (s.mbxInfo i) 12 4 = toLE 4 (s.mailbox i).ignored.toNat)

/-- While the device starts, mailboxes 0, 1 and 6 answer FW_STARTING. -/
def Obligations.StartingAnswers : Prop :=
  (∀ (c : Instr) (op : Half) (accept : List Nat) (r : Req) (s : State), requestOf c = some (op, accept, r) → s.atHead op r = false →
      (r.mbx.val = 0 ∨ r.mbx.val = 1 ∨ r.mbx.val = 6) → s.power.pstate = 0 → (s.mailbox r.mbx.val).takes = true →
      exec c s = .next ((s.setMbx r.mbx.val { s.mailbox r.mbx.val with
      accepted := (s.mailbox r.mbx.val).accepted + 1
      entries := (s.mailbox r.mbx.val).entries ++ [{ opcode := op, req := r, phase := .formed (mkParts op r.tag 0x0201 false 0 [[]]) }] }).settled op))
    ∧ (∀ (m : Fin 7) (s : State), (m.val = 0 ∨ m.val = 1 ∨ m.val = 6) → s.power.pstate = 0 → (s.mailbox m.val).takes = true →
      ∃ (e : Entry) (t : State), exec (.mbxDoorbell ⟨m.val, by omega⟩) s = .next t
        ∧ e.phase = .formed (mkParts e.opcode e.req.tag 0x0201 false 0 [[]])
        ∧ t = s.setMbx m.val (t.mailbox m.val) ∧ (t.mailbox m.val).entries = (s.mailbox m.val).entries ++ [e] ∧ (t.mailbox m.val).window = [])

/-- A command waits while one before it in its mailbox has no response yet. -/
def Obligations.ALaterCommandWaits : Prop :=
  ∀ (c : Instr) (op : Half) (accept : List Nat) (r : Req) (s : State), requestOf c = some (op, accept, r) → s.atHead op r = false →
    (s.mailbox r.mbx.val).head.isSome = true → s.taking r = true → (s.mailbox r.mbx.val).takes = true →
    ∃ (t : State) (e : Entry), exec c s = .next (t.settled op)
      ∧ (t.mailbox r.mbx.val).head = (s.mailbox r.mbx.val).head
      ∧ (t.mailbox r.mbx.val).entries = (s.mailbox r.mbx.val).entries ++ [e] ∧ e.opcode = op ∧ e.req = r
      ∧ ((∃ bound, e = { s.queuedEntry op r with bound := bound } ∧ t = s.setMbx r.mbx.val { s.mailbox r.mbx.val with
            accepted := (s.mailbox r.mbx.val).accepted + 1, entries := (s.mailbox r.mbx.val).entries ++ [e] })
        ∨ ∃ ps, e.phase = .formed ps ∧ ∀ p ∈ ps, p.status ≠ stOK)

/-- An acknowledgement is taken at offset 0 with the TAG of the part shown, and ignored otherwise. -/
def Obligations.AnAcknowledgementNamesItsPart : Prop :=
  ∀ (m : Fin 8) (offset : BitVec 12) (word : Word) (s : State), m.val < 7 →
    (offset ≠ 0 → exec (.responseAck m offset word) s = .next s)
    ∧ ((s.mailbox m.val).shown = none → exec (.responseAck m offset word) s = .next s)
    ∧ (∀ e p, (s.mailbox m.val).shown = some (e, p) → word ≠ p.tag.setWidth 32 → exec (.responseAck m offset word) s = .next s)
    ∧ (∀ e p, (s.mailbox m.val).shown = some (e, p) → s.power.pstate ≠ 3 →
        (∀ q ps, e.phase = .formed (p :: q :: ps) → exec (.responseAck m 0 (p.tag.setWidth 32)) s = .next ((s.setMbx m.val { s.mailbox m.val with
          entries := { e with phase := .formed (q :: ps) } :: (s.mailbox m.val).entries.tail, sends := 0 }).pumpMbx m.val))
        ∧ (e.phase = .formed [p] → exec (.responseAck m 0 (p.tag.setWidth 32)) s = .next (((s.setMbx m.val { s.mailbox m.val with
          entries := (s.mailbox m.val).entries.tail, sends := 0
          doneXseq := keepXseq (s.mailbox m.val).doneXseq e.xseq }).pumpMbx m.val).afterAck m.val e.opcode p.status)))

/-- A handle of a class that a command does not take is refused with WRONG_CLASS. -/
def Obligations.OtherClassesAreRefused : Prop :=
  ∀ (c : Instr) (op : Half) (accept : List Nat) (r : Req) (s : State), requestOf c = some (op, accept, r) → s.reached op accept r = true →
    s.loaderTakes op r = true → headPasses op r = true → r.target.toNat < 65536 →
    ((handleOk (r.target.setWidth 16) = true ∧ r.target ≠ 0x8001 ∧ hClass (r.target.setWidth 16) ∉ accept)
      ∨ ∃ k, hClass (r.target.setWidth 16) = 0xC ∧ s.cane (hIndex (r.target.setWidth 16)) = some k ∧ k.cls ∉ accept
          ∧ handleOk (r.target.setWidth 16) = true) →
    ∃ bound, exec c s = .next (s.turnedAway op r bound 0x0302)

/-- The target's upper half, invalid handles and the device target are checked. -/
def Obligations.TheTargetFieldIsChecked : Prop :=
  ∀ (c : Instr) (op : Half) (accept : List Nat) (r : Req) (s : State), requestOf c = some (op, accept, r) → s.reached op accept r = true →
    s.loaderTakes op r = true → headPasses op r = true →
    (65536 ≤ r.target.toNat ∨ handleOk (r.target.setWidth 16) = false → ∃ bound, exec c s = .next (s.turnedAway op r bound 0x0301))
    ∧ (accept = [8] → r.target = 0x8001 → ∃ bound, exec c s = .next (s.turnedAway op r bound 0x0206))
    ∧ (accept = [8] → r.target.toNat < 65536 → handleOk (r.target.setWidth 16) = true → hClass (r.target.setWidth 16) ≠ 8 →
        ∃ bound, exec c s = .next (s.turnedAway op r bound 0x0302))

/-- The first envelope check that fails gives the status, and nothing executes. -/
def Obligations.TheEnvelopeRefusesInOrder : Prop :=
  ∀ (c : Instr) (op : Half) (accept : List Nat) (r : Req) (s : State), requestOf c = some (op, accept, r) → s.reached op accept r = true →
    s.loaderTakes op r = true →
    (4076 < r.payload.length → ∃ bound, exec c s = .next (s.turnedAway op r bound stBadEnvelope))
    ∧ (r.payload.length ≤ 4076 → opcodePasses op = true → r.mbx.val ≠ 5 → groupAccepted r.mbx.val op = false →
        ∃ bound, exec c s = .next (s.turnedAway op r bound stWrongMailbox))
    ∧ (r.payload.length ≤ 4076 → opcodePasses op = true → (r.mbx.val = 5 ∨ groupAccepted r.mbx.val op = true) →
        (r.flags.toNat / 2 ≠ 0 ∨ r.rsv ≠ 0) → ∃ bound, exec c s = .next (s.turnedAway op r bound stBadField))
    ∧ (headPasses op r = true → s.targetStatus r.target accept ≠ stOK →
        ∃ bound, exec c s = .next (s.turnedAway op r bound (s.targetStatus r.target accept)))
    ∧ (headPasses op r = true → s.targetStatus r.target accept = stOK → r.mbx.val = 5 → groupOf op ≠ 7 →
        ∃ bound, exec c s = .next (s.turnedAway op r bound stPathRefused))
    ∧ (headPasses op r = true → s.targetStatus r.target accept = stOK → (r.mbx.val = 5 → groupOf op = 7) → s.twin.st = 4 →
        hClass (r.target.setWidth 16) ≠ 8 → groupOf op ≠ 1 → groupOf op ≠ 0xD → groupOf op ≠ 0xE → groupOf op ≠ 0xF →
        ∃ bound, exec c s = .next (s.turnedAway op r bound 0x0206))

/-- In Anneal, and under the recovery loader, a command that is not allowed is refused. -/
def Obligations.AnnealAndTheLoaderRefuse : Prop :=
  ∀ (c : Instr) (op : Half) (accept : List Nat) (r : Req) (s : State), requestOf c = some (op, accept, r) → s.reached op accept r = true → r.mbx.val ≠ 5 →
    (s.loaderTakes op r = false → ∃ bound, exec c s = .next (s.turnedAway op r bound stStarting))
    ∧ (s.loaderTakes op r = true → s.envelope op r accept = stOK → s.annealTakes op r = false →
        ∃ bound, exec c s = .next (s.turnedAway op r bound 0x0701))

/-- TWIN_ABSENT is posted once, after 1 s of PAIRING. -/
def Obligations.TwinAbsentOnce : Prop :=
  ∀ s : State,
    (s.twin.st = 1 → s.twin.absent = false → s.power.resetNs + 1000000000 < s.upNs → ∃ t, exec .twinAbsentTimeout s = .next t
      ∧ t = (s.setTwin { s.twin with absent := true }).advise fTwinAbsent hDevice
      ∧ (t.faults.recs.any (fun x => x.names fTwinAbsent hDevice) = true ∨ t.faults.lost = sat16 s.faults.lost)
      ∧ exec .twinAbsentTimeout t = .next t)
    ∧ (s.twin.st ≠ 1 ∨ s.upNs < s.power.resetNs + 1000000000 → exec .twinAbsentTimeout s = .next s)

/-- A full notification queue counts in EVQ_LOST, and the count is posted when space returns. -/
def Obligations.AFullQueueCountsWhatItLoses : Prop :=
  ∀ (s : State) (e : List Byte),
    (512 ≤ s.hatch.queue.length → s.note e = { s with hatch := { s.hatch with evqLost := sat16 s.hatch.evqLost } })
    ∧ (s.hatch.queue.length < 512 → s.note e = { s with hatch := { s.hatch with queue := queueNote e s.hatch.queue } }
        ∧ ∃ before after, s.hatch.queue = before ++ after ∧ queueNote e s.hatch.queue = before ++ e :: after
            ∧ ∀ x ∈ after, x.drop 8 = e.drop 8 ∧ u16 e 2 < u16 x 2)
    ∧ (s.hatch.evqLost ≠ 0 → s.hatch.queue.length < 512 → exec .evqLostPost s = .next { s with
        hatch := { s.hatch with evqLost := 0, queue := queueNote (noteEntry 5 0 0 false s.hatch.evqLost s.netNs) s.hatch.queue } })
    ∧ (s.hatch.evqLost = 0 ∨ 512 ≤ s.hatch.queue.length → exec .evqLostPost s = .next s)

/-- TIME_ADJUST writes TIME_INCR within ±500 ppm, in force from the next edge. -/
def Obligations.AnIncrementTakesEffectAtTheNextEdge : Prop :=
  (∀ (s : State) (r : Req), s.ready 0x0C05 [8] r = true → r.payload.length = 8 →
      (3998 * 2 ^ 32 ≤ 1000 * u64 r.payload 0 ∧ 1000 * u64 r.payload 0 ≤ 4002 * 2 ^ 32 → ∃ bound t, exec (.timeAdjust r) s = .next t
        ∧ t = { s.begun 0x0C05 r with time := { s.time with incr := u64 r.payload 0 } }.respond r.mbx.val bound (.ok [])
        ∧ t.time.incr = u64 r.payload 0 ∧ t.time.incrNow = s.time.incrNow)
      ∧ (¬ (3998 * 2 ^ 32 ≤ 1000 * u64 r.payload 0 ∧ 1000 * u64 r.payload 0 ≤ 4002 * 2 ^ 32) →
        ∃ bound, exec (.timeAdjust r) s = .next ((s.begun 0x0C05 r).respond r.mbx.val bound (.err stBadField))))
    ∧ (∀ s : State, s.power.pstate ≠ 3 → s.tick.time.incrNow = s.time.incr)
    ∧ State.reset.time.incr = 0x0000_0004_0000_0000

/-- STROKE_LOAD, TSET_LOAD and SEQ_CONFIG are refused while a gather of the target runs. -/
def Obligations.ARunningGatherKeepsItsTables : Prop :=
  ∀ (s : State) (r : Req), (∃ g ∈ (s.target r).units, (s.gather g).idle = false) →
    (s.ready 0x0301 [6, 0xC] r = true → r.payload.length = 8 + 16 * u16 r.payload 2 → 1 ≤ u16 r.payload 2 → u16 r.payload 2 ≤ 254 →
      u16 r.payload 0 + u16 r.payload 2 ≤ 4096 → zeros r.payload 4 4 = true →
      firstBad (entriesOf r.payload 8 (u16 r.payload 2)) (u16 r.payload 0) (fun b => (entOf b).loadStatus false) = none →
      ∃ bound, exec (.strokeLoad r) s = .next ((s.begun 0x0301 r).respond r.mbx.val bound
        (.err (if (s.target r).cane.isSome then 0x0203 else 0x0202))))
    ∧ (s.ready 0x0302 [6, 0xC] r = true → r.payload.length = 464 → u8 r.payload 0 ≤ 31 → zeros r.payload 1 7 = true →
      u64 r.payload 8 < 2 ^ 46 → 64 * 65536 ≤ u64 r.payload 8 →
      (∀ i, i < 16 → (pinTimingOf r.payload (16 + 28 * i)).fmt ≤ 3 ∧ zeros r.payload (17 + 28 * i) 3 = true
        ∧ (pinTimingOf r.payload (16 + 28 * i)).bad (u64 r.payload 8) = false) →
      ∃ bound, exec (.tsetLoad r) s = .next ((s.begun 0x0302 r).respond r.mbx.val bound
        (.err (if (s.target r).cane.isSome then 0x0203 else 0x0202))))
    ∧ (s.ready 0x0307 [6, 0xC] r = true → r.payload.length = 8 → zeros r.payload 2 2 = true →
      (∀ p, p < 16 → bits (w32 r.payload 4).toNat (2 * p + 1) (2 * p) ≠ 3) →
      ∃ bound, exec (.seqConfig r) s = .next ((s.begun 0x0307 r).respond r.mbx.val bound
        (.err (if (s.target r).cane.isSome then 0x0203 else 0x0202))))

/-- LC_TRANSITION goes one state on with its authorisation, and is refused otherwise. -/
def Obligations.OnlyTheTransitionsOfTheTable : Prop :=
  ∀ (s : State) (r : Req), s.ready 0x0F0A [8] r = true → (r.payload.length = 8 ∨ r.payload.length = 3708) → zeros r.payload 1 3 = true →
    ((¬ (u8 r.payload 0 = s.sec.life + 1 ∧ u8 r.payload 0 ≤ 4) ∨ s.sec.mayGo (u8 r.payload 0) = false) →
      ∃ bound, exec (.lcTransition r) s = .next ({ s.begun 0x0F0A r with sec := { s.sec with challenge := none } }.respond r.mbx.val bound (.err 0x0503)))
    ∧ (s.sec.mayGo (u8 r.payload 0) = true → s.authorised (u8 r.payload 0) r.payload ≠ stOK →
      (s.authorised (u8 r.payload 0) r.payload = 0x0503 ∨ s.authorised (u8 r.payload 0) r.payload = 0x0504)
      ∧ (s.sec.life ≠ 2 → s.authorised (u8 r.payload 0) r.payload = 0x0503)
      ∧ ∃ bound, exec (.lcTransition r) s = .next ({ s.begun 0x0F0A r with sec := { s.sec with challenge := none } }.respond r.mbx.val bound
          (.err (s.authorised (u8 r.payload 0) r.payload))))
    ∧ (s.sec.mayGo (u8 r.payload 0) = true → s.authorised (u8 r.payload 0) r.payload = stOK → s.lifeBusy = false →
      ∃ t, exec (.lcTransition r) s = .next t ∧ t.sec.life = s.sec.life + 1 ∧ t.sec.life = u8 r.payload 0
        ∧ { code := 3, mbx := r.mbx.val, ns := s.upNs } ∈ t.power.resetDue)

/-- A record that finds no slot replaces the oldest of class A, or is counted. -/
def Obligations.AFullCollectorReplacesOrCounts : Prop :=
  ∀ (f : Faults) (src scope : Half) (detail : Word) (real react : Bool) (tick : Word) (ns : Nat),
    let f' := f.enter src scope detail real react tick ns
    (f.recs.any (fun r => r.names src scope) = true → f'.recs.length = f.recs.length ∧ f'.lost = f.lost ∧ f'.nextSeq = f.nextSeq)
    ∧ (f.recs.any (fun r => r.names src scope) = false → f.recs.length < 256 →
        ∃ r, f'.recs = f.recs ++ [r] ∧ r.src = src ∧ r.scope = scope ∧ r.seq = f.nextSeq ∧ f'.nextSeq = f.nextSeq + 1)
    ∧ (f.recs.any (fun r => r.names src scope) = false → 256 ≤ f.recs.length → (∀ r ∈ f.recs, srcClass r.src ≠ 0xA) →
        f'.recs = f.recs ∧ f'.lost = sat16 f.lost ∧ f'.nextSeq = f.nextSeq)
    ∧ (∀ a b x, f.recs = a ++ x :: b → (∀ r ∈ a, srcClass r.src ≠ 0xA) → srcClass x.src = 0xA →
        f.recs.any (fun r => r.names src scope) = false → 256 ≤ f.recs.length →
        ∃ r, f'.recs = a ++ b ++ [r] ∧ r.src = src ∧ r.scope = scope ∧ r.seq = f.nextSeq ∧ f'.lost = f.lost)

/-- A read of LO holds HI, and a read of HI gives what was held. -/
def Obligations.APairIsReadWhole : Prop :=
  ∀ (s : State) (a : BitVec 12) (v : Nat), s.pair a.toNat = some v → s.notAvailable .front a.toNat = false →
    (∃ t, exec (.holdingWordRead .front a) s = .next t ∧ t.chain.readData = wordOf v
      ∧ Tab.get 0 t.chain.front.holding (a.toNat + 4) = wordOf (v / 2 ^ 32)
      ∧ ∀ u : State, u.chain.front.holding = t.chain.front.holding → u.notAvailable .front (a.toNat + 4) = false →
          ∃ w, exec (.holdingWordRead .front (a + 4)) u = .next w ∧ w.chain.readData = wordOf (v / 2 ^ 32))
    ∧ Tab.get 0 State.reset.chain.front.holding (a.toNat + 4) = 0

/-- With the legal event counter at 0xFFFFFFFF a COMMIT is refused with COUNTER_FULL. -/
def Obligations.CommitAtTheTopIsRefused : Prop :=
  ∀ (s : State) (r : Req), s.ready 0x070A [8] r = true → r.mbx.val = 5 → s.amp.inReset = false → s.amp.noImage = false → r.payload.length = 40 →
    u8 r.payload 0 = 0 → zeros r.payload 1 3 = true → 499000000 ≤ u32 r.payload 4 → u32 r.payload 4 ≤ 501000000 → s.ampOnline = stOK →
    s.amp.legal = 1 → s.candidateComplete = true →
    s.amp.gathers.any (fun g => g.2.chans.any fun c => c.2.run.isSome || !c.2.queue.isEmpty) = false → s.amp.lec = 0xFFFF_FFFF →
    ∃ bound count, exec (.ampAdjust r) s = .next ({ s.begun 0x070A r with amp := { s.amp with refusals := count } }.respond r.mbx.val bound (.err 0x0407))

/-- A command that only reads changes its mailbox and what its response causes, nothing else. -/
def Obligations.ReadingCommandsChangeNothingElse : Prop :=
  (∀ command ∈ ([.sysPing, .sysInfo, .sysMbxInfo, .sysFence, .unitInfo, .caneQuery, .caneList, .strokeStatus, .strokeRead, .vmemRead,
      .streamStatus, .ucodeQuery, .ucodeRead, .pinStatus, .pinRead, .contactCheck, .smuStatus, .smuRead, .ampIdent,
      .ampBridgeStatus, .ampStatus, .ampSheetRead, .ampCounter, .tiuStamps, .tiuStatus, .tiuRead, .capStatus, .capHeader,
      .capRead, .capReadCfg, .calStatus, .calQuality, .calTemps, .netStatus, .exportStatus, .timeStatus, .tcmpStatus,
      .jrnCheckpoint, .jrnMarkers, .fltRead, .fltLog, .secCert, .imgStatus] : List (Req → Instr)), ∀ (r : Req) (s t : State), exec (command r) s = .next t →
      t = { s with amp := { s.amp with refusals := t.amp.refusals }, faults := t.faults, freeCount := t.freeCount, mbx := t.mbx, ports := t.ports, twin := { s.twin with turnWanted := t.twin.turnWanted, turnDueNs := t.twin.turnDueNs, out := t.twin.out } })

/-- A command on gathers' tables, pins, units and instruments changes no other part of the device. -/
def Obligations.GatherCommandsChangeGathersOnly : Prop :=
  (∀ command ∈ ([.strokeLoad, .tsetLoad, .seqConfig, .vmemWrite, .vmemPin, .stencilLoad, .stencilClear, .sentStatus, .smuMeasure, .tiuStart,
      .capForce] : List (Req → Instr)), ∀ (r : Req) (s t : State), exec (command r) s = .next t →
      t = { s with amp := { s.amp with refusals := t.amp.refusals }, faults := t.faults, freeCount := t.freeCount, mbx := t.mbx, ports := t.ports, gathers := t.gathers, power := { s.power with pstate := t.power.pstate }, twin := t.twin })
    ∧ (∀ command ∈ ([.pinLevels, .pinLoad, .pinClearCodes, .smuSafe, .tiuConfig, .capConfig, .capLimits, .capArm] : List (Req → Instr)), ∀ (r : Req) (s t : State), exec (command r) s = .next t →
      t = { s with amp := { s.amp with refusals := t.amp.refusals }, faults := t.faults, freeCount := t.freeCount, mbx := t.mbx, ports := t.ports, gathers := t.gathers, cal := t.cal, power := { s.power with pstate := t.power.pstate }, twin := t.twin })
    ∧ (∀ command ∈ ([.pinComparator, .smuForce] : List (Req → Instr)), ∀ (r : Req) (s t : State), exec (command r) s = .next t →
      t = { s with amp := t.amp, faults := t.faults, freeCount := t.freeCount, mbx := t.mbx, ports := t.ports, gathers := t.gathers, cal := t.cal, power := { s.power with pstate := t.power.pstate }, twin := t.twin })

/-- A command on a part of the device changes that part and no other. -/
def Obligations.DeviceSettingsChangeTheirOwnPart : Prop :=
  (∀ command ∈ ([.caneDefine, .caneDelete] : List (Req → Instr)), ∀ (r : Req) (s t : State), exec (command r) s = .next t →
      t = { s with amp := { s.amp with refusals := t.amp.refusals }, faults := t.faults, freeCount := t.freeCount, mbx := t.mbx, ports := t.ports, canes := t.canes, twin := t.twin })
    ∧ (∀ command ∈ ([.caneMask] : List (Req → Instr)), ∀ (r : Req) (s t : State), exec (command r) s = .next t →
      t = { s with amp := { s.amp with refusals := t.amp.refusals }, faults := t.faults, freeCount := t.freeCount, mbx := t.mbx, ports := t.ports, canes := t.canes, gathers := t.gathers, twin := t.twin })
    ∧ (∀ command ∈ ([.streamOpen, .streamClose] : List (Req → Instr)), ∀ (r : Req) (s t : State), exec (command r) s = .next t →
      t = { s with amp := { s.amp with refusals := t.amp.refusals }, faults := t.faults, freeCount := t.freeCount, mbx := t.mbx, ports := t.ports, ctxs := t.ctxs, twin := t.twin })
    ∧ (∀ command ∈ ([.streamWrite] : List (Req → Instr)), ∀ (r : Req) (s t : State), exec (command r) s = .next t →
      t = { s with amp := { s.amp with refusals := t.amp.refusals }, faults := t.faults, freeCount := t.freeCount, mbx := t.mbx, ports := t.ports, dram := t.dram, twin := t.twin })
    ∧ (∀ command ∈ ([.bcastLoad] : List (Req → Instr)), ∀ (r : Req) (s t : State), exec (command r) s = .next t →
      t = { s with amp := { s.amp with refusals := t.amp.refusals }, faults := t.faults, freeCount := t.freeCount, mbx := t.mbx, ports := t.ports, bcTable := t.bcTable, gathers := t.gathers, progs := t.progs, twin := t.twin })
    ∧ (∀ command ∈ ([.ucodeLoad] : List (Req → Instr)), ∀ (r : Req) (s t : State), exec (command r) s = .next t →
      t = { s with amp := { s.amp with refusals := t.amp.refusals }, faults := t.faults, freeCount := t.freeCount, mbx := t.mbx, ports := t.ports, patches := t.patches, gathers := t.gathers, twin := t.twin })
    ∧ (∀ command ∈ ([.ucodeClear] : List (Req → Instr)), ∀ (r : Req) (s t : State), exec (command r) s = .next t →
      t = { s with amp := { s.amp with refusals := t.amp.refusals }, faults := t.faults, freeCount := t.freeCount, mbx := t.mbx, ports := t.ports, patches := t.patches, twin := t.twin })
    ∧ (∀ command ∈ ([.hatchStatus] : List (Req → Instr)), ∀ (r : Req) (s t : State), exec (command r) s = .next t →
      t = { s with amp := { s.amp with refusals := t.amp.refusals }, faults := t.faults, freeCount := t.freeCount, mbx := t.mbx, ports := t.ports, hatch := t.hatch, twin := t.twin })
    ∧ (∀ command ∈ ([.calConfig, .calPinmask, .calRun, .calStore] : List (Req → Instr)), ∀ (r : Req) (s t : State), exec (command r) s = .next t →
      t = { s with amp := { s.amp with refusals := t.amp.refusals }, faults := t.faults, freeCount := t.freeCount, mbx := t.mbx, ports := t.ports, cal := t.cal, twin := t.twin })
    ∧ (∀ command ∈ ([.ptpConfig, .timeAdjust] : List (Req → Instr)), ∀ (r : Req) (s t : State), exec (command r) s = .next t →
      t = { s with amp := { s.amp with refusals := t.amp.refusals }, faults := t.faults, freeCount := t.freeCount, mbx := t.mbx, ports := t.ports, time := t.time, twin := t.twin })
    ∧ (∀ command ∈ ([.exportOpen, .exportClose, .exportResend] : List (Req → Instr)), ∀ (r : Req) (s t : State), exec (command r) s = .next t →
      t = { s with amp := { s.amp with refusals := t.amp.refusals }, faults := t.faults, freeCount := t.freeCount, mbx := t.mbx, ports := t.ports, exporter := t.exporter, twin := t.twin })
    ∧ (∀ command ∈ ([.jrnConfig, .jrnReport] : List (Req → Instr)), ∀ (r : Req) (s t : State), exec (command r) s = .next t →
      t = { s with amp := { s.amp with refusals := t.amp.refusals }, faults := t.faults, freeCount := t.freeCount, mbx := t.mbx, ports := t.ports, journal := t.journal, twin := t.twin })

/-- Power, twin, fault, Ampoule and security commands leave the rest of the device as it is. -/
def Obligations.PowerAmpouleAndSecurityCommandsKeepTheRest : Prop :=
  (∀ command ∈ ([.sysReset, .sysPower] : List (Req → Instr)), ∀ (r : Req) (s t : State), exec (command r) s = .next t →
      t = { s with amp := { s.amp with refusals := t.amp.refusals }, faults := t.faults, freeCount := t.freeCount, mbx := t.mbx, ports := t.ports, power := t.power, twin := t.twin })
    ∧ (∀ command ∈ ([.twinHalf, .twinStatus] : List (Req → Instr)), ∀ (r : Req) (s t : State), exec (command r) s = .next t →
      t = { s with amp := { s.amp with refusals := t.amp.refusals }, faults := t.faults, freeCount := t.freeCount, mbx := t.mbx, ports := t.ports, twin := t.twin })
    ∧ (∀ command ∈ ([.twinConfig, .twinRelease] : List (Req → Instr)), ∀ (r : Req) (s t : State), exec (command r) s = .next t →
      t = { s with amp := { s.amp with refusals := t.amp.refusals }, faults := t.faults, freeCount := t.freeCount, mbx := t.mbx, ports := t.ports, twin := t.twin })
    ∧ (∀ command ∈ ([.netConfig] : List (Req → Instr)), ∀ (r : Req) (s t : State), exec (command r) s = .next t →
      t = { s with amp := { s.amp with refusals := t.amp.refusals }, faults := t.faults, freeCount := t.freeCount, mbx := t.mbx, ports := t.ports, twin := t.twin })
    ∧ (∀ command ∈ ([.fltAck, .fltConfig] : List (Req → Instr)), ∀ (r : Req) (s t : State), exec (command r) s = .next t →
      t = { s with amp := { s.amp with refusals := t.amp.refusals }, faults := t.faults, freeCount := t.freeCount, mbx := t.mbx, ports := t.ports, twin := t.twin })
    ∧ (∀ command ∈ ([.ampRefcheck, .ampSheetClose, .ampAdjust] : List (Req → Instr)), ∀ (r : Req) (s t : State), exec (command r) s = .next t →
      t = { s with amp := t.amp, faults := t.faults, freeCount := t.freeCount, mbx := t.mbx, ports := t.ports, twin := t.twin })
    ∧ (∀ command ∈ ([.secAttest, .imgWrite, .imgCommit, .lcChallenge, .lcInstall] : List (Req → Instr)), ∀ (r : Req) (s t : State), exec (command r) s = .next t →
      t = { s with amp := { s.amp with refusals := t.amp.refusals }, faults := t.faults, freeCount := t.freeCount, mbx := t.mbx, ports := t.ports, sec := t.sec, twin := t.twin })
    ∧ (∀ command ∈ ([.lcTransition] : List (Req → Instr)), ∀ (r : Req) (s t : State), exec (command r) s = .next t →
      t = { s with amp := t.amp, faults := t.faults, freeCount := t.freeCount, mbx := t.mbx, ports := t.ports, sec := t.sec, power := t.power, twin := t.twin })
    ∧ (∀ command ∈ ([.imgActivate, .lcCsr] : List (Req → Instr)), ∀ (r : Req) (s t : State), exec (command r) s = .next t →
      t = { s with amp := t.amp, faults := t.faults, freeCount := t.freeCount, mbx := t.mbx, ports := t.ports, sec := t.sec, twin := t.twin })

/-- Commands that start, halt, bind and release leave tables, memory, chain port and security as they are. -/
def Obligations.CommandsThatRunThingsKeepTheTables : Prop :=
  ∀ command ∈ ([.strokeStart, .strokeHalt, .bcastStart, .bcastUnload, .pinConfig, .pinRelease, .sentConfig, .smuConfig, .smuTrip,
      .smuRelease, .ampConnect, .ampDisconnect, .ampBridge, .ampConvert, .tiuAbort, .hatchLineConfig, .hatchProducer,
      .hatchForward, .hatchTask, .hatchBind, .hatchGroup, .hatchRestore, .hatchPulse, .timeStep, .tcmpArm, .fltRelease] : List (Req → Instr)), ∀ (r : Req) (s t : State), exec (command r) s = .next t →
      (t.bcTable, t.ctxs, t.patches, t.canes, t.outbox, t.chain, t.upNs, t.dram, t.clearLow, t.tref, t.sec, t.jtag) =
      (s.bcTable, s.ctxs, s.patches, s.canes, s.outbox, s.chain, s.upNs, s.dram, s.clearLow, s.tref, s.sec, s.jtag)

/-- Events change the parts they are about and no other. -/
def Obligations.EventsKeepWhatTheyDoNotName : Prop :=
  (∀ (s t : State), (∀ p a, exec (.holdingWordRead p a) s = .next t → t = { s with chain := t.chain })
        ∧ (∀ p, exec (.timeSnapRead p) s = .next t → t = { s with chain := t.chain })
        ∧ (∀ cells, exec (.jtagUpdateDr cells) s = .next t → t = { s with jtag := t.jtag })
        ∧ (∀ ir, exec (.jtagUpdateIr ir) s = .next t → t = { s with jtag := t.jtag })
        ∧ (exec .jtagTestLogicReset s = .next t → t = { s with jtag := t.jtag })
        ∧ (exec .clearNRelease s = .next t → t = { s with clearLow := t.clearLow })
        ∧ (exec .wipeEnd s = .next t → t = { s with power := t.power })
        ∧ (exec .mpTick s = .next t → t = { s with power := t.power })
        ∧ (exec .syncTimeout s = .next t → t = { s with time := t.time })
        ∧ (∀ p m, exec (.ptpMessage p m) s = .next t →
          (t.mbx, t.outbox, t.chain, t.canes, t.dram, t.amp, t.twin, t.sec) = (s.mbx, s.outbox, s.chain, s.canes, s.dram, s.amp, s.twin, s.sec))
        ∧ (∀ p, exec (.ethLinkLoss p) s = .next t → t = { s with faults := t.faults, freeCount := t.freeCount, ports := t.ports })
        ∧ (∀ o w, exec (.notifyBatchAck o w) s = .next t → t = { s with outbox := t.outbox })
        ∧ (exec .evqLostPost s = .next t → t = { s with hatch := t.hatch })
        ∧ (exec .hosBeacon s = .next t → t = { s with twin := t.twin })
        ∧ (exec .heartbeatSend s = .next t → t = { s with twin := t.twin })
        ∧ (exec .twinAbsentTimeout s = .next t → t = { s with faults := t.faults, freeCount := t.freeCount, twin := t.twin })
        ∧ (exec .faultLogWrite s = .next t → t = { s with faults := t.faults })
        ∧ (exec .calStoreDataDone s = .next t → t = { s with cal := t.cal })
        ∧ (exec .tuclkWrap s = .next t → t = { s with tref := t.tref })
        ∧ (exec .level1TreeDone s = .next t → t = { s with amp := t.amp })
        ∧ (exec .sealOpen s = .next t → t = { s with amp := t.amp }))

/-- STREAM_WRITE and VMEM_WRITE store their bytes where they are told, and nowhere else. -/
def Obligations.AStoreTouchesOnlyItsBytes : Prop :=
  (∀ (s t : State) (r : Req), Mem.wf s.dram = true → exec (.streamWrite r) s = .next t → ∀ a,
      let lo := (s.ctx (u8 r.payload 0)).base + u32 r.payload 4 * 256
      (a < lo ∨ lo + (r.payload.length - 8) ≤ a → Mem.read t.dram a = Mem.read s.dram a)
      ∧ (s.ready 0x0406 [8] r = true → When.streamWrite (s.begun 0x0406 r) r → lo ≤ a → a < lo + (r.payload.length - 8) →
          Mem.read t.dram a = (r.payload.drop 8).getD (a - lo) 0))
    ∧ (∀ (s t : State) (r : Req), exec (.vmemWrite r) s = .next t → ∀ g k,
      (g ∉ (s.target r).units ∨ k < u16 r.payload 0 ∨ u16 r.payload 0 + u16 r.payload 2 ≤ k →
          Tab.get [] (t.gather g).play.vmem k = Tab.get [] (s.gather g).play.vmem k)
      ∧ (s.ready 0x0401 [6, 0xC] r = true → When.vmemWrite (s.begun 0x0401 r) r → g ∈ (s.target r).units → u16 r.payload 0 ≤ k →
          k < u16 r.payload 0 + u16 r.payload 2 →
          Tab.get [] (t.gather g).play.vmem k = slice r.payload (8 + 256 * (k - u16 r.payload 0)) 256))

/-- Loading tables touches no gather outside the command's target. -/
def Obligations.AGatherOutsideTheTargetIsUntouched : Prop :=
  ∀ command ∈ ([.strokeLoad, .tsetLoad, .seqConfig, .vmemWrite, .vmemPin, .stencilLoad, .stencilClear] : List (Req → Instr)), ∀ (r : Req) (s t : State), exec (command r) s = .next t →
      ∀ g, g ∉ (s.target r).units → t.gather g = s.gather g

/-- The SYS and UNIT/CANE commands complete with the effects their chapters give. Where the spec leaves something open, this is the choice of the model (assumption logs 8, 72, 73, 79, 96). -/
def Obligations.SysAndCaneCommandsComplete : Prop :=
  (Completes 0x0101 [8] (us 50) .sysPing (fun _ _ => True) fun s r =>
        (s, .ok r.payload))
    ∧ (Completes 0x0102 [8] (us 20) .sysInfo When.sysInfo fun s _ =>
        (s, .ok s.infoBytes))
    ∧ (Completes 0x0103 [8] (us 20) .sysMbxInfo When.sysMbxInfo fun s _ =>
        (s, .ok ((List.range 8).flatMap s.mbxInfo)))
    ∧ (CompletesIn 0x0104 [8] (fun s r => s.fenceBound r) .sysFence When.sysFence fun s r =>
        let mask := u8 r.payload 0
        let ms := fenced mask r.mbx.val
        let counts := ms.map fun m => (s.mailbox m).accepted.toNat
        if (ms.zip counts).all fun un => (s.mailbox un.1).passed un.2 then (s, .ok) else (s, .wait { kind := .fence, units := ms, nums := counts }))
    ∧ (Completes 0x0105 [8] (us 100) .sysReset When.sysReset fun s r =>
        ({ s with power := s.power.resetBy 2 r.mbx.val s.upNs }, .ok))
    ∧ (Completes 0x0106 [8] (us 100) .sysPower When.sysPower fun s r =>
        let st := u8 r.payload 0
        let due : Due := { code := if st == s.power.pstate then 0 else st, mbx := r.mbx.val, ns := s.upNs }
        ({ s with power := { s.power with stateDue := s.power.stateDue ++ [due] } }, .ok (toLE 4 s.pwrStatus)))
    ∧ (Completes 0x0106 [8] (us 100) .sysPower When.sysPower2 fun s r =>
        let st := u8 r.payload 0
        let due : Due := { code := if st == s.power.pstate then 0 else st, mbx := r.mbx.val, ns := s.upNs }
        let s := if st == 3 && s.twin.st == 2 then s.linkSend .dormant else s
        ({ s with power := { s.power with stateDue := s.power.stateDue ++ [due] } }, .ok (toLE 4 s.pwrStatus)))
    ∧ (Completes 0x0201 [0, 1, 2, 3, 4, 5, 6, 7, 8, 9, 0xC] (us 20) .unitInfo When.unitInfo fun s r =>
        let h : Half := r.target.setWidth 16
        let cls := hClass h
        let u := (s.localIx h).getD 0
        let g := if cls < 7 then unitGather cls u else 0xFFFF
        let tile := if cls < 7 then tileOf g else if cls == cTile then hIndex h else 0xFF
        let b := toLE 1 cls ++ toLE 1 (s.unitState cls u) ++ toLE 2 (hIndex h) ++ toLE 2 g ++ toLE 1 tile ++ toLE 1 (b2n (cls == cBridge || cls == cAdc))
        (s, .done (if cls == 0xC then s.caneReply (s.target r) b else Reply.ok b)))
    ∧ (∀ (hs : List Half) (depth : Nat), CompletesIn 0x0202 [8] (fun _ r => if bit (u8 r.payload 3) 1 then us 350 else us 300) .caneDefine (When.caneDefine hs depth) fun s r =>
        let i := (defined r).1
        let c := (defined r).2
        (s.putCane i c, .ok (toLE 2 hs.length ++ toLE 2 depth)))
    ∧ (CompletesIn 0x0203 [0, 1, 2, 3, 4, 5, 6, 7, 0xC] (fun s r => s.caneBound r) .caneDelete When.caneDelete fun s r =>
        let i := reqCane r
        (s.changeCane i fun t => Tab.del t i, .done (s.caneReply (s.target r) [])))
    ∧ (∀ (c : Cane), Completes 0x0204 [0, 1, 2, 3, 4, 5, 6, 7, 0xC] (us 300) .caneQuery (When.caneQuery c) fun s r =>
        let i := reqCane r
        let hs := s.flat i
        (s, .done (s.caneReply (s.target r) (toLE 2 (caneHandle i).toNat ++ toLE 1 c.cls ++ toLE 1 (b2n c.gang + 2 * b2n c.twinSpan) ++ toLE 2 c.members.length
          ++ toLE 2 hs.length ++ toLE 2 (s.caneRefs i) ++ toLE 2 c.masked.length ++ c.members.flatMap (fun h => toLE 2 h.toNat)
          ++ hs.flatMap (fun h => toLE 2 h.toNat) ++ maskBytes hs.length c.masked))))
    ∧ (∀ (c : Cane), CompletesIn 0x0205 [0, 1, 2, 3, 4, 5, 6, 7, 0xC] (fun s r => s.caneBound r) .caneMask (When.caneMask c) fun s r =>
        let i := reqCane r
        let set := (List.range (8 * r.payload.length)).filter (mapBit r.payload)
        let s := s.changeCane i fun t => Tab.put t i { c with masked := set }
        let s := s.gangPlaces { gang := c.gang, masked := set, locals := (s.flat i).map s.localIx } false
        (s, .done (s.caneReply (s.target r) (toLE 2 set.length))))
    ∧ (Completes 0x0206 [8] (us 20) .caneList When.caneList fun s _ =>
        (s, .ok (bitmap 32 fun i => (s.cane i).isSome)))

/-- The STROKE commands complete with the effects their chapters give. Where the spec leaves something open, this is the choice of the model (assumption logs 7, 29, 32, 121). -/
def Obligations.StrokeCommandsComplete : Prop :=
  (Completes 0x0301 [6, 0xC] (us 200) .strokeLoad When.strokeLoad fun s r =>
        let t := s.target r
        let first := u16 r.payload 0
        let n := u16 r.payload 2
        let es := entriesOf r.payload 8 n
        let named := fun a => es.any fun b => (entOf b).names a
        let un := t.units.filter fun g => ((s.gather g).play.unpin named).2
        let s := forAll t.units (fun s g => s.modPlay g fun y => { (y.unpin named).1 with table := putEntries y.table first es }) s
        (s, flagReply s t fun g => b2n (un.contains g)))
    ∧ (Completes 0x0302 [6, 0xC] (us 100) .tsetLoad When.tsetLoad fun s r =>
        let t := s.target r
        let p := r.payload
        let ix := u8 p 0
        let period := u64 p 8
        let pins := (List.range 16).map fun i => pinTimingOf p (16 + 28 * i)
        let s := forAll t.units (fun s g => s.modPlay g fun y => { y with tsets := Tab.put y.tsets ix { period := period, pins := pins } }) s
        (s, s.configAct t))
    ∧ (Completes 0x0303 [6, 0xC] (us 400) .strokeStart When.strokeStart fun s r =>
        let t := s.target r
        let s := (s.startRelease t.units).getD s
        let idx := u16 r.payload 0
        let mode := u8 r.payload 2
        let src := u8 r.payload 3
        let s := forAll t.units (fun s g => (s.startOwn g idx mode src).modG g fun G => { G with cane := t.cane }) s
        (s, s.configAct t))
    ∧ (Completes 0x0304 [6, 0xC] (us 5) .strokeHalt When.strokeHalt fun s r =>
        let t := s.target r
        let s := s.haltTarget t
        (s, s.configAct t))
    ∧ (Completes 0x0305 [6, 0xC] (us 20) .strokeStatus When.strokeStatus fun s r =>
        let t := s.target r
        (s, s.readMembers t s.strokeRec { len := 36, flag := some 32 }))
    ∧ (Completes 0x0306 [6, 8, 0xC] (us 100) .strokeRead When.strokeRead fun s r =>
        let first := u16 r.payload 0
        let n := u16 r.payload 2
        let t := s.target r
        let tab := fun g => if t.cls == cGather then (s.gather g).play.table else s.bcTable
        (s, s.readMembers t (fun g => { bytes := toLE 2 first ++ toLE 2 n ++ toLE 4 0 ++ (List.range n).flatMap fun i => toLE 16 (Tab.get 0#128 (tab g) (first + i)).toNat })
          { len := 8 + 16 * n, flag := some 4, lead := 8, grain := 16 }))
    ∧ (Completes 0x0307 [6, 0xC] (us 20) .seqConfig When.seqConfig fun s r =>
        let t := s.target r
        let hs := w32 r.payload 4
        let s := forAll t.units (fun s g => s.modPlay g fun y => { y with haltHold := u16 r.payload 0, haltState := hs }) s
        (s, s.configAct t))

/-- The STREAM/STENCIL commands complete with the effects their chapters give. Where the spec leaves something open, this is the choice of the model (assumption logs 8, 32, 33, 34, 121). -/
def Obligations.StreamCommandsComplete : Prop :=
  (Completes 0x0401 [6, 0xC] (us 100) .vmemWrite When.vmemWrite fun s r =>
        let t := s.target r
        let first := u16 r.payload 0
        let n := u16 r.payload 2
        let named := fun a => decide (first ≤ a ∧ a < first + n)
        let un := t.units.filter fun g => ((s.gather g).play.unpin named).2
        let s := forAll t.units (fun s g => s.modPlay g fun y =>
          { (y.unpin named).1 with vmem := Tab.putAll y.vmem first (granulesOf r.payload 8 n) }) s
        (s, flagReply s t fun g => b2n (un.contains g)))
    ∧ (Completes 0x0402 [6, 0xC] (us 100) .vmemRead When.vmemRead fun s r =>
        let t := s.target r
        let first := u16 r.payload 0
        let n := u16 r.payload 2
        (s, s.readMembers t (fun g => { bytes := (List.range n).flatMap fun i => Tab.get zeroGranule (s.gather g).play.vmem (first + i) }) { len := 256 * n, grain := 256 }))
    ∧ (Completes 0x0403 [6, 0xC] (us 4000) .vmemPin When.vmemPin fun s r =>
        let t := s.target r
        let s := forAll t.units (fun s g => s.modPlay g fun y => { y with pinned := y.pinned.filter (·.bcast) }) s
        let (s, recs) := s.pinAll t false (fun s g => s.entryOf (.g g)) (List.range 4096)
        (s, pinAct s t recs))
    ∧ (Completes 0x0404 [8, 6, 0xC] (us 50) .streamOpen When.streamOpen fun s r =>
        let p := r.payload
        let t := s.target r
        let c := u8 p 0
        let mode := u8 p 1
        let base := u64 p 8
        let len := u32 p 16
        let stride := u32 p 20
        (s.setCtx c { isOpen := true, mode := mode, stallLimit := u16 p 2, reserve := u32 p 4, base := base, length := len,
                      stride := stride, idle := BitVec.ofNat 64 (u64 p 24), members := if mode == 1 then t.locals.map (·.getD 64) else [] }, s.configAct t))
    ∧ (Completes 0x0405 [8] (us 50) .streamClose When.streamClose fun s r =>
        let c := u8 r.payload 0
        ({ s with ctxs := Tab.del s.ctxs c }, .ok))
    ∧ (Completes 0x0406 [8] (us 100) .streamWrite When.streamWrite fun s r =>
        let c := u8 r.payload 0
        let off := u32 r.payload 4
        ({ s with dram := Mem.writeAll s.dram ((s.ctx c).base + off * 256) (r.payload.drop 8) }, .ok))
    ∧ (Completes 0x0407 [6, 0xC] (us 3000) .bcastLoad When.bcastLoad fun s r =>
        let t := s.target r
        let p := u8 r.payload 0
        let c := u8 r.payload 1
        let first := u16 r.payload 2
        let n := u16 r.payload 4
        let mine := t.locals.filterMap id
        let es := entriesOf r.payload 8 n
        let old := (s.prog p).members
        let s := forAll old (fun s g => s.modPlay g fun y => { y with pinned := y.pinned.filter fun b => !b.bcast, bc := none }) s
        let s := { s with bcTable := putEntries s.bcTable first es }
        let s := s.setProg p { loaded := true, cane := t.cane.getD 0, ctx := c, first := first, count := n, members := mine }
        let (s, recs) := s.pinAll t true (fun s _ => s.entryOf (.p p)) ((List.range n).map (first + ·))
        (s, pinAct s t recs))
    ∧ (∀ (p : Nat), Completes 0x0408 [6, 0xC] (us 500) .bcastStart (When.bcastStart p) fun s r =>
        let t := s.target r
        let s := (s.startRelease t.units).getD s
        let start := u16 r.payload 0
        let mode := u8 r.payload 2
        let src := u8 r.payload 3
        let s := s.startProg p start mode src t.units
        (s, s.configAct t))
    ∧ (∀ (p : Nat), Completes 0x0409 [6, 0xC] (us 50) .bcastUnload (When.bcastUnload p) fun s r =>
        let t := s.target r
        let s := forAll (s.prog p).members (fun s g => s.modPlay g fun y => { y with bc := none, pinned := y.pinned.filter fun b => !b.bcast }) s
        (({ s with progs := Tab.del s.progs p }).syncDevice [], s.configAct t))
    ∧ (Completes 0x040A [6, 0xC] (us 50) .stencilLoad When.stencilLoad fun s r =>
        let t := s.target r
        let first := u16 r.payload 0
        let n := u16 r.payload 2
        let es := (List.range n).map fun i => BitVec.ofNat 288 (leNat r.payload (8 + 36 * i) 36)
        let s := forAll t.units (fun s g => s.modPlay g fun y => { y with stencils := Tab.putAll y.stencils first es }) s
        (s, s.configAct t))
    ∧ (Completes 0x040B [6, 0xC] (us 20) .stencilClear When.stencilClear fun s r =>
        let t := s.target r
        let first := u16 r.payload 0
        let n := u16 r.payload 2
        let s := forAll t.units (fun s g => s.modPlay g fun y => { y with stencils := y.stencils.filter fun e => decide (e.1 < first ∨ first + n ≤ e.1) }) s
        (s, s.configAct t))
    ∧ (Completes 0x040C [6, 8, 0xC] (us 20) .streamStatus When.streamStatus fun s r =>
        let t := s.target r
        if t.cls == cDevice then
          let (s, bs) := (List.range 4).foldl (fun (acc : State × List (List Byte)) c =>
            let (f, s) := acc.1.fresh
            (s, acc.2 ++ [(s.ctx c).record (f % 4097)])) (s, [])
          (s, .done { blocks := bs })
        else (s, s.readMembers t (fun g => { bytes := (s.gather g).play.streamRec }) { len := 24, flag := some 16 }))

/-- The UCODE, PIN and sentinel commands complete with the effects their chapters give. Where the spec leaves something open, this is the choice of the model (assumption logs 7, 8, 30, 38, 61, 103). -/
def Obligations.UcodeAndPinCommandsComplete : Prop :=
  (Completes 0x1001 [7, 0xC] (us 200) .ucodeLoad When.ucodeLoad fun s r =>
        let t := s.target r
        let q := patchOf r.payload
        let s := forAll t.units (fun s k => forAll (tileGathers k) State.holdDigs { s with patches := Tab.put s.patches k q }) s
        (s, .members t [] (t.here.map fun pu => (pu.1, { bytes := toLE 8 q.digest.toNat })) { len := 8 }))
    ∧ (Completes 0x1002 [7, 0xC] (us 50) .ucodeClear When.ucodeClear fun s r =>
        let t := s.target r
        let s := forAll t.units (fun s k => { s with patches := Tab.del s.patches k }) s
        (s, s.configAct t))
    ∧ (Completes 0x1003 [7, 0xC] (us 20) .ucodeQuery When.ucodeQuery fun s r =>
        let t := s.target r
        let mixed := (t.units.map fun k => (s.patch k).version).eraseDups.length > 1
        (s, s.readMembers t (fun k => { bytes := s.ucodeRec k mixed }) { len := 20, flag := some 16 }))
    ∧ (Completes 0x1004 [7, 0xC] (us 50) .ucodeRead When.ucodeRead fun s r =>
        let t := s.target r
        (s, s.readMembers t (fun k => { bytes := (s.patch k).bytes }) { len := (s.patch 0).bytes.length }))
    ∧ (Completes 0x0501 [0, 0xC] (us 50) .pinConfig When.pinConfig fun s r =>
        let t := s.target r
        let cfg := w32 r.payload 0
        let s := forAll t.units (fun s u => s.modG (u / 16) (·.configurePin (u % 16) cfg)) (s.preemptPins t.units)
        let s := forAll (pinsGathers t.units) (fun s g => s.pinsChanged g) s
        (s, .done (s.chargeReply t)))
    ∧ (Completes 0x0502 [0, 0xC] (us 40) .pinLevels When.pinLevels fun s r =>
        let t := s.target r
        let l := levelsOf r.payload
        let s0 := s.preemptPins t.units
        let s := forAll t.units (fun s u => s.setPin (u / 16) (u % 16) ((s.pin (u / 16) (u % 16)).setLevels l (s.gather (u / 16)).safe.on)) s0
        let rep := s.chargeReply t
        let changed := t.units.filter fun u => (s0.pin (u / 16) (u % 16)).dacs != (s.pin (u / 16) (u % 16)).dacs
        if changed.isEmpty then (s, .done rep)
        else (s, .wait { kind := .dacSettle, units := changed, reports := rep.blocks.zipIdx.map fun b => (b.2, b.1) }))
    ∧ (Completes 0x0503 [0, 0xC] (us 20) .pinLoad When.pinLoad fun s r =>
        let t := s.target r
        let v := u32 r.payload 0
        let ioh := bits v 25 16
        let iol := bits v 9 0
        let f := fun (x : Pin) => { x with ioh := ioh, iol := iol }
        let s := modPins (s.preemptPins t.units) t.units f
        (s, .done (s.chargeReply t)))
    ∧ (Completes 0x0504 [0, 0xC] (us 20) .pinClearCodes When.pinClearCodes fun s r =>
        let t := s.target r
        let s := modPins (s.preemptPins t.units) t.units fun x => { x with clr := levelsOf r.payload }
        (s, s.configAct t))
    ∧ (Completes 0x0505 [0, 0xC] (us 20) .pinComparator When.pinComparator fun s r =>
        let t := s.target r
        let v := u32 r.payload 0
        let s := forAll t.units (fun s u => s.setPin (u / 16) (u % 16) ((s.pin (u / 16) (u % 16)).setCmp v (s.gather (u / 16)).safe.on)) (s.preemptPins t.units)
        let s := forAll (pinsGathers t.units) (fun s g => s.flagRuns g) s
        (s, .done (s.chargeReply t)))
    ∧ (Completes 0x0506 [0, 0xC] (us 10) .pinRelease When.pinRelease fun s r =>
        let t := s.target r
        let v := u32 r.payload 0
        let s := if bit v 1 then forAll t.units (fun s u => s.modG (u / 16) (·.releaseOc (u % 16))) s else s
        let s := if bit v 0 then forAll t.units (fun s u => s.modG (u / 16) (·.releaseTrip (u % 16))) s else s
        let s := forAll (pinsGathers t.units) (fun s g => s.pinsChanged g) s
        (s, s.configAct t))
    ∧ (Completes 0x0507 [0, 0xC] (us 20) .pinStatus When.pinStatus fun s r =>
        let t := s.target r
        let img := fun u => (s.pin (u / 16) (u % 16)).status
        match t.cane with
        | none => (s, s.readMembers t (fun u => { bytes := toLE 4 (img u) }) { len := 4, flag := some 0 })
        | some _ =>
          let span := fun u => let l := (s.pin (u / 16) (u % 16)).lvl; l.vih - l.vil
          (s, s.readMembers t (fun u => { bytes := toLE 4 (img u) ++ toLE 4 (span u) }) { len := 8, flag := some 0, rules := [(4, 4, .least)] }))
    ∧ (Completes 0x0508 [0, 0xC] (us 20) .pinRead When.pinRead fun s r =>
        let t := s.target r
        (s, s.readMembers t (fun u => { bytes := (s.pin (u / 16) (u % 16)).registers.flatMap (toLE 4) }) { len := 4 * (s.pin 0 0).registers.length }))
    ∧ (Completes 0x0509 [6, 0xC] (us 20) .sentConfig When.sentConfig fun s r =>
        let t := s.target r
        let s := forAll t.units (fun s g =>
          let s := forAll [0, 1] (fun s n =>
            let thr := u32 r.payload (8 * n + 4)
            s.setSent g n ((s.sent g n).configure (w32 r.payload (8 * n)) (thr / 65536) (thr % 65536) s.upNs)) s
          let s := s.probes g
          let s := forAll [0, 1] (fun s n => s.startDwell g n) s
          let s := s.modG g fun G => { G with contact := G.contactNow }
          s.comparatorsChanged g) s
        (s, s.configAct t))
    ∧ (Completes 0x050A [6, 0xC] (us 20) .sentStatus When.sentStatus fun s r =>
        let t := s.target r
        let a := s.readMembers t (fun g => { bytes := toLE 4 (s.sentStatus g 0) ++ toLE 4 (s.sentStatus g 1) })
          { len := 8, rules := [(0, 4, .or), (4, 4, .or)] }
        let read := if t.cane.isSome then s.liveUnits t else t.units
        (forAll read (fun s g => forAll [0, 1] (fun s n => s.setSent g n { s.sent g n with woke := false }) s) s, a))
    ∧ (Completes 0x050B [6, 0xC] (us 20) .contactCheck When.contactCheck fun s r =>
        let t := s.target r
        (s, s.readMembers t s.contactRec { len := 12 }))

/-- The SMU commands complete with the effects their chapters give. Where the spec leaves something open, this is the choice of the model (assumption logs 7, 37, 103, 105). -/
def Obligations.SmuCommandsComplete : Prop :=
  (Completes 0x0601 [1, 0xC] (us 20) .smuConfig When.smuConfig fun s r =>
        let t := s.target r
        let cfg := w32 r.payload 0
        let s := (preemptSmus s t.units).smuConfigured t cfg
        let s := forAll (unitsGathers t.units) (fun s g => s.comparatorsChanged g) s
        let busy := t.units.filter fun u => (s.smu (u / 4) (u % 4)).run.isSome
        if busy.isEmpty then (s, .done (s.smuChargeReply t))
        else (s, .wait { kind := .rangeChange, units := busy }))
    ∧ (Completes 0x0602 [1, 0xC] (us 450) .smuForce When.smuForce fun s r =>
        let t := s.target r
        let c := codesOf r.payload 0
        let s := forAll t.units (fun s u => s.disturb (u / 4) (u % 4)) (preemptSmus s t.units)
        (s.smuForced t c, .wait { kind := .smuSettle, units := t.units }))
    ∧ (Completes 0x0603 [1, 0xC] (us 20) .smuSafe When.smuSafe fun s r =>
        let t := s.target r
        let safe := u32 r.payload 0
        let c := codesOf r.payload 4
        let s := preemptSmus s t.units
        let s := forAll t.units (fun s u => s.setSmu (u / 4) (u % 4) { s.smu (u / 4) (u % 4) with safe := safe, clr := c }) s
        (s, s.configAct t))
    ∧ (Completes 0x0604 [1, 0xC] (us 20) .smuTrip When.smuTrip fun s r =>
        let t := s.target r
        let v := w32 r.payload 0
        let s := preemptSmus s t.units
        let s := forAll t.units (fun s u => s.setSmu (u / 4) (u % 4) { s.smu (u / 4) (u % 4) with trip := v }) s
        let s := forAll (unitsGathers t.units) (fun s g => s.comparatorsChanged g) s
        (s, s.configAct t))
    ∧ (Completes 0x0605 [1, 0xC] 0 .smuMeasure When.smuMeasure fun s r =>
        let t := s.target r
        let mode := u8 r.payload 0
        let n := u32 r.payload 4
        let live := s.liveUnits t
        let src := u8 r.payload 1
        let meas := fun (u : Nat) => ({ mode := mode, source := src, started := mode == 0, mark := s.presented (u / 4) mode src, startNs := s.upNs, n := n,
                                        lo := i32 r.payload 8, hi := i32 r.payload 12 } : SmuMeas)
        let s := forAll live (fun s u => s.setSmu (u / 4) (u % 4) { s.smu (u / 4) (u % 4) with meas := some (meas u) }) s
        (s, .wait { kind := .measure, units := live, safe := s.safePos t }))
    ∧ (Completes 0x0606 [1, 0xC] (us 10) .smuRelease When.smuRelease fun s r =>
        let t := s.target r
        let v := u32 r.payload 0
        let s := forAll t.units (fun s u =>
          let x := s.smu (u / 4) (u % 4)
          let x := if bit v 1 then { x with complSeen := false, openSeen := false, backup := false } else x
          s.setSmu (u / 4) (u % 4) (if bit v 0 then x.release (s.gather (u / 4)).safe.on else x)) s
        let s := forAll (unitsGathers t.units) (fun s g => s.comparatorsChanged g) s
        (s, s.configAct t))
    ∧ (Completes 0x0607 [1, 0xC] (us 20) .smuStatus When.smuStatus fun s r =>
        let t := s.target r
        (s, s.readMembers t (fun u => { bytes := toLE 4 (s.smu (u / 4) (u % 4)).status }) { len := 4, flag := some 0 }))
    ∧ (Completes 0x0608 [1, 0xC] (us 20) .smuRead When.smuRead fun s r =>
        let t := s.target r
        (s, s.readMembers t (fun u => { bytes := (s.smu (u / 4) (u % 4)).registers.flatMap (toLE 4) }) { len := 4 * (s.smu 0 0).registers.length }))

/-- The AMPOULE commands complete with the effects their chapters give. Where the spec leaves something open, this is the choice of the model (assumption logs 8, 52, 54, 108, 124). -/
def Obligations.AmpouleCommandsComplete : Prop :=
  (Completes 0x0701 [8] (us 50) .ampIdent When.ampIdent fun s _ =>
        (s, .ok (s.ampIdent ++ s.ampChecksum)))
    ∧ (Completes 0x0702 [3, 0xC] (us 100) .ampConnect When.ampConnect fun s r =>
        let t := s.target r
        let src := u8 r.payload 0
        s.enqueueSelect r t src)
    ∧ (Completes 0x0703 [3, 0xC] (us 20) .ampDisconnect When.ampDisconnect fun s r =>
        s.enqueueSelect r (s.target r) 0)
    ∧ (Completes 0x0704 [3, 0xC] 0 .ampConvert When.ampConvert fun s r =>
        let t := s.target r
        let p := r.payload
        let mode := u8 p 2
        let live := t.here.filter fun pu => !s.unitSafe t.cls pu.2
        if live.isEmpty then (s, .members t [] [] ampLayout) else
        let s := forAll live (fun s pu =>
          let g := pu.2 / 2
          let c := pu.2 % 2
          let q : AmpReq := { mbx := r.mbx.val, pos := pu.1, range := u8 p 0, rate := u8 p 1, mode := mode, trig := u8 p 3, n := u32 p 4,
                              timeout := u32 p 8, receipt := u8 p 12 == 1, context := slice p 16 32, opens := s.sealOpens, half := s.halfIx }
          let x := s.chan g c
          (s.setChan g c { x with queue := x.queue ++ [q], self := [] }).leaveDensity pu.2) s
        (s, .wait { kind := .convert, units := live.map (·.2), safe := s.safePos t, nums := [0] }))
    ∧ (Completes 0x0705 [2, 0xC] (us 100) .ampBridge When.ampBridge fun s r =>
        let t := s.target r
        let p := r.payload
        let mode := u8 p 0
        let value := i32 p 4
        let live := s.liveUnits t
        let s := forAll live (fun s g => (s.setBridge g ((s.bridge g).set mode (u8 p 1) value)).flagRuns g) s
        let moving := live.filter fun g => (s.bridge g).span.isSome
        if moving.isEmpty then (s, s.configAct t) else (s, .wait { kind := .ampSpan, units := moving }))
    ∧ (Completes 0x0706 [2, 0xC] (us 50) .ampBridgeStatus When.ampBridgeStatus fun s r =>
        let t := s.target r
        (s, s.readMembers t (fun g =>
          let b := s.bridge g
          { bytes := toLE 1 b.mode ++ toLE 1 b.imped ++ toLE 2 0 ++ toLEi 4 b.value ++ toLEi 4 (b.exc.getD 0) ++ toLE 4 b.flags,
            failed := b.excRange || b.trackLost }) { len := 16, flag := some 12 }))
    ∧ (Completes 0x0707 [8] (us 50) .ampStatus When.ampStatus fun s _ =>
        (s, .ok (toLE 2 (s.intakeFill false) ++ toLE 2 (s.intakeFill true) ++ toLE 4 s.amp.refusals ++ (List.range 128).flatMap fun u => (s.chan (u / 2) (u % 2)).image)))
    ∧ (Completes 0x0708 [8] (us 7000) .ampSheetClose When.ampSheetClose fun s _ =>
        let which := match s.openSheet with
          | some x => some x.num
          | none => (s.amp.sheets.filter fun (x : Sheet) => x.close.isSome && x.block.isNone).getLast?.map Sheet.num
        (s.closeSheet 1, .wait { kind := .ampSheet, units := [], nums := [which.getD 0] }))
    ∧ (Completes 0x0709 [8] (us 2000) .ampSheetRead When.ampSheetRead fun s r =>
        let p := r.payload
        let part := u8 p 4
        let first := u16 p 6
        let count := u16 p 8
        let sheet := s.amp.sheets.find? (·.num == u32 p 0)
        match sheet with
        | some x => (s, .ok (if part == 0 then x.block.getD [] else (slice x.entries first count).flatten))
        | none => (s, .ok))
    ∧ (Completes 0x070A [8] (us 1000) .ampAdjust When.ampAdjust fun s r =>
        let p := r.payload
        let discard := u8 p 0 == 1
        let cert := u32 p 4
        if discard then (s.newCandidate, .ok (toLE 4 s.amp.lec))
        else (s.setAmp { s.amp with commits := s.amp.commits ++ [{ mbx := r.mbx.val, refp := cert, context := slice p 8 32, set := s.amp.candidate }] },
          .wait { kind := .adjust }))
    ∧ (Completes 0x070B [8] (us 50) .ampCounter When.ampCounter fun s _ =>
        let a := s.amp
        let (num, count) := match s.openSheet with | some x => (x.num, x.entries.length) | none => (a.nextSheet, 0)
        (s, .ok (toLE 4 s.sealStatus ++ toLE 4 a.lec ++ toLE 4 s.sealOpens ++ toLE 4 a.starts ++ toLE 4 a.compStep ++ toLE 4 num ++ toLE 2 count
          ++ toLE 2 0 ++ toLE 8 a.hssNext)))
    ∧ (Completes 0x070C [8] (us 60000) .ampRefcheck When.ampRefcheck fun s r =>
        let free := fun u => (s.chan (u / 2) (u % 2)).idle && !(u % 2 == 0 && (s.bridge (u / 2)).density)
        let idle := (List.range 128).filter free
        let s := forAll (List.range 128) (fun s u =>
          let x := s.chan (u / 2) (u % 2)
          s.setChan (u / 2) (u % 2) (if idle.contains u then { x with refRun := true, refFor := some r.mbx.val, self := [] } else { x with refDue := true })) s
        if idle.isEmpty then (s, .ok (List.replicate 16 0#8)) else (s, .wait { kind := .ampRef, units := idle }))

/-- The TIU and CAPTURE commands complete with the effects their chapters give. Where the spec leaves something open, this is the choice of the model (assumption logs 8, 39, 41, 42, 43, 44, 126). -/
def Obligations.TiuAndCaptureCommandsComplete : Prop :=
  (Completes 0x0801 [5, 0xC] (us 20) .tiuConfig When.tiuConfig fun s r =>
        let t := s.target r
        let cfg := w32 r.payload 0
        let src := w32 r.payload 4
        let cnt := w32 r.payload 8
        let s := forAll t.units (fun s u => s.setTiu (u / 4) (u % 4) { s.tiu (u / 4) (u % 4) with cfg := cfg, src := src, count := cnt.toNat }) s
        (s, s.configAct t))
    ∧ (Completes 0x0802 [5, 0xC] 0 .tiuStart When.tiuStart fun s r =>
        let t := s.target r
        let p := r.payload
        let live := s.liveUnits t
        let m : TiuMeas := { timeout := u32 p 0, window := u32 p 4, lo := i64 p 8, hi := i64 p 16 }
        if live.isEmpty then (s, .members t (s.safePos t) [] tiuLayout)
        else (forAll live (fun s u => s.startTiu u m) s, .wait { kind := .tiuRun, units := live, safe := s.safePos t, nums := [u32 p 0, u32 p 4] }))
    ∧ (Completes 0x0803 [5, 0xC] (us 10) .tiuAbort When.tiuAbort fun s r =>
        let t := s.target r
        let s := forAll t.units (fun s u => if (s.tiu (u / 4) (u % 4)).st == .idle then s else s.closeTiu (u / 4) (u % 4) tfAborted) s
        (s, s.configAct t))
    ∧ (Completes 0x0804 [5, 0xC] (us 50) .tiuStamps When.tiuStamps fun s r =>
        let t := s.target r
        let first := u16 r.payload 0
        let n := u16 r.payload 2
        (s, s.readMembers t (fun u => { bytes := (slice (s.tiu (u / 4) (u % 4)).stamps first n).flatMap fun w => toLE 8 w.toNat }) { len := 8 * n, grain := 8 }))
    ∧ (Completes 0x0805 [5, 8, 0xC] (us 20) .tiuStatus When.tiuStatus fun s r =>
        let t := s.target r
        if t.cls == cDevice then (s, .ok (toLE 4 s.trefImage))
        else (s, s.readMembers t (fun u => { bytes := toLE 4 ((s.tiu (u / 4) (u % 4)).st.code + 8 * b2n s.tref.fallback) }) { len := 4, flag := some 0 }))
    ∧ (Completes 0x0806 [6, 8, 0xC] (us 2000) .tiuSelftest When.tiuSelftest fun s r =>
        let t := s.target r
        let safe := if t.cane.isSome then s.safePos t else []
        let gs := t.tested safe
        let idle := (gs.flatMap fun pg => (List.range 4).map (4 * pg.2 + ·)).filter fun u => (s.tiu (u / 4) (u % 4)).st == .idle
        if gs.isEmpty then (s, .members t safe [] { len := 48 })
        else
          let (d, s) := s.fresh
          let s := forAll idle (fun s u => s.setTiu (u / 4) (u % 4) ((s.tiu (u / 4) (u % 4)).serve s.netNs s.upNs s.tref.fallback)) s
          if s.namesSpan r then
            let (s, recs) := gs.foldl (State.selftestGather idle) (s, [])
            (s, .members t safe recs { len := 48 })
          else (s, .wait { kind := .selftest, units := idle, safe := safe, nums := [s.upNs + d % us 1900] }))
    ∧ (Completes 0x0807 [5, 0xC] (us 20) .tiuRead When.tiuRead fun s r =>
        (s, s.readMembers (s.target r) (fun u =>
          let x := s.tiu (u / 4) (u % 4)
          { bytes := toLE 4 x.cfg.toNat ++ toLE 4 x.src.toNat ++ toLE 4 x.count }) { len := 12 }))
    ∧ (Completes 0x0901 [4, 0xC] (us 20) .capConfig When.capConfig fun s r =>
        let t := s.target r
        let p := r.payload
        let s := forAll t.units (fun s u => s.preempt (u / 2) (· == 4 + u % 2)) s
        let s := forAll t.units (fun s u => s.setDig (u / 2) (u % 2) ((s.dig (u / 2) (u % 2)).configure p (s.gather (u / 2)).safe.on)) s
        let cold := t.units.filter fun u => (s.dig (u / 2) (u % 2)).parked
        if cold.isEmpty then (s, s.configAct t) else (s, .wait { kind := .converter, units := cold }))
    ∧ (Completes 0x0902 [4, 0xC] (us 20) .capLimits When.capLimits fun s r =>
        let t := s.target r
        let p := r.payload
        let lims := (List.range 10).map fun i => (i64 p (8 + 16 * i), i64 p (16 + 16 * i))
        let s := forAll t.units (fun s u => s.preempt (u / 2) (· == 4 + u % 2)) s
        let s := forAll t.units (fun s u => s.setDig (u / 2) (u % 2) { s.dig (u / 2) (u % 2) with enable := u16 p 0, limits := lims }) s
        (s, s.configAct t))
    ∧ (Completes 0x0903 [4, 0xC] (us 50) .capArm When.capArm fun s r =>
        let t := s.target r
        let p := r.payload
        let base := u64 p 0
        let size := u64 p 8
        let len := u32 p 16
        let pre := u32 p 20
        let records := u16 p 24
        let live := t.here.filter fun pu => !s.unitSafe t.cls pu.2
        let mm := match live.map (·.2) ++ t.units with | u :: _ => digMinmax (s.dig (u / 2) (u % 2)).cfg | [] => false
        let a : CapArm := { base := base, size := size, reserve := u32 p 28, group := live.map (·.2), cane := t.cane, master := u8 p 32 == 1,
                            len := len, pre := pre, records := records, holdoff := u16 p 26, rate := 1, minmax := mm }
        let s := forAll live (fun s pu =>
          let x := s.dig (pu.2 / 2) (pu.2 % 2)
          ((s.preempt (pu.2 / 2) (· == 4 + pu.2 % 2)).setDig (pu.2 / 2) (pu.2 % 2) { x with arm := some { a with pos := pu.1 } }).armDig (pu.2 / 2) (pu.2 % 2)) s
        (s, s.configAct t))
    ∧ (Completes 0x0904 [4, 0xC] (us 10) .capForce When.capForce fun s r =>
        let t := s.target r
        let (n, s) := s.fresh
        let armed := t.units.filter fun u => (s.dig (u / 2) (u % 2)).st == .armed
        let edge := armed.foldl (fun m u => match (s.dig (u / 2) (u % 2)).arm with | some a => max m (a.next + n % max 1 a.rate) | none => m) 0
        let s := forAll armed (fun s u => s.registerTrigger (u / 2) (u % 2) 4 (256 * edge)) s
        (s, s.configAct t))
    ∧ (Completes 0x0905 [4, 0xC] (us 10) .capAbort When.capAbort fun s r =>
        let t := s.target r
        let s := forAll t.units (fun s u => s.endDig (u / 2) (u % 2) cfAborted) s
        (s, s.configAct t))
    ∧ (Completes 0x0906 [4, 0xC] (us 20) .capStatus When.capStatus fun s r =>
        let t := s.target r
        (s, s.readMembers t (fun u => { bytes := s.capStatus u, failed := s.recordFailed u }) { len := 24, flag := some 0 }))
    ∧ (Completes 0x0907 [4, 0xC] (us 50) .capHeader When.capHeader fun s r =>
        let t := s.target r
        let k := u16 r.payload 0
        (s, s.readMembers t (s.recordRec k 0 256) { len := 256, flag := some 28 }))
    ∧ (Completes 0x0908 [4, 0xC] (us 100) .capRead When.capRead fun s r =>
        let t := s.target r
        let p := r.payload
        let k := u16 p 0
        let off := u32 p 4
        let n := u32 p 8
        (s, s.readMembers t (s.recordRec k (256 + off) n) { len := n }))
    ∧ (Completes 0x0909 [4, 0xC] (us 20) .capReadCfg When.capReadCfg fun s r =>
        let t := s.target r
        (s, s.readMembers t (fun u => { bytes := (s.gather (u / 2)).digRegs (s.dig (u / 2) (u % 2)) }) { len := 32, flag := some 28 }))

/-- The HATCH commands complete with the effects their chapters give. Where the spec leaves something open, this is the choice of the model (assumption logs 8, 21). -/
def Obligations.HatchCommandsComplete : Prop :=
  (∀ (keys : List Nat), Completes 0x0A01 [6, 8, 0xC] (us 100) .hatchLineConfig (When.hatchLineConfig keys) fun s r =>
        let t := s.target r
        let cfg := u32 r.payload 4
        let storm := u32 r.payload 8
        let s' := forAll keys (fun s k => s.setLine k ((s.line k).configure k cfg storm)) s
        let s := s'.syncAll (touch [] keys)
        (s, s.configAct t))
    ∧ (Completes 0x0A02 [6, 8, 0xC] (us 50) .hatchProducer When.hatchProducer fun s r =>
        let t := s.target r
        let i := u8 r.payload 0
        let cond := u8 r.payload 1
        let mask := u64 r.payload 4
        let s := forAll t.units (fun s g => s.modG g fun G => { G with hatch := { G.hatch with
            mask := Tab.put G.hatch.mask i (BitVec.ofNat 16 mask), cond := if i < 16 then Tab.put G.hatch.cond i cond else G.hatch.cond } }) s
        let acc := t.units.foldl (fun (acc : State × Tab Nat) g => State.collect acc g []) (s, [])
        let s := acc.1.syncAll (touch acc.2 (t.units.flatMap fun g => (List.range 16).map (lineG g)))
        (s, s.configAct t))
    ∧ (Completes 0x0A02 [6, 8, 0xC] (us 50) .hatchProducer When.hatchProducer2 fun s r =>
        let i := u8 r.payload 0
        let mask := u64 r.payload 4
        let s := s.setHatch { s.hatch with devProd := Tab.put s.hatch.devProd i (BitVec.ofNat 64 mask) }
        (s.syncAll (touch [] ((List.range 64).map lineD)), .ok))
    ∧ (Completes 0x0A03 [6, 7, 8, 0xC] (us 100) .hatchForward When.hatchForward fun s r =>
        let t := s.target r
        let p := r.payload
        let s := forAll t.units (fun s g => s.modG g fun G => { G with hatch := { G.hatch with
          up := h16 p 0, up16 := BitVec.ofNat 15 (u16 p 2) } }) s
        let ks := (t.units.map tileOf).eraseDups.flatMap fun k => (List.range 32).map (lineT k)
        let s := s.syncAll (touch [] ks)
        (s, s.configAct t))
    ∧ (Completes 0x0A03 [6, 7, 8, 0xC] (us 100) .hatchForward When.hatchForward2 fun s r =>
        let t := s.target r
        let p := r.payload
        let s := forAll t.units (fun s k => s.setHatch { s.hatch with tileFwd := Tab.put s.hatch.tileFwd k (BitVec.ofNat 64 (u64 p 0)) }) s
        let s := s.syncAll (touch [] ((List.range 64).map lineD))
        (s, s.configAct t))
    ∧ (Completes 0x0A03 [6, 7, 8, 0xC] (us 100) .hatchForward When.hatchForward3 fun s r =>
        let p := r.payload
        let s := s.setHatch { s.hatch with trigIn := cardMasks p 0, trigOut := cardMasks p 8 }
        (s.syncAll (touch [] ((List.range 64).map lineD ++ (List.range 4).map fun j => lineC (4 + j))), .ok))
    ∧ (Completes 0x0A04 [8] (us 100) .hatchTask When.hatchTask fun s r =>
        let p := r.payload
        let s' := s.setHatch (s.hatch.setTask p)
        let old := match s.hatch.relays.find? (·.1 == u8 p 1) with | some (_, x) => [lineD x.out] | none => []
        (s'.syncAll (touch [] (if u8 p 0 == 0 then lineD (u8 p 3) :: old else [])), .ok))
    ∧ (Completes 0x0A05 [6, 8, 0xC] (us 20) .hatchBind When.hatchBind fun s r =>
        let t := s.target r
        let p := r.payload
        let sel : Tab Nat := (List.range 16).map fun i => (i, u8 p i)
        let s := forAll t.units (fun s g => (s.modG g fun G =>
          let h := { G.hatch with acc := BitVec.ofNat 3 (u8 p 16), cane := t.cane }
          { G with hatch := if G.seq.live then { h with evtNext := some sel } else { h with evt := sel, evtNext := none, evtCane := t.cane } }).smuReselect s g) s
        let s := s.syncAll []
        (s, s.configAct t))
    ∧ (Completes 0x0A05 [6, 8, 0xC] (us 20) .hatchBind When.hatchBind2 fun s r =>
        let p := r.payload
        let sel : Tab Nat := (List.range 16).map fun i => (i, u8 p i)
        let s := s.setHatch { s.hatch with progEvt := sel, haltnOut := bit (u8 p 16) 0, haltnIn := bit (u8 p 16) 1 }
        (s.syncAll (touch [] [lineD 15]), .ok))
    ∧ (Completes 0x0A06 [8] (us 10) .hatchGroup When.hatchGroup fun s r =>
        let en := u32 r.payload 0
        let dis := u32 r.payload 4
        let gs := (List.range 32).filter fun g => en.testBit g || dis.testBit g
        let s := gs.foldl (fun s g => s.setGroup g (en.testBit g)) s
        (s.syncAll (touch [] (gs.flatMap s.groupLines)), .ok))
    ∧ (∀ (keys : List Nat), Completes 0x0A07 [6, 8, 0xC] (us 20) .hatchRestore (When.hatchRestore keys) fun s r =>
        let t := s.target r
        let s := forAll keys (fun s k => s.setLine k { s.line k with off := false, cause := 0, recent := [] }) s
        let s := s.syncAll (touch [] keys)
        (s, s.configAct t))
    ∧ (Completes 0x0A08 [8] (us 10) .hatchPulse When.hatchPulse fun s r =>
        let d := u8 r.payload 0
        (s.syncAll (addEvents [] [lineD d]), .ok))
    ∧ (Completes 0x0A09 [6, 7, 8, 0xC] (us 50) .hatchStatus When.hatchStatus fun s r =>
        let t := s.target r
        let clear := bit (u8 r.payload 0) 0
        if t.cls == cDevice then
          let keys := (List.range 64).map lineD ++ (List.range 8).map lineC
          let b := [s.statLines keys, s.taskBytes]
          let s := if clear then (s.clearMerge keys) else s
          (if clear then s.setHatch s.hatch.clearTasks else s, .done { blocks := b })
        else
          let keysOf := fun u => if t.cls == cGather then (List.range 16).map (lineG u) else (List.range 32).map (lineT u)
          let a := s.readMembers t (fun u => { bytes := s.statLines (keysOf u) }) { len := if t.cls == cGather then 64 else 128 }
          (if clear then s.clearMerge ((if t.cane.isSome then s.liveUnits t else t.units).flatMap keysOf) else s, a))

/-- The CAL and TIME/NET commands complete with the effects their chapters give. Where the spec leaves something open, this is the choice of the model (assumption logs 8, 16, 17, 48, 49, 50). -/
def Obligations.CalTimeAndNetCommandsComplete : Prop :=
  (Completes 0x0B01 [8] (us 20) .calConfig When.calConfig fun s r =>
        let c := w32 r.payload 0
        (forAll (List.range 4) State.tempDue { s with cal := { s.cal with cfg := c } }, .ok))
    ∧ (Completes 0x0B02 [6, 0xC] (us 20) .calPinmask When.calPinmask fun s r =>
        let t := s.target r
        let s := forAll t.units (fun s g => s.setCalG g { s.calG g with pinMask := u32 r.payload 0 }) s
        (s, s.configAct t))
    ∧ (Completes 0x0B03 [7, 0xC] (us 20) .calRun When.calRun fun s r =>
        let t := s.target r
        let s := forAll t.units (fun s i => s.makeDue i (u8 r.payload 0 == 1)) s
        (s, s.configAct t))
    ∧ (Completes 0x0B04 [7, 8, 0xC] (us 20) .calStatus When.calStatus fun s r =>
        let t := s.target r
        let dev := toLE 4 s.cal.devImage ++ toLE 4 s.cal.held.epoch
        if t.cls == cDevice then
          (s, .ok ((List.range 4).flatMap (fun i => toLE 4 (s.tileImage i)) ++ dev ++ (List.range 4).flatMap s.tileCounts))
        else
          (s, s.readMembers t (fun i => { bytes := toLE 4 (s.tileImage i) ++ dev ++ s.tileCounts i }) { len := 28, rules := [(0, 2, .or), (2, 2, .highest), (12, 4, .least), (16, 4, .greatest), (20, 4, .greatest), (24, 4, .greatest)] }))
    ∧ (Completes 0x0B05 [0, 1, 3, 4, 5, 0xC] (us 50) .calQuality When.calQuality fun s r =>
        let t := s.target r
        let one := fun u =>
          if t.cls == cAdc then
            let f := fun k => s.cal.recs.find? (·.1 == 8 * u + k)
            { bytes := (List.range 4).flatMap (fun k => s.figureBytes (f k) 5) ++ s.figureBytes (f 4) 1 : MemRec }
          else
            let g := unitGather t.cls u
            { bytes := (unitElements t.cls u).flatMap (s.figure g), failed := (unitElements t.cls u).any (s.figureFailed g) }
        (s, s.readMembers t one { len := qualityLen t.cls }))
    ∧ (Completes 0x0B06 [8] (us 10000) .calStore When.calStore fun s _ =>
        (if s.cal.storing == 0 then s.startStore else s, .wait { kind := .calStore }))
    ∧ (Completes 0x0B07 [8] (us 20) .calTemps When.calTemps fun s _ =>
        (s, .ok ((List.range 16).flatMap (fun i => toLEi 2 ((s.calTile (i / 4)).readings.getD (i % 4) 0))
          ++ toLE 2 ((List.range 4).foldl (fun a t => a + (s.calTile t).excluded * 16 ^ t) 0) ++ toLE 2 0)))
    ∧ (Completes 0x0C01 [8] (us 200) .netConfig When.netConfig fun s r =>
        let p := r.payload
        let n := u8 p 0
        let fl := u8 p 1
        (s.modPort n fun x => { x with
          enable := bit fl 0, fec := bit fl 1, mailbox := bit fl 2, ipv6 := bit fl 3, mtu := u16 p 2, address := slice p 4 24,
          host := slice p 28 16, hostPort := u16 p 44, egr := u16 p 48, ing := u16 p 50, up := false }, .ok))
    ∧ (Completes 0x0C02 [8] (us 20) .netStatus When.netStatus fun s _ =>
        (s, .ok ((s.port 0).status ++ (s.port 1).status)))
    ∧ (Completes 0x0C03 [8] (us 50) .ptpConfig When.ptpConfig fun s r =>
        let p := r.payload
        let c := u32 p 8
        (s.modTime fun t => { t with ptpPort := u8 p 0, domain := u8 p 1, ptpMode := u8 p 2, transport := u8 p 3, host := bit c 31,
                                     thresh := bits c 29 0 }, .ok))
    ∧ (Completes 0x0C04 [8] (us 20) .timeStatus When.timeStatus fun s _ =>
        let t := s.time
        (s, .ok (toLE 4 (b2n t.host * 2 ^ 31 + t.thresh) ++ toLE 4 s.timeImage ++ toLE 8 t.incr ++ toLEi 8 t.offset ++ toLEi 8 (t.pathDelay / 20)
          ++ toLE 8 t.grandmaster.toNat)))
    ∧ (Completes 0x0C05 [8] (us 20) .timeAdjust When.timeAdjust fun s r =>
        let v := u64 r.payload 0
        (s.modTime fun t => { t with incr := v }, .ok))
    ∧ (Completes 0x0C06 [8] (us 20) .timeStep When.timeStep fun s _ =>
        (s.refuseStep, .st stBadRange))
    ∧ (Completes 0x0C06 [8] (us 20) .timeStep When.timeStep2 fun s r =>
        let p := r.payload
        let adj := i64 p 0
        let force := bit (u8 p 8) 0
        (s.stepTime adj force, .ok))
    ∧ (Completes 0x0C07 [8] (us 20) .tcmpArm When.tcmpArm fun s r =>
        let p := r.payload
        let n := u8 p 0
        let mode := u8 p 1
        let per := u32 p 4
        let s := s.setTcmp n { mode := mode, armed := mode != 0, target := u64 p 8, period := per, fires := (s.tcmp n).fires }
        ((if mode != 0 && reached s.netNs (u64 p 8) then s.fireTcmp n true false else s), .ok))
    ∧ (Completes 0x0C08 [8] (us 20) .tcmpStatus When.tcmpStatus fun s _ =>
        (s, .ok ((List.range 16).flatMap fun n => (s.tcmp n).image)))
    ∧ (Completes 0x0C09 [8] (us 100) .exportOpen When.exportOpen fun s r =>
        let p := r.payload
        let n := u8 p 0
        ({ s with exporter := { isOpen := true, port := n, classes := u16 p 2, dgramMax := u16 p 4, flush := u16 p 6, reserve := u32 p 8,
                                rto := u32 p 12, dest := slice p 16 16, destPort := u16 p 32 } }, .ok))
    ∧ (CompletesIn 0x0C0A [8] (fun s _ => 3 * s.exporter.rto * 1000 + us 100) .exportClose When.exportClose fun s _ =>
        if !s.exporter.isOpen then (s, .ok)
        else
          let s := s.sendDgram
          let s := s.modExp fun x => { x with closing := true, closeNs := if x.closing then x.closeNs else s.upNs }
          if s.exporter.held.isEmpty then (s.closeExport, .ok) else (s, .wait { kind := .expClose }))
    ∧ (Completes 0x0C0B [8] (us 20) .exportStatus When.exportStatus fun s _ =>
        let x := s.exporter
        let next := x.next % 2 ^ 32
        (s, .ok ([next, (x.held.head?.map (·.seq)).getD next, x.fill, x.lost, x.resent, x.stale].flatMap (toLE 4))))
    ∧ (Completes 0x0C0C [8] (us 50) .exportResend When.exportResend fun s r =>
        let first := u32 r.payload 0
        let n := u32 r.payload 4
        (forAll (List.range n) (fun s k => s.resend ((first + k) % 2 ^ 32)) s, .ok))

/-- The TWIN/JOURNAL and FAULT commands complete with the effects their chapters give. Where the spec leaves something open, this is the choice of the model (assumption logs 8, 57, 60, 85, 93, 94). -/
def Obligations.TwinAndFaultCommandsComplete : Prop :=
  (Completes 0x0D01 [8] (us 1000) .twinConfig When.twinConfig fun s r =>
        let p := r.payload
        (s.setTwin { s.twin with solo := u8 p 0 == 1, settle := u16 p 2, turnLimit := u32 p 4 }, .ok))
    ∧ (Completes 0x0D02 [8] (us 20) .twinStatus When.twinStatus fun s _ =>
        let (k, s) := s.fresh
        let resends := satAdd 0xFFFF_FFFF s.twin.resends k
        let s := s.setTwin { s.twin with resends := resends }
        (s, .ok (toLE 4 s.twinState ++ (List.range 4).flatMap (fun i => toLE 4 (Config.partnerId i).toNat) ++ toLE 4 resends ++ toLE 4 s.twin.losses
          ++ chainBytes s.twin.chain ++ toLE 4 s.journal.reportLost)))
    ∧ (Completes 0x0D03 [8] (us 20) .twinHalf When.twinHalf fun s r =>
        (s.setMbx r.mbx.val { s.mailbox r.mbx.val with half := u8 r.payload 0 }, .ok))
    ∧ (Completes 0x0D04 [8] 0 .twinRelease When.twinRelease fun s _ =>
        (s, .wait { kind := .twinRelease }))
    ∧ (Completes 0x0D05 [6, 0xC] (us 20) .jrnConfig When.jrnConfig fun s r =>
        let t := s.target r
        let w := w32 r.payload 0
        let b := t.units.foldl (fun (b : BitVec 128) g =>
          let m := 1#128 <<< s.siteOf g
          if w == 1 then b ||| m else b &&& ~~~m) s.journal.blank
        let s := s.setJournal { s.journal with blank := b }
        (s, s.configAct t))
    ∧ (∀ (c : Ckpt), Completes 0x0D06 [8] (us 50) .jrnCheckpoint (When.jrnCheckpoint c) fun s _ =>
        (s, .ok c.bytes))
    ∧ (Completes 0x0D07 [8] (us 100) .jrnMarkers When.jrnMarkers fun s r =>
        let first := u16 r.payload 0
        let n := u16 r.payload 2
        (s, .done { blocks := (List.range n).map fun i =>
          match s.journal.markers.find? (·.1 == first + i) with | some (_, m) => m.bytes | none => List.replicate 16 0#8 }))
    ∧ (Completes 0x0D08 [8] (us 100) .jrnReport When.jrnReport fun s _ =>
        let j := s.journal
        (s.setJournal { j with reports := j.reports.drop 127 }, .done { blocks := (j.reports.take 127).map Report.bytes }))
    ∧ (Completes 0x0E01 [8] (us 50) .fltRead When.fltRead fun s r =>
        let first := u32 r.payload 0
        let n := u16 r.payload 4
        let f := s.faults
        let recs := (f.recs.filter fun (x : Rec) => decide (first ≤ x.seq)).take n
        (s, .done { blocks := toLE 4 f.statusImage :: recs.map (·.bytes) }))
    ∧ (Completes 0x0E02 [8] (us 20) .fltAck When.fltAck fun s r =>
        let first := u32 r.payload 0
        let last := u32 r.payload 4
        let f := s.faults
        let named := fun (x : Rec) => decide (first ≤ x.seq ∧ x.seq ≤ last)
        let n := (f.recs.filter named).length
        let s := s.setFaults { f with recs := f.recs.map fun x => if named x then { x with ack := true } else x }
        (s.pruneRecs, .ok (toLE 4 n)))
    ∧ (Completes 0x0E03 [8] (us 20) .fltForce When.fltForce fun s r =>
        let src := h16 r.payload 0
        let scope := h16 r.payload 2
        let mode := u8 r.payload 4
        ((s.respond r.mbx.val (us 20) (Reply.ok [])).raise src scope 0 false (mode == 0), .ok))
    ∧ (Completes 0x0E04 [8] (us 20) .fltConfig When.fltConfig fun s r =>
        let v := u32 r.payload 0
        (s.setFaults { s.faults with wdog := bits v 8 2, replay := bit v 1, alertEn := bit v 0 }, .ok))
    ∧ (Completes 0x0E05 [8] (us 2000) .fltLog When.fltLog fun s r =>
        let first := u32 r.payload 0
        let n := u16 r.payload 4
        (s, .done { blocks := (slice s.faults.log first n).map (·.bytes) }))
    ∧ (Completes 0x0E06 [6, 0xC] (us 20) .fltRelease When.fltRelease fun s r =>
        let t := s.target r
        let s := forAll t.units (fun s g =>
          if !(s.gather g).safe.on || s.causeAsserted g || s.faults.anneal then s
          else
            let s := s.modG g fun G => { G with safe := { G.safe with held := false } }
            if s.mayRelease g then s.releaseSafe g true else s) s
        (s, s.configAct t))

/-- The SEC/LIFECYCLE commands complete with the effects their chapters give. Where the spec leaves something open, this is the choice of the model (assumption logs 8, 74, 75, 76). -/
def Obligations.SecurityCommandsComplete : Prop :=
  (Completes 0x0F01 [8] (us 50) .secCert When.secCert fun s r =>
        let role := u8 r.payload 0
        if role == 0 then (s, match s.sec.root with | some x => .ok (rootBytes x) | none => .st stBadRange)
        else (s, match s.sec.certs.find? (·.1 == role) with | some (_, x) => .ok (certBytes role x) | none => .st stBadRange))
    ∧ (Completes 0x0F02 [8] (us 8000) .secAttest When.secAttest fun s r =>
        let b := s.report256 r.payload
        let (q, s) := s.deviceIndex
        let key := if s.sec.erased then 11 else 1
        (s, .ok (b ++ ecdsa key b ++ hss key q b)))
    ∧ (Completes 0x0F03 [8] (us 2000) .imgWrite When.imgWrite fun s r =>
        let p := r.payload
        let t := u8 p 0
        let off := u32 p 4
        let k := s.writeSlot t
        let m := r.mbx.val
        let s := if off == 0 then (s.setSession t (some m)).setSlot t k {} else s
        let x := s.slot t k
        (s.setSlot t k { x with data := Mem.writeAll x.data off (p.drop 8) }, .ok))
    ∧ (CompletesIn 0x0F04 [8] (fun _ r => if u8 r.payload 0 == 0 then us 40000 else us 20000) .imgCommit When.imgCommit fun s r =>
        let t := u8 r.payload 0
        let k := s.writeSlot t
        let x := s.slot t k
        let st := s.imageStatus t x.data
        let s := s.setSession t none
        if st != stOK then (s.setSlot t k {}, .st st) else
        let h := Mem.readAll x.data 0 16
        (s.setSlot t k { x with valid := true, version := u32 h 8, secVersion := u32 h 12 }, .ok (toLE 4 (u32 h 8))))
    ∧ (Completes 0x0F05 [8] (us 1000) .imgActivate When.imgActivate fun s r =>
        let p := r.payload
        let t := u8 p 0
        let k := u8 p 1
        let floor := bit (u8 p 2) 0
        let legal := t == 1 && s.sec.life == lifeProduction
        if legal then
          (s.setAmp { s.amp with commits := s.amp.commits ++ [{ mbx := r.mbx.val, slot := some (k, floor) }] }, .wait { kind := .adjust })
        else
          let floors := if floor then s.sec.floors.set t (max (s.slot t k).secVersion (s.sec.floors.getD t 0)) else s.sec.floors
          ({ s with sec := { s.sec with active := s.sec.active.set t k, floors := floors } }, .ok))
    ∧ (Completes 0x0F06 [8] (us 20) .imgStatus When.imgStatus fun s _ =>
        let one := fun t => s.slotImage t 0 ++ s.slotImage t 1 ++ toLE 1 (s.active t) ++ toLE 1 ((s.session t).getD 0xFF) ++ toLE 2 0
          ++ toLE 4 (s.sec.floors.getD t 0)
        (s, .ok (one 0 ++ one 1 ++ toLE 4 (b2n s.sec.fallback))))
    ∧ (Completes 0x0F07 [8] (us 20) .lcChallenge When.lcChallenge fun s _ =>
        let (v, s) := s.fresh
        let c := openBytes 36 (toLE 8 v) 32
        ({ s with sec := { s.sec with challenge := some c } }, .ok c))
    ∧ (Completes 0x0F08 [8] (us 8000) .lcCsr When.lcCsr fun s r =>
        let role := u8 r.payload 0
        if role == 1 then
          let (q, s) := s.deviceIndex
          (s, .ok (csrBytes 1 q))
        else
          let (q, s) := s.takeIndex
          (s, .ok (csrBytes 2 q)))
    ∧ (Completes 0x0F09 [8] (us 20000) .lcInstall When.lcInstall fun s r =>
        let p := r.payload
        let item := u8 p 0
        let b := p.drop 4
        let x := s.sec
        ({ s with sec := if item == 0 then { x with root := some (.given b) } else { x with certs := Tab.put x.certs item (.given b) } }, .ok))
    ∧ (Completes 0x0F0A [8] (us 300) .lcTransition When.lcTransition fun s r =>
        let p := r.payload
        let target := u8 p 0
        let st := checks [unless' (s.sec.mayGo target) stLifecycle, s.authorised target p]
        let s := { s with sec := { s.sec with challenge := none } }
        (s, .st st))
    ∧ (Completes 0x0F0A [8] (us 300) .lcTransition When.lcTransition2 fun s r =>
        let p := r.payload
        let target := u8 p 0
        let s := { s with sec := { s.sec with challenge := none } }
        if s.lifeBusy then (s, .wait { kind := .signIndex, nums := [target] })
        else (s.lifeSet target r.mbx.val, .ok))

/-- The mailbox and network events have the effects their chapters give. Where the spec leaves something open, this is the choice of the model (assumption logs 22, 64, 107, 130). -/
def Obligations.MailboxAndNetEventsComplete : Prop :=
  (Answers (.mbxDoorbell 5) (fun _ => True) fun s =>
        s.doorbell 5)
    ∧ (∀ (m : Fin 8), Answers (.mbxDoorbell m) (When.mbxDoorbell m) fun s =>
        s.doorbell (if m.val = 0 then 0 else if m.val = 1 then 1 else 6))
    ∧ (∀ (m : Fin 8), Answers (.mbxDoorbell m) (When.mbxDoorbell2 m) fun s =>
        s.doorbellBad)
    ∧ (∀ (m : Fin 8) (offset : BitVec 12) (word : Word), Answers (.responseAck m offset word) (When.responseAck offset) fun s =>
        if m.val == 7 then s.ackBatch word else s.ackPart m.val word)
    ∧ (Answers .notifyBatchForm When.notifyBatchForm fun s =>
        let q := s.hatch.queue
        let s := s.setHatch { s.hatch with queue := q.drop 254 }
        let s := { s with outbox := { s.outbox with shown := some (q.take 254, s.netNs), formed := s.outbox.formed + 1, sends := 1, sendNs := s.upNs } }
        s.sendBatch)
    ∧ (∀ (offset : BitVec 12) (word : Word), Answers (.notifyBatchAck offset word) (When.notifyBatchAck offset) fun s =>
        s.ackBatch word)
    ∧ (∀ (port : Two) (frame : EthFrame) (mbx : Byte) (xseq : Word) (body : List Byte), Answers (.udpRequest port frame mbx xseq body) (fun _ => True) fun s =>
        (s.receive port.val true frame fun s =>
          let m := 2 + port.val
          let x := s.mailbox m
          if !s.portMbx port.val || mbx.toNat != m then s
          else if x.knows xseq then
            match x.shown with
            | some (e, _) => if e.xseq == some xseq then s.sendShown m else s
            | none => s
          else ((s.setMbx m { x with window := Mem.writeAll x.window 0 (body.take windowBytes) }).learnHost port.val m frame.srcIp body).doorbell ⟨2 + port.val, by omega⟩ (some xseq)))
    ∧ (∀ (port : Two) (frame : EthFrame) (mbx : Byte) (word : Word), Answers (.udpAck port frame mbx word) (fun _ => True) fun s =>
        (s.receive port.val true frame fun s =>
          if !s.portMbx port.val then s
          else if mbx.toNat == 2 + port.val then s.ackPart (2 + port.val) word
          else if mbx.toNat == 7 then s.ackBatch word
          else s))
    ∧ (∀ (port : Two) (frame : EthFrame) (mbx : Byte), Answers (.udpPoll port frame mbx) (fun _ => True) fun s =>
        (s.receive port.val true frame fun s =>
          if !s.portMbx port.val then s
          else if mbx.toNat == 2 + port.val then s.sendShown (2 + port.val)
          else if mbx.toNat == 7 && s.outbox.shown.isSome then s.send port.val (.batch s.outbox.bytes)
          else s))
    ∧ (Answers (.responseResendTimer 7) When.responseResendTimer fun s =>
        { s with outbox := { s.outbox with sends := s.outbox.sends + 1, sendNs := s.upNs } }.sendBatch)
    ∧ (∀ (m : Fin 8), Answers (.responseResendTimer m) (When.responseResendTimer2 m) fun s =>
        (s.setMbx m.val { s.mailbox m.val with sends := (s.mailbox m.val).sends + 1, sendNs := s.upNs }).sendShown m.val)
    ∧ (∀ (port : Two) (frame : EthFrame) (kind : EchoKind), Answers (.arpNeighbourEcho port frame kind) (fun _ => True) fun s =>
        (s.receive port.val false frame fun s =>
          let x := s.port port.val
          if x.isOwn frame.dstIp && frame.dstIp == x.ip (echoV6 kind) then s.send port.val (.echo kind) else s))
    ∧ (∀ (port : Two), Answers (.ethLinkUp port) (When.ethLinkUp port) fun s =>
        let x := s.port port.val
        s.setPort port.val { x with up := true, sent := x.sent ++ x.held, held := [] })
    ∧ (∀ (port : Two), Answers (.ethLinkLoss port) (When.ethLinkLoss port) fun s =>
        (s.modPort port.val fun x => { x with up := false }).advise fNetLink hDevice (BitVec.ofNat 32 port.val))
    ∧ (Answers .exportDatagramSend When.exportDatagramSend fun s =>
        s.sendDgram)
    ∧ (∀ (fromDest : Bool) (crcOk : Bool) (ackSeq : Word) (naks : List Word), Answers (.exportAck fromDest crcOk ackSeq naks) When.exportAck fun s =>
        let x := s.exporter
        let ack := ackSeq.toNat
        if !fromDest || !crcOk || naks.length > 8 || !x.sent ack then s.modPort x.port fun p => { p with ackDiscards := p.ackDiscards + 1 }
          else
            let s := s.modExp fun x => { x with held := x.held.filter fun (d : Dgram) => !decide ((ack + 2 ^ 32 - d.seq) % 2 ^ 32 < 2 ^ 31) }
            (forAll naks (fun s n => s.resend n.toNat) s).exportDone)
    ∧ (∀ (seq : Word) (d : Dgram), Answers (.exportRto seq) (When.exportRto seq d) fun s =>
        s.resend seq.toNat)
    ∧ (∀ (seq : Word) (d : Dgram), Answers (.exportRto seq) (When.exportRto2 seq d) fun s =>
        (s.modExp fun x => { x with stale := sat32 x.stale, held := x.held.map fun (e : Dgram) => if e.seq == seq.toNat then { e with stale := true } else e }).advise
              fExpStale hDevice seq)
    ∧ (Answers .exportCloseTimeout When.exportCloseTimeout fun s =>
        s.closeExport)

/-- The chain port and JTAG events have the effects their chapters give. Where the spec leaves something open, this is the choice of the model (assumption logs 31, 68, 78, 106, 130). -/
def Obligations.ChainAndJtagAccessesComplete : Prop :=
  (∀ (path : Path) (write : Option Word), Answers (.mbxDataAccess path write) (fun _ => True) fun s =>
        (s.single (match write with | some v => s.writeWord path 0x08C v | none => s.readWord path 0x08C)))
    ∧ (∀ (value : Word), Answers (.chnTimingWrite value) (fun _ => True) fun s =>
        (s.single (s.writeWord .front 0x0C4 value)))
    ∧ (∀ (path : Path) (addr : BitVec 12), Answers (.holdingWordRead path addr) (fun _ => True) fun s =>
        (s.single (if addr.toNat % 4 != 0 then (s, { bad := true }) else s.readWord path addr.toNat)))
    ∧ (∀ (path : Path), Answers (.timeSnapRead path) (fun _ => True) fun s =>
        (s.single (s.readWord path 0x100)))
    ∧ (∀ (path : Path) (addr : BitVec 12) (value : Word), Answers (.registerWrite path addr value) (fun _ => True) fun s =>
        (s.single (if addr.toNat % 4 != 0 then (s, { bad := true }) else s.writeWord path addr.toNat value)))
    ∧ (∀ (path : Path) (op : BitVec 4) (f : Frame), Answers (.chainNop path op f) (When.chainNop op) fun s =>
        s.frame path op.toNat f)
    ∧ (∀ (path : Path) (f : Frame), Answers (.chainRd path f) (fun _ => True) fun s =>
        (s.frame path 1 f))
    ∧ (∀ (path : Path) (f : Frame), Answers (.chainWr path f) (fun _ => True) fun s =>
        (s.frame path 2 f))
    ∧ (∀ (path : Path) (f : Frame), Answers (.chainRdb path f) (fun _ => True) fun s =>
        (s.frame path 3 f))
    ∧ (∀ (path : Path) (f : Frame), Answers (.chainWrb path f) (fun _ => True) fun s =>
        (s.frame path 4 f))
    ∧ (∀ (path : Path) (f : Frame), Answers (.chainByp path f) (fun _ => True) fun s =>
        (s.frame path 5 f))
    ∧ (∀ (bits : Nat) (sdi : Nat) (delays : Delays) (clash : Bool) (overReset : Bool), Answers (.chainBurstTransfer bits sdi delays clash overReset) (When.chainBurstTransfer bits overReset) fun s =>
        if clash then (s.clashed bits sdi delays)
        else
          let s := s.shiftOut .front (soon delays)
          let (late, s) := s.timingErr .front delays
          ((s.shiftIn .front (BitVec.ofNat 128 sdi)).burst bits sdi (if late then cfTiming else 0)))
    ∧ (Answers .chainStallTimeout (fun _ => True) fun s =>
        (s.setChain { s.chain with stall := true }))
    ∧ (Answers .mpTick When.mpTick fun s =>
        { s with power := { s.power with mpTick := (s.power.mpTick + 1) % 256 } })
    ∧ (∀ (ir : Byte), Answers (.jtagUpdateIr ir) (fun _ => True) fun s =>
        { s with jtag := { s.jtag with ir := ir } })
    ∧ (∀ (cells : BitVec 39), Answers (.jtagUpdateDr cells) When.jtagUpdateDr fun s =>
        { s with jtag := { s.jtag with cells := cells } })
    ∧ (Answers .jtagTestLogicReset (fun _ => True) fun s =>
        { s with jtag := { s.jtag with ir := 0x01 } })

/-- The time and Hatch events have the effects their chapters give. Where the spec leaves something open, this is the choice of the model (assumption logs 21, 28, 50, 51, 127, 130, 131). -/
def Obligations.TimeAndHatchEventsComplete : Prop :=
  (∀ (port : Two) (m : PtpSync), Answers (.ptpSync port m) (When.ptpSync port) fun s =>
        let t := (s.port port.val).ingress (s.macStamp m.quarter) - corrUnits m.corr
        let s := s.modTime fun x => { x with synced := true, syncNs := s.upNs, syncSpan := syncIntervals m.log }
        if m.twoStep then s.modTime fun x => { x with syncIn := some t } else s.synced (t - 20 * (m.origin : Int)))
    ∧ (Answers .syncTimeout When.syncTimeout fun s =>
        s.modTime fun t => { t with sync := 2, good := 0, syncBefore := none })
    ∧ (∀ (n : Fin 16), Answers (.tcmpFire n) (When.tcmpFire n) fun s =>
        s.fireTcmp n.val false false)
    ∧ (∀ (j : Fin 4) (level : Lvl), Answers (.trigInEdge j level) (When.trigInEdge level) fun s =>
        ((s.setHatch { s.hatch with trigBall := Tab.put s.hatch.trigBall j 0 }).syncAll (touch [] [lineC j])))
    ∧ (∀ (j : Fin 4) (level : Lvl), Answers (.trigInEdge j level) (When.trigInEdge2 level) fun s =>
        ((s.setHatch { s.hatch with trigBall := Tab.put s.hatch.trigBall j 1 }).syncAll (touch [] [lineC j])))
    ∧ (∀ (r : Fin 16), Answers (.relayPulse r) (When.relayPulse r) fun s =>
        let x := Tab.get {} s.hatch.relays r
        ((s.setHatch { s.hatch with relays := Tab.put s.hatch.relays r { x with pending := false } }).syncAll (addEvents [] [lineD x.out])))
    ∧ (∀ (line : Half) (k : Nat), Answers (.stormLimit line) (When.stormLimit line k) fun s =>
        (s.forceOff k 1 fHatchStorm))
    ∧ (∀ (line : Half) (k : Nat), Answers (.ringDetect line) (When.ringDetect line k) fun s =>
        (s.forceOff k 2 fHatchRing))
    ∧ (∀ (line : Half) (k : Nat), Answers (.notifyCoalesceEnd line) (When.notifyCoalesceEnd line k) fun s =>
        let l := s.line k
        if l.held == 0 then (s.setLine k { l with busyUs := false })
        else ((s.setLine k { l with held := 0, busyNs := s.upNs }).note (noteEntry 1 0 line l.heldAssert l.held l.heldTime)))
    ∧ (Answers .evqLostPost When.evqLostPost fun s =>
        let h := s.hatch
        ((s.setHatch { h with evqLost := 0 }).note (noteEntry 5 0 0 false h.evqLost s.netNs)))
    ∧ (Answers .haltNReceive (fun _ => True) fun s =>
        ((s.setHatch { s.hatch with haltnLow := true }).syncAll (touch [] [lineD 15])))
    ∧ (Answers .haltNRelease (fun _ => True) fun s =>
        ((s.setHatch { s.hatch with haltnLow := false }).syncAll (touch [] [lineD 15])))
    ∧ (∀ (port : Two) (m : PtpMsg), Answers (.ptpMessage port m) (When.ptpMessage port) fun s =>
        (match m with
          | .announce gm better => if better then s.modTime fun t => { t with grandmaster := gm } else s
          | .followUp origin corr => match s.time.syncIn with
            | some t => s.synced (t - 20 * (origin : Int) - corrUnits corr)
            | none => s
          | .delayResp egress received corr => match s.time.syncDiff with
            | some d => s.delayed false (d + 20 * (received : Int) - (s.port port.val).egress (5 * (egress : Int)) - corrUnits corr)
            | none => s
          | .pdelayResp egress quarter turn =>
            let x := s.port port.val
            s.delayed true (x.ingress (s.macStamp quarter) - x.egress (5 * (egress : Int)) - corrUnits turn)
          | .pdelayReq quarter egress =>
            let x := s.port port.val
            s.send port.val (.pdelayResp (x.ingress (s.macStamp quarter)) (x.egress (5 * (egress : Int))) (bit s.time.ptpMode 0))))

/-- The comparator, CLEAR_N, pin and source/measure events have the effects their chapters give. Where the spec leaves something open, this is the choice of the model (assumption logs 28, 36, 63, 67, 102, 104, 123, 130). -/
def Obligations.PinAndSmuEventsComplete : Prop :=
  (∀ (e : CmpEvent), Answers (.comparatorChange e) (When.comparatorChange e) fun s =>
        s.compare e)
    ∧ (∀ (e : CmpEvent), Answers (.modeChangeHoldEnd e) (When.modeChangeHoldEnd e) fun s =>
        s.compare e)
    ∧ (∀ (g : GIx) (n : Two), Answers (.sentinelDwellEnd g n) (When.sentinelDwellEnd g n) fun s =>
        let x := s.sent g n
        ((s.setDwelled g n (rawActive (sentDir x.cfg) x.raw)).comparatorsChanged g))
    ∧ (∀ (g : GIx) (p : PIx), Answers (.driverOvercurrent g p) (When.driverOvercurrent g p) fun s =>
        let s := s.modG g fun G => (G.setPin p (G.pin p).overload).flagNow
        ((s.advise fPinOc (BitVec.ofNat 16 (g.val * 16 + p.val))).pinsChanged g))
    ∧ (∀ (g : GIx) (p : PIx), Answers (.deglitchRelease g p) (When.deglitchRelease g p) fun s =>
        let x := s.pin g p
        let f := fun (d : Dac) => if d.hold then d.release else d
        (s.setPin g p { x with vih := f x.vih, vil := f x.vil, vt := f x.vt, voh := f x.voh, vol := f x.vol }))
    ∧ (∀ (g : GIx) (p : PIx), Answers (.levelOrderedLatch g p) (When.levelOrderedLatch g p) fun s =>
        let x := s.pin g p
        (s.setPin g p x.latchNext))
    ∧ (∀ (m : Fin 7) (e : Entry) (w : Wait), Answers (.dacSettled m) (When.dacSettled m e w) fun s =>
        (s.respond m (us 40) { blocks := w.reports.map (·.2) }))
    ∧ (∀ (pulseNs : Nat), Answers (.clearNAssert pulseNs) (When.clearNAssert pulseNs) fun s =>
        if 50 ≤ pulseNs then s.clearAll else s.clearPartly)
    ∧ (∀ (vphUv : Int) (vplUv : Int), Answers (.headroomClamp vphUv vplUv) (fun _ => True) fun s =>
        let s := { s with power := { s.power with vphUv := vphUv, vplUv := vplUv } }
        if !railsPe vphUv vplUv then s
        else
          let (lo, hi) := s.codeRange 65536
          { s with gathers := s.gathers.map fun g => (g.1, ({ g.2 with pins := g.2.pins.map fun p => (p.1, p.2.headroom lo hi) } : Gather).flagNow) })
    ∧ (∀ (g : GIx) (u : UIx) (value : Int), Answers (.complianceSwitch g u value) (When.complianceSwitch g u) fun s =>
        let x := s.smu g u
        let active := (s.smuOut g u).compliance (fullScale x.rangeNow) x.raw value
        let s := s.setSmu g u { x with raw := active }
        if x.run.isSome then
          (if active then s.setSmu g u { x with raw := active, rcCompl := true, complSeen := true } else s)
        else (s.setCompl g u active))
    ∧ (∀ (g : GIx) (u : UIx), Answers (.openLoopDetect g u) (When.openLoopDetect g u) fun s =>
        let x := s.smu g u
        let h : Half := BitVec.ofNat 16 (0x1000 + g.val * 4 + u.val)
        let s := (s.setSmu g u { x with openSeen := true, backup := true }).advise fSmuOpen h
        if cfgOpenNotify x.cfg then s.note (noteEntry 4 0 h true 1 s.netNs) else s)
    ∧ (∀ (g : GIx) (u : UIx) (r : RangeRun), Answers (.rangeStepEnd g u) (When.rangeStepEnd g u r) fun s =>
        let x := s.smu g u
        let last := if r.kind == .safe then 4 else 5
        if r.step ≥ last then
          let s := (s.setSmu g u { x with run := none }).setCompl g u (x.raw && r.kind != .safe)
          s.rangesDone
        else (s.setSmu g u { x with run := some { r with step := r.step + 1 }, rangeNow := if r.step == 2 then r.new else x.rangeNow }))
    ∧ (∀ (m : Fin 7) (e : Entry) (w : Wait), Answers (.smuMeasureTrigger m) (When.smuMeasureTrigger m e w) fun s =>
        (forAll w.units (fun s u =>
              let x := s.smu (u / 4) (u % 4)
              s.setSmu (u / 4) (u % 4) { x with meas := x.meas.map fun q =>
                if !q.started && q.mark < s.presented (u / 4) q.mode q.source then { q with started := true, startNs := s.upNs } else q }) s))
    ∧ (∀ (g : GIx) (u : UIx) (code : Int) (q : SmuMeas), Answers (.smuConversion g u code) (When.smuConversion g u q) fun s =>
        let x := s.smu g u
        let fl := x.measFlags ((s.patch (tileOf g)).version != 0)
        (s.setSmu g u { x with meas := some (q.add (convCode (cfgMeasV x.cfg) code) fl) }))
    ∧ (∀ (m : Fin 7) (e : Entry) (w : Wait) (t : Tgt), Answers (.smuMeasureComplete m) (When.smuMeasureComplete m e w t) fun s =>
        let recs := t.here.filterMap fun pu =>
          if w.units.contains pu.2 then (s.smu (pu.2 / 4) (pu.2 % 4)).meas.map fun q => (pu.1, pu.2, q.record) else none
        let n := (recs.head?.bind fun r => (s.smu (r.2.1 / 4) (r.2.1 % 4)).meas.map (·.n)).getD 0
        let voltage := (recs.head?.map fun r => cfgMeasV (s.smu (r.2.1 / 4) (r.2.1 % 4)).cfg).getD false
        let start := recs.foldl (fun a r => match (s.smu (r.2.1 / 4) (r.2.1 % 4)).meas with | some q => max a q.startNs | none => a) 0
        let s := recs.foldl (fun s r => s.emitRec 1 (s.siteOf (r.2.1 / 4)) r.2.2.bytes) s
        let s := forAll w.units (fun s u => s.setSmu (u / 4) (u % 4) { s.smu (u / 4) (u % 4) with meas := none }) s
        let mr := recs.map fun r => (r.1, r.2.2)
        (s.respondFrom m start (us (n + 30)) (memberReply t w.safe mr { len := 24, flag := some 20 } 0 (if t.gang then gangDerived mr voltage else none))))
    ∧ (Answers .peRailArm When.peRailArm fun s =>
        { s with power := { s.power with peArmed := true } })
    ∧ (Answers .clearNRelease (fun _ => True) fun s =>
        { s with clearLow := false })
    ∧ (∀ (m : Fin 7) (e : Entry) (w : Wait) (t : Tgt), Answers (.smuOutputSettled m) (When.smuOutputSettled m e w t) fun s =>
        (s.respond m (us 450) (s.smuChargeReply t)))

/-- The sequencer and stream events have the effects their chapters give. Where the spec leaves something open, this is the choice of the model (assumption logs 23, 24, 25, 26, 27, 35, 101, 102, 119, 120, 122, 129, 130). -/
def Obligations.StrokeEventsComplete : Prop :=
  (∀ (q : Seqr) (mode : Nat) (src : Nat), Answers (.strokeStartTrigger q) (When.strokeStartTrigger q mode src) fun s =>
        let w := whoOf q
        let x := s.seqOf w
        (s.setSeq w { x with start := some (0, src) }))
    ∧ (∀ (q : Seqr) (cause : Cause) (cycle : Nat), Answers (.jumpRequest q cause cycle) (fun _ => True) fun s =>
        (match whoOf q with
          | .g g => if s.follows (.g g) then s.requestJoined g cause cycle else s.request (.g g) cause cycle
          | w => s.request w cause cycle))
    ∧ (∀ (q : Seqr) (obs : List Obs), Answers (.granuleBoundary q obs) (fun _ => True) fun s =>
        (s.granule (whoOf q) obs))
    ∧ (∀ (g : GIx), Answers (.checkpointEntryFree g) (When.checkpointEntryFree g) fun s =>
        ((s.takeCkpt g).etchRecheck g))
    ∧ (∀ (q : Seqr) (c : Cont), Answers (.resolutionComplete q) (When.resolutionComplete q c) fun s =>
        let w := whoOf q
        let x := s.seqOf w
        let s := s.setSeq w { x with cont := some { c with unresolved := false, phaseReset := true, slow := true } }
        let s := forAll (s.players w) (fun s g =>
          (s.modSeq g fun y => { y with seqLate := sat16 y.seqLate }).advise fSeqLate (s.gHandle g)) s
        if x.why == some .resolve then s.goOn w [] else s)
    ∧ (∀ (g : GIx) (e : Etch), Answers (.etchBeginMarkerDurable g) (When.etchBeginMarkerDurable g e) fun s =>
        (s.etchDurable g e))
    ∧ (∀ (g : GIx) (e : EtchEnd) (l : List EtchEnd), Answers (.etchEndMarkerWrite g) (When.etchEndMarkerWrite g e l) fun s =>
        let w := s.whoOn g
        ((s.settleAll w ((e.last + 1) * pclkU) [g]).writeEtchEnd g))
    ∧ (∀ (g : GIx), Answers (.streamGranulePresent g) (fun _ => True) fun s =>
        (s.modPlay g fun y => { y with fill := min 256 (y.fill + 1) }))
    ∧ (∀ (q : Seqr), Answers (.stallResume q) (When.stallResume q) fun s =>
        let w := whoOf q
        let x := s.seqOf w
        let t := s.stallEdge x * pclkU
        let base := t - 32 * x.n * x.period
        let s := s.reachBoundary w t
        let x := s.seqOf w
        if x.st != .held then s
        else
          let s := s.setSeq w { x with st := .running, why := none, slow := true, startS := base }
          let s := forAll (s.players w) (fun s g => s.modG g fun G =>
            let G := G.mapPins fun _ x => { x with edges := x.edges.map fun d => { d with old := true } }
            let y := G.play.stallOver s.upNs
            { G with seq := { G.seq with slow := true, st := .running },
                     play := { y with startS := base, cur := { y.cur with flags := y.cur.flags ||| rfNotAtSpeed } } }) s
          (s.beginGranule w []))
    ∧ (∀ (q : Seqr), Answers (.stallLimitExpiry q) (When.stallLimitExpiry q) fun s =>
        let w := whoOf q
        let x := s.seqOf w
        let s := forAll (s.players w) (fun s g => s.modPlay g fun y => { y.stallOver s.upNs with underrunAbort := true }) s
        (s.haltAt w (s.stallEdge x * pclkU) 4 0 rfUnderrunAbort))
    ∧ (∀ (g : GIx), Answers (.haltHoldExpiry g) (When.haltHoldExpiry g) fun s =>
        ((s.modG g (·.applyHaltState)).pinsChanged g))
    ∧ (∀ (p : Fin 4), Answers (.bcastPrimeComplete p) (When.bcastPrimeComplete p) fun s =>
        let P := s.prog p
        let n := s.primeLen p
        let s := s.setProg p { P with priming := false }
        (forAll (s.followers p) (fun s g => s.modPlay g fun y => { y with fill := max y.fill n }) s))

/-- The Ampoule events have the effects their chapters give. Where the spec leaves something open, this is the choice of the model (assumption logs 16, 55, 102, 108, 124, 130). -/
def Obligations.AmpouleEventsComplete : Prop :=
  (∀ (t : AmpTrig), Answers (.ampTrigger t) When.ampTrigger fun s =>
        (forAll (s.waiters .convert) (fun s m =>
          match s.waiting m with
          | some (e, w) =>
            let us := s.openMembers m w.units
            let g0 := match (s.target e.req).locals with | some u :: _ => some (u / 2) | _ => none
            let fits := us.any fun u => (s.chan (u / 2) (u % 2)).queue.any fun q => q.mbx == m && q.waitsFor g0 t
            let started := us.any fun u => let x := s.chan (u / 2) (u % 2); x.run.isSome && match x.queue with | q :: _ => q.mbx == m | [] => false
            if !fits || started then s
            else if s.atHeads m us then s.startConversions m us
            else forAll us (fun s u =>
              let x := s.chan (u / 2) (u % 2)
              s.setChan (u / 2) (u % 2) { x with trigEarly := sat32 x.trigEarly }) s
          | none => s) s))
    ∧ (∀ (g : GIx) (c : Two) (q : AmpReq) (l : List AmpReq) (e : Entry) (w : Wait), Answers (.ampTriggerTimeout g c) (When.ampTriggerTimeout g c q l e w) fun s =>
        let s := forAll w.units (fun s u =>
          let x := s.chan (u / 2) (u % 2)
          s.setChan (u / 2) (u % 2) { x with queue := x.queue.filter (·.mbx != q.mbx), held := x.held.filter (·.req.mbx != q.mbx) }) s
        (s.respondFrom q.mbx (w.headNs.getD s.upNs) (us (q.timeout + 200)) (Reply.err stTrigTimeout)).ampNext)
    ∧ (∀ (g : GIx) (c : Two) (code : Int) (inj : Int) (r : AmpRun) (q : AmpReq) (l : List AmpReq), Answers (.ampConversionEnd g c code inj) (When.ampConversionEnd g c inj r q l) fun s =>
        let code := max (-8388608) (min 8388607 code)
        let s := s.putComp g c q.range ((s.comp g c q.range).period s.upNs r.codes code)
        let v := code - inj * 131072
        let codes := (code, inj) :: r.codes.take 1
        if r.zero then
          let s := s.putComp g c q.range { (s.comp g c q.range).zeroCode s.upNs v with zero := v }
          (s.setChan g c { s.chan g c with last := some (code, inj),
                                                 run := some { r with zero := false, codes := codes, firstNs := s.netNs, step := s.amp.compStep,
                                                                      scale := s.currentScale g c, flags := s.flagsNow g c } })
        else
          let atEnd := code == 8388607 || code == -8388608
          let r := { r with codes := codes, count := r.count + 1, sum := r.sum + v,
                            min := if r.count == 0 then v else Min.min r.min v, max := if r.count == 0 then v else Max.max r.max v,
                            flags := r.flags ||| s.flagsNow g c ||| b2n atEnd * afOver }
          let s := s.setChan g c { s.chan g c with run := some r, last := some (code, inj) }
          (if r.count ≥ q.n then (s.ampFinish g c 0).ampNext else s))
    ∧ (∀ (g : GIx) (c : Two), Answers (.ampAnswerPost g c) (fun _ => True) fun s =>
        (s.ampPost g c))
    ∧ (∀ (g : GIx) (c : Two) (src : Nat) (m : Nat) (p : Nat) (e : Entry) (w : Wait), Answers (.claimGrant g c) (When.claimGrant g c src m p e w) fun s =>
        let s := s.dequeue m w.units
        let st := firstStatus w.units fun u => s.claimStatus (u / 2) src
        let t0 := w.headNs.getD s.upNs
        if st != stOK then (s.countRefusal.respondFrom m t0 (us 100) (Reply.err st)).ampNext
        else
          let s := forAll w.units (fun s u => s.select (u / 2) (u % 2) src) s
          (s.respondFrom m t0 (us 100) (s.connectReply w.tgt src)).ampNext)
    ∧ (∀ (g : GIx) (p : Span), Answers (.spanPhaseEnd g) (When.spanPhaseEnd g p) fun s =>
        let b := s.bridge g
        if p.phase ≥ (if p.kind == .go then 2 else 4) then
          (s.setBridge g (if p.kind == .go then b.opened else { b with span := none })).spansDone
        else (s.setBridge g { b with span := some { p with phase := p.phase + 1 } }))
    ∧ (∀ (g : GIx) (uv : Int), Answers (.excOutOfRange g uv) (When.excOutOfRange g) fun s =>
        ((s.setBridge g ((s.bridge g).measured uv)).flagRuns g))
    ∧ (Answers .modclkLockLoss When.modclkLockLoss fun s =>
        let s := s.setAmp { s.amp with pllLost := true }
        let s := forAll (s.waiters .ampRef) State.refsLost s
        let s := forAll (s.amp.gathers.map (·.1)) (fun s g =>
          let s := s.ampAbort g afPll false
          let s := forAll [0, 1] (fun s c =>
            let x := s.chan g c
            s.setChan g c { x with self := [], last := none, refRun := false, refDue := x.refDue || x.refRun, refFor := none }) s
          let b := s.bridge g
          s.setBridge g { b with trackLost := b.trackLost || b.mode == 2, density := false }) s
        (s.refsDone.advise fAmpPll hDevice))
    ∧ (Answers .modclkLockReturn When.modclkLockReturn fun s =>
        (s.setAmp { s.amp with pllLost := false }).ampNext)
    ∧ (Answers .ampRailLoss (fun _ => True) fun s =>
        s.ampRailLost)
    ∧ (∀ (romOk : Bool), Answers (.ampouleStart romOk) When.ampouleStart fun s =>
        let a := s.amp
        let fresh : List (Nat × AmpG) := (List.range 64).map fun g =>
          let x : Chan := { refRun := true, refAt := s.upNs }
          (g, { chans := [(0, x), (1, x)], bridge := { cleared := s.clearLow, atZero := s.clearLow, densAt := s.upNs } })
        let slot := fun (k : Nat) => (Tab.get {} s.sec.slots (2 + k)).valid
        let act := s.sec.active.getD 1 0
        let run := if romOk then some (if slot act then act else 1 - act) else none
        let read := a.hssRing.isEmpty || a.hssRing.any fun w => ringIntact w.2
        let s := { s with sec := { s.sec with running := s.sec.running.set 1 run } }
        (s.setAmp { a with inReset := false, railLow := false, noImage := !romOk, pllLost := false, starts := sat32 a.starts,
                                   opens := s.sealOpens, opensPending := 0, intAdj := a.intAdj || a.torn, torn := false, compStep := 0,
                                   gathers := if romOk then fresh else [], candidate := [], adjusting := romOk && a.legal == 1, treeBusy := a.treeDue,
                                   stopLms := a.stopLms && !(a.lmsRetry && read), lmsRetry := false }))
    ∧ (∀ (g : GIx) (c : Two), Answers (.refpCheckDue g c) (When.refpCheckDue g c) fun s =>
        let x := s.chan g c
        (s.setChan g c { x with refDue := true, refAt := x.refAt + refPeriod }).ampChecks)
    ∧ (∀ (g : GIx) (c : Two) (uv : Int) (residuals : List Int), Answers (.refpCheckEnd g c uv residuals) (When.refpCheckEnd g c) fun s =>
        let x := s.chan g c
        let was := s.stopRef
        let s := s.setChan g c { x with last := none, refRun := false, refNs := s.netNs, refUv := some uv, refFor := none }
        let s := if uv < 4990000 ∨ 5010000 < uv then s.advise fAmpRefRange (BitVec.ofNat 16 (0x3000 + 2 * g.val + c.val)) else s
        let s := if !was && s.stopRef then s.closeSheet 2 else s
        let s := (residuals.zipIdx.filter (·.2 < 4)).foldl (fun s e =>
          s.putComp g c e.2 ((s.comp g c e.2).closeGain { num := e.1, den := 10 ^ 9 } { num := 0, den := 1 })) s
        s.refsDone.ampNext)
    ∧ (∀ (g : GIx) (c : Two) (code : Int) (inj : Int), Answers (.selfTraffic g c code inj) (When.selfTraffic g c inj) fun s =>
        let x := s.chan g c
        let code := max (-8388608) (min 8388607 code)
        let (open_, s) := s.fresh
        let range := x.lastRange.getD (open_ % 4)
        let y := ((s.comp g c range).period s.upNs x.self code).zeroCode s.upNs (code - inj * 131072)
        let s := s.putComp g c range y
        (s.setChan g c { s.chan g c with last := some (code, inj), self := (code, inj) :: x.self.take 1 }))
    ∧ (∀ (g : GIx), Answers (.codeDensityDue g) (When.codeDensityDue g) fun s =>
        let b := s.bridge g
        ((s.setBridge g { b with density := true, densAt := s.upNs }).setChan g 0 { s.chan g 0 with self := [] }))
    ∧ (∀ (g : GIx) (inlPpb : Nat), Answers (.codeDensityEnd g inlPpb) (When.codeDensityEnd g) fun s =>
        let b := s.bridge g
        let s := (s.setBridge g { b with density := false }).setChan g 0 { s.chan g 0 with last := none }
        let s := s.keepRecord g 0 4 [(inlPpb : Int)]
        (if inlPpb > 1500 then s.advise fAmpInl (BitVec.ofNat 16 (0x3000 + 2 * g.val)) else s).ampChecks)
    ∧ (∀ (g : GIx) (c : Two) (range : Fin 4) (offset : Bool), Answers (.calBlockStale g c range offset) (When.calBlockStale g c range offset) fun s =>
        let x := s.comp g c range
        (s.setComp g c range (if offset then { x with oBlock := {} } else { x with gBlock := {} })))
    ∧ (∀ (g : GIx) (c : Two) (range : Fin 4), Answers (.compensationUpdate g c range) (When.compensationUpdate g c) fun s =>
        (s.applyComp g c range))
    ∧ (∀ (g : GIx) (uv : Int), Answers (.clip g uv) (When.clip g) fun s =>
        ((s.setBridge g ((s.bridge g).measured uv)).flagRuns g))

/-- The seal and time-interval events have the effects their chapters give. Where the spec leaves something open, this is the choice of the model (assumption logs 39, 40, 41, 53, 102, 125, 130). -/
def Obligations.SealAndTiuEventsComplete : Prop :=
  (Answers .sealOpen (fun _ => True) fun s =>
        let a := s.amp
        if a.legal == 1 then (s.setAmp { a with sealRaw := 1, sealNs := s.upNs })
        else
          let a' := { a with legal := 1, sealRaw := 1, sealNs := s.upNs }
          if a.inReset || s.power.pstate == 3 then (s.setAmp { a' with opensPending := sat32 a.opensPending })
          else ((s.setAmp { a' with opens := sat32 a.opens }).closeSheet 3).newCandidate)
    ∧ (∀ (g : GIx), Answers (.adjustmentGatherDone g) (When.adjustmentGatherDone g) fun s =>
        let (k, s) := s.fresh
        (s.setAmp { s.amp with candidate := Tab.put s.amp.candidate g (adjusted k), adjusting := s.amp.candidate.length + 1 < 64 }))
    ∧ (Answers .sealClose (fun _ => True) fun s =>
        (s.setAmp { s.amp with legal := 0, sealRaw := 0, sealNs := s.upNs }).newCandidate)
    ∧ (∀ (ok : Bool) (x : Sheet), Answers (.signingIndexReserved ok) (When.signingIndexReserved x) fun s =>
        let a := s.amp
        if ok then
          let (q, s) := s.takeIndex
          (s.setSheets (updFirst (fun (y : Sheet) => y.num == x.num) (fun y => { y with index := some q }) s.amp.sheets))
        else
          let (v, s) := s.fresh
          let left := (a.sheets.filter (·.num != x.num)).map fun y => if y.prev == x.num then { y with prevState := 1 } else y
          let s := s.setAmp { a with stopLms := true, hssRing := ringTear a.hssRing v, sheets := left, prevState := if a.prevSheet == x.num then 1 else a.prevState }
          (((s.closeSheet 2).advise fAmpLmsState hDevice).answerSheet x.num (Reply.err stSheetEmpty)).lifeTry)
    ∧ (∀ (x : Sheet), Answers .sheetSealed (When.sheetSealed x) fun s =>
        let block := x.sealed s.ampIdent s.ampChecksum
        let l := updFirst (fun (y : Sheet) => y.num == x.num) (fun y => { y with block := some block }) s.amp.sheets
        let s := (s.setSheets (keep64 l)).emitRec 6 0xFFFF block
        (s.answerSheet x.num (.ok block)).lifeTry)
    ∧ (Answers .level1TreeDone When.level1TreeDone fun s =>
        (s.setAmp { s.amp with treeBusy := false, trees := s.amp.trees + 1 }))
    ∧ (Answers .adjustCommitDurable (fun _ => True) fun s =>
        s.ampCommit.lifeTry)
    ∧ (∀ (g : GIx) (u : UIx) (asserted : Bool), Answers (.tiuGate g u asserted) (When.tiuGate g u asserted) fun s =>
        let x := s.tiu g u
        s.setTiu g u (x.arm s.netNs s.upNs s.tref.fallback))
    ∧ (∀ (g : GIx) (u : UIx) (asserted : Bool), Answers (.tiuGate g u asserted) (When.tiuGate2 g u asserted) fun s =>
        s.closeTiu g u 0)
    ∧ (∀ (g : GIx) (u : UIx), Answers (.tiuGateTimeout g u) (When.tiuGateTimeout g u) fun s =>
        let x := s.tiu g u
        (s.setTiu g u { x with st := .idle, meas := none, timedOut := true }).tiusDone)
    ∧ (∀ (g : GIx) (u : UIx), Answers (.tiuWindowEnd g u) (When.tiuWindowEnd g u) fun s =>
        (s.closeTiu g u 0))
    ∧ (∀ (g : GIx) (u : UIx) (stop : Bool) (place : Fin 768) (rising : Bool) (inWindow : Bool) (m : TiuMeas), Answers (.tiuEdgeStamp g u stop place rising inWindow) (When.tiuEdgeStamp g u stop place rising inWindow m) fun s =>
        let x := s.tiu g u
        (s.setTiu g u { x with meas := some { m with deadMiss := m.deadMiss + 1 } }))
    ∧ (∀ (g : GIx) (u : UIx) (stop : Bool) (place : Fin 768) (rising : Bool) (inWindow : Bool) (m : TiuMeas), Answers (.tiuEdgeStamp g u stop place rising inWindow) (When.tiuEdgeStamp2 g u stop place rising inWindow m) fun s =>
        let x := s.tiu g u
        let raw := s.rawStamp place
        let t := s.corrected g u (tiuKind stop x.src) (tiuSrc stop x.src) raw
        let mode := tiuMode x.cfg
        let (m, done) := x.stamp m stop raw t
        let x := if mode == 3 then { x with stamps := x.stamps ++ [stampEntry t rising s.tref.fallback] } else x
        let s := s.setTiu g u { x with meas := some m }
        if done then s.closeTiu g u 0 else s)
    ∧ (∀ (g : GIx) (u : UIx), Answers (.tiuServiceOverflow g u) (When.tiuServiceOverflow g u) fun s =>
        (s.closeTiu g u tfOverflow))
    ∧ (Answers .trefLoss (fun _ => True) fun s =>
        let s := { s with tref := { s.tref with present := false, freq := 0, fallback := true, lossNs := s.upNs,
                                                relockNs := if s.tref.present then some s.upNs else s.tref.relockNs } }
        (s.markFallback.advise fTrefLoss hDevice))
    ∧ (∀ (mhz100 : Bool), Answers (.trefReturn mhz100) When.trefReturn fun s =>
        let s := { s with tref := { s.tref with present := true, freq := if mhz100 then 2 else 1, fallback := false, relockNs := none } }
        (s.markFallback.advise fTrefBack hDevice))
    ∧ (Answers .tuclkWrap When.tuclkWrap fun s =>
        { s with tref := { s.tref with epoch := sat16 s.tref.epoch, zeroNs := s.tref.zeroNs + coarseSpan } })

/-- The capture and Marver events have the effects their chapters give. Where the spec leaves something open, this is the choice of the model (assumption logs 45, 46, 47, 56, 102, 128, 129, 130). -/
def Obligations.CaptureAndCalEventsComplete : Prop :=
  (∀ (g : GIx) (d : Two) (fire : CapFire) (place : Nat) (time : Nat), Answers (.capTrigger g d fire place) (When.capTrigger g d fire place time) fun s =>
        let s := match fire with
          | .level _ _ c => s.samplesTaken g ((s.dig g d).levelOf d) [code14 c]
          | .pattern s0 s1 => (s.samplesTaken g 0 [code14 s0]).samplesTaken g 1 [code14 s1]
          | _ => s
        let mark := s.capPresented g (s.dig g d).trig
        let s := s.registerTrigger g d (digKind (s.dig g d).trig) time
        let x := s.dig g d
        (s.setDig g d { x with patHeld := x.patHeld || digKind x.trig == 2, lvlReady := x.lvlReady && digKind x.trig != 0,
                                         arm := x.arm.map fun a => { a with mark := mark } }))
    ∧ (∀ (g : GIx) (d : Two) (a : CapArm) (t : CapTrig), Answers (.capArbitrationEnd g d) (When.capArbitrationEnd g d a t) fun s =>
        let armed := a.group.filter fun u => (s.dig (u / 2) (u % 2)).st == .armed
        (forAll armed (fun s u =>
              let x := s.dig (u / 2) (u % 2)
              s.setDig (u / 2) (u % 2) { x with st := .capturing, arm := x.arm.map fun a => { a with trig := some t, seen := none } }) s))
    ∧ (∀ (g : GIx) (d : Two) (samples : List Int) (drained : Nat) (a : CapArm), Answers (.capItemWrite g d samples drained) (When.capItemWrite g d a) fun s =>
        let cs := samples.map code14
        (s.samplesTaken g d cs))
    ∧ (∀ (g : GIx) (d : Two) (samples : List Int) (drained : Nat) (a : CapArm), Answers (.capItemWrite g d samples drained) (When.capItemWrite2 g d samples a) fun s =>
        let cs := samples.map code14
        let x := s.dig g d
        let y := x.take a cs drained ((s.gather g).digFlags x (s.tilePatched g))
        let s := s.setDig g d y
        let s := match y.arm with | some b => { s with dram := a.flowItem b s.dram } | none => s
        (s.samplesTaken g d cs))
    ∧ (∀ (g : GIx) (d : Two) (samples : List Int) (drained : Nat), Answers (.capItemWrite g d samples drained) (When.capItemWrite3 g d) fun s =>
        s.samplesTaken g d (samples.map code14))
    ∧ (∀ (g : GIx) (d : Two) (a : CapArm), Answers (.capRecordEnd g d) (When.capRecordEnd g d a) fun s =>
        s.closeRecord g d 0)
    ∧ (∀ (g : GIx) (d : Two), Answers (.capHoldoffEnd g d) (When.capHoldoffEnd g d) fun s =>
        (s.armDig g d))
    ∧ (∀ (g : GIx) (d : Two), Answers (.capConverterReady g d) (When.capConverterReady g d) fun s =>
        let x := s.dig g d
        let held := (s.gather g).safe.on || x.clearHold
        let s := s.setDig g d { x with warming := false, parked := false, out := if held then x.out else x.offset }
        (forAll (s.waiters .converter) (fun s m =>
            match s.waiting m with
            | some (e, w) =>
              if w.units.any fun u => (s.dig (u / 2) (u % 2)).parked then s
              else
                let t := w.tgt
                s.respond m (us 80) (memberReply t (s.safePos t) (t.here.map fun pu => (pu.1, { bytes := [] })) {})
            | none => s) s))
    ∧ (∀ (t : TIx) (readings : List Int), Answers (.tempRead t readings) (When.tempRead readings) fun s =>
        let x := s.calTile t
        let ex := excludedOf readings
        let valid := (readings.zipIdx.filter fun r => !ex.testBit r.2).map (·.1)
        let (up, s) := s.choose
        let temp := if valid.isEmpty then maxOf (((List.range 4).filter (· != t.val)).map fun i => (s.calTile i).temp)
          else valid.sum / (valid.length : Int) + b2n (up && valid.sum % (valid.length : Int) != 0)
        let s := forAll ((List.range 4).filter fun i => ex.testBit i && !x.excluded.testBit i) (fun s _ => s.advise fCalSensor (hTile t)) s
        let high := x.tjHigh && decide (14500 ≤ temp)
        let s := if !high && decide (15000 < temp) then s.advise fTjHigh (hTile t) else s
        let s := s.setCalTile t { x with readings := readings, excluded := ex, temp := temp, tjHigh := high || decide (15000 < temp) }
        (s.tempDue t))
    ∧ (∀ (g : GIx) (e : CalEl), Answers (.calStepStart g e) (When.calStepStart g e) fun s =>
        let n := elNum e
        let t := tileOf g
        let y := s.calTile t
        let s := if y.due && !y.started then s.setCalTile t { y with started := true, startTemp := y.temp, counts := [0, 0, 0, 0] } else s
        if !s.calReady g n false then (s.endStep g n .precond)
        else
          let edge : Bool := match e with | .tiu _ => true | .dig _ => true | .timing _ => true | _ => false
          let s := if edge && s.power.pstate == 2 then s.setPstate 1 else s
          let x := s.calG g
          let loop := if 48 ≤ n && n < 64 then ((List.range 4).filter fun u => (s.tiu g u).st == .idle).head? else none
          let s := s.setCalG g { x with running := Tab.put x.running n s.upNs, ran := if x.window then x.ran ||| 2 ^ 16 else x.ran,
                                        loops := match loop with | some u => Tab.put x.loops n u | none => x.loops }
          let s := match elPin n with | some p => s.setPin g p { s.pin g p with iso := true } | none => s
          (forAll ((s.calG g).serves n) (fun s u => s.setTiu g u ((s.tiu g u).serve s.netNs s.upNs s.tref.fallback)) s))
    ∧ (∀ (g : GIx) (e : CalEl) (figure : Int) (more : List Int) (k : Nat) (since : Nat), Answers (.calStepEnd g e figure more) (When.calStepEnd g e k since) fun s =>
        let n := elNum e
        let x := s.calG g
        let vs := (List.range (elFigures n)).map ((figure :: more).getD · 0)
        let old : Figure := match x.figures.find? (·.1 == n) with | some (_, f) => f | none => { out := .done }
        let temp := (s.calTile (tileOf g)).temp
        let ready := s.calReady g n true
        let s := s.freeService g (x.serves n)
        let s := match elPin n with
          | some p => if x.window || x.steps.any fun k => k != n && elPin k == some p then s else s.closePins g [p]
          | none => s
        if !ready then (s.endStep g n .precond)
        else if !figuresIn n vs then
          let s := s.setCalG g { s.calG g with figures := Tab.put x.figures n { old with failed := true } }
          ((s.endStep g n .limit).advise fCalElement (elHandle g n))
        else
          let s := s.setCalG g { s.calG g with figures := Tab.put x.figures n { out := .done, values := vs, atNs := s.upNs, temp := temp } }
          ((s.putCoef g n).endStep g n .done))
    ∧ (∀ (g : GIx), Answers (.calwinIsolationClose g) (When.calwinIsolationClose g) fun s =>
        let x := s.calG g
        let ps := (s.gather g).isolated.filter fun p => !x.steps.any fun k => elPin k == some p
        (s.closePins g ps))
    ∧ (∀ (t : TIx), Answers (.calOverdueTimer t) (When.calOverdueTimer t) fun s =>
        let x := s.calTile t
        ((s.setCalTile t { x with overdue := true }).advise fCalOverdue (hTile t)))
    ∧ (Answers .calStoreDataDone When.calStoreDataDone fun s =>
        { s with cal := { s.cal with storing := 2 } })
    ∧ (Answers .calStoreCommitDone (fun _ => True) fun s =>
        s.calCommit)

/-- The fault, safe state, journal and power events have the effects their chapters give. Where the spec leaves something open, this is the choice of the model (assumption logs 13, 16, 57, 58, 59, 60, 62, 63, 66, 67, 70, 99, 111, 130). -/
def Obligations.FaultAndPowerEventsComplete : Prop :=
  (∀ (sensor : Fin 16) (reading : Int), Answers (.tjCrit sensor reading) (When.tjCrit reading) fun s =>
        (s.addCause fTjCrit hDevice).raise fTjCrit hDevice (BitVec.ofNat 32 (sensor.val * 65536 + (reading % 65536).toNat)))
    ∧ (∀ (src : Half) (scope : Half) (detail : Word), Answers (.faultOccurrence src scope detail) (When.faultOccurrence src scope) fun s =>
        if src == fLockstep || src == fLockstepRepeat then s.lockstep
          else if src == fAmpStore || src == fAmpStoreMac then s.storeMac
          else (if srcClass src == 0xA then s else s.addCause src scope).raise src scope detail)
    ∧ (Answers .faultLogWrite (fun _ => True) fun s =>
        s.logFault)
    ∧ (Answers .safeReleaseCheck When.safeReleaseCheck fun s =>
        forAll (s.gathers.map (·.1)) (fun s g =>
            if (s.gather g).safe.on && !(s.gather g).safe.held && s.mayRelease g then s.releaseSafe g true else s) s)
    ∧ (∀ (site : Fin 128) (c : Ckpt), Answers (.replayStart site) (When.replayStart site c) fun s =>
        let g := site.val % 64
        (s.replayOne g).2)
    ∧ (∀ (site : Fin 128) (c : Ckpt), Answers (.replayStart site) (When.replayStart2 site c) fun s =>
        let g := site.val % 64
        (s.replayMembers g c))
    ∧ (∀ (site : Fin 128), Answers (.replayStart site) (When.replayStart3 site) fun s =>
        let g := site.val % 64
        (s.replayOne g).2)
    ∧ (∀ (site : Fin 128), Answers (.replayStart site) (When.replayStart4 site) fun s =>
        let g := site.val % 64
        s.replayJoin g)
    ∧ (∀ (g : GIx), Answers (.vfyOutcomeWrite g) (fun _ => True) fun s =>
        let s := s.vfySettle g
        match (s.gather g).replay with
        | some r =>
          match r.etch, r.vfyDone with
          | some e, some v =>
            let o := classify v (s.journal.blank.getLsbD (s.siteOf g))
            let s := s.writeMarker (s.markerOf g 3 o (e % 4096) (e / 4096 == 1))
            let s := s.report { site := s.siteOf g, etch := o, trigger := r.trigger, stroke := e, run := r.run, cseq := r.cseq, time := s.netNs }
            (s.modG g fun G => { G with replay := some { r with etch := none, vfyDone := none, vfyTag := none } })
          | _, _ => s
        | none => s)
    ∧ (Answers .watchdogExpiry When.watchdogExpiry fun s =>
        s.raise fWdog hDevice)
    ∧ (Answers .fclkGap (fun _ => True) fun s =>
        (s.raise fFltSelf hDevice))
    ∧ (Answers .collectorMismatch (fun _ => True) fun s =>
        (s.raise fFltSelf hDevice))
    ∧ (Answers .refclkLoss (fun _ => True) fun s =>
        ((s.addCause fRefclkLoss hDevice).raise fRefclkLoss hDevice))
    ∧ (∀ (pll : Pll), Answers (.pllLoss pll) (fun _ => True) fun s =>
        ((s.addCause fPllLoss hDevice).raise fPllLoss hDevice))
    ∧ (∀ (r : Rail) (mv : Int), Answers (.railOutOfWindow r mv) (fun _ => True) fun s =>
        let detail : Word := BitVec.ofNat 32 ((mv % 65536).toNat)
        let logic := fun (k : Nat) (s : State) =>
          if s.railRaised fRailLogic then (s.addCause fRailLogic hDevice).raise fRailLogic hDevice (BitVec.ofNat 32 (k * 65536) + detail) else s
        let pe := fun (k : Nat) (s : State) =>
          if s.railRaised fRailPe then (s.addCause fRailPe hDevice).raise fRailPe hDevice (BitVec.ofNat 32 (k * 65536) + detail) else s
        let out := fun (lo hi : Int) => decide (mv < lo ∨ hi < mv)
        (match r with
          | .vddao => if mv < 1600 then s.powerOnReset true else s
          | .vdd => if mv < 700 then s.powerOnReset false else if out 770 980 then logic 1 s else s
          | .vddm => if out 970 1130 then logic 2 s else s
          | .vddio => if out 1650 1930 then logic 3 s else s
          | .vdda => if out 1650 1930 then logic 4 s else s
          | .vddamp => if mv < 770 then s.ampRailLost else s
          | .vddampa => if mv < 1650 then s.ampRailLost else s
          | .vph =>
            let s := { s with power := { s.power with vphUv := mv * 1000 } }
            if out 6300 9200 then pe 7 s else s
          | .vpl =>
            let s := { s with power := { s.power with vplUv := mv * 1000 } }
            if out (-3700) (-800) then pe 8 s else s))
    ∧ (∀ (pulseNs : Nat), Answers (.pfailAssert pulseNs) When.pfailAssert fun s =>
        let (acts, s) := s.pulseActs pulseNs 1000 2000
        if acts then s.park else s)
    ∧ (Answers .pfailHighExpiry When.pfailHighExpiry fun s =>
        s.orderlyReset 4)
    ∧ (∀ (pulseNs : Nat), Answers (.resetNAssert pulseNs) (fun _ => True) fun s =>
        let (acts, s) := s.pulseActs pulseNs 100 1000
        if acts then s.orderlyReset 1 else s)
    ∧ (∀ (vddaoLost : Bool), Answers (.powerOnReset vddaoLost) (fun _ => True) fun s =>
        (s.powerOnReset vddaoLost))
    ∧ (∀ (d : Due), Answers .resetTimer (When.resetTimer d) fun s =>
        s.orderlyReset d.code)
    ∧ (∀ (chainPos : BitVec 6) (chainLast : Bool) (twinId : Bool) (slotA : Bool) (slotB : Bool) (calNewer : Bool) (calOlder : Bool) (clocks : Clocks), Answers (.startup chainPos chainLast twinId slotA slotB calNewer calOlder clocks) When.startup fun s =>
        let s := (s.setChain { s.chain with pos := chainPos, last := chainLast, twinId := twinId }).checkPos
        let s := { s with sec := s.sec.dispose, power := { s.power with wipe := false } }
        let s := ((s.bootImage slotA slotB).loaderPort.bootCal calNewer calOlder).scanMarkers
        let s := { s.setPstate 1 with tref := TiuRef.atStart clocks.tref s.upNs }
        let s := s.clearAtStart
        let s := s.relatch.syncAll (touch [] ((List.range 4).map lineC))
        let s := forAll s.faults.causes (fun s c => s.raise c.1 c.2) s
        if clocks.refclk then s else (s.addCause fRefclkLoss hDevice).raise fRefclkLoss hDevice)
    ∧ (Answers .wipeEnd (fun _ => True) fun s =>
        { s with power := { s.power with wipe := false } })
    ∧ (Answers .dormantEntryDone When.dormantEntryDone fun s =>
        let s := s.enterDormant
        if s.power.wakeHeld.isSome then s.wake true 0 else s)
    ∧ (∀ (restored : Bool) (dormantNs : Nat), Answers (.wakeNAssert restored dormantNs) When.wakeNAssert fun s =>
        s.wake restored dormantNs)
    ∧ (∀ (restored : Bool) (dormantNs : Nat), Answers (.wakeNAssert restored dormantNs) When.wakeNAssert2 fun s =>
        { s with power := { s.power with wakeHeld := s.power.wakeHeld.orElse fun _ => some 1 } })
    ∧ (∀ (src : Half) (scope : Half), Answers (.faultCauseClear src scope) (fun _ => True) fun s =>
        (s.setFaults { s.faults with causes := s.faults.causes.filter (· != (src, scope)) }))

/-- The twin link and hand-over bus events have the effects their chapters give. Where the spec leaves something open, this is the choice of the model (assumption logs 84, 86, 88, 89, 91, 92, 93, 95, 97, 98, 130). -/
def Obligations.TwinEventsComplete : Prop :=
  (∀ (matching : Bool) (shadows : Bool), Answers (.linkPaired matching shadows) (When.linkPaired matching) fun s =>
        (s.advise fPairClash hDevice))
    ∧ (∀ (matching : Bool) (shadows : Bool), Answers (.linkPaired matching shadows) (When.linkPaired2 matching shadows) fun s =>
        let s := s.sendOwed false
        (s.setTwin { s.twin with st := 2, shadowHeld := true, beatNs := s.upNs }))
    ∧ (Answers .twinAbsentTimeout When.twinAbsentTimeout fun s =>
        (s.setTwin { s.twin with absent := true }).advise fTwinAbsent hDevice)
    ∧ (Answers .heartbeatSend When.heartbeatSend fun s =>
        let t := s.twin
        s.setTwin { t with beats := t.beats + 1, beat := some (t.st, t.gotSeq, t.owner, s.upNs) })
    ∧ (Answers .heartbeatTimeout When.heartbeatTimeout fun s =>
        s.declareDown)
    ∧ (Answers .mirrorAckTimeout When.mirrorAckTimeout fun s =>
        s.declareDown)
    ∧ (Answers .linkLoss When.linkLoss fun s =>
        let (frame, s) := s.choose
        let s := s.setTwin { s.twin with link := false, losses := satAdd 0xFFFF_FFFF s.twin.losses 1,
                                         resends := satAdd 0xFFFF_FFFF s.twin.resends (if frame then maxAttempts - 1 else 0) }
        if s.twin.dormantTold then s else s.declareDown)
    ∧ (Answers .annealFrame (fun _ => True) fun s =>
        s.declareDown)
    ∧ (∀ (seq : Nat), Answers (.mirrorEntryAck seq) When.mirrorEntryAck fun s =>
        s.ackTo seq)
    ∧ (∀ (m : LinkMsg), Answers (.twinLinkFrame m) When.twinLinkFrame fun s =>
        let t := s.twin
        let pairing := t.st == 1 || t.st == 2
        (match m with
          | .forwarded op r => if t.st == 2 then s.runForwarded op r else s
          | .report mb tag st recs => if t.st == 2 then s.gotReport mb.val tag st recs else s
          | .checkpoint b => if t.st == 2 then (s.storeCkpt { ckptOf b with mirrored := true }).gotEntry else s
          | .marker b =>
            if t.st == 2 then
              let j := s.journal
              let i := j.nextFree markerRing j.nextMarker
              (s.setJournal { j with markers := Tab.put j.markers i (markerOf b), nextMarker := (i + 1) % markerRing }).gotEntry
            else s
          | .shadow op r => if pairing then ((s.setTwin { t with shadow := t.shadow ++ [(op, r)] })).gotEntry else s
          | .halfBack writes cks =>
            if t.st == 4 then
              let s := s.setTwin { t with st := 2, down := false, unacked := [], ackSeq := t.sentSeq, shadowHeld := true, beatNs := s.upNs }
              let s := writes.foldl State.applyWrite s
              (cks.foldl (fun s b => s.storeCkpt (ckptOf b)) s).syncLines
            else s
          | .dormant =>
            if t.st == 2 && !s.anySeqBusy && !s.anyCapBusy && !s.anyTiuBusy && !s.anyAmpBusy && !s.power.entering then s.startDormant else s))
    ∧ (Answers .dormantFrame When.dormantFrame fun s =>
        s.setTwin { s.twin with dormantTold := true })
    ∧ (Answers .wakeLinkTimeout When.wakeLinkTimeout fun s =>
        s.declareDown)
    ∧ (Answers .hosOwnerWaitExpiry When.hosOwnerWaitExpiry fun s =>
        (s.setTwin { s.twin with owner := true, hosWait := false }).writeChain s.twin.otherIn)
    ∧ (Answers .hosSilenceExpiry When.hosSilenceExpiry fun s =>
        (s.setTwin { s.twin with watching := false, owner := true }).takeOver)
    ∧ (Answers .hosEdgeSeen (fun _ => True) fun s =>
        let t := s.twin
        (s.setTwin { t with hosWait := false, watching := false, st := if t.watching then 4 else t.st,
                                  replayOwed := if t.watching then [] else t.replayOwed }))
    ∧ (Answers .hosReadbackConflict When.hosReadbackConflict fun s =>
        s.setTwin { s.twin with owner := false, hosWait := true, hosNs := s.upNs })
    ∧ (Answers .hosRefresh When.hosRefresh fun s =>
        s.writeChain (s.twin.otherIn != s.twin.swapping))
    ∧ (Answers .hosBeacon When.hosBeacon fun s =>
        s.setTwin { s.twin with beacons := s.twin.beacons + 1, beaconNs := s.upNs })
    ∧ (Answers .turnChange When.turnChange fun s =>
        s.endTurn.release)
    ∧ (Answers .turnChange When.turnChange2 fun s =>
        let t := s.twin
        let s := (s.writeChain (!t.otherIn)).endTurn
        (s.setTwin { s.twin with swapping := true, swapNs := s.upNs, turnWanted := false, forced := false, etchStop := false }))
    ∧ (Answers .turnSwapDone When.turnSwapDone fun s =>
        let first := s.twin.takeover
        let s := s.swapHalves
        let s := s.setTwin { s.twin with swapping := false, takeover := false }
        let s := if first then s.twin.shadow.foldl State.applyWrite s else s
        (forAll (s.waiters .otherHalf) State.runOther s.syncLines))
    ∧ (Answers .turnLimitExpiry When.turnLimitExpiry fun s =>
        let t := s.twin
        let s := (s.setTwin { t with forced := true }).stopAll true
        let s := forAll (s.gathers.map (·.1)) (fun s g => (s.endTius g tfAborted).endDigs g cfAborted) s
        let s := forAll (s.amp.gathers.map (·.1)) (fun s g => s.ampAbort g afTurn false) s
        (s.advise fTurnForced hDevice))
    ∧ (∀ (state : BitVec 3) (mirrorSeq : Nat) (ownsBus : Bool), Answers (.heartbeatReceive state mirrorSeq ownsBus) When.heartbeatReceive fun s =>
        let t := s.twin
        let s := s.setTwin { t with partner := state.toNat, partnerOwns := ownsBus, beatNs := s.upNs, st := if t.st == 1 && state == 3 then 4 else t.st }
        (s.ackTo mirrorSeq))
    ∧ (Answers .counterproofLinkUp When.counterproofLinkUp fun s =>
        s.setTwin { s.twin with link := true, dormantTold := false, dormantSent := false, waking := false })

/-- A SYS, CANE, STROKE, STREAM, UCODE, PIN and SMU command whose conditions do not hold executes nothing. -/
def Obligations.RefusedControlCommandsExecuteNothing : Prop :=
  RefusedUnless 0x0102 [8] .sysInfo When.sysInfo
    ∧ RefusedUnless 0x0103 [8] .sysMbxInfo When.sysMbxInfo
    ∧ RefusedUnless 0x0104 [8] .sysFence When.sysFence
    ∧ RefusedUnless 0x0105 [8] .sysReset When.sysReset
    ∧ RefusedUnless 0x0106 [8] .sysPower (fun s r => When.sysPower s r ∨ When.sysPower2 s r)
    ∧ RefusedUnless 0x0201 [0, 1, 2, 3, 4, 5, 6, 7, 8, 9, 0xC] .unitInfo When.unitInfo
    ∧ RefusedUnless 0x0202 [8] .caneDefine (fun s r => (∃ hs : List Half, ∃ depth : Nat, When.caneDefine hs depth s r))
    ∧ RefusedUnless 0x0203 [0, 1, 2, 3, 4, 5, 6, 7, 0xC] .caneDelete When.caneDelete
    ∧ RefusedUnless 0x0204 [0, 1, 2, 3, 4, 5, 6, 7, 0xC] .caneQuery (fun s r => (∃ c : Cane, When.caneQuery c s r))
    ∧ RefusedUnless 0x0205 [0, 1, 2, 3, 4, 5, 6, 7, 0xC] .caneMask (fun s r => (∃ c : Cane, When.caneMask c s r))
    ∧ RefusedUnless 0x0206 [8] .caneList When.caneList
    ∧ RefusedUnless 0x0301 [6, 0xC] .strokeLoad When.strokeLoad
    ∧ RefusedUnless 0x0302 [6, 0xC] .tsetLoad When.tsetLoad
    ∧ RefusedUnless 0x0303 [6, 0xC] .strokeStart When.strokeStart
    ∧ RefusedUnless 0x0304 [6, 0xC] .strokeHalt When.strokeHalt
    ∧ RefusedUnless 0x0305 [6, 0xC] .strokeStatus When.strokeStatus
    ∧ RefusedUnless 0x0306 [6, 8, 0xC] .strokeRead When.strokeRead
    ∧ RefusedUnless 0x0307 [6, 0xC] .seqConfig When.seqConfig
    ∧ RefusedUnless 0x0401 [6, 0xC] .vmemWrite When.vmemWrite
    ∧ RefusedUnless 0x0402 [6, 0xC] .vmemRead When.vmemRead
    ∧ RefusedUnless 0x0403 [6, 0xC] .vmemPin When.vmemPin
    ∧ RefusedUnless 0x0404 [8, 6, 0xC] .streamOpen When.streamOpen
    ∧ RefusedUnless 0x0405 [8] .streamClose When.streamClose
    ∧ RefusedUnless 0x0406 [8] .streamWrite When.streamWrite
    ∧ RefusedUnless 0x0407 [6, 0xC] .bcastLoad When.bcastLoad
    ∧ RefusedUnless 0x0408 [6, 0xC] .bcastStart (fun s r => (∃ p : Nat, When.bcastStart p s r))
    ∧ RefusedUnless 0x0409 [6, 0xC] .bcastUnload (fun s r => (∃ p : Nat, When.bcastUnload p s r))
    ∧ RefusedUnless 0x040A [6, 0xC] .stencilLoad When.stencilLoad
    ∧ RefusedUnless 0x040B [6, 0xC] .stencilClear When.stencilClear
    ∧ RefusedUnless 0x040C [6, 8, 0xC] .streamStatus When.streamStatus
    ∧ RefusedUnless 0x1001 [7, 0xC] .ucodeLoad When.ucodeLoad
    ∧ RefusedUnless 0x1002 [7, 0xC] .ucodeClear When.ucodeClear
    ∧ RefusedUnless 0x1003 [7, 0xC] .ucodeQuery When.ucodeQuery
    ∧ RefusedUnless 0x1004 [7, 0xC] .ucodeRead When.ucodeRead
    ∧ RefusedUnless 0x0501 [0, 0xC] .pinConfig When.pinConfig
    ∧ RefusedUnless 0x0502 [0, 0xC] .pinLevels When.pinLevels
    ∧ RefusedUnless 0x0503 [0, 0xC] .pinLoad When.pinLoad
    ∧ RefusedUnless 0x0504 [0, 0xC] .pinClearCodes When.pinClearCodes
    ∧ RefusedUnless 0x0505 [0, 0xC] .pinComparator When.pinComparator
    ∧ RefusedUnless 0x0506 [0, 0xC] .pinRelease When.pinRelease
    ∧ RefusedUnless 0x0507 [0, 0xC] .pinStatus When.pinStatus
    ∧ RefusedUnless 0x0508 [0, 0xC] .pinRead When.pinRead
    ∧ RefusedUnless 0x0509 [6, 0xC] .sentConfig When.sentConfig
    ∧ RefusedUnless 0x050A [6, 0xC] .sentStatus When.sentStatus
    ∧ RefusedUnless 0x050B [6, 0xC] .contactCheck When.contactCheck
    ∧ RefusedUnless 0x0601 [1, 0xC] .smuConfig When.smuConfig
    ∧ RefusedUnless 0x0602 [1, 0xC] .smuForce When.smuForce
    ∧ RefusedUnless 0x0603 [1, 0xC] .smuSafe When.smuSafe
    ∧ RefusedUnless 0x0604 [1, 0xC] .smuTrip When.smuTrip
    ∧ RefusedUnless 0x0605 [1, 0xC] .smuMeasure When.smuMeasure
    ∧ RefusedUnless 0x0606 [1, 0xC] .smuRelease When.smuRelease
    ∧ RefusedUnless 0x0607 [1, 0xC] .smuStatus When.smuStatus
    ∧ RefusedUnless 0x0608 [1, 0xC] .smuRead When.smuRead

/-- A TIU, CAPTURE, HATCH, CAL, TIME/NET and AMPOULE command whose conditions do not hold executes nothing. -/
def Obligations.RefusedInstrumentCommandsExecuteNothing : Prop :=
  AmpRefusedUnless 0x0701 [8] .ampIdent When.ampIdent
    ∧ AmpRefusedUnless 0x0702 [3, 0xC] .ampConnect When.ampConnect
    ∧ AmpRefusedUnless 0x0703 [3, 0xC] .ampDisconnect When.ampDisconnect
    ∧ AmpRefusedUnless 0x0704 [3, 0xC] .ampConvert When.ampConvert
    ∧ AmpRefusedUnless 0x0705 [2, 0xC] .ampBridge When.ampBridge
    ∧ AmpRefusedUnless 0x0706 [2, 0xC] .ampBridgeStatus When.ampBridgeStatus
    ∧ AmpRefusedUnless 0x0707 [8] .ampStatus When.ampStatus
    ∧ AmpRefusedUnless 0x0708 [8] .ampSheetClose When.ampSheetClose
    ∧ AmpRefusedUnless 0x0709 [8] .ampSheetRead When.ampSheetRead
    ∧ AmpRefusedUnless 0x070A [8] .ampAdjust When.ampAdjust
    ∧ AmpRefusedUnless 0x070B [8] .ampCounter When.ampCounter
    ∧ AmpRefusedUnless 0x070C [8] .ampRefcheck When.ampRefcheck
    ∧ RefusedUnless 0x0801 [5, 0xC] .tiuConfig When.tiuConfig
    ∧ RefusedUnless 0x0802 [5, 0xC] .tiuStart When.tiuStart
    ∧ RefusedUnless 0x0803 [5, 0xC] .tiuAbort When.tiuAbort
    ∧ RefusedUnless 0x0804 [5, 0xC] .tiuStamps When.tiuStamps
    ∧ RefusedUnless 0x0805 [5, 8, 0xC] .tiuStatus When.tiuStatus
    ∧ RefusedUnless 0x0806 [6, 8, 0xC] .tiuSelftest When.tiuSelftest
    ∧ RefusedUnless 0x0807 [5, 0xC] .tiuRead When.tiuRead
    ∧ RefusedUnless 0x0901 [4, 0xC] .capConfig When.capConfig
    ∧ RefusedUnless 0x0902 [4, 0xC] .capLimits When.capLimits
    ∧ RefusedUnless 0x0903 [4, 0xC] .capArm When.capArm
    ∧ RefusedUnless 0x0904 [4, 0xC] .capForce When.capForce
    ∧ RefusedUnless 0x0905 [4, 0xC] .capAbort When.capAbort
    ∧ RefusedUnless 0x0906 [4, 0xC] .capStatus When.capStatus
    ∧ RefusedUnless 0x0907 [4, 0xC] .capHeader When.capHeader
    ∧ RefusedUnless 0x0908 [4, 0xC] .capRead When.capRead
    ∧ RefusedUnless 0x0909 [4, 0xC] .capReadCfg When.capReadCfg
    ∧ RefusedUnless 0x0A01 [6, 8, 0xC] .hatchLineConfig (fun s r => (∃ keys : List Nat, When.hatchLineConfig keys s r))
    ∧ RefusedUnless 0x0A02 [6, 8, 0xC] .hatchProducer (fun s r => When.hatchProducer s r ∨ When.hatchProducer2 s r)
    ∧ RefusedUnless 0x0A03 [6, 7, 8, 0xC] .hatchForward (fun s r => When.hatchForward s r ∨ When.hatchForward2 s r ∨ When.hatchForward3 s r)
    ∧ RefusedUnless 0x0A04 [8] .hatchTask When.hatchTask
    ∧ RefusedUnless 0x0A05 [6, 8, 0xC] .hatchBind (fun s r => When.hatchBind s r ∨ When.hatchBind2 s r)
    ∧ RefusedUnless 0x0A06 [8] .hatchGroup When.hatchGroup
    ∧ RefusedUnless 0x0A07 [6, 8, 0xC] .hatchRestore (fun s r => (∃ keys : List Nat, When.hatchRestore keys s r))
    ∧ RefusedUnless 0x0A08 [8] .hatchPulse When.hatchPulse
    ∧ RefusedUnless 0x0A09 [6, 7, 8, 0xC] .hatchStatus When.hatchStatus
    ∧ RefusedUnless 0x0B01 [8] .calConfig When.calConfig
    ∧ RefusedUnless 0x0B02 [6, 0xC] .calPinmask When.calPinmask
    ∧ RefusedUnless 0x0B03 [7, 0xC] .calRun When.calRun
    ∧ RefusedUnless 0x0B04 [7, 8, 0xC] .calStatus When.calStatus
    ∧ RefusedUnless 0x0B05 [0, 1, 3, 4, 5, 0xC] .calQuality When.calQuality
    ∧ RefusedUnless 0x0B06 [8] .calStore When.calStore
    ∧ RefusedUnless 0x0B07 [8] .calTemps When.calTemps
    ∧ RefusedUnless 0x0C01 [8] .netConfig When.netConfig
    ∧ RefusedUnless 0x0C02 [8] .netStatus When.netStatus
    ∧ RefusedUnless 0x0C03 [8] .ptpConfig When.ptpConfig
    ∧ RefusedUnless 0x0C04 [8] .timeStatus When.timeStatus
    ∧ RefusedUnless 0x0C05 [8] .timeAdjust When.timeAdjust
    ∧ RefusedUnless 0x0C06 [8] .timeStep (fun s r => When.timeStep s r ∨ When.timeStep2 s r)
    ∧ RefusedUnless 0x0C07 [8] .tcmpArm When.tcmpArm
    ∧ RefusedUnless 0x0C08 [8] .tcmpStatus When.tcmpStatus
    ∧ RefusedUnless 0x0C09 [8] .exportOpen When.exportOpen
    ∧ RefusedUnless 0x0C0A [8] .exportClose When.exportClose
    ∧ RefusedUnless 0x0C0B [8] .exportStatus When.exportStatus
    ∧ RefusedUnless 0x0C0C [8] .exportResend When.exportResend

/-- A TWIN, FAULT and SEC command whose conditions do not hold executes nothing. -/
def Obligations.RefusedManagementCommandsExecuteNothing : Prop :=
  RefusedUnless 0x0D01 [8] .twinConfig When.twinConfig
    ∧ RefusedUnless 0x0D02 [8] .twinStatus When.twinStatus
    ∧ RefusedUnless 0x0D03 [8] .twinHalf When.twinHalf
    ∧ RefusedUnless 0x0D04 [8] .twinRelease When.twinRelease
    ∧ RefusedUnless 0x0D05 [6, 0xC] .jrnConfig When.jrnConfig
    ∧ RefusedUnless 0x0D06 [8] .jrnCheckpoint (fun s r => (∃ c : Ckpt, When.jrnCheckpoint c s r))
    ∧ RefusedUnless 0x0D07 [8] .jrnMarkers When.jrnMarkers
    ∧ RefusedUnless 0x0D08 [8] .jrnReport When.jrnReport
    ∧ RefusedUnless 0x0E01 [8] .fltRead When.fltRead
    ∧ RefusedUnless 0x0E02 [8] .fltAck When.fltAck
    ∧ RefusedUnless 0x0E03 [8] .fltForce When.fltForce
    ∧ RefusedUnless 0x0E04 [8] .fltConfig When.fltConfig
    ∧ RefusedUnless 0x0E05 [8] .fltLog When.fltLog
    ∧ RefusedUnless 0x0E06 [6, 0xC] .fltRelease When.fltRelease
    ∧ RefusedUnless 0x0F01 [8] .secCert When.secCert
    ∧ RefusedUnless 0x0F02 [8] .secAttest When.secAttest
    ∧ RefusedUnless 0x0F03 [8] .imgWrite When.imgWrite
    ∧ RefusedUnless 0x0F04 [8] .imgCommit When.imgCommit
    ∧ RefusedUnless 0x0F05 [8] .imgActivate When.imgActivate
    ∧ RefusedUnless 0x0F06 [8] .imgStatus When.imgStatus
    ∧ RefusedUnless 0x0F07 [8] .lcChallenge When.lcChallenge
    ∧ RefusedUnless 0x0F08 [8] .lcCsr When.lcCsr
    ∧ RefusedUnless 0x0F09 [8] .lcInstall When.lcInstall
    ∧ RefusedUnless 0x0F0A [8] .lcTransition (fun s r => When.lcTransition s r ∨ When.lcTransition2 s r)

/-- An event of the link, pin, stroke and Ampoule kind whose condition does not hold changes nothing. Where the spec leaves something open, this is the choice of the model (assumption log 3). -/
def Obligations.EventsWithoutTheirConditionDoNothing : Prop :=
  (∀ (m : Fin 8) (offset : BitVec 12) (word : Word), IdleUnless (.responseAck m offset word) (When.responseAck offset))
    ∧ IdleUnless .notifyBatchForm When.notifyBatchForm
    ∧ (∀ (offset : BitVec 12) (word : Word), IdleUnless (.notifyBatchAck offset word) (When.notifyBatchAck offset))
    ∧ (∀ (path : Path) (op : BitVec 4) (f : Frame), IdleUnless (.chainNop path op f) (When.chainNop op))
    ∧ (∀ (bits : Nat) (sdi : Nat) (delays : Delays) (clash : Bool) (overReset : Bool), IdleUnless (.chainBurstTransfer bits sdi delays clash overReset) (When.chainBurstTransfer bits overReset))
    ∧ (∀ (port : Two), IdleUnless (.ethLinkUp port) (When.ethLinkUp port))
    ∧ (∀ (port : Two), IdleUnless (.ethLinkLoss port) (When.ethLinkLoss port))
    ∧ (∀ (port : Two) (m : PtpSync), IdleUnless (.ptpSync port m) (When.ptpSync port))
    ∧ IdleUnless .syncTimeout When.syncTimeout
    ∧ (∀ (n : Fin 16), IdleUnless (.tcmpFire n) (When.tcmpFire n))
    ∧ IdleUnless .exportDatagramSend When.exportDatagramSend
    ∧ (∀ (fromDest : Bool) (crcOk : Bool) (ackSeq : Word) (naks : List Word), IdleUnless (.exportAck fromDest crcOk ackSeq naks) When.exportAck)
    ∧ (∀ (seq : Word), IdleUnless (.exportRto seq) (fun s => (∃ d : Dgram, When.exportRto seq d s) ∨ (∃ d : Dgram, When.exportRto2 seq d s)))
    ∧ (∀ (j : Fin 4) (level : Lvl), IdleUnless (.trigInEdge j level) (fun s => When.trigInEdge level s ∨ When.trigInEdge2 level s))
    ∧ (∀ (r : Fin 16), IdleUnless (.relayPulse r) (When.relayPulse r))
    ∧ (∀ (line : Half), IdleUnless (.stormLimit line) (fun s => (∃ k : Nat, When.stormLimit line k s)))
    ∧ (∀ (line : Half), IdleUnless (.ringDetect line) (fun s => (∃ k : Nat, When.ringDetect line k s)))
    ∧ (∀ (line : Half), IdleUnless (.notifyCoalesceEnd line) (fun s => (∃ k : Nat, When.notifyCoalesceEnd line k s)))
    ∧ IdleUnless .evqLostPost When.evqLostPost
    ∧ (∀ (e : CmpEvent), IdleUnless (.comparatorChange e) (When.comparatorChange e))
    ∧ (∀ (e : CmpEvent), IdleUnless (.modeChangeHoldEnd e) (When.modeChangeHoldEnd e))
    ∧ (∀ (g : GIx) (n : Two), IdleUnless (.sentinelDwellEnd g n) (When.sentinelDwellEnd g n))
    ∧ (∀ (g : GIx) (p : PIx), IdleUnless (.driverOvercurrent g p) (When.driverOvercurrent g p))
    ∧ (∀ (g : GIx) (p : PIx), IdleUnless (.deglitchRelease g p) (When.deglitchRelease g p))
    ∧ (∀ (g : GIx) (p : PIx), IdleUnless (.levelOrderedLatch g p) (When.levelOrderedLatch g p))
    ∧ (∀ (m : Fin 7), IdleUnless (.dacSettled m) (fun s => (∃ e : Entry, ∃ w : Wait, When.dacSettled m e w s)))
    ∧ (∀ (pulseNs : Nat), IdleUnless (.clearNAssert pulseNs) (When.clearNAssert pulseNs))
    ∧ (∀ (g : GIx) (u : UIx) (value : Int), IdleUnless (.complianceSwitch g u value) (When.complianceSwitch g u))
    ∧ (∀ (g : GIx) (u : UIx), IdleUnless (.openLoopDetect g u) (When.openLoopDetect g u))
    ∧ (∀ (g : GIx) (u : UIx), IdleUnless (.rangeStepEnd g u) (fun s => (∃ r : RangeRun, When.rangeStepEnd g u r s)))
    ∧ (∀ (m : Fin 7), IdleUnless (.smuMeasureTrigger m) (fun s => (∃ e : Entry, ∃ w : Wait, When.smuMeasureTrigger m e w s)))
    ∧ (∀ (g : GIx) (u : UIx) (code : Int), IdleUnless (.smuConversion g u code) (fun s => (∃ q : SmuMeas, When.smuConversion g u q s)))
    ∧ (∀ (m : Fin 7), IdleUnless (.smuMeasureComplete m) (fun s => (∃ e : Entry, ∃ w : Wait, ∃ t : Tgt, When.smuMeasureComplete m e w t s)))
    ∧ (∀ (q : Seqr), IdleUnless (.strokeStartTrigger q) (fun s => (∃ mode : Nat, ∃ src : Nat, When.strokeStartTrigger q mode src s)))
    ∧ (∀ (g : GIx), IdleUnless (.checkpointEntryFree g) (When.checkpointEntryFree g))
    ∧ (∀ (q : Seqr), IdleUnless (.resolutionComplete q) (fun s => (∃ c : Cont, When.resolutionComplete q c s)))
    ∧ (∀ (g : GIx), IdleUnless (.etchBeginMarkerDurable g) (fun s => (∃ e : Etch, When.etchBeginMarkerDurable g e s)))
    ∧ (∀ (g : GIx), IdleUnless (.etchEndMarkerWrite g) (fun s => (∃ e : EtchEnd, ∃ l : List EtchEnd, When.etchEndMarkerWrite g e l s)))
    ∧ (∀ (q : Seqr), IdleUnless (.stallResume q) (When.stallResume q))
    ∧ (∀ (q : Seqr), IdleUnless (.stallLimitExpiry q) (When.stallLimitExpiry q))
    ∧ (∀ (g : GIx), IdleUnless (.haltHoldExpiry g) (When.haltHoldExpiry g))
    ∧ (∀ (p : Fin 4), IdleUnless (.bcastPrimeComplete p) (When.bcastPrimeComplete p))
    ∧ (∀ (t : AmpTrig), IdleUnless (.ampTrigger t) When.ampTrigger)
    ∧ (∀ (g : GIx) (c : Two), IdleUnless (.ampTriggerTimeout g c) (fun s => (∃ q : AmpReq, ∃ l : List AmpReq, ∃ e : Entry, ∃ w : Wait, When.ampTriggerTimeout g c q l e w s)))
    ∧ (∀ (g : GIx) (c : Two) (code : Int) (inj : Int), IdleUnless (.ampConversionEnd g c code inj) (fun s => (∃ r : AmpRun, ∃ q : AmpReq, ∃ l : List AmpReq, When.ampConversionEnd g c inj r q l s)))
    ∧ (∀ (g : GIx) (c : Two), IdleUnless (.claimGrant g c) (fun s => (∃ src : Nat, ∃ m : Nat, ∃ p : Nat, ∃ e : Entry, ∃ w : Wait, When.claimGrant g c src m p e w s)))
    ∧ (∀ (g : GIx), IdleUnless (.spanPhaseEnd g) (fun s => (∃ p : Span, When.spanPhaseEnd g p s)))
    ∧ (∀ (g : GIx) (uv : Int), IdleUnless (.excOutOfRange g uv) (When.excOutOfRange g))
    ∧ IdleUnless .modclkLockLoss When.modclkLockLoss
    ∧ IdleUnless .modclkLockReturn When.modclkLockReturn
    ∧ (∀ (romOk : Bool), IdleUnless (.ampouleStart romOk) When.ampouleStart)
    ∧ (∀ (g : GIx) (c : Two), IdleUnless (.refpCheckDue g c) (When.refpCheckDue g c))
    ∧ (∀ (g : GIx) (c : Two) (uv : Int) (residuals : List Int), IdleUnless (.refpCheckEnd g c uv residuals) (When.refpCheckEnd g c))
    ∧ (∀ (g : GIx) (c : Two) (code : Int) (inj : Int), IdleUnless (.selfTraffic g c code inj) (When.selfTraffic g c inj))
    ∧ (∀ (g : GIx), IdleUnless (.codeDensityDue g) (When.codeDensityDue g))
    ∧ (∀ (g : GIx) (inlPpb : Nat), IdleUnless (.codeDensityEnd g inlPpb) (When.codeDensityEnd g))
    ∧ (∀ (g : GIx) (c : Two) (range : Fin 4) (offset : Bool), IdleUnless (.calBlockStale g c range offset) (When.calBlockStale g c range offset))
    ∧ (∀ (g : GIx) (c : Two) (range : Fin 4), IdleUnless (.compensationUpdate g c range) (When.compensationUpdate g c))
    ∧ (∀ (g : GIx), IdleUnless (.adjustmentGatherDone g) (When.adjustmentGatherDone g))
    ∧ (∀ (ok : Bool), IdleUnless (.signingIndexReserved ok) (fun s => (∃ x : Sheet, When.signingIndexReserved x s)))

/-- An event of the instrument, fault, power and twin kind whose condition does not hold changes nothing. Where the spec leaves something open, this is the choice of the model (assumption log 3). -/
def Obligations.LaterEventsWithoutTheirConditionDoNothing : Prop :=
  IdleUnless .sheetSealed (fun s => (∃ x : Sheet, When.sheetSealed x s))
    ∧ IdleUnless .level1TreeDone When.level1TreeDone
    ∧ (∀ (g : GIx) (u : UIx) (asserted : Bool), IdleUnless (.tiuGate g u asserted) (fun s => When.tiuGate g u asserted s ∨ When.tiuGate2 g u asserted s))
    ∧ (∀ (g : GIx) (u : UIx), IdleUnless (.tiuGateTimeout g u) (When.tiuGateTimeout g u))
    ∧ (∀ (g : GIx) (u : UIx), IdleUnless (.tiuWindowEnd g u) (When.tiuWindowEnd g u))
    ∧ (∀ (g : GIx) (u : UIx) (stop : Bool) (place : Fin 768) (rising : Bool) (inWindow : Bool), IdleUnless (.tiuEdgeStamp g u stop place rising inWindow) (fun s => (∃ m : TiuMeas, When.tiuEdgeStamp g u stop place rising inWindow m s) ∨ (∃ m : TiuMeas, When.tiuEdgeStamp2 g u stop place rising inWindow m s)))
    ∧ (∀ (g : GIx) (u : UIx), IdleUnless (.tiuServiceOverflow g u) (When.tiuServiceOverflow g u))
    ∧ (∀ (mhz100 : Bool), IdleUnless (.trefReturn mhz100) When.trefReturn)
    ∧ IdleUnless .tuclkWrap When.tuclkWrap
    ∧ (∀ (g : GIx) (d : Two) (fire : CapFire) (place : Nat), IdleUnless (.capTrigger g d fire place) (fun s => (∃ time : Nat, When.capTrigger g d fire place time s)))
    ∧ (∀ (g : GIx) (d : Two), IdleUnless (.capArbitrationEnd g d) (fun s => (∃ a : CapArm, ∃ t : CapTrig, When.capArbitrationEnd g d a t s)))
    ∧ (∀ (g : GIx) (d : Two) (samples : List Int) (drained : Nat), IdleUnless (.capItemWrite g d samples drained) (fun s => (∃ a : CapArm, When.capItemWrite g d a s) ∨ (∃ a : CapArm, When.capItemWrite2 g d samples a s) ∨ When.capItemWrite3 g d s))
    ∧ (∀ (g : GIx) (d : Two), IdleUnless (.capRecordEnd g d) (fun s => (∃ a : CapArm, When.capRecordEnd g d a s)))
    ∧ (∀ (g : GIx) (d : Two), IdleUnless (.capHoldoffEnd g d) (When.capHoldoffEnd g d))
    ∧ (∀ (g : GIx) (d : Two), IdleUnless (.capConverterReady g d) (When.capConverterReady g d))
    ∧ (∀ (t : TIx) (readings : List Int), IdleUnless (.tempRead t readings) (When.tempRead readings))
    ∧ (∀ (sensor : Fin 16) (reading : Int), IdleUnless (.tjCrit sensor reading) (When.tjCrit reading))
    ∧ (∀ (g : GIx) (e : CalEl), IdleUnless (.calStepStart g e) (When.calStepStart g e))
    ∧ (∀ (g : GIx) (e : CalEl) (figure : Int) (more : List Int), IdleUnless (.calStepEnd g e figure more) (fun s => (∃ k : Nat, ∃ since : Nat, When.calStepEnd g e k since s)))
    ∧ (∀ (g : GIx), IdleUnless (.calwinIsolationClose g) (When.calwinIsolationClose g))
    ∧ (∀ (t : TIx), IdleUnless (.calOverdueTimer t) (When.calOverdueTimer t))
    ∧ IdleUnless .calStoreDataDone When.calStoreDataDone
    ∧ (∀ (src : Half) (scope : Half) (detail : Word), IdleUnless (.faultOccurrence src scope detail) (When.faultOccurrence src scope))
    ∧ IdleUnless .safeReleaseCheck When.safeReleaseCheck
    ∧ (∀ (site : Fin 128), IdleUnless (.replayStart site) (fun s => (∃ c : Ckpt, When.replayStart site c s) ∨ (∃ c : Ckpt, When.replayStart2 site c s) ∨ When.replayStart3 site s ∨ When.replayStart4 site s))
    ∧ IdleUnless .watchdogExpiry When.watchdogExpiry
    ∧ IdleUnless .peRailArm When.peRailArm
    ∧ (∀ (matching : Bool) (shadows : Bool), IdleUnless (.linkPaired matching shadows) (fun s => When.linkPaired matching s ∨ When.linkPaired2 matching shadows s))
    ∧ IdleUnless .twinAbsentTimeout When.twinAbsentTimeout
    ∧ IdleUnless .heartbeatSend When.heartbeatSend
    ∧ IdleUnless .heartbeatTimeout When.heartbeatTimeout
    ∧ IdleUnless .mirrorAckTimeout When.mirrorAckTimeout
    ∧ IdleUnless .linkLoss When.linkLoss
    ∧ (∀ (seq : Nat), IdleUnless (.mirrorEntryAck seq) When.mirrorEntryAck)
    ∧ (∀ (m : LinkMsg), IdleUnless (.twinLinkFrame m) When.twinLinkFrame)
    ∧ IdleUnless .dormantFrame When.dormantFrame
    ∧ IdleUnless .wakeLinkTimeout When.wakeLinkTimeout
    ∧ IdleUnless .hosOwnerWaitExpiry When.hosOwnerWaitExpiry
    ∧ IdleUnless .hosSilenceExpiry When.hosSilenceExpiry
    ∧ IdleUnless .hosReadbackConflict When.hosReadbackConflict
    ∧ IdleUnless .hosRefresh When.hosRefresh
    ∧ IdleUnless .hosBeacon When.hosBeacon
    ∧ IdleUnless .turnChange (fun s => When.turnChange s ∨ When.turnChange2 s)
    ∧ IdleUnless .turnSwapDone When.turnSwapDone
    ∧ IdleUnless .turnLimitExpiry When.turnLimitExpiry
    ∧ (∀ (pulseNs : Nat), IdleUnless (.pfailAssert pulseNs) When.pfailAssert)
    ∧ IdleUnless .pfailHighExpiry When.pfailHighExpiry
    ∧ IdleUnless .resetTimer (fun s => (∃ d : Due, When.resetTimer d s))
    ∧ (∀ (chainPos : BitVec 6) (chainLast : Bool) (twinId : Bool) (slotA : Bool) (slotB : Bool) (calNewer : Bool) (calOlder : Bool) (clocks : Clocks), IdleUnless (.startup chainPos chainLast twinId slotA slotB calNewer calOlder clocks) When.startup)
    ∧ IdleUnless .dormantEntryDone When.dormantEntryDone
    ∧ (∀ (restored : Bool) (dormantNs : Nat), IdleUnless (.wakeNAssert restored dormantNs) (fun s => When.wakeNAssert s ∨ When.wakeNAssert2 s))
    ∧ (∀ (state : BitVec 3) (mirrorSeq : Nat) (ownsBus : Bool), IdleUnless (.heartbeatReceive state mirrorSeq ownsBus) When.heartbeatReceive)
    ∧ IdleUnless .counterproofLinkUp When.counterproofLinkUp
    ∧ (∀ (port : Two) (m : PtpMsg), IdleUnless (.ptpMessage port m) (When.ptpMessage port))
    ∧ IdleUnless .mpTick When.mpTick
    ∧ (∀ (cells : BitVec 39), IdleUnless (.jtagUpdateDr cells) When.jtagUpdateDr)
    ∧ (∀ (g : GIx) (uv : Int), IdleUnless (.clip g uv) (When.clip g))
    ∧ (∀ (m : Fin 7), IdleUnless (.smuOutputSettled m) (fun s => (∃ e : Entry, ∃ w : Wait, ∃ t : Tgt, When.smuOutputSettled m e w t s)))
    ∧ IdleUnless .exportCloseTimeout When.exportCloseTimeout
end

