-- ==== Sys2Proof/Laws/Tables.lean ====
section
/-!
SUPPORT. Laws of the sparse table (read after write) and of the addressed stores (read after write; every write keeps the canonical
form).
-/
namespace Sys2Proof

variable {α : Type}

@[simp] theorem Tab.get_nil (d : α) (k : Nat) : Tab.get d [] k = d := rfl

@[simp] theorem Tab.get_put_same (d : α) (t : Tab α) (k : Nat) (v : α) : Tab.get d (Tab.put t k v) k = v := by
  induction t with
  | nil => simp [Tab.put, Tab.get]
  | cons e t ih =>
    obtain ⟨i, w⟩ := e
    unfold Tab.put
    split
    · simp [Tab.get]
    · split
      · simp [Tab.get]
      · simp [Tab.get, *]

@[simp] theorem Tab.get_put_other (d : α) (t : Tab α) (k j : Nat) (v : α) (h : j ≠ k) :
    Tab.get d (Tab.put t k v) j = Tab.get d t j := by
  have h' : k ≠ j := fun e => h e.symm
  induction t with
  | nil => simp [Tab.put, Tab.get, h']
  | cons e t ih =>
    obtain ⟨i, w⟩ := e
    unfold Tab.put
    split
    · subst_vars; simp [Tab.get, h']
    · split
      · simp [Tab.get, h']
      · simp [Tab.get, ih]

theorem Tab.get_put (d : α) (t : Tab α) (k j : Nat) (v : α) :
    Tab.get d (Tab.put t k v) j = if j = k then v else Tab.get d t j := by
  split
  · subst_vars; simp
  · exact Tab.get_put_other d t k j v ‹_›

/-- A property of every value a table reads as is kept by a write of such a value. -/
theorem Tab.get_put_holds {P : α → Prop} (d : α) (t : Tab α) (k : Nat) (v : α) (h : ∀ j, P (Tab.get d t j)) (hv : P v) (j : Nat) :
    P (Tab.get d (Tab.put t k v) j) := by
  rw [Tab.get_put]; split
  · exact hv
  · exact h j

namespace Machine

@[simp] theorem Mem.read_nil (k : Nat) : Mem.read [] k = 0#8 := rfl

/-- The addresses below a store's lower bound read 0. -/
theorem Mem.read_below (m : Mem) : ∀ lo k, Mem.wfFrom lo m = true → k < lo → Mem.read m k = 0#8 := by
  induction m with
  | nil => intros; rfl
  | cons e m ih =>
    obtain ⟨a, b⟩ := e
    intro lo k hw hk
    simp [Mem.wfFrom] at hw
    obtain ⟨⟨h1, _⟩, h3⟩ := hw
    have : a ≠ k := by omega
    simp [Mem.read, this]
    exact ih (a + 1) k h3 (by omega)

theorem Mem.read_write (m : Mem) : ∀ lo k j v, Mem.wfFrom lo m = true →
    Mem.read (Mem.write m k v) j = if j = k then v else Mem.read m j := by
  induction m with
  | nil =>
    intro lo k j v _
    unfold Mem.write
    by_cases hv : v = 0#8
    · simp [hv]
    · by_cases hj : j = k
      · simp [hv, Mem.read, hj]
      · have : k ≠ j := fun e => hj e.symm
        simp [hv, Mem.read, hj, this]
  | cons e m ih =>
    obtain ⟨a, b⟩ := e
    intro lo k j v hw
    have hw' := hw
    simp [Mem.wfFrom] at hw'
    obtain ⟨⟨h1, h2⟩, h3⟩ := hw'
    unfold Mem.write
    by_cases hka : k < a
    · have hbelow : Mem.read ((a, b) :: m) k = 0#8 :=
        Mem.read_below _ a k (by simp [Mem.wfFrom, h2, h3]) hka
      by_cases hv : v = 0#8
      · by_cases hj : j = k
        · simp [hka, hv, hj, hbelow]
        · simp [hka, hv, hj]
      · by_cases hj : j = k
        · simp [hka, hv, Mem.read, hj]
        · have : k ≠ j := fun e => hj e.symm
          simp [hka, hv, Mem.read, hj, this]
    · by_cases hke : k = a
      · subst hke
        have hz : Mem.read m k = 0#8 := Mem.read_below m (k + 1) k h3 (by omega)
        by_cases hv : v = 0#8
        · by_cases hj : j = k
          · simp [hv, hj, hz]
          · have : k ≠ j := fun e => hj e.symm
            simp [hv, hj, Mem.read, this]
        · by_cases hj : j = k
          · simp [hv, Mem.read, hj]
          · have : k ≠ j := fun e => hj e.symm
            simp [hv, Mem.read, hj, this]
      · have ih' := ih (a + 1) k j v h3
        by_cases hja : a = j
        · have hjk : j ≠ k := fun e => hke (by omega)
          subst hja; simp [hka, hke, hjk, Mem.read]
        · simp [hka, hke, Mem.read, hja, ih']

theorem Mem.wfFrom_le (m : Mem) (lo lo' : Nat) (h : Mem.wfFrom lo' m = true) (hl : lo ≤ lo') : Mem.wfFrom lo m = true := by
  cases m with
  | nil => rfl
  | cons e m => obtain ⟨a, b⟩ := e; simp [Mem.wfFrom] at h ⊢; exact ⟨⟨by omega, h.1.2⟩, h.2⟩

theorem Mem.wfFrom_write (m : Mem) : ∀ lo k v, Mem.wfFrom lo m = true → lo ≤ k → Mem.wfFrom lo (Mem.write m k v) = true := by
  induction m with
  | nil => intro lo k v _ hk; unfold Mem.write; split <;> simp [Mem.wfFrom, *]
  | cons e m ih =>
    obtain ⟨a, b⟩ := e
    intro lo k v hw hk
    have hw' := hw
    simp [Mem.wfFrom] at hw'
    obtain ⟨⟨h1, h2⟩, h3⟩ := hw'
    unfold Mem.write
    split
    · split
      · exact hw
      · simp [Mem.wfFrom, *] <;> omega
    · split
      · split
        · exact Mem.wfFrom_le m lo (a + 1) h3 (by omega)
        · subst_vars; simp [Mem.wfFrom, *]
      · have := ih (a + 1) k v h3 (by omega)
        simp [Mem.wfFrom, *]

/-- A write keeps the canonical form. -/
theorem Mem.wf_write (m : Mem) (k : Nat) (v : Byte) (h : Mem.wf m = true) : Mem.wf (Mem.write m k v) = true :=
  Mem.wfFrom_write m 0 k v h (Nat.zero_le _)

theorem Mem.wf_writeAll (vs : List Byte) : ∀ (m : Mem) (k : Nat), Mem.wf m = true → Mem.wf (Mem.writeAll m k vs) = true := by
  induction vs with
  | nil => intro m k h; exact h
  | cons v vs ih => intro m k h; exact ih _ _ (Mem.wf_write m k v h)

@[simp] theorem Mem.wf_nil : Mem.wf [] = true := rfl

/-- A byte outside a written range reads as before; one inside it reads the byte written there. -/
theorem Mem.read_writeAll (vs : List Byte) : ∀ (m : Mem) (k j : Nat), Mem.wf m = true →
    Mem.read (Mem.writeAll m k vs) j = if k ≤ j ∧ j < k + vs.length then vs.getD (j - k) 0#8 else Mem.read m j := by
  induction vs with
  | nil =>
    intro m k j _
    have : ¬ (k ≤ j ∧ j < k + ([] : List Byte).length) := by simp
    simp only [Mem.writeAll, if_neg this]
  | cons v vs ih =>
    intro m k j h
    simp only [Mem.writeAll]
    rw [ih _ _ _ (Mem.wf_write m k v h), Mem.read_write m 0 k j v h]
    by_cases hjk : j = k
    · subst hjk
      rw [if_neg (by omega), if_pos rfl, if_pos (by simp)]
      simp
    · by_cases hr : k + 1 ≤ j ∧ j < k + 1 + vs.length
      · have h2 : k ≤ j ∧ j < k + (v :: vs).length := by simp only [List.length_cons]; omega
        obtain ⟨n, hn⟩ : ∃ n, j - k = n + 1 := ⟨j - k - 1, by omega⟩
        have : j - (k + 1) = n := by omega
        rw [if_pos hr, if_pos h2, this, hn]; rfl
      · have h2 : ¬ (k ≤ j ∧ j < k + (v :: vs).length) := by simp only [List.length_cons]; omega
        simp only [if_neg hr, if_neg h2, if_neg hjk]

end Machine
end Sys2Proof
end

