-- ==== Sys2Proof/Laws/Firmware.lean ====
section
/-!
SUPPORT. How a firmware command runs: what its envelope leaves it to do.
-/
namespace Sys2Proof.Machine

-- The case scripts of this file name more tactics than each case needs.
set_option linter.all false

/-! ## Checks -/

theorem checks_ok (l : List Half) : checks l = stOK ↔ ∀ x ∈ l, x = stOK := by
  unfold checks
  constructor
  · intro h x hx
    cases hf : l.find? (· != stOK) with
    | none => simpa using List.find?_eq_none.1 hf x hx
    | some y =>
      rw [hf] at h
      have := List.find?_some hf
      simp at this h
      exact absurd h this
  · intro h
    rw [List.find?_eq_none.2 (by intro x hx; simp [h x hx])]; rfl

theorem needLen_ok (r : Req) (n : Nat) : needLen r n = stOK ↔ r.payload.length = n := by
  unfold needLen
  by_cases h : r.payload.length = n
  · simp [h]
  · simp [h]; decide

theorem unless_ok (c : Bool) {st : Half} (h : st ≠ stOK) : unless' c st = stOK ↔ c = true := by
  unfold unless'; cases c <;> simp [h]

theorem unless_true {c : Bool} {st : Half} (h : c = true) : unless' c st = stOK := by simp [unless', h]

theorem rangeOk_ok (first count max size : Nat) : rangeOk first count max size = stOK ↔ 1 ≤ count ∧ count ≤ max ∧ first + count ≤ size := by
  unfold rangeOk
  rw [unless_ok _ (by decide)]
  simp [and_assoc]

theorem firstStatus_ok (us : List Nat) (f : Nat → Half) : firstStatus us f = stOK ↔ ∀ u ∈ us, f u = stOK := by
  have := checks_ok (us.map f)
  unfold checks at this
  unfold firstStatus
  rw [this]; simp

theorem gathersIdle_ok {s : State} {t : Tgt} (h : ∀ g ∈ t.units, (s.gather g).idle = true) : s.gathersIdle t = stOK := by
  unfold State.gathersIdle
  rw [if_pos]
  simpa using h

theorem guarded_ok {s : State} {st : Half} (h : st = stOK) (go : Unit → State × Act) : guarded s st go = go () := by
  unfold guarded; simp [h]

theorem ampGuard_ok {s : State} {st : Half} (h : st = stOK) (go : Unit → State × Act) : ampGuard s st go = go () := by
  unfold ampGuard; simp [h]

/-- One command at a time waits in each mailbox, so an intake always has room. -/
theorem intake_room (s : State) (legal : Bool) : s.intakeFill legal < intakeDepth legal := by
  unfold State.intakeFill
  exact Nat.lt_of_le_of_lt (List.length_filter_le _ _) (by cases legal <;> decide)

theorem ampEnter_ok {s : State} {r : Req} {len : Nat} {legalOnly : Bool} (h1 : s.amp.inReset = false) (h2 : s.amp.noImage = false)
    (h3 : legalOnly = true → r.mbx.val = 5) (h4 : r.payload.length = len) (go : Unit → State × Act) :
    ampEnter s r len legalOnly go = go () := by
  have hp : unless' (!legalOnly || r.mbx.val == 5) stPathRefused = stOK := by
    apply unless_true; cases legalOnly
    · rfl
    · simp [h3 rfl]
  have hn : needLen r len = stOK := (needLen_ok r len).2 h4
  have hi : unless' (!s.amp.noImage) stAmpOffline = stOK := by apply unless_true; simp [h2]
  unfold ampEnter
  dsimp only
  rw [if_neg (by simp [h1]), if_neg (Nat.not_le.2 (intake_room s _)), hp, hn, hi]
  exact ampGuard_ok rfl go

/-! ## Mailboxes -/

theorem mailbox_setMbx (s : State) (m : Nat) (x : Mailbox) : (s.setMbx m x).mailbox m = x := Tab.get_put_same _ _ _ _

theorem begun_eq (s : State) (op : Half) (r : Req) : s.begun op r = (s.rung op r).startHead r.mbx.val := rfl

/-- A request that joins its mailbox. -/
theorem ring_taken {s : State} {op : Half} {r : Req} (ho : (s.mailbox r.mbx.val).takes = true) (ht : s.taking r = true) (ha : s.atHead op r = false) :
    s.ring op r = (s.rung op r, true) := by
  obtain ⟨hf, ho⟩ : (s.mailbox r.mbx.val).entries.any (·.refusal) = false ∧ (s.mailbox r.mbx.val).outstanding < 16 := by
    simpa [Mailbox.takes] using ho
  have hn : ¬ (s.mailbox r.mbx.val).outstanding ≥ 16 := Nat.not_le.2 ho
  unfold State.rung
  rw [if_neg (by simp [ha])]
  unfold State.taking at ht
  unfold State.ring
  dsimp only
  by_cases h5 : (r.mbx.val == 5) = true
  · rw [if_pos h5] at ht
    rw [if_neg (by simpa [h5] using ht), if_neg (by simp [hf]), if_neg hn, if_neg (by simp [bne, h5]), if_neg (by simp [bne, h5])]
    rfl
  · rw [if_neg h5] at ht
    simp only [Bool.and_eq_true, bne_iff_ne, ne_eq, Bool.not_eq_true'] at ht
    rw [if_neg (by simp [h5]), if_neg (by simp [hf]), if_neg hn, if_neg (by simp [ht.1]), if_neg (by rw [Bool.and_assoc, ht.2]; simp)]
    rfl

theorem rung_atHead {s : State} {op : Half} {r : Req} (h : (s.atHead op r || s.hasRoom r) = true) : (s.rung op r).atHead op r = true := by
  unfold State.rung
  by_cases ha : s.atHead op r = true
  · rw [if_pos ha]; exact ha
  · rw [if_neg ha]
    rw [Bool.or_eq_true] at h
    have hr := h.resolve_left ha
    simp only [State.hasRoom, Bool.and_eq_true] at hr
    have hn : (s.mailbox r.mbx.val).head = none := by simpa using hr.1
    unfold State.atHead
    rw [mailbox_setMbx]
    have : Mailbox.head { s.mailbox r.mbx.val with accepted := (s.mailbox r.mbx.val).accepted + 1, entries := (s.mailbox r.mbx.val).entries ++ [s.queuedEntry op r] } = some (s.queuedEntry op r) := by
      unfold Mailbox.head at hn ⊢
      simp only [List.find?_append, hn]
      rfl
    rw [this]
    simp [Entry.isQueued, State.queuedEntry]

/-- A change of a mailbox that keeps its chosen half is nothing to what the envelope looks at. -/
theorem otherHalf_setMbx (s : State) (r : Req) (x : Mailbox) (hx : x.half = (s.mailbox r.mbx.val).half) :
    (s.setMbx r.mbx.val x).otherHalf r = s.otherHalf r := by
  unfold State.otherHalf
  rw [mailbox_setMbx, hx]
  rfl

theorem rung_otherHalf (s : State) (op : Half) (r : Req) : (s.rung op r).otherHalf r = s.otherHalf r := by
  unfold State.rung
  split
  · rfl
  · exact otherHalf_setMbx s r _ rfl

theorem rung_waitsForHalf (s : State) (op : Half) (r : Req) (acc : List Nat) : (s.rung op r).waitsForHalf op r acc = s.waitsForHalf op r acc := by
  unfold State.waitsForHalf
  rw [rung_otherHalf]
  unfold State.rung
  split <;> rfl

/-- What of a state a change of mailboxes leaves: everything but them. -/
theorem rung_is (s : State) (op : Half) (r : Req) : ∃ t, s.rung op r = { s with mbx := t } := by
  unfold State.rung
  split
  · exact ⟨_, rfl⟩
  · exact ⟨_, rfl⟩

theorem startHead_is (s : State) (m : Nat) : ∃ t, s.startHead m = { s with mbx := t } := ⟨_, rfl⟩

/-- A firmware command that executes now: the recovery loader, the envelope and Anneal in turn, then its own part. -/
theorem firmware_reached {s : State} {op : Half} {r : Req} {accept : List Nat} (h : s.reached op accept r = true) (bound : Nat)
    (body : State → Req → State × Act) :
    s.firmware op bound accept r body =
      let u := (s.rung op r).startHead r.mbx.val
      if s.loaderTakes op r = false then u.respond r.mbx.val bound (Reply.err stStarting)
      else if s.envelope op r accept ≠ stOK then (u.countRefused r.mbx.val (s.envelope op r accept)).respond r.mbx.val bound (Reply.err (s.envelope op r accept))
      else if s.annealTakes op r = false then u.respond r.mbx.val bound (Reply.err stInAnneal)
      else u.runBody op bound r body := by
  unfold State.reached at h
  simp only [Bool.and_eq_true, Bool.not_eq_true', bne_iff_ne, ne_eq] at h
  obtain ⟨⟨⟨⟨⟨h1, h2⟩, h3⟩, h4⟩, h5⟩, h6⟩ := h
  have hs : ∀ (matchHead free : Bool) (q : State × Bool), matchHead = s.atHead op r → free = (s.mailbox r.mbx.val).head.isNone →
      q = (if matchHead then (s, true) else s.ring op r) → q = (s.rung op r, true) ∧ (matchHead || free) = true := by
    intro mh fr q e1 e2 e3
    subst e1 e2 e3
    by_cases ha : s.atHead op r = true
    · rw [if_pos ha, ha]; refine ⟨?_, rfl⟩; unfold State.rung; rw [if_pos ha]
    · rw [if_neg ha]
      have ha' : s.atHead op r = false := by simpa using ha
      rw [ha', Bool.false_or] at h1 h2
      simp only [State.hasRoom, Bool.and_eq_true, decide_eq_true_eq] at h1
      exact ⟨ring_taken h1.2 h2 ha', by rw [h1.1]; simp⟩
  unfold State.firmware
  extract_lets m mh fr
  obtain ⟨e1, e2⟩ := hs mh fr _ rfl rfl rfl
  have e3 := rung_atHead h1
  obtain ⟨t0, ht0⟩ := rung_is s op r
  obtain ⟨t1, ht1⟩ := startHead_is (s.rung op r) r.mbx.val
  have hp : (s.rung op r).power = s.power := by rw [ht0]
  have ht : (s.rung op r).twin = s.twin := by rw [ht0]
  have c0 : ¬ (!true || (s.rung op r).power.parked || (s.rung op r).power.pstate == 3) = true := by
    rw [hp, h3]; simpa using h4
  have c1 : ¬ (!(mh || fr) || !(s.rung op r).atHead op r) = true := by rw [e2, e3]; simp
  have c2 : ¬ (s.rung op r).waitsForHalf op r accept = true := by rw [rung_waitsForHalf, h5]; simp
  have c3 : ¬ ((s.rung op r).twin.turnWanted && startsWork op) = true := by rw [ht, h6]; simp
  have env : ((s.rung op r).startHead m).envelope op r accept = s.envelope op r accept := by rw [ht1, ht0]; rfl
  have e5 : (m != 5 && ((s.rung op r).startHead m).power.img == 2 && !recoveryAllows op) = !s.loaderTakes op r := by
    rw [ht1, ht0]; unfold State.loaderTakes
    show (r.mbx.val != 5 && s.power.img == 2 && !recoveryAllows op) = _
    cases h : (r.mbx.val == 5) <;> simp [bne, h]
  have e6 : (m != 5 && ((s.rung op r).startHead m).faults.anneal && !annealAllows op) = !s.annealTakes op r := by
    rw [ht1, ht0]; unfold State.annealTakes
    show (r.mbx.val != 5 && s.faults.anneal && !annealAllows op) = _
    cases h : (r.mbx.val == 5) <;> simp [bne, h]
  rw [e1]
  refine (if_neg c0).trans ((if_neg c1).trans ((if_neg c2).trans ((if_neg c3).trans ?_)))
  dsimp only
  rw [e5, e6, env]
  simp only [Bool.not_eq_true', bne_iff_ne, ne_eq]
  rfl

/-- A ready firmware command runs its own part, and what that decides follows. -/
theorem firmware_runs {s : State} {op : Half} {accept : List Nat} {r : Req} (h : s.ready op accept r = true) (bound : Nat)
    (body : State → Req → State × Act) :
    s.firmware op bound accept r body =
      (s.begun op r).conclude op bound r (body (s.begun op r) r).1 (body (s.begun op r) r).2 := by
  unfold State.ready at h
  simp only [Bool.and_eq_true, beq_iff_eq] at h
  obtain ⟨⟨⟨h1, h2⟩, h3⟩, h4⟩ := h
  rw [firmware_reached h1]
  dsimp only
  rw [if_neg (by simp [h2]), if_neg (by simp [h3]), if_neg (by simp [h4])]
  rfl

/-- Where a command's own part is its effect, the command completes. -/
theorem completes_of {op : Half} {accept : List Nat} {bound : State → Req → Nat} {command : Req → Instr} {when : State → Req → Prop}
    {effect body : State → Req → State × Act}
    (he : ∀ s r, exec (command r) s = .next ((s.firmware op (bound s r) accept r body).settled op))
    (hb : ∀ u r, when u r → body u r = effect u r) : CompletesIn op accept bound command when effect := by
  intro s r h hw
  rw [he, firmware_runs h, hb _ _ hw]

/-- A firmware command of the table runs as `State.firmware` says. -/
theorem request_firmware {c : Instr} {op : Half} {accept : List Nat} {r : Req} (h : requestOf c = some (op, accept, r)) (s : State) :
    ∃ (bound : Nat) (body : State → Req → State × Act), exec c s = .next ((s.firmware op bound accept r body).settled op) := by
  unfold requestOf at h
  split at h <;> first | (cases h; exact ⟨_, _, rfl⟩) | nomatch h

/-! ## Where a command does not run -/

/-- A request that is turned away at its doorbell, or that waits behind another: the state is as the doorbell left it. -/
theorem stop_at_ring {s : State} {op : Half} {r : Req} {b : Nat} {acc : List Nat} {body : State → Req → State × Act} (ha : s.atHead op r = false) (h : (s.ring op r).2 = false) :
   s.firmware op b acc r body = (s.ring op r).1 := by
  unfold State.firmware
  extract_lets m mh fr
  have e : mh = s.atHead op r := rfl
  rw [e, ha]
  refine if_pos ?_
  show (!(s.ring op r).2 || _ || _) = true
  rw [h]; rfl

/-- A request taken behind another that has no response yet: the checks of its doorbell follow (R402, R403). -/
theorem checked_at_bell {s : State} {op : Half} {r : Req} {b : Nat} {acc : List Nat} {body : State → Req → State × Act} (ha : s.atHead op r = false) (h : (s.ring op r).2 = true) (hh : (s.mailbox r.mbx.val).head.isSome = true) :
   s.firmware op b acc r body = (s.ring op r).1.bellCheck op b acc r body ∨ s.firmware op b acc r body = (s.ring op r).1 := by
  unfold State.firmware
  extract_lets m mh fr
  have e : mh = s.atHead op r := rfl
  have e2 : fr = false := by show (s.mailbox r.mbx.val).head.isNone = false; cases hh' : (s.mailbox r.mbx.val).head <;> simp_all
  rw [e, ha, e2]
  by_cases hc : (!(s.ring op r).2 || (s.ring op r).1.power.parked || (s.ring op r).1.power.pstate == 3) = true
  · exact .inr (if_pos hc)
  · exact .inl ((if_neg hc).trans (if_pos rfl))

/-- A doorbell on a full mailbox (R397). -/
theorem ring_full {s : State} {op : Half} {r : Req} {x : Option Word} (hf : (s.mailbox r.mbx.val).full) (h5 : r.mbx.val = 5 → s.amp.inReset = false) :
   s.ring op r x = (s.doorbellRefused r.mbx.val (refusalEntry op r x stMbxFull), false) := by
  unfold State.ring State.doorbellRefused
  dsimp only
  rw [if_neg (by simp; exact h5)]
  split
  · rfl
  · rw [if_pos (hf.resolve_left ‹_›)]

/-- A request that the envelope refuses. -/
theorem firmware_refused {s : State} {op : Half} {r : Req} {acc : List Nat} {b : Nat} {body : State → Req → State × Act} (h : s.reached op acc r = true) (hl : s.loaderTakes op r = true) (he : s.envelope op r acc ≠ stOK) :
  (s.firmware op b acc r body).settled op = s.turnedAway op r b (s.envelope op r acc) := by
  rw [firmware_reached h]; dsimp only; rw [if_neg (by simp [hl]), if_pos he]; rfl

/-- Behind a sound header the target decides. -/
theorem envelope_target {s : State} {op : Half} {r : Req} {acc : List Nat} (h : headPasses op r = true) (ht : s.targetStatus r.target acc ≠ stOK) : s.envelope op r acc = s.targetStatus r.target acc := by
  unfold headPasses at h; simp at h
  unfold State.envelope
  obtain ⟨⟨⟨⟨h1, h2⟩, h3⟩, h4⟩, h5⟩ := h
  dsimp only
  rw [if_neg (by omega), if_neg (by simp [h2]), if_neg (by rcases h3 with h | h <;> simp [h]), if_neg (by simp [h4, h5])]
  simp [ht]

end Sys2Proof.Machine
end

