-- ==== Sys2Proof/Laws/Keeps.lean ====
section
/-!
SUPPORT. `Keeps s t`: what a change of the state from s to t may never break, part by part. It is reflexive and transitive; the lemmas
`Keeps.x` say that the operation x keeps it, each in the form that lets a chain of operations be taken apart from its last.
-/
namespace Sys2Proof.Machine

-- The case scripts of this file name more tactics than each case needs.
set_option linter.all false

structure Keeps (s t : State) : Prop where
  pend : t.pending = s.pending
  flt : s.faults.orderly → t.faults.orderly
  note : s.hatch.bounded → t.hatch.bounded
  jrn : s.journal.bounded → t.journal.bounded
  twin : s.twin.inRange → t.twin.inRange
  mem : Mem.wf s.dram = true → Mem.wf t.dram = true
  mbx : credits s.mbx → credits t.mbx
  up : s.neverFalls t

/-- The parts that `State.neverFalls` speaks of. -/
def State.ratchets (s : State) : Nat × Tab Nat × Tab Nat × List Nat × Nat := (s.amp.lec, s.amp.hssRing, s.sec.hssRing, s.sec.floors, s.sec.life)

theorem neverFalls_same {s t : State} (e : t.ratchets = s.ratchets) : s.neverFalls t := by
  simp only [State.ratchets, Prod.mk.injEq] at e
  simp [State.neverFalls, ringGrows, e]

theorem ringGrows.refl (a : Tab Nat) : ringGrows a a := fun h => ⟨h, Nat.le_refl _⟩

theorem ringGrows.trans {a b c : Tab Nat} (h : ringGrows a b) (k : ringGrows b c) : ringGrows a c :=
  fun o => ⟨(k (h o).1).1, Nat.le_trans (h o).2 (k (h o).1).2⟩

theorem State.neverFalls.trans {s t u : State} (h : s.neverFalls t) (k : t.neverFalls u) : s.neverFalls u :=
  ⟨fun b => ⟨Nat.le_trans (h.1 b).1 (k.1 (h.1 b).2).1, (k.1 (h.1 b).2).2⟩, h.2.1.trans k.2.1, h.2.2.1.trans k.2.2.1,
    fun i => Nat.le_trans (h.2.2.2.1 i) (k.2.2.2.1 i), Nat.le_trans h.2.2.2.2 k.2.2.2.2⟩

theorem Keeps.refl (s : State) : Keeps s s := ⟨rfl, id, id, id, id, id, id, neverFalls_same rfl⟩

theorem Keeps.trans {s t u : State} (h : Keeps s t) (k : Keeps t u) : Keeps s u :=
  ⟨k.pend.trans h.pend, k.flt ∘ h.flt, k.note ∘ h.note, k.jrn ∘ h.jrn, k.twin ∘ h.twin, k.mem ∘ h.mem, k.mbx ∘ h.mbx, h.up.trans k.up⟩

/-- A change of other parts of the state. -/
theorem Keeps.other {s0 s t : State} (h : Keeps s0 s) (e1 : t.pending = s.pending)
    (e2 : (t.faults.recs, t.faults.log, t.faults.nextSeq) = (s.faults.recs, s.faults.log, s.faults.nextSeq))
    (e3 : t.hatch.queue = s.hatch.queue) (e4 : (t.journal.reports, t.journal.sites) = (s.journal.reports, s.journal.sites))
    (e5 : (t.twin.settle, t.twin.turnLimit) = (s.twin.settle, s.twin.turnLimit)) (e6 : t.dram = s.dram) (e7 : t.mbx = s.mbx)
    (e8 : t.ratchets = s.ratchets) :
    Keeps s0 t := by
  simp only [Prod.mk.injEq] at e2 e4 e5
  refine h.trans ⟨e1, ?_, ?_, ?_, ?_, ?_, ?_, neverFalls_same e8⟩
  · simp [Faults.orderly, e2]
  · simp [Hatch.bounded, e3]
  · simp [Journal.bounded, e4]
  · simp [Twin.inRange, e5]
  · simp [e6]
  · simp [e7]

/-- The same for a change written as a record update. -/
theorem Keeps.update {s0 s : State} (h : Keeps s0 s) {g b c p q n o ch hh f un fc cl tr ti tc po ex am ca tw j pw se jt}
    (e2 : (f.recs, f.log, f.nextSeq) = (s.faults.recs, s.faults.log, s.faults.nextSeq)) (e3 : hh.queue = s.hatch.queue)
    (e4 : (j.reports, j.sites) = (s.journal.reports, s.journal.sites))
    (e5 : (tw.settle, tw.turnLimit) = (s.twin.settle, s.twin.turnLimit))
    (e6 : (am.lec, am.hssRing, se.hssRing, se.floors, se.life) = s.ratchets) :
    Keeps s0 ⟨s.pending, g, b, c, p, q, n, s.mbx, o, ch, hh, f, un, fc, s.dram, cl, tr, ti, tc, po, ex, am, ca, tw, j, pw, se, jt⟩ :=
  h.other rfl e2 e3 e4 e5 rfl rfl e6

/-- A change that also writes the DRAM. -/
theorem Keeps.updateDram {s0 s : State} (h : Keeps s0 s) {g b c p q n o ch hh f un fc cl tr ti tc po ex am ca tw j pw se jt d}
    (e2 : (f.recs, f.log, f.nextSeq) = (s.faults.recs, s.faults.log, s.faults.nextSeq)) (e3 : hh.queue = s.hatch.queue)
    (e4 : (j.reports, j.sites) = (s.journal.reports, s.journal.sites))
    (e5 : (tw.settle, tw.turnLimit) = (s.twin.settle, s.twin.turnLimit))
    (e7 : (am.lec, am.hssRing, se.hssRing, se.floors, se.life) = s.ratchets) (e6 : Mem.wf s.dram = true → Mem.wf d = true) :
    Keeps s0 ⟨s.pending, g, b, c, p, q, n, s.mbx, o, ch, hh, f, un, fc, d, cl, tr, ti, tc, po, ex, am, ca, tw, j, pw, se, jt⟩ :=
  have k : Keeps s0 ⟨s.pending, g, b, c, p, q, n, s.mbx, o, ch, hh, f, un, fc, s.dram, cl, tr, ti, tc, po, ex, am, ca, tw, j, pw, se, jt⟩ :=
    h.update e2 e3 e4 e5 e7
  k.trans ⟨rfl, id, id, id, id, e6, id, neverFalls_same rfl⟩

/-- Putting a larger number into a list lowers none of it. -/
theorem le_getD_set (l : List Nat) (t k v : Nat) : l.getD k 0 ≤ (l.set t (max v (l.getD t 0))).getD k 0 := by
  simp only [List.getD_eq_getElem?_getD, List.getElem?_set]
  split
  · subst_vars
    split
    · exact Nat.le_max_right _ _
    · rename_i h; exact Nat.le_of_eq (by simp [List.getElem?_eq_none (Nat.le_of_not_lt h)])
  · exact Nat.le_refl _

/-- A change that raises what `State.neverFalls` speaks of. -/
theorem Keeps.lift {s0 s : State} (h : Keeps s0 s) (am : Amp) (po : Power) (se : Sec)
    (up : s.neverFalls { s with amp := am, power := po, sec := se }) : Keeps s0 { s with amp := am, power := po, sec := se } :=
  h.trans ⟨rfl, id, id, id, id, id, id, up⟩

/-- The state of a pair, and of an outcome. -/
@[irreducible] def PKeeps {α : Type} (s : State) (p : State × α) : Prop := Keeps s p.1
@[irreducible] def QKeeps {α : Type} (s : State) (p : α × State) : Prop := Keeps s p.2
@[irreducible] def OKeeps (s : State) (o : Host.Outcome State Fault Refusal) : Prop := ∀ t, o = .next t → Keeps s t
@[irreducible] def MKeeps (s : State) (o : Option State) : Prop := ∀ t, o = some t → Keeps s t

variable {s0 s t : State} {α β : Type}

theorem PKeeps.mk {a : α} (h : Keeps s0 s) : PKeeps s0 (s, a) := by unfold PKeeps; exact h
theorem PKeeps.fst {p : State × α} (h : PKeeps s0 p) : Keeps s0 p.1 := by unfold PKeeps at h; exact h
theorem PKeeps.eq {p : State × α} {a : α} (e : p = (t, a)) (h : PKeeps s0 p) : Keeps s0 t := by subst e; exact h.fst
theorem QKeeps.mk {a : α} (h : Keeps s0 s) : QKeeps s0 (a, s) := by unfold QKeeps; exact h
theorem QKeeps.snd {p : α × State} (h : QKeeps s0 p) : Keeps s0 p.2 := by unfold QKeeps at h; exact h
theorem QKeeps.eq {p : α × State} {a : α} (e : p = (a, t)) (h : QKeeps s0 p) : Keeps s0 t := by subst e; exact h.snd
theorem OKeeps.next (h : Keeps s0 s) : OKeeps s0 (.next s) := by unfold OKeeps; intro t e; cases e; exact h
theorem OKeeps.refused (r : Refusal) : OKeeps s0 (.refused r) := by unfold OKeeps; intro t e; cases e
theorem OKeeps.keeps {o : Host.Outcome State Fault Refusal} (h : OKeeps s0 o) (e : o = .next t) : Keeps s0 t := by
  unfold OKeeps at h; exact h t e
theorem MKeeps.none : MKeeps s0 none := by unfold MKeeps; intro t e; cases e
theorem MKeeps.some (h : Keeps s0 s) : MKeeps s0 (some s) := by unfold MKeeps; intro t e; cases e; exact h
theorem MKeeps.eq {o : Option State} (e : o = Option.some t) (h : MKeeps s0 o) : Keeps s0 t := by unfold MKeeps at h; exact h t e

theorem Keeps.ite {c : Prop} [Decidable c] {a b : State} (ha : Keeps s0 a) (hb : Keeps s0 b) : Keeps s0 (if c then a else b) := by
  split <;> assumption
theorem PKeeps.ite {c : Prop} [Decidable c] {a b : State × α} (ha : PKeeps s0 a) (hb : PKeeps s0 b) : PKeeps s0 (if c then a else b) := by
  split <;> assumption
theorem QKeeps.ite {c : Prop} [Decidable c] {a b : α × State} (ha : QKeeps s0 a) (hb : QKeeps s0 b) : QKeeps s0 (if c then a else b) := by
  split <;> assumption
theorem OKeeps.ite {c : Prop} [Decidable c] {a b : Host.Outcome State Fault Refusal} (ha : OKeeps s0 a) (hb : OKeeps s0 b) :
    OKeeps s0 (if c then a else b) := by split <;> assumption
theorem MKeeps.ite {c : Prop} [Decidable c] {a b : Option State} (ha : MKeeps s0 a) (hb : MKeeps s0 b) :
    MKeeps s0 (if c then a else b) := by split <;> assumption

theorem Keeps.foldl {f : State → α → State} {xs : List α} (hf : ∀ u x, Keeps s0 u → Keeps s0 (f u x)) : ∀ {u}, Keeps s0 u → Keeps s0 (xs.foldl f u) := by
  induction xs with
  | nil => intro u h; exact h
  | cons x xs ih => intro u h; exact ih (hf u x h)
theorem PKeeps.foldl {f : State × β → α → State × β} {xs : List α} (hf : ∀ p x, PKeeps s0 p → PKeeps s0 (f p x)) :
    ∀ {p}, PKeeps s0 p → PKeeps s0 (xs.foldl f p) := by
  induction xs with
  | nil => intro u h; exact h
  | cons x xs ih => intro u h; exact ih (hf u x h)
theorem QKeeps.foldl {f : β × State → α → β × State} {xs : List α} (hf : ∀ p x, QKeeps s0 p → QKeeps s0 (f p x)) :
    ∀ {p}, QKeeps s0 p → QKeeps s0 (xs.foldl f p) := by
  induction xs with
  | nil => intro u h; exact h
  | cons x xs ih => intro u h; exact ih (hf u x h)
theorem Keeps.forAll {f : State → α → State} {xs : List α} (hf : ∀ u x, Keeps s0 u → Keeps s0 (f u x)) (h : Keeps s0 s) :
    Keeps s0 (forAll xs f s) := Keeps.foldl hf h

theorem Keeps.times {f : State → State} (n : Nat) (hf : ∀ u, Keeps s0 u → Keeps s0 (f u)) (h : Keeps s0 s) : Keeps s0 (times n f s) :=
  Keeps.foldl (fun u _ k => hf u k) h

/-! ## The ring of an HSS key -/

/-- What stands in a table after a write: the value written, or what stood there under another key. -/
theorem Tab.mem_put {γ : Type} (t : Tab γ) (k : Nat) (v : γ) : ∀ e ∈ Tab.put t k v, e = (k, v) ∨ e ∈ t := by
  induction t with
  | nil => intro e he; simpa [Tab.put] using he
  | cons x t ih =>
    obtain ⟨i, w⟩ := x
    unfold Tab.put
    split
    · intro e he
      rcases List.mem_cons.1 he with h | h
      · exact .inl h
      · exact .inr (List.mem_cons_of_mem _ h)
    · split
      · intro e he; exact List.mem_cons.1 he
      · intro e he
        rcases List.mem_cons.1 he with h | h
        · exact .inr (h ▸ List.mem_cons_self)
        · exact (ih e h).imp_right (List.mem_cons_of_mem _)

theorem Tab.put_mem {γ : Type} (t : Tab γ) (k : Nat) (v : γ) : ∀ e ∈ t, e.1 ≠ k → e ∈ Tab.put t k v := by
  induction t with
  | nil => intro e he; cases he
  | cons x t ih =>
    obtain ⟨i, w⟩ := x
    intro e he hk
    unfold Tab.put
    split
    · rcases List.mem_cons.1 he with h | h
      · subst h; exact absurd ‹_› hk
      · exact List.mem_cons_of_mem _ h
    · split
      · exact List.mem_cons_of_mem _ he
      · rcases List.mem_cons.1 he with h | h
        · exact h ▸ List.mem_cons_self
        · exact List.mem_cons_of_mem _ (ih e h hk)

theorem Tab.put_self {γ : Type} (t : Tab γ) (k : Nat) (v : γ) : (k, v) ∈ Tab.put t k v := by
  induction t with
  | nil => simp [Tab.put]
  | cons x t ih =>
    obtain ⟨i, w⟩ := x
    unfold Tab.put
    split
    · exact List.mem_cons_self
    · split
      · exact List.mem_cons_self
      · exact List.mem_cons_of_mem _ ih

/-- The value that a ring word holds intact, or 0. -/
def ringValue (e : Nat × Nat) : Nat := if ringIntact e.2 then e.2 % 2 ^ 40 else 0

theorem ringNext_le (ring : Tab Nat) (n : Nat) : ringNext ring ≤ n ↔ ∀ e ∈ ring, ringValue e ≤ n := by
  have go : ∀ (l : Tab Nat) (m : Nat), l.foldl (fun m e => if ringIntact e.2 then max m (e.2 % 2 ^ 40) else m) m ≤ n
      ↔ m ≤ n ∧ ∀ e ∈ l, ringValue e ≤ n := by
    intro l
    induction l with
    | nil => intro m; simp
    | cons x l ih =>
      intro m
      rw [List.foldl_cons, ih]
      unfold ringValue
      by_cases h : ringIntact x.2 = true
      · rw [if_pos h, List.forall_mem_cons, if_pos h, Nat.max_le, and_assoc]
      · rw [if_neg h, List.forall_mem_cons, if_neg h]; simp
  unfold ringNext
  rw [go]; simp

theorem ringNext_mem (ring : Tab Nat) : ringNext ring = 0 ∨ ∃ e ∈ ring, ringValue e = ringNext ring := by
  rw [Classical.or_iff_not_imp_right]
  intro h1
  have : ringNext ring ≤ ringNext ring - 1 := (ringNext_le ring _).2 fun e he => by
    have := (ringNext_le ring _).1 (Nat.le_refl _) e he
    have : ringValue e ≠ ringNext ring := fun k => h1 ⟨e, he, k⟩
    omega
  omega

theorem ringNext_lt (ring : Tab Nat) : ringNext ring < 2 ^ 40 :=
  Nat.lt_succ_of_le ((ringNext_le ring (2 ^ 40 - 1)).2 fun e _ => by unfold ringValue; split <;> omega)

/-- In a ring in order, a write of the word next in turn takes no value away, and another word keeps its place. -/
theorem ringPut_grows (ring : Tab Nat) (w : Nat) (hw : ringIntact w = true → 0 < w % 2 ^ 40 → ringNext ring % 64 = (w % 2 ^ 40 - 1) % 64) :
    ringGrows ring (Tab.put ring (ringNext ring % 64) w) := by
  intro o
  refine ⟨fun e he hi hp => ?_, ?_⟩
  · rcases Tab.mem_put _ _ _ e he with h | h
    · subst h; exact hw hi hp
    · exact o e h hi hp
  · rcases ringNext_mem ring with h | ⟨e, he, hv⟩
    · omega
    · by_cases h0 : ringNext ring = 0
      · omega
      · have hi : ringIntact e.2 = true := by
          unfold ringValue at hv; split at hv
          · assumption
          · omega
        have hp : e.2 % 2 ^ 40 = ringNext ring := by unfold ringValue at hv; rwa [if_pos hi] at hv
        have hk := o e he hi (by omega)
        exact hv ▸ (ringNext_le _ _).1 (Nat.le_refl _) e (Tab.put_mem _ _ _ e he (by rw [hk, hp]; omega))

theorem ringWord_intact {v : Nat} (h : v < 2 ^ 40) : ringIntact (ringWord v) = true ∧ ringWord v % 2 ^ 40 = v := by
  unfold ringIntact ringWord
  have e : v % 2 ^ 40 = v := Nat.mod_eq_of_lt h
  rw [e]
  have h1 : (v + (Config.crc24 v).toNat * 2 ^ 40) % 2 ^ 40 = v := by omega
  have h2 : (v + (Config.crc24 v).toNat * 2 ^ 40) / 2 ^ 40 = (Config.crc24 v).toNat := by omega
  rw [h1, h2]; simp

theorem ringTorn_not_intact (v : Nat) : ringIntact (ringTorn v) = false := by
  unfold ringIntact ringTorn
  have hc : (Config.crc24 (v % 2 ^ 40)).toNat < 2 ^ 24 := (Config.crc24 (v % 2 ^ 40)).isLt
  have h1 : (v % 2 ^ 40 + ((Config.crc24 (v % 2 ^ 40)).toNat + 1) % 2 ^ 24 * 2 ^ 40) % 2 ^ 40 = v % 2 ^ 40 := by omega
  rw [h1]
  simp only [beq_eq_false_iff_ne, ne_eq]
  omega

/-- A reservation (R266), and one that a failing rail tears (R267). -/
theorem ringReserve_grows (ring : Tab Nat) : ringGrows ring (ringReserve ring) := by
  unfold ringReserve
  split
  · refine ringPut_grows ring _ fun _ _ => ?_
    rw [(ringWord_intact ‹_›).2, Nat.add_sub_cancel]
  · exact ringGrows.refl _

theorem ringTear_grows (ring : Tab Nat) (v : Nat) : ringGrows ring (ringTear ring v) :=
  ringPut_grows ring _ fun h => absurd h (by rw [ringTorn_not_intact]; exact Bool.false_ne_true)

/-- What a reservation makes the next free index, short of the last. -/
theorem ringNext_reserve {ring : Tab Nat} (h : ringNext ring + 1 < 2 ^ 40) : ringNext (ringReserve ring) = ringNext ring + 1 := by
  unfold ringReserve
  rw [if_pos h]
  have e : ringValue (ringNext ring % 64, ringWord (ringNext ring + 1)) = ringNext ring + 1 := by
    unfold ringValue; rw [if_pos (ringWord_intact h).1, (ringWord_intact h).2]
  refine Nat.le_antisymm ((ringNext_le _ _).2 fun x hx => ?_)
    (Nat.le_trans (Nat.le_of_eq e.symm) ((ringNext_le _ _).1 (Nat.le_refl _) _ (Tab.put_self _ _ _)))
  rcases Tab.mem_put _ _ _ x hx with hx | hx
  · subst hx; exact Nat.le_of_eq e
  · exact Nat.le_succ_of_le ((ringNext_le ring _).1 (Nat.le_refl _) x hx)

/-! ## The setters of parts that `Keeps` speaks of -/

theorem State.setFaults_keeps (h : Keeps s0 s) (f : Faults) (hf : s.faults.orderly → f.orderly) : Keeps s0 (s.setFaults f) :=
  h.trans ⟨rfl, hf, id, id, id, id, id, neverFalls_same rfl⟩
theorem State.setHatch_keeps (h : Keeps s0 s) (x : Hatch) (hx : s.hatch.bounded → x.bounded) : Keeps s0 (s.setHatch x) :=
  h.trans ⟨rfl, id, hx, id, id, id, id, neverFalls_same rfl⟩
theorem State.setJournal_keeps (h : Keeps s0 s) (j : Journal) (hj : s.journal.bounded → j.bounded) : Keeps s0 (s.setJournal j) :=
  h.trans ⟨rfl, id, id, hj, id, id, id, neverFalls_same rfl⟩
theorem State.setTwin_keeps (h : Keeps s0 s) (x : Twin) (hx : s.twin.inRange → x.inRange) : Keeps s0 (s.setTwin x) :=
  h.trans ⟨rfl, id, id, id, hx, id, id, neverFalls_same rfl⟩
theorem State.setMbx_keeps (h : Keeps s0 s) (m : Nat) (x : Mailbox) (hx : (s.mailbox m).fits → x.fits) : Keeps s0 (s.setMbx m x) :=
  h.trans ⟨rfl, id, id, id, id, id, fun c k => Tab.get_put_holds _ _ _ _ c (hx (c m)) k, neverFalls_same rfl⟩

/-! The same where what `Keeps` speaks of stays as it is. -/

theorem State.setFaults_same (h : Keeps s0 s) (f : Faults)
    (e : (f.recs, f.log, f.nextSeq) = (s.faults.recs, s.faults.log, s.faults.nextSeq)) : Keeps s0 (s.setFaults f) :=
  h.other rfl e rfl rfl rfl rfl rfl rfl
theorem State.setHatch_same (h : Keeps s0 s) (x : Hatch) (e : x.queue = s.hatch.queue) : Keeps s0 (s.setHatch x) :=
  h.other rfl rfl e rfl rfl rfl rfl rfl
theorem State.setJournal_same (h : Keeps s0 s) (j : Journal) (e : (j.reports, j.sites) = (s.journal.reports, s.journal.sites)) :
    Keeps s0 (s.setJournal j) := h.other rfl rfl rfl e rfl rfl rfl rfl
theorem State.setTwin_same (h : Keeps s0 s) (x : Twin) (e : (x.settle, x.turnLimit) = (s.twin.settle, s.twin.turnLimit)) :
    Keeps s0 (s.setTwin x) := h.other rfl rfl rfl rfl e rfl rfl rfl
theorem State.setMbx_same (h : Keeps s0 s) (m : Nat) (x : Mailbox)
    (e : (x.window, x.entries) = ((s.mailbox m).window, (s.mailbox m).entries)) : Keeps s0 (s.setMbx m x) := by
  simp only [Prod.mk.injEq] at e
  exact State.setMbx_keeps h m x fun k => by simpa [Mailbox.fits, Mailbox.outstanding, e] using k

/-! ## Fault records -/

theorem dropOldestA_sublist {l r : List Rec} (h : dropOldestA l = some r) : r.Sublist l ∧ r.length + 1 = l.length := by
  induction l generalizing r with
  | nil => simp [dropOldestA] at h
  | cons x xs ih =>
    unfold dropOldestA at h
    split at h
    · cases h; exact ⟨List.sublist_cons_self _ _, rfl⟩
    · cases hd : dropOldestA xs with
      | none => simp [hd] at h
      | some r' =>
        simp [hd] at h; subst h
        exact ⟨(ih hd).1.cons_cons x, by simp [(ih hd).2]⟩

theorem orderly_of_map {f : Faults} (g : Rec → Rec) (hs : ∀ r, (g r).src = r.src) (hc : ∀ r, (g r).scope = r.scope)
    (hq : ∀ r, (g r).seq = r.seq) (h : f.orderly) {f' : Faults} (e1 : f'.recs = f.recs.map g)
    (e2 : f.log.length ≤ 256 → f'.log.length ≤ 256)
    (e3 : f'.nextSeq = f.nextSeq) : f'.orderly := by
  obtain ⟨h1, h2, h3, h4, h5⟩ := h
  refine ⟨by simp [e1, h1], e2 h2, ?_, ?_, ?_⟩
  · rw [e1, List.pairwise_map]; simpa [hs, hc] using h3
  · rw [e1, List.pairwise_map]; simpa [hq] using h4
  · intro r hr; rw [e1] at hr
    obtain ⟨x, hx, rfl⟩ := List.mem_map.1 hr
    rw [hq, e3]; exact h5 x hx

theorem orderly_of_sublist {f f' : Faults} (h : f.orderly) (e1 : f'.recs.Sublist f.recs) (e2 : f'.log = f.log)
    (e3 : f'.nextSeq = f.nextSeq) : f'.orderly := by
  obtain ⟨h1, h2, h3, h4, h5⟩ := h
  exact ⟨Nat.le_trans e1.length_le h1, by rw [e2]; exact h2, h3.sublist e1, h4.sublist e1, fun r hr => e3 ▸ h5 r (e1.subset hr)⟩

/-- A record for a pair that none stands for yet is kept in order. -/
theorem Faults.keep_orderly {f : Faults} (h : f.orderly) (r : Rec) (hn : f.recs.any (·.names r.src r.scope) = false) :
    (f.keep r).orderly := by
  obtain ⟨h1, h2, h3, h4, h5⟩ := h
  have hne : ∀ x ∈ f.recs, ¬ (x.src = r.src ∧ x.scope = r.scope) := by
    intro x hx he
    have := List.any_eq_false.1 hn x hx
    simp [Rec.names, he.1, he.2] at this
  unfold Faults.keep
  simp only []
  split
  · refine ⟨by simp; omega, h2, ?_, ?_, ?_⟩
    · rw [List.pairwise_append]; exact ⟨h3, by simp, by simpa using hne⟩
    · rw [List.pairwise_append]; exact ⟨h4, by simp, by simpa using h5⟩
    · intro x hx
      rcases List.mem_append.1 hx with hx | hx
      · exact Nat.lt_succ_of_lt (h5 x hx)
      · simp at hx; subst hx; simp
  · split
    · rename_i rs hrs
      obtain ⟨hsub, hl⟩ := dropOldestA_sublist hrs
      refine ⟨by simp; omega, h2, ?_, ?_, ?_⟩
      · rw [List.pairwise_append]; exact ⟨h3.sublist hsub, by simp, by simpa using fun x hx => hne x (hsub.subset hx)⟩
      · rw [List.pairwise_append]; exact ⟨h4.sublist hsub, by simp, by simpa using fun x hx => h5 x (hsub.subset hx)⟩
      · intro x hx
        rcases List.mem_append.1 hx with hx | hx
        · exact Nat.lt_succ_of_lt (h5 x (hsub.subset hx))
        · simp at hx; subst hx; simp
    · exact ⟨h1, h2, h3, h4, h5⟩

@[simp] theorem Rec.hit_src (r : Rec) (a b : Bool) (t d : Word) : (r.hit a b t d).src = r.src := by unfold Rec.hit; simp only []; split <;> rfl
@[simp] theorem Rec.hit_scope (r : Rec) (a b : Bool) (t d : Word) : (r.hit a b t d).scope = r.scope := by unfold Rec.hit; simp only []; split <;> rfl
@[simp] theorem Rec.hit_seq (r : Rec) (a b : Bool) (t d : Word) : (r.hit a b t d).seq = r.seq := by unfold Rec.hit; simp only []; split <;> rfl

theorem Faults.enter_orderly {f : Faults} (h : f.orderly) (src scope : Half) (detail : Word) (real react : Bool) (tick : Word)
    (ns : Nat) : (f.enter src scope detail real react tick ns).orderly := by
  unfold Faults.enter
  extract_lets g
  have hg : g.orderly := by dsimp only [g]; split <;> exact h
  clear_value g
  split
  · refine orderly_of_map (fun r => if r.names src scope then r.hit real react tick detail else r) ?_ ?_ ?_ hg rfl id rfl
      <;> (intro r; split <;> simp)
  · rename_i hn
    refine Faults.keep_orderly hg _ ?_
    dsimp only
    rw [Rec.hit_src, Rec.hit_scope]
    simpa using hn

theorem State.record_keeps (h : Keeps s0 s) (src scope : Half) (detail : Word) (real react : Bool) :
    Keeps s0 (s.record src scope detail real react) :=
  h.trans ⟨rfl, fun o => Faults.enter_orderly o _ _ _ _ _ _ _, id, id, id, id, id, neverFalls_same rfl⟩

theorem State.advise_keeps (h : Keeps s0 s) (src scope : Half) (detail : Word) : Keeps s0 (s.advise src scope detail) :=
  State.record_keeps h src scope detail true false

theorem State.fresh_keeps (h : Keeps s0 s) : QKeeps s0 s.fresh := QKeeps.mk (h.update rfl rfl rfl rfl rfl)
theorem State.choose_keeps (h : Keeps s0 s) : QKeeps s0 s.choose := QKeeps.mk (h.update rfl rfl rfl rfl rfl)

/-! ## Mailboxes -/

/-- A change of entries that keeps how many there are and which is the refusal slot's. -/
theorem fits_of_map {x y : Mailbox} (f : Entry → Entry) (hf : ∀ e, (f e).refusal = e.refusal) (hy : y.entries = x.entries.map f)
    (hw : Mem.wf x.window = true → Mem.wf y.window = true) (h : x.fits) : y.fits := by
  obtain ⟨h1, h2, h3⟩ := h
  unfold Mailbox.outstanding at h1
  refine ⟨?_, ?_, hw h3⟩
  · unfold Mailbox.outstanding; rw [hy, List.filter_map, List.length_map]
    simpa [Function.comp_def, hf] using h1
  · rw [hy, List.filter_map, List.length_map]; simpa [Function.comp_def, hf] using h2

theorem fits_of_sublist {x y : Mailbox} (hy : y.entries.Sublist x.entries) (hw : Mem.wf x.window = true → Mem.wf y.window = true)
    (h : x.fits) : y.fits :=
  ⟨Nat.le_trans (hy.filter _).length_le h.1, Nat.le_trans (hy.filter _).length_le h.2.1, hw h.2.2⟩

/-- The same number of entries, with the same refusal slot. -/
theorem fits_of_refusals {x y : Mailbox} (hy : y.entries.map (·.refusal) = x.entries.map (·.refusal))
    (hw : Mem.wf x.window = true → Mem.wf y.window = true) (h : x.fits) : y.fits := by
  have count : ∀ (P : Bool → Bool) (l : List Entry),
      (l.filter fun e => P e.refusal).length = ((l.map (·.refusal)).filter P).length := by
    intro P l; rw [List.filter_map, List.length_map]; rfl
  obtain ⟨h1, h2, h3⟩ := h
  unfold Mailbox.outstanding at h1
  rw [count (!·), ← hy, ← count] at h1
  have c2 := count id
  simp only [id] at c2
  rw [c2, ← hy, ← c2] at h2
  exact ⟨h1, h2, hw h3⟩

/-- One entry is put in the last one's place, and the refusal slot stays. -/
theorem fits_of_last {x y : Mailbox} {e f : Entry} (he : x.entries.getLast? = some e) (hf : f.refusal = e.refusal)
    (hy : y.entries = x.entries.dropLast ++ [f]) (hw : Mem.wf x.window = true → Mem.wf y.window = true) (h : x.fits) : y.fits := by
  obtain ⟨ys, hys⟩ := List.getLast?_eq_some_iff.1 he
  refine fits_of_refusals ?_ hw h
  rw [hy, hys, List.dropLast_concat]
  simp [hf]

theorem fits_of_append {x y : Mailbox} {e : Entry} (hy : y.entries = x.entries ++ [e]) (hw : y.window = x.window)
    (hr : e.refusal = true → x.entries.any (·.refusal) = false) (hn : e.refusal = false → x.outstanding < 16) (h : x.fits) : y.fits := by
  obtain ⟨h1, h2, h3⟩ := h
  unfold Mailbox.outstanding at h1 hn
  refine ⟨?_, ?_, hw ▸ h3⟩
  · unfold Mailbox.outstanding
    rw [hy, List.filter_append, List.length_append]
    cases hb : e.refusal
    · have := hn hb; simp [hb]; omega
    · simp [hb]; omega
  · rw [hy, List.filter_append, List.length_append]
    cases hb : e.refusal
    · simp [hb]; omega
    · have := hr hb
      rw [List.any_eq_false] at this
      have : x.entries.filter (·.refusal) = [] := List.filter_eq_nil_iff.2 this
      simp [hb, this]

theorem updFirst_map {α : Type} (t : α → Bool) (f : α → α) (P : α → Bool) (hf : ∀ e, P (f e) = P e) (l : List α) :
    ((updFirst t f l).filter P).length = (l.filter P).length := by
  induction l with
  | nil => rfl
  | cons x xs ih =>
    unfold updFirst
    split
    · simp only [List.filter_cons, hf]; split <;> rfl
    · simp only [List.filter_cons]; split <;> simp [ih]

theorem fits_of_updFirst {x y : Mailbox} (t : Entry → Bool) (f : Entry → Entry) (hf : ∀ e, (f e).refusal = e.refusal)
    (hy : y.entries = updFirst t f x.entries) (hw : y.window = x.window) (h : x.fits) : y.fits := by
  obtain ⟨h1, h2, h3⟩ := h
  refine ⟨?_, ?_, hw ▸ h3⟩
  · unfold Mailbox.outstanding; rw [hy, updFirst_map t f _ (by intro e; simp [hf])]; exact h1
  · rw [hy, updFirst_map t f _ (by intro e; simp [hf])]; exact h2

theorem State.setPort_keeps (h : Keeps s0 s) (p : Nat) (x : Port) : Keeps s0 (s.setPort p x) := h.other rfl rfl rfl rfl rfl rfl rfl rfl

theorem State.send_keeps (h : Keeps s0 s) (p : Nat) (x : Sent1) : Keeps s0 (s.send p x) := State.setPort_keeps h _ _

theorem State.pumpMbx_keeps (h : Keeps s0 s) (m : Nat) : Keeps s0 (s.pumpMbx m) := by
  unfold State.pumpMbx
  split
  · extract_lets x
    split
    · split
      · refine State.send_keeps (State.setMbx_keeps h m _ ?_) _ _
        exact id
      · exact h
    · exact h
  · exact h

theorem State.respondOne_keeps (h : Keeps s0 s) (m bound : Nat) (r : Reply) : Keeps s0 (s.respondOne m bound r) := by
  unfold State.respondOne
  extract_lets x
  split
  · exact h
  · split
    · extract_lets b late y t u
      have ht : Keeps s0 t := by
        refine State.setMbx_keeps h m y (fits_of_updFirst _ _ ?_ (rfl : y.entries = updFirst _ _ _) rfl)
        intro e; rfl
      have hu : Keeps s0 u := Keeps.ite (State.advise_keeps ht _ _ _) ht
      exact State.pumpMbx_keeps hu m
    · exact h

theorem State.await_keeps (h : Keeps s0 s) (m : Nat) (w : Wait) : Keeps s0 (s.await m w) := by
  unfold State.await
  extract_lets x f
  refine State.setMbx_keeps h m _ (fits_of_updFirst _ f ?_ rfl rfl)
  intro e; dsimp only [f]; split <;> rfl

@[simp] theorem queueNote_length (e : List Byte) (q : List (List Byte)) : (queueNote e q).length = q.length + 1 := by
  unfold queueNote
  extract_lets after tail
  simp only [List.length_append, List.length_cons, List.length_take, List.length_drop]
  omega

theorem State.note_keeps (h : Keeps s0 s) (e : List Byte) : Keeps s0 (s.note e) := by
  unfold State.note
  extract_lets x
  split
  · exact State.setHatch_keeps h _ fun _ => by simp [Hatch.bounded]; omega
  · exact State.setHatch_keeps h _ id

theorem State.report_keeps (h : Keeps s0 s) (r : Report) : Keeps s0 (s.report r) := by
  unfold State.report
  extract_lets j t
  split
  · exact State.setJournal_keeps h _ fun b => ⟨by simp; omega, b.2⟩
  · have ht : Keeps s0 t := State.setJournal_keeps h _ id
    exact Keeps.ite (State.advise_keeps ht _ _ _) ht

theorem State.setSite_same (h : Keeps s0 s) (n : Nat) (x : SiteJrn) (e : x.ring = (s.site n).ring) : Keeps s0 (s.setSite n x) :=
  State.setJournal_keeps h _ fun b => ⟨b.1, Tab.get_put_holds (P := fun y : SiteJrn => y.ring.length ≤ 256) _ _ _ _ b.2 (e ▸ b.2 n)⟩

theorem State.setSite_keeps (h : Keeps s0 s) (n : Nat) (x : SiteJrn) (hx : (s.site n).ring.length ≤ 256 → x.ring.length ≤ 256) :
    Keeps s0 (s.setSite n x) :=
  State.setJournal_keeps h _ fun b =>
    ⟨b.1, Tab.get_put_holds (P := fun y : SiteJrn => y.ring.length ≤ 256) _ _ _ _ b.2 (hx (b.2 n))⟩

end Sys2Proof.Machine
end

