-- ==== Sys2Proof/Laws/KeepsOps.lean ====
section
/-!
SUPPORT. The functions of Ops.lean keep what `Keeps` says.
-/
namespace Sys2Proof.Machine

-- The case scripts of this file name more tactics than each case needs.
set_option linter.all false

theorem State.setG_keeps {s0 s : State} (h : Keeps s0 s) (g : Nat) (G : Gather) : Keeps s0 (State.setG s g G) := by
  unfold State.setG
  repeat' (first | assumption | dsimp only | refine Keeps.update ?_ rfl rfl rfl rfl rfl)

theorem State.modG_keeps {s0 s : State} (h : Keeps s0 s) (g : Nat) (f : Gather → Gather) : Keeps s0 (State.modG s g f) := by
  unfold State.modG
  repeat' (first | with_reducible (first | assumption | apply State.setG_keeps) | dsimp only)

theorem State.setPin_keeps {s0 s : State} (h : Keeps s0 s) (g : Nat) (p : Nat) (x : Pin) : Keeps s0 (State.setPin s g p x) := by
  unfold State.setPin
  repeat' (first | with_reducible (first | assumption | apply State.modG_keeps) | dsimp only)

theorem State.setSmu_keeps {s0 s : State} (h : Keeps s0 s) (g : Nat) (u : Nat) (x : Smu) : Keeps s0 (State.setSmu s g u x) := by
  unfold State.setSmu
  repeat' (first | with_reducible (first | assumption | apply State.modG_keeps) | dsimp only)

theorem State.setSent_keeps {s0 s : State} (h : Keeps s0 s) (g : Nat) (n : Nat) (x : Sent) : Keeps s0 (State.setSent s g n x) := by
  unfold State.setSent
  repeat' (first | with_reducible (first | assumption | apply State.modG_keeps) | dsimp only)

theorem State.setDig_keeps {s0 s : State} (h : Keeps s0 s) (g : Nat) (d : Nat) (x : Dig) : Keeps s0 (State.setDig s g d x) := by
  unfold State.setDig
  repeat' (first | with_reducible (first | assumption | apply State.modG_keeps) | dsimp only | refine Keeps.update ?_ rfl rfl rfl rfl rfl)

theorem State.setProg_keeps {s0 s : State} (h : Keeps s0 s) (p : Nat) (x : Prog) : Keeps s0 (State.setProg s p x) := by
  unfold State.setProg
  repeat' (first | assumption | dsimp only | refine Keeps.update ?_ rfl rfl rfl rfl rfl)

theorem State.setCtx_keeps {s0 s : State} (h : Keeps s0 s) (c : Nat) (x : Ctx) : Keeps s0 (State.setCtx s c x) := by
  unfold State.setCtx
  repeat' (first | assumption | dsimp only | refine Keeps.update ?_ rfl rfl rfl rfl rfl)

theorem State.modSeq_keeps {s0 s : State} (h : Keeps s0 s) (g : Nat) (f : Seq → Seq) : Keeps s0 (State.modSeq s g f) := by
  unfold State.modSeq
  repeat' (first | with_reducible (first | assumption | apply State.modG_keeps) | dsimp only | refine Keeps.update ?_ rfl rfl rfl rfl rfl)

theorem State.modPlay_keeps {s0 s : State} (h : Keeps s0 s) (g : Nat) (f : Play → Play) : Keeps s0 (State.modPlay s g f) := by
  unfold State.modPlay
  repeat' (first | with_reducible (first | assumption | apply State.modG_keeps) | dsimp only | refine Keeps.update ?_ rfl rfl rfl rfl rfl)

theorem State.setTcmp_keeps {s0 s : State} (h : Keeps s0 s) (n : Nat) (x : Tcmp) : Keeps s0 (State.setTcmp s n x) := by
  unfold State.setTcmp
  repeat' (first | assumption | dsimp only | refine Keeps.update ?_ rfl rfl rfl rfl rfl)

theorem State.setPstate_keeps {s0 s : State} (h : Keeps s0 s) (p : Nat) : Keeps s0 (State.setPstate s p) := by
  unfold State.setPstate
  repeat' (first | assumption | dsimp only | refine Keeps.update ?_ rfl rfl rfl rfl rfl)

theorem State.requestTurn_keeps {s0 s : State} (h : Keeps s0 s)  : Keeps s0 (State.requestTurn s) := by
  unfold State.requestTurn
  repeat' (first
    | with_reducible (first
        | assumption | apply Keeps.ite) | split | dsimp only | refine State.setTwin_same ?_ _ rfl
    | refine Keeps.update ?_ rfl rfl rfl rfl rfl)

theorem State.fenceTry_keeps {s0 s : State} (h : Keeps s0 s) (m : Nat) : Keeps s0 (State.fenceTry s m) := by
  unfold State.fenceTry
  repeat' (first
    | with_reducible (first
        | assumption | apply State.respondOne_keeps | apply Keeps.ite) | split | dsimp only | refine Keeps.update ?_ rfl rfl rfl rfl rfl)

theorem State.fencesDone_keeps {s0 s : State} (h : Keeps s0 s)  : Keeps s0 (State.fencesDone s) := by
  unfold State.fencesDone
  repeat' (first
    | with_reducible (first
        | assumption | apply State.fenceTry_keeps | apply Keeps.ite | refine Keeps.foldl (fun _ _ _ => ?_) ?_) | split | dsimp only)

theorem State.respond_keeps {s0 s : State} (h : Keeps s0 s) (m : Nat) (bound : Nat) (r : Reply) : Keeps s0 (State.respond s m bound r) := by
  unfold State.respond
  repeat' (first | with_reducible (first | assumption | apply State.fencesDone_keeps | apply State.respondOne_keeps) | dsimp only)

theorem State.respondFrom_keeps {s0 s : State} (h : Keeps s0 s) (m : Nat) (start : Nat) (bound : Nat) (r : Reply) : Keeps s0 (State.respondFrom s m start bound r) := by
  unfold State.respondFrom
  repeat' (first
    | with_reducible (first
        | assumption | apply State.respond_keeps) | split | dsimp only | refine Keeps.update ?_ rfl rfl rfl rfl rfl)

theorem State.linkSend_keeps {s0 s : State} (h : Keeps s0 s) (m : LinkMsg) : Keeps s0 (State.linkSend s m) := by
  unfold State.linkSend
  repeat' (first | assumption | dsimp only | refine State.setTwin_same ?_ _ rfl | refine Keeps.update ?_ rfl rfl rfl rfl rfl)

theorem State.mirrorSend_keeps {s0 s : State} (h : Keeps s0 s) (m : LinkMsg) : Keeps s0 (State.mirrorSend s m) := by
  unfold State.mirrorSend
  repeat' (first
    | with_reducible (first
        | assumption | apply State.linkSend_keeps) | dsimp only | refine State.setTwin_same ?_ _ rfl
    | refine Keeps.update ?_ rfl rfl rfl rfl rfl)

end Sys2Proof.Machine
end

