-- ==== Sys2Proof/Laws/KeepsExport.lean ====
section
/-!
SUPPORT. The functions of Export.lean keep what `Keeps` says.
-/
namespace Sys2Proof.Machine

-- The case scripts of this file name more tactics than each case needs.
set_option linter.all false

theorem State.sendDgram_keeps {s0 s : State} (h : Keeps s0 s)  : Keeps s0 (State.sendDgram s) := by
  unfold State.sendDgram
  repeat' (first
    | with_reducible (first
        | assumption | apply State.send_keeps | apply Keeps.ite) | split | dsimp only | refine Keeps.update ?_ rfl rfl rfl rfl rfl)

theorem State.ringRecord_keeps {s0 s : State} (h : Keeps s0 s) (r : List Byte) : Keeps s0 (State.ringRecord s r) := by
  unfold State.ringRecord
  repeat' (first
    | with_reducible (first
        | assumption | apply State.sendDgram_keeps | apply Keeps.ite) | split | dsimp only | refine Keeps.update ?_ rfl rfl rfl rfl rfl)

theorem State.emitRec_keeps {s0 s : State} (h : Keeps s0 s) (type : Nat) (site : Nat) (body : List Byte) : Keeps s0 (State.emitRec s type site body) := by
  unfold State.emitRec
  repeat' (first
    | with_reducible (first
        | assumption | apply State.ringRecord_keeps | apply Keeps.ite | refine Keeps.foldl (fun _ _ _ => ?_) ?_) | split | dsimp only
    | refine Keeps.update ?_ rfl rfl rfl rfl rfl)

end Sys2Proof.Machine
end

