-- ==== Sys2Proof/Laws/KeepsSentinels.lean ====
section
/-!
SUPPORT. The functions of Sentinels.lean keep what `Keeps` says.
-/
namespace Sys2Proof.Machine

-- The case scripts of this file name more tactics than each case needs.
set_option linter.all false

theorem State.sentWakes_keeps {s0 s : State} (h : Keeps s0 s) (g : Nat) (n : Nat) : Keeps s0 (State.sentWakes s g n) := by
  unfold State.sentWakes
  repeat' (first
    | with_reducible (first
        | assumption | apply State.setSent_keeps | apply Keeps.ite) | split | dsimp only | refine Keeps.update ?_ rfl rfl rfl rfl rfl)

theorem State.setDwelled_keeps {s0 s : State} (h : Keeps s0 s) (g : Nat) (n : Nat) (act : Bool) : Keeps s0 (State.setDwelled s g n act) := by
  unfold State.setDwelled
  repeat' (first
    | with_reducible (first
        | assumption | apply State.sentWakes_keeps | apply State.note_keeps | apply State.setSent_keeps | apply State.modG_keeps
        | apply Keeps.ite) | split | dsimp only | refine Keeps.update ?_ rfl rfl rfl rfl rfl)

theorem State.startDwell_keeps {s0 s : State} (h : Keeps s0 s) (g : Nat) (n : Nat) : Keeps s0 (State.startDwell s g n) := by
  unfold State.startDwell
  repeat' (first
    | with_reducible (first
        | assumption | apply State.setDwelled_keeps | apply State.setSent_keeps | apply Keeps.ite) | split | dsimp only
    | refine Keeps.update ?_ rfl rfl rfl rfl rfl)

theorem State.probe_keeps {s0 s : State} (h : Keeps s0 s) (g : Nat) (n : Nat) : Keeps s0 (State.probe s g n) := by
  unfold State.probe
  repeat' (first
    | with_reducible (first
        | assumption | apply State.startDwell_keeps | apply State.setSent_keeps | apply Keeps.ite) | split | dsimp only
    | refine Keeps.update ?_ rfl rfl rfl rfl rfl)

theorem State.probeBlip_keeps {s0 s : State} (h : Keeps s0 s) (g : Nat) (n : Nat) : Keeps s0 (State.probeBlip s g n) := by
  unfold State.probeBlip
  repeat' (first
    | with_reducible (first
        | assumption | apply State.probe_keeps | apply State.setSent_keeps | apply Keeps.ite) | split | dsimp only
    | refine Keeps.update ?_ rfl rfl rfl rfl rfl)

theorem State.probes_keeps {s0 s : State} (h : Keeps s0 s) (g : Nat) : Keeps s0 (State.probes s g) := by
  unfold State.probes
  repeat' (first | with_reducible (first | assumption | apply State.probe_keeps) | dsimp only)

end Sys2Proof.Machine
end

