-- ==== Sys2Proof/Laws/KeepsTius.lean ====
section
/-!
SUPPORT. The functions of Tius.lean keep what `Keeps` says.
-/
namespace Sys2Proof.Machine

-- The case scripts of this file name more tactics than each case needs.
set_option linter.all false

theorem State.setTiu_keeps {s0 s : State} (h : Keeps s0 s) (g : Nat) (u : Nat) (x : Tiu) : Keeps s0 (State.setTiu s g u x) := by
  unfold State.setTiu
  repeat' (first | with_reducible (first | assumption | apply State.modG_keeps) | dsimp only | refine Keeps.update ?_ rfl rfl rfl rfl rfl)

theorem State.tiusDone_keeps {s0 s : State} (h : Keeps s0 s)  : Keeps s0 (State.tiusDone s) := by
  unfold State.tiusDone
  repeat' (first
    | with_reducible (first
        | assumption | apply State.setTiu_keeps | apply State.respond_keeps | apply Keeps.ite
        | refine Keeps.forAll (fun _ _ _ => ?_) ?_) | split | dsimp only | refine Keeps.update ?_ rfl rfl rfl rfl rfl)

theorem State.closeTiu_keeps {s0 s : State} (h : Keeps s0 s) (g : Nat) (u : Nat) (early : Nat) : Keeps s0 (State.closeTiu s g u early) := by
  unfold State.closeTiu
  repeat' (first
    | with_reducible (first
        | assumption | apply State.tiusDone_keeps | apply State.setTiu_keeps | apply State.emitRec_keeps | apply State.record_keeps
        | apply State.choose_keeps | apply Keeps.ite) | dsimp only [State.fresh, State.choose] | split
    | refine Keeps.update ?_ rfl rfl rfl rfl rfl)

theorem State.endTius_keeps {s0 s : State} (h : Keeps s0 s) (g : Nat) (flag : Nat) : Keeps s0 (State.endTius s g flag) := by
  unfold State.endTius
  repeat' (first
    | with_reducible (first
        | assumption | apply State.closeTiu_keeps | apply Keeps.ite | refine Keeps.forAll (fun _ _ _ => ?_) ?_) | split | dsimp only)

end Sys2Proof.Machine
end

