-- ==== Sys2Proof/Laws/KeepsMarver.lean ====
section
/-!
SUPPORT. The functions of Marver.lean keep what `Keeps` says.
-/
namespace Sys2Proof.Machine

-- The case scripts of this file name more tactics than each case needs.
set_option linter.all false

theorem State.setCalG_keeps {s0 s : State} (h : Keeps s0 s) (g : Nat) (x : CalG) : Keeps s0 (State.setCalG s g x) := by
  unfold State.setCalG
  repeat' (first | assumption | dsimp only | refine Keeps.update ?_ rfl rfl rfl rfl rfl)

theorem State.setCalTile_keeps {s0 s : State} (h : Keeps s0 s) (t : Nat) (x : CalTile) : Keeps s0 (State.setCalTile s t x) := by
  unfold State.setCalTile
  repeat' (first | assumption | dsimp only | refine Keeps.update ?_ rfl rfl rfl rfl rfl)

theorem State.putCoef_keeps {s0 s : State} (h : Keeps s0 s) (g : Nat) (n : Nat) : Keeps s0 (State.putCoef s g n) := by
  unfold State.putCoef
  repeat' (first | assumption | dsimp only | refine Keeps.update ?_ rfl rfl rfl rfl rfl)

theorem State.startStore_keeps {s0 s : State} (h : Keeps s0 s)  : Keeps s0 (State.startStore s) := by
  unfold State.startStore
  repeat' (first | with_reducible (first | assumption | apply Keeps.ite) | split | dsimp only | refine Keeps.update ?_ rfl rfl rfl rfl rfl)

theorem State.runComplete_keeps {s0 s : State} (h : Keeps s0 s) (t : Nat) : Keeps s0 (State.runComplete s t) := by
  unfold State.runComplete
  repeat' (first
    | with_reducible (first
        | assumption | apply State.startStore_keeps | apply State.setCalTile_keeps | apply State.setCalG_keeps | apply Keeps.ite
        | refine Keeps.forAll (fun _ _ _ => ?_) ?_) | split | dsimp only | refine Keeps.update ?_ rfl rfl rfl rfl rfl)

theorem State.endStep_keeps {s0 s : State} (h : Keeps s0 s) (g : Nat) (n : Nat) (out : CalOut) : Keeps s0 (State.endStep s g n out) := by
  unfold State.endStep
  repeat' (first
    | with_reducible (first
        | assumption | apply State.runComplete_keeps | apply State.setCalTile_keeps | apply State.setCalG_keeps | apply Keeps.ite)
    | split | dsimp only | refine Keeps.update ?_ rfl rfl rfl rfl rfl)

theorem State.freeService_keeps {s0 s : State} (h : Keeps s0 s) (g : Nat) (us : List Nat) : Keeps s0 (State.freeService s g us) := by
  unfold State.freeService
  repeat' (first
    | with_reducible (first
        | assumption | apply State.idle_keeps | apply State.setTiu_keeps | apply Keeps.ite | refine Keeps.forAll (fun _ _ _ => ?_) ?_)
    | split | dsimp only | refine Keeps.update ?_ rfl rfl rfl rfl rfl)

theorem State.preempt_keeps {s0 s : State} (h : Keeps s0 s) (g : Nat) (hits : Nat → Bool) : Keeps s0 (State.preempt s g hits) := by
  unfold State.preempt
  repeat' (first
    | with_reducible (first
        | assumption | apply State.freeService_keeps | apply State.endStep_keeps | refine Keeps.forAll (fun _ _ _ => ?_) ?_)
    | dsimp only)

theorem State.isolate_keeps {s0 s : State} (h : Keeps s0 s) (g : Nat) : Keeps s0 (State.isolate s g) := by
  unfold State.isolate
  repeat' (first
    | with_reducible (first
        | assumption | apply State.setCalG_keeps | apply State.fresh_keeps | apply State.setPin_keeps | apply Keeps.ite
        | refine Keeps.forAll (fun _ _ _ => ?_) ?_) | dsimp only [State.fresh, State.choose] | split
    | refine Keeps.update ?_ rfl rfl rfl rfl rfl)

theorem State.calStroke_keeps {s0 s : State} (h : Keeps s0 s) (g : Nat) (calwin : Bool) (st : Nat) (duration : Nat) : Keeps s0 (State.calStroke s g calwin st duration) := by
  unfold State.calStroke
  repeat' (first
    | with_reducible (first
        | assumption | apply State.isolate_keeps | apply State.setCalG_keeps | apply Keeps.ite) | split | dsimp only
    | refine Keeps.update ?_ rfl rfl rfl rfl rfl)

theorem State.calStrokeEnd_keeps {s0 s : State} (h : Keeps s0 s) (g : Nat) : Keeps s0 (State.calStrokeEnd s g) := by
  unfold State.calStrokeEnd
  repeat' (first
    | with_reducible (first
        | assumption | apply State.preempt_keeps | apply State.setCalG_keeps | apply State.setPin_keeps | apply State.modG_keeps
        | apply Keeps.ite | refine Keeps.forAll (fun _ _ _ => ?_) ?_) | split | dsimp only | refine Keeps.update ?_ rfl rfl rfl rfl rfl)

end Sys2Proof.Machine
end

