-- ==== Sys2Proof/Laws/KeepsStrobe.lean ====
section
/-!
SUPPORT. The functions of Strobe.lean keep what `Keeps` says.
-/
namespace Sys2Proof.Machine

-- The case scripts of this file name more tactics than each case needs.
set_option linter.all false

theorem State.closeResult_keeps {s0 s : State} (h : Keeps s0 s) (g : Nat) (flags : Nat) : Keeps s0 (State.closeResult s g flags) := by
  unfold State.closeResult
  repeat' (first
    | with_reducible (first
        | assumption | apply State.emitStroke_keeps | apply State.calStrokeEnd_keeps | apply State.modPlay_keeps | apply Keeps.ite)
    | split | dsimp only | refine Keeps.update ?_ rfl rfl rfl rfl rfl)

end Sys2Proof.Machine
end

