-- ==== Sys2Proof/Laws/KeepsFabric.lean ====
section
/-!
SUPPORT. The functions of Fabric.lean keep what `Keeps` says.
-/
namespace Sys2Proof.Machine

-- The case scripts of this file name more tactics than each case needs.
set_option linter.all false

theorem State.setLine_keeps {s0 s : State} (h : Keeps s0 s) (key : Nat) (l : Line) : Keeps s0 (State.setLine s key l) := by
  unfold State.setLine
  repeat' (first | assumption | dsimp only | refine State.setHatch_same ?_ _ rfl | refine Keeps.update ?_ rfl rfl rfl rfl rfl)

theorem State.noteLine_keeps {s0 s : State} (h : Keeps s0 s) (key : Nat) (assert : Bool) : Keeps s0 (State.noteLine s key assert) := by
  unfold State.noteLine
  repeat' (first
    | with_reducible (first
        | assumption | apply State.setLine_keeps | apply State.note_keeps | apply Keeps.ite) | split | dsimp only
    | refine Keeps.update ?_ rfl rfl rfl rfl rfl)

theorem State.mergesEvent_keeps {s0 s : State} (h : Keeps s0 s) (key : Nat) (l : Line) (rises : Bool) : PKeeps s0 (State.mergesEvent s key l rises) := by
  unfold State.mergesEvent
  repeat' (first
    | with_reducible (first
        | assumption | apply State.choose_keeps | apply Keeps.ite | apply PKeeps.ite) | dsimp only [State.fresh, State.choose] | split
    | with_reducible apply PKeeps.mk | refine Keeps.update ?_ rfl rfl rfl rfl rfl)

theorem State.settleLine_keeps {s0 s : State} (h : Keeps s0 s) (key : Nat) (n : Nat) : PKeeps s0 (State.settleLine s key n) := by
  unfold State.settleLine
  repeat' (first
    | with_reducible (first
        | assumption | apply State.mergesEvent_keeps | apply State.noteLine_keeps | apply State.setLine_keeps | apply Keeps.ite
        | apply PKeeps.ite | apply PKeeps.fst) | refine PKeeps.eq ‹_ = (_, _)› ?_ | split | dsimp only | with_reducible apply PKeeps.mk
    | refine Keeps.update ?_ rfl rfl rfl rfl rfl)

theorem State.smuReselect_keeps {s0 s : State} (h : Keeps s0 s) (before : State) (g : Nat) : Keeps s0 (State.smuReselect s before g) := by
  unfold State.smuReselect
  repeat' (first | with_reducible (first | assumption | apply State.modG_keeps) | dsimp only | refine Keeps.update ?_ rfl rfl rfl rfl rfl)

theorem relayStep_keeps {s0 : State} {acc : State × Tab Nat} (h : PKeeps s0 acc) (fired : List Nat) (changed : List Nat) (ir : Nat × Relay) : PKeeps s0 (relayStep fired changed acc ir) := by
  obtain ⟨s, acc2⟩ := acc
  have h : Keeps s0 s := h.fst
  unfold relayStep
  repeat' (first
    | with_reducible (first
        | assumption | apply Keeps.ite | apply PKeeps.ite) | split | dsimp only | with_reducible apply PKeeps.mk
    | refine State.setHatch_same ?_ _ rfl | refine Keeps.update ?_ rfl rfl rfl rfl rfl)

theorem counterStep_keeps {s0 : State} {acc : State × Tab Nat} (h : PKeeps s0 acc) (fired : List Nat) (ic : Nat × Counter) : PKeeps s0 (counterStep fired acc ic) := by
  obtain ⟨s, acc2⟩ := acc
  have h : Keeps s0 s := h.fst
  unfold counterStep
  repeat' (first
    | with_reducible (first
        | assumption | apply Keeps.ite | apply PKeeps.ite) | split | dsimp only | with_reducible apply PKeeps.mk
    | refine State.setHatch_same ?_ _ rfl | refine Keeps.update ?_ rfl rfl rfl rfl rfl)

theorem State.setGroup_keeps {s0 s : State} (h : Keeps s0 s) (g : Nat) (on : Bool) : Keeps s0 (State.setGroup s g on) := by
  unfold State.setGroup
  repeat' (first
    | with_reducible (first
        | assumption | apply Keeps.ite) | split | dsimp only | refine State.setHatch_same ?_ _ rfl
    | refine Keeps.update ?_ rfl rfl rfl rfl rfl)

theorem switchStep_keeps {s0 : State} {acc : State × Tab Nat} (h : PKeeps s0 acc) (fired : List Nat) (g : Nat) : PKeeps s0 (switchStep fired acc g) := by
  obtain ⟨s, acc2⟩ := acc
  have h : Keeps s0 s := h.fst
  unfold switchStep
  repeat' (first
    | with_reducible (first
        | assumption | apply State.setGroup_keeps | apply Keeps.ite | apply PKeeps.ite) | split | dsimp only
    | with_reducible apply PKeeps.mk | refine State.setHatch_same ?_ _ rfl | refine Keeps.update ?_ rfl rfl rfl rfl rfl)

theorem State.wave_keeps {s0 s : State} (h : Keeps s0 s) (w : Tab Nat) : PKeeps s0 (State.wave s w) := by
  unfold State.wave
  repeat' (first
    | with_reducible (first
        | assumption | apply switchStep_keeps | apply counterStep_keeps | apply relayStep_keeps | apply State.settleLine_keeps
        | apply Keeps.ite | apply PKeeps.ite | refine Keeps.foldl (fun _ _ _ => ?_) ?_ | refine PKeeps.foldl (fun _ _ _ => ?_) ?_
        | apply PKeeps.fst) | refine PKeeps.eq ‹_ = (_, _)› ?_ | split | dsimp only | with_reducible apply PKeeps.mk)

theorem State.waves_keeps {s0 s : State} (h : Keeps s0 s) (n : Nat) (w : Tab Nat) : Keeps s0 (State.waves s n w) := by
  induction n generalizing s w with
  | zero => unfold State.waves; exact State.setHatch_keeps h _ id
  | succ n ih =>
    unfold State.waves
    refine Keeps.ite h ?_
    split
    rename_i e
    exact ih (PKeeps.eq e (State.wave_keeps h w)) _

theorem State.propagate_keeps {s0 s : State} (h : Keeps s0 s) (w : Tab Nat) : Keeps s0 (State.propagate s w) := by
  unfold State.propagate
  extract_lets left w
  refine Keeps.ite h (State.waves_keeps (Keeps.ite h ?_) _ _)
  exact State.setHatch_keeps h _ id

theorem State.collect_keeps {s0 : State} {acc : State × Tab Nat} (h : PKeeps s0 acc) (g : Nat) (pulses : List Nat) : PKeeps s0 (State.collect acc g pulses) := by
  obtain ⟨s, acc2⟩ := acc
  have h : Keeps s0 s := h.fst
  unfold State.collect
  dsimp only
  exact PKeeps.mk (Keeps.ite h (State.setG_keeps h _ _))

theorem State.follow_keeps {s0 s : State} (h : Keeps s0 s) (w : Tab Nat) : Keeps s0 (State.follow s w) := by
  unfold State.follow
  repeat' (first | with_reducible (first | assumption | apply State.propagate_keeps | apply Keeps.ite) | split | dsimp only)

theorem State.presentAt_keeps {s0 s : State} (h : Keeps s0 s) (gs : List Nat) (edge : Nat) : Keeps s0 (State.presentAt gs s edge) := by
  unfold State.presentAt
  exact State.follow_keeps (PKeeps.fst (PKeeps.foldl (fun _ _ k => State.collect_keeps k _ _) (PKeeps.mk h))) _

theorem State.present_keeps {s0 s : State} (h : Keeps s0 s) (gs : List Nat) : Keeps s0 (State.present s gs) := by
  unfold State.present
  repeat' (first
    | with_reducible (first
        | assumption | apply State.presentAt_keeps | apply State.modPlay_keeps | apply Keeps.ite
        | refine Keeps.forAll (fun _ _ _ => ?_) ?_ | refine Keeps.foldl (fun _ _ _ => ?_) ?_) | split | dsimp only
    | refine Keeps.update ?_ rfl rfl rfl rfl rfl)

theorem State.syncProducers_keeps {s0 s : State} (h : Keeps s0 s) (gs : List Nat) : Keeps s0 (State.syncProducers s gs) := by
  unfold State.syncProducers
  exact State.follow_keeps (PKeeps.fst (PKeeps.foldl (fun _ _ k => State.collect_keeps k _ _) (PKeeps.mk h))) _

theorem State.syncDevice_keeps {s0 s : State} (h : Keeps s0 s) (pulses : List Nat) : Keeps s0 (State.syncDevice s pulses) := by
  unfold State.syncDevice
  repeat' (first
    | with_reducible (first
        | assumption | apply State.propagate_keeps | apply Keeps.ite | refine Keeps.foldl (fun _ _ _ => ?_) ?_) | split | dsimp only
    | refine State.setHatch_same ?_ _ rfl | refine Keeps.update ?_ rfl rfl rfl rfl rfl)

theorem State.keepPosition_keeps {s0 s : State} (h : Keeps s0 s) (p : Nat) (g : Nat) : Keeps s0 (State.keepPosition s p g) := by
  unfold State.keepPosition
  repeat' (first | with_reducible (first | assumption | apply State.modG_keeps) | dsimp only | refine Keeps.update ?_ rfl rfl rfl rfl rfl)

theorem State.cutFree_keeps {s0 s : State} (h : Keeps s0 s) (g : Nat) : Keeps s0 (State.cutFree s g) := by
  unfold State.cutFree
  repeat' (first
    | with_reducible (first
        | assumption | apply State.fresh_keeps | apply State.modG_keeps | apply Keeps.ite) | dsimp only [State.fresh, State.choose]
    | split | refine Keeps.update ?_ rfl rfl rfl rfl rfl)

theorem State.haltG_keeps {s0 s : State} (h : Keeps s0 s) (g : Nat) (src : Nat) (reason : Nat) (flags : Nat) : Keeps s0 (State.haltG s g src reason flags) := by
  unfold State.haltG
  repeat' (first
    | with_reducible (first
        | assumption | apply State.cutFree_keeps | apply State.smuReselect_keeps | apply State.closeResult_keeps
        | apply State.probes_keeps | apply State.emitRec_keeps | apply State.report_keeps | apply State.modG_keeps | apply Keeps.ite)
    | split | dsimp only | refine Keeps.update ?_ rfl rfl rfl rfl rfl)

theorem State.haltProgram_keeps {s0 s : State} (h : Keeps s0 s) (p : Nat) (src : Nat) (reason : Nat) (flags : Nat) : Keeps s0 (State.haltProgram s p src reason flags) := by
  unfold State.haltProgram
  repeat' (first
    | with_reducible (first
        | assumption | apply State.haltG_keeps | apply State.keepPosition_keeps | apply State.setProg_keeps | apply State.modG_keeps
        | refine Keeps.forAll (fun _ _ _ => ?_) ?_) | split | dsimp only | refine Keeps.update ?_ rfl rfl rfl rfl rfl)

theorem State.leaveProgram_keeps {s0 s : State} (h : Keeps s0 s) (g : Nat) (src : Nat) (reason : Nat) : Keeps s0 (State.leaveProgram s g src reason) := by
  unfold State.leaveProgram
  repeat' (first
    | with_reducible (first
        | assumption | apply State.haltProgram_keeps | apply State.keepPosition_keeps | apply State.modPlay_keeps | apply Keeps.ite)
    | split | dsimp only | refine Keeps.update ?_ rfl rfl rfl rfl rfl)

theorem State.checkHalts_keeps {s0 s : State} (h : Keeps s0 s)  : Keeps s0 (State.checkHalts s) := by
  unfold State.checkHalts
  repeat' (first
    | with_reducible (first
        | assumption | apply State.leaveProgram_keeps | apply State.haltG_keeps | apply State.modG_keeps | apply Keeps.ite
        | refine Keeps.forAll (fun _ _ _ => ?_) ?_) | split | dsimp only | refine Keeps.update ?_ rfl rfl rfl rfl rfl)

theorem State.syncAfter_keeps {s0 s : State} (h : Keeps s0 s)  : Keeps s0 (State.syncAfter s) := by
  unfold State.syncAfter
  repeat' (first
    | with_reducible (first
        | assumption | apply State.checkHalts_keeps | apply State.syncDevice_keeps | apply State.syncProducers_keeps) | dsimp only)

theorem State.syncMany_keeps {s0 s : State} (h : Keeps s0 s) (gs : List Nat) : Keeps s0 (State.syncMany s gs) := by
  unfold State.syncMany
  repeat' (first
    | with_reducible (first
        | assumption | apply State.syncAfter_keeps | apply State.syncProducers_keeps | apply State.present_keeps) | dsimp only)

theorem State.sync_keeps {s0 s : State} (h : Keeps s0 s) (g : Nat) (pulses : List Nat) : Keeps s0 (State.sync s g pulses) := by
  unfold State.sync
  repeat' (first
    | with_reducible (first
        | assumption | apply State.syncAfter_keeps | apply State.present_keeps | apply State.follow_keeps | apply State.collect_keeps
        | apply PKeeps.ite | apply PKeeps.fst) | refine PKeeps.eq ‹_ = (_, _)› ?_ | dsimp only | with_reducible apply PKeeps.mk)
  all_goals (try assumption)

theorem State.syncAll_keeps {s0 s : State} (h : Keeps s0 s) (w : Tab Nat) (pulses : List Nat) : Keeps s0 (State.syncAll s w pulses) := by
  unfold State.syncAll
  repeat' (first
    | with_reducible (first
        | assumption | apply State.syncAfter_keeps | apply State.syncDevice_keeps | apply State.propagate_keeps) | dsimp only)

theorem State.syncLines_keeps {s0 s : State} (h : Keeps s0 s)  : Keeps s0 (State.syncLines s) := by
  unfold State.syncLines
  repeat' (first | with_reducible (first | assumption | apply State.syncAll_keeps) | dsimp only)

end Sys2Proof.Machine
end

