-- ==== Sys2Proof/Laws/KeepsRing.lean ====
section
/-!
SUPPORT. The functions of Ring.lean keep what `Keeps` says.
-/
namespace Sys2Proof.Machine

-- The case scripts of this file name more tactics than each case needs.
set_option linter.all false

theorem State.postCkpt_keeps {s0 s : State} (h : Keeps s0 s) (g : Nat) (succ : Nat) (bcast : Bool) : Keeps s0 (State.postCkpt s g succ bcast) := by
  unfold State.postCkpt
  repeat' (first
    | with_reducible (first
        | assumption | apply State.modPlay_keeps) | dsimp only | refine State.setSite_same ?_ _ _ rfl
    | refine Keeps.update ?_ rfl rfl rfl rfl rfl)

theorem State.postStart_keeps {s0 s : State} (h : Keeps s0 s) (g : Nat) (succ : Nat) (bcast : Bool) : Keeps s0 (State.postStart s g succ bcast) := by
  unfold State.postStart
  repeat' (first | assumption | dsimp only | refine State.setSite_same ?_ _ _ rfl | refine Keeps.update ?_ rfl rfl rfl rfl rfl)

theorem State.writeMarker_keeps {s0 s : State} (h : Keeps s0 s) (m : Marker) : Keeps s0 (State.writeMarker s m) := by
  unfold State.writeMarker
  repeat' (first
    | with_reducible (first
        | assumption | apply State.mirrorSend_keeps | apply Keeps.ite) | split | dsimp only | refine State.setJournal_same ?_ _ rfl
    | refine Keeps.update ?_ rfl rfl rfl rfl rfl)

theorem State.releaseMarkers_keeps {s0 s : State} (h : Keeps s0 s) (site : Nat) (run : Nat) (cseq : Nat) : Keeps s0 (State.releaseMarkers s site run cseq) := by
  unfold State.releaseMarkers
  repeat' (first
    | with_reducible (first
        | assumption | apply Keeps.ite) | split | dsimp only | refine State.setJournal_same ?_ _ rfl
    | refine Keeps.update ?_ rfl rfl rfl rfl rfl)

theorem State.takeCkpt_keeps {s0 s : State} (h : Keeps s0 s) (g : Nat) : Keeps s0 (State.takeCkpt s g) := by
  unfold State.takeCkpt
  extract_lets x t
  split
  · exact h
  · have ht : Keeps s0 t := by
      refine State.setSite_keeps h _ _ ?_
      intro hx
      show (SiteJrn.take (s.site (s.siteOf g))).ring.length ≤ 256
      unfold SiteJrn.take
      split
      · exact hx
      · dsimp only; split
        · rw [List.length_drop, List.length_append]; simp only [List.length_singleton]; omega
        · omega
    exact Keeps.ite (State.mirrorSend_keeps ht _) (State.releaseMarkers_keeps ht _ _ _)

end Sys2Proof.Machine
end

