-- ==== Sys2Proof/Laws/KeepsCaps.lean ====
section
/-!
SUPPORT. The functions of Caps.lean keep what `Keeps` says.
-/
namespace Sys2Proof.Machine

-- The case scripts of this file name more tactics than each case needs.
set_option linter.all false

theorem State.holdDigs_keeps {s0 s : State} (h : Keeps s0 s) (g : Nat) : Keeps s0 (State.holdDigs s g) := by
  unfold State.holdDigs
  repeat' (first | with_reducible (first | assumption | apply State.modG_keeps) | dsimp only | refine Keeps.update ?_ rfl rfl rfl rfl rfl)

theorem State.closeRecord_keeps {s0 s : State} (h : Keeps s0 s) (g : Nat) (d : Nat) (early : Nat) : Keeps s0 (State.closeRecord s g d early) := by
  unfold State.closeRecord
  extract_lets x
  split
  · exact h
  · split
    rename_i o1 s1 e1
    have h1 := QKeeps.eq e1 (State.fresh_keeps h)
    split
    rename_i o2 s2 e2
    have h2 := QKeeps.eq e2 (State.fresh_keeps h1)
    split
    rename_i o3 s3 e3
    have h3 := QKeeps.eq e3 (State.fresh_keeps h2)
    extract_lets base s4 now its
    have h4 : Keeps s0 s4 := h3.update rfl rfl rfl rfl rfl
    clear_value s4
    split
    extract_lets a' last x' s5
    have h5 : Keeps s0 s5 := h4.updateDram rfl rfl rfl rfl rfl fun k => Mem.wf_writeAll _ _ _ (Mem.wf_writeAll _ _ _ k)
    clear_value s5
    exact State.sync_keeps (State.emitRec_keeps (State.setDig_keeps h5 _ _ _) _ _ _) _ _

theorem State.endDig_keeps {s0 s : State} (h : Keeps s0 s) (g : Nat) (d : Nat) (early : Nat) : Keeps s0 (State.endDig s g d early) := by
  unfold State.endDig
  repeat' (first
    | with_reducible (first
        | assumption | apply State.closeRecord_keeps | apply State.setDig_keeps) | split | dsimp only
    | refine Keeps.update ?_ rfl rfl rfl rfl rfl)

theorem State.endDigs_keeps {s0 s : State} (h : Keeps s0 s) (g : Nat) (early : Nat) : Keeps s0 (State.endDigs s g early) := by
  unfold State.endDigs
  repeat' (first | with_reducible (first | assumption | apply State.endDig_keeps | refine Keeps.forAll (fun _ _ _ => ?_) ?_) | dsimp only)

theorem State.samplesTaken_keeps {s0 s : State} (h : Keeps s0 s) (g : Nat) (e : Nat) (cs : List Int) : Keeps s0 (State.samplesTaken s g e cs) := by
  unfold State.samplesTaken
  repeat' (first
    | with_reducible (first
        | assumption | apply State.setDig_keeps | refine Keeps.forAll (fun _ _ _ => ?_) ?_) | split | dsimp only
    | refine Keeps.update ?_ rfl rfl rfl rfl rfl)

theorem State.patternsDrop_keeps {s0 s : State} (h : Keeps s0 s) (g : Nat) : Keeps s0 (State.patternsDrop s g) := by
  unfold State.patternsDrop
  repeat' (first
    | with_reducible (first
        | assumption | apply State.modG_keeps | apply Keeps.ite) | split | dsimp only | refine Keeps.update ?_ rfl rfl rfl rfl rfl)

theorem State.armDig_keeps {s0 s : State} (h : Keeps s0 s) (g : Nat) (d : Nat) : Keeps s0 (State.armDig s g d) := by
  unfold State.armDig
  repeat' (first
    | with_reducible (first
        | assumption | apply State.setDig_keeps) | split | dsimp only | refine Keeps.update ?_ rfl rfl rfl rfl rfl)

theorem State.registerTrigger_keeps {s0 s : State} (h : Keeps s0 s) (g : Nat) (d : Nat) (kind : Nat) (time : Nat) : Keeps s0 (State.registerTrigger s g d kind time) := by
  unfold State.registerTrigger
  repeat' (first
    | with_reducible (first
        | assumption | apply State.setDig_keeps | apply Keeps.ite) | split | dsimp only | refine Keeps.update ?_ rfl rfl rfl rfl rfl)

end Sys2Proof.Machine
end

