-- ==== Sys2Proof/Laws/KeepsChans.lean ====
section
/-!
SUPPORT. The functions of Chans.lean keep what `Keeps` says.
-/
namespace Sys2Proof.Machine

-- The case scripts of this file name more tactics than each case needs.
set_option linter.all false

theorem State.setAmp_keeps {s0 s : State} (h : Keeps s0 s) (a : Amp) (e : (a.lec, a.hssRing) = (s.amp.lec, s.amp.hssRing)) :
    Keeps s0 (State.setAmp s a) := by
  unfold State.setAmp
  simp only [Prod.mk.injEq] at e
  exact h.update rfl rfl rfl rfl (by rw [e.1, e.2]; rfl)

theorem State.setAmpG_keeps {s0 s : State} (h : Keeps s0 s) (g : Nat) (x : AmpG) : Keeps s0 (State.setAmpG s g x) := by
  unfold State.setAmpG
  repeat' (first | with_reducible (first | assumption) | dsimp only | refine Keeps.update ?_ rfl rfl rfl rfl rfl | refine State.setAmp_keeps ?_ _ rfl)

theorem State.setChan_keeps {s0 s : State} (h : Keeps s0 s) (g : Nat) (c : Nat) (x : Chan) : Keeps s0 (State.setChan s g c x) := by
  unfold State.setChan
  repeat' (first | with_reducible (first | assumption | apply State.setAmpG_keeps) | dsimp only | refine Keeps.update ?_ rfl rfl rfl rfl rfl)

theorem State.setBridge_keeps {s0 s : State} (h : Keeps s0 s) (g : Nat) (b : Bridge) : Keeps s0 (State.setBridge s g b) := by
  unfold State.setBridge
  repeat' (first | with_reducible (first | assumption | apply State.setAmpG_keeps) | dsimp only | refine Keeps.update ?_ rfl rfl rfl rfl rfl)

theorem State.flagRun_keeps {s0 s : State} (h : Keeps s0 s) (g : Nat) (c : Nat) (flags : Nat) : Keeps s0 (State.flagRun s g c flags) := by
  unfold State.flagRun
  repeat' (first
    | with_reducible (first
        | assumption | apply State.setChan_keeps | apply Keeps.ite) | split | dsimp only | refine Keeps.update ?_ rfl rfl rfl rfl rfl)

theorem State.flagRuns_keeps {s0 s : State} (h : Keeps s0 s) (g : Nat) (flags : Nat) : Keeps s0 (State.flagRuns s g flags) := by
  unfold State.flagRuns
  repeat' (first
    | with_reducible (first
        | assumption | apply State.flagRun_keeps | apply Keeps.ite | refine Keeps.forAll (fun _ _ _ => ?_) ?_) | split | dsimp only)

theorem State.disturb_keeps {s0 s : State} (h : Keeps s0 s) (g : Nat) (u : Nat) : Keeps s0 (State.disturb s g u) := by
  unfold State.disturb
  repeat' (first | with_reducible (first | assumption | apply State.flagRuns_keeps | apply Keeps.ite) | split | dsimp only)

end Sys2Proof.Machine
end

