-- ==== Sys2Proof/Laws/KeepsPinUnits.lean ====
section
/-!
SUPPORT. The functions of PinUnits.lean keep what `Keeps` says.
-/
namespace Sys2Proof.Machine

-- The case scripts of this file name more tactics than each case needs.
set_option linter.all false

theorem State.checkTrips_keeps {s0 s : State} (h : Keeps s0 s) (g : Nat) : Keeps s0 (State.checkTrips s g) := by
  unfold State.checkTrips
  repeat' (first
    | with_reducible (first
        | assumption | apply State.preempt_keeps | apply State.modG_keeps | apply Keeps.ite | refine Keeps.forAll (fun _ _ _ => ?_) ?_)
    | split | dsimp only)

theorem State.pinsChanged_keeps {s0 s : State} (h : Keeps s0 s) (g : Nat) : Keeps s0 (State.pinsChanged s g) := by
  unfold State.pinsChanged
  repeat' (first
    | with_reducible (first
        | assumption | apply State.checkTrips_keeps | apply State.sync_keeps | apply State.probes_keeps) | dsimp only)

end Sys2Proof.Machine
end

