-- ==== Sys2Proof/Laws/KeepsSmuUnits.lean ====
section
/-!
SUPPORT. The functions of SmuUnits.lean keep what `Keeps` says.
-/
namespace Sys2Proof.Machine

-- The case scripts of this file name more tactics than each case needs.
set_option linter.all false

theorem State.gangPlaces_keeps {s0 s : State} (h : Keeps s0 s) (t : Tgt) (all : Bool) : Keeps s0 (State.gangPlaces s t all) := by
  unfold State.gangPlaces
  repeat' (first
    | with_reducible (first
        | assumption | apply State.setSmu_keeps | apply Keeps.ite | refine Keeps.forAll (fun _ _ _ => ?_) ?_) | split | dsimp only
    | refine Keeps.update ?_ rfl rfl rfl rfl rfl)

theorem State.rangesDone_keeps {s0 s : State} (h : Keeps s0 s)  : Keeps s0 (State.rangesDone s) := by
  unfold State.rangesDone
  repeat' (first
    | with_reducible (first
        | assumption | apply State.respond_keeps | apply Keeps.ite | refine Keeps.forAll (fun _ _ _ => ?_) ?_) | split | dsimp only
    | refine Keeps.update ?_ rfl rfl rfl rfl rfl)

theorem State.putCompl_keeps {s0 s : State} (h : Keeps s0 s) (g : Nat) (u : Nat) (a : Bool) : Keeps s0 (State.putCompl s g u a) := by
  unfold State.putCompl
  repeat' (first
    | with_reducible (first
        | assumption | apply State.note_keeps | apply State.setSmu_keeps | apply Keeps.ite) | split | dsimp only
    | refine Keeps.update ?_ rfl rfl rfl rfl rfl)

theorem State.smuTrips_keeps {s0 s : State} (h : Keeps s0 s) (g : Nat) : Keeps s0 (State.smuTrips s g) := by
  unfold State.smuTrips
  repeat' (first
    | with_reducible (first
        | assumption | apply State.putCompl_keeps | apply State.rangesDone_keeps | apply State.disturb_keeps
        | apply State.preempt_keeps | apply State.setSmu_keeps | apply State.modG_keeps | apply Keeps.ite
        | refine Keeps.forAll (fun _ _ _ => ?_) ?_) | split | dsimp only)

theorem State.comparatorsChanged_keeps {s0 s : State} (h : Keeps s0 s) (g : Nat) : Keeps s0 (State.comparatorsChanged s g) := by
  unfold State.comparatorsChanged
  repeat' (first
    | with_reducible (first
        | assumption | apply State.smuTrips_keeps | apply State.checkTrips_keeps | apply State.patternsDrop_keeps
        | apply State.sync_keeps | apply State.probes_keeps) | dsimp only)

theorem State.setCompl_keeps {s0 s : State} (h : Keeps s0 s) (g : Nat) (u : Nat) (a : Bool) : Keeps s0 (State.setCompl s g u a) := by
  unfold State.setCompl
  repeat' (first
    | with_reducible (first
        | assumption | apply State.comparatorsChanged_keeps | apply State.putCompl_keeps | apply Keeps.ite) | split | dsimp only)

end Sys2Proof.Machine
end

