-- ==== Sys2Proof/Laws/KeepsAmps.lean ====
section
/-!
SUPPORT. The functions of Amps.lean keep what `Keeps` says.
-/
namespace Sys2Proof.Machine

-- The case scripts of this file name more tactics than each case needs.
set_option linter.all false

/-- A transition of Table 20-4 goes one state on. -/
theorem Sec.go_up {x : Sec} {target : Nat} (h : x.mayGo target = true) :
    (x.go target).hssRing = x.hssRing ∧ (x.go target).floors = x.floors ∧ x.life ≤ (x.go target).life := by
  have ht : target = x.life + 1 := by
    simp only [Sec.mayGo, Bool.and_eq_true, beq_iff_eq] at h
    exact h.1.1
  unfold Sec.go
  dsimp only
  split <;> refine ⟨rfl, rfl, ?_⟩ <;> show x.life ≤ target <;> omega

theorem State.go_neverFalls {s : State} {target : Nat} (h : s.sec.mayGo target = true) (po : Power) :
    s.neverFalls { s with power := po, sec := s.sec.go target } := by
  obtain ⟨h1, h2, h3⟩ := Sec.go_up h
  refine ⟨fun b => ⟨Nat.le_refl _, b⟩, ringGrows.refl _, ?_, fun k => ?_, h3⟩
  · show ringGrows _ (s.sec.go target).hssRing; rw [h1]; exact ringGrows.refl _
  · show _ ≤ (s.sec.go target).floors.getD k 0; exact Nat.le_of_eq (by simp [h2])

theorem State.setSheets_keeps {s0 s : State} (h : Keeps s0 s) (l : List Sheet) : Keeps s0 (State.setSheets s l) := by
  unfold State.setSheets
  repeat' (first | with_reducible (first | assumption) | dsimp only | refine Keeps.update ?_ rfl rfl rfl rfl rfl | refine State.setAmp_keeps ?_ _ rfl)

theorem State.closeSheet_keeps {s0 s : State} (h : Keeps s0 s) (cause : Nat) : Keeps s0 (State.closeSheet s cause) := by
  unfold State.closeSheet
  repeat' (first
    | with_reducible (first
        | assumption | apply State.setSheets_keeps | apply Keeps.ite) | split | dsimp only | refine Keeps.update ?_ rfl rfl rfl rfl rfl)

theorem State.takeIndex_keeps {s0 s : State} (h : Keeps s0 s)  : QKeeps s0 (State.takeIndex s) := by
  unfold State.takeIndex
  extract_lets src a out s1
  have h1 : Keeps s0 s1 := by
    refine h.lift _ s.power s.sec ⟨fun b => ⟨Nat.le_refl _, b⟩, ?_, ringGrows.refl _, fun _ => Nat.le_refl _, Nat.le_refl _⟩
    exact ringReserve_grows s.amp.hssRing
  clear_value s1
  exact QKeeps.mk (Keeps.ite (State.closeSheet_keeps h1 _) h1)

theorem State.addEntry_keeps {s0 s : State} (h : Keeps s0 s) (f : Nat → Nat → List Byte) : PKeeps s0 (State.addEntry s f) := by
  unfold State.addEntry
  repeat' (first
    | with_reducible (first
        | assumption | apply State.closeSheet_keeps | apply State.setSheets_keeps | apply Keeps.ite
        | apply PKeeps.ite) | split | dsimp only | with_reducible apply PKeeps.mk | refine Keeps.update ?_ rfl rfl rfl rfl rfl
    | refine State.setAmp_keeps ?_ _ rfl)

theorem State.endReservation_keeps {s0 s : State} (h : Keeps s0 s) (torn : Bool) : Keeps s0 (State.endReservation s torn) := by
  unfold State.endReservation
  refine Keeps.ite h (Keeps.ite ?_ (QKeeps.snd (State.takeIndex_keeps h)))
  split
  rename_i v s1 e1
  have h1 := QKeeps.eq e1 (State.fresh_keeps h)
  exact h1.lift _ s1.power s1.sec ⟨fun b => ⟨Nat.le_refl _, b⟩, ringTear_grows _ _, ringGrows.refl _, fun _ => Nat.le_refl _, Nat.le_refl _⟩

theorem State.abandonSheets_keeps {s0 s : State} (h : Keeps s0 s)  : Keeps s0 (State.abandonSheets s) := by
  unfold State.abandonSheets
  repeat' (first
    | with_reducible (first
        | assumption | apply Keeps.ite) | split | dsimp only | refine Keeps.update ?_ rfl rfl rfl rfl rfl
    | refine State.setAmp_keeps ?_ _ rfl)

theorem State.setComp_keeps {s0 s : State} (h : Keeps s0 s) (g : Nat) (c : Nat) (r : Nat) (x : Comp) : Keeps s0 (State.setComp s g c r x) := by
  unfold State.setComp
  repeat' (first | with_reducible (first | assumption | apply State.setChan_keeps) | dsimp only | refine Keeps.update ?_ rfl rfl rfl rfl rfl)

theorem State.keepRecord_keeps {s0 s : State} (h : Keeps s0 s) (g : Nat) (c : Nat) (k : Nat) (values : List Int) : Keeps s0 (State.keepRecord s g c k values) := by
  unfold State.keepRecord
  repeat' (first | assumption | dsimp only | refine Keeps.update ?_ rfl rfl rfl rfl rfl)

theorem State.putComp_keeps {s0 s : State} (h : Keeps s0 s) (g : Nat) (c : Nat) (r : Nat) (x : Comp) : Keeps s0 (State.putComp s g c r x) := by
  unfold State.putComp
  repeat' (first
    | with_reducible (first
        | assumption | apply State.keepRecord_keeps | apply State.setComp_keeps | apply State.choose_keeps | apply Keeps.ite)
    | dsimp only [State.fresh, State.choose] | split | refine Keeps.update ?_ rfl rfl rfl rfl rfl)

theorem State.applyComp_keeps {s0 s : State} (h : Keeps s0 s) (g : Nat) (c : Nat) (r : Nat) : Keeps s0 (State.applyComp s g c r) := by
  unfold State.applyComp
  repeat' (first
    | with_reducible (first
        | assumption | apply State.setComp_keeps | apply State.closeSheet_keeps | apply State.advise_keeps
        | apply Keeps.ite) | split | dsimp only | refine Keeps.update ?_ rfl rfl rfl rfl rfl
    | refine State.setAmp_keeps ?_ _ rfl)

theorem State.syncClaims_keeps {s0 s : State} (h : Keeps s0 s) (g : Nat) : Keeps s0 (State.syncClaims s g) := by
  unfold State.syncClaims
  repeat' (first
    | with_reducible (first
        | assumption | apply State.pinsChanged_keeps | apply State.preempt_keeps | apply State.setSmu_keeps | apply State.setPin_keeps
        | apply Keeps.ite | refine Keeps.forAll (fun _ _ _ => ?_) ?_) | split | dsimp only | refine Keeps.update ?_ rfl rfl rfl rfl rfl)

theorem State.select_keeps {s0 s : State} (h : Keeps s0 s) (g : Nat) (c : Nat) (src : Nat) : Keeps s0 (State.select s g c src) := by
  unfold State.select
  repeat' (first
    | with_reducible (first
        | assumption | apply State.syncClaims_keeps | apply State.setChan_keeps | apply Keeps.ite) | split | dsimp only
    | refine Keeps.update ?_ rfl rfl rfl rfl rfl)

theorem State.startConversions_keeps {s0 s : State} (h : Keeps s0 s) (m : Nat) (us : List Nat) : Keeps s0 (State.startConversions s m us) := by
  unfold State.startConversions
  repeat' (first
    | with_reducible (first
        | assumption | apply State.setChan_keeps | apply State.await_keeps | apply Keeps.ite | refine Keeps.forAll (fun _ _ _ => ?_) ?_)
    | split | dsimp only | refine Keeps.update ?_ rfl rfl rfl rfl rfl)

theorem State.tryConvert_keeps {s0 s : State} (h : Keeps s0 s) (m : Nat) : Keeps s0 (State.tryConvert s m) := by
  unfold State.tryConvert
  repeat' (first
    | with_reducible (first
        | assumption | apply State.startConversions_keeps | apply State.await_keeps | apply Keeps.ite) | split | dsimp only
    | refine Keeps.update ?_ rfl rfl rfl rfl rfl)

theorem State.dequeue_keeps {s0 s : State} (h : Keeps s0 s) (m : Nat) (us : List Nat) : Keeps s0 (State.dequeue s m us) := by
  unfold State.dequeue
  repeat' (first
    | with_reducible (first
        | assumption | apply State.setChan_keeps | refine Keeps.forAll (fun _ _ _ => ?_) ?_) | dsimp only
    | refine Keeps.update ?_ rfl rfl rfl rfl rfl)

theorem State.trySelect_keeps {s0 s : State} (h : Keeps s0 s) (m : Nat) : Keeps s0 (State.trySelect s m) := by
  unfold State.trySelect
  repeat' (first
    | with_reducible (first
        | assumption | apply State.dequeue_keeps | apply State.select_keeps | apply State.setChan_keeps | apply State.respondFrom_keeps
        | apply State.await_keeps | apply Keeps.ite | refine Keeps.forAll (fun _ _ _ => ?_) ?_) | split | dsimp only
    | refine Keeps.update ?_ rfl rfl rfl rfl rfl)

theorem State.ampTry_keeps {s0 s : State} (h : Keeps s0 s)  : Keeps s0 (State.ampTry s) := by
  unfold State.ampTry
  repeat' (first
    | with_reducible (first
        | assumption | apply State.trySelect_keeps | apply State.tryConvert_keeps | apply Keeps.ite
        | refine Keeps.forAll (fun _ _ _ => ?_) ?_ | refine Keeps.foldl (fun _ _ _ => ?_) ?_) | split | dsimp only)

theorem State.ampChecks_keeps {s0 s : State} (h : Keeps s0 s)  : Keeps s0 (State.ampChecks s) := by
  unfold State.ampChecks
  repeat' (first
    | with_reducible (first
        | assumption | apply State.setChan_keeps | apply Keeps.ite | refine Keeps.forAll (fun _ _ _ => ?_) ?_) | split | dsimp only
    | refine Keeps.update ?_ rfl rfl rfl rfl rfl)

theorem State.ampNext_keeps {s0 s : State} (h : Keeps s0 s)  : Keeps s0 (State.ampNext s) := by
  unfold State.ampNext
  repeat' (first | with_reducible (first | assumption | apply State.ampChecks_keeps | apply State.ampTry_keeps) | dsimp only)

theorem State.ampBody_keeps {s0 s : State} (h : Keeps s0 s) (g : Nat) (c : Nat) (q : AmpReq) (r : AmpRun) : PKeeps s0 (State.ampBody s g c q r) := by
  unfold State.ampBody
  repeat' (first
    | with_reducible (first
        | assumption | apply State.choose_keeps | apply State.fresh_keeps | apply Keeps.ite | apply PKeeps.ite)
    | dsimp only [State.fresh, State.choose] | split | with_reducible apply PKeeps.mk | refine Keeps.update ?_ rfl rfl rfl rfl rfl)

theorem State.ampFinish_keeps {s0 s : State} (h : Keeps s0 s) (g : Nat) (c : Nat) (flags : Nat) : Keeps s0 (State.ampFinish s g c flags) := by
  unfold State.ampFinish
  repeat' (first
    | with_reducible (first
        | assumption | apply State.ampBody_keeps | apply State.setChan_keeps | apply PKeeps.ite | apply PKeeps.fst)
    | refine PKeeps.eq ‹_ = (_, _)› ?_ | split | dsimp only | with_reducible apply PKeeps.mk | refine Keeps.update ?_ rfl rfl rfl rfl rfl)

theorem State.convertsDone_keeps {s0 s : State} (h : Keeps s0 s)  : Keeps s0 (State.convertsDone s) := by
  unfold State.convertsDone
  repeat' (first
    | with_reducible (first
        | assumption | apply State.respond_keeps | apply Keeps.ite | refine Keeps.forAll (fun _ _ _ => ?_) ?_) | split | dsimp only
    | refine Keeps.update ?_ rfl rfl rfl rfl rfl)

theorem State.ampReport_keeps {s0 s : State} (h : Keeps s0 s) (m : Nat) (pos : Nat) (bytes : List Byte) (failed : Bool) (missing : Bool) : Keeps s0 (State.ampReport s m pos bytes failed missing) := by
  unfold State.ampReport
  repeat' (first
    | with_reducible (first
        | assumption | apply State.await_keeps | apply Keeps.ite) | split | dsimp only | refine Keeps.update ?_ rfl rfl rfl rfl rfl)

theorem State.ampSkip_keeps {s0 s : State} (h : Keeps s0 s) (m : Nat) (pos : Nat) : Keeps s0 (State.ampSkip s m pos) := by
  unfold State.ampSkip
  repeat' (first
    | with_reducible (first
        | assumption | apply State.await_keeps) | split | dsimp only | refine Keeps.update ?_ rfl rfl rfl rfl rfl)

theorem State.ampPost_keeps {s0 s : State} (h : Keeps s0 s) (g : Nat) (c : Nat) : Keeps s0 (State.ampPost s g c) := by
  unfold State.ampPost
  repeat' (first
    | with_reducible (first
        | assumption | apply State.ampSkip_keeps | apply State.ampReport_keeps | apply State.convertsDone_keeps
        | apply State.ampNext_keeps | apply State.addEntry_keeps | apply State.setChan_keeps | refine State.setAmp_keeps ?_ _ rfl
        | apply State.emitRec_keeps | apply Keeps.ite | apply PKeeps.ite | apply PKeeps.fst) | refine PKeeps.eq ‹_ = (_, _)› ?_ | split
    | dsimp only | with_reducible apply PKeeps.mk | refine Keeps.update ?_ rfl rfl rfl rfl rfl)

theorem State.dropSelect_keeps {s0 s : State} (h : Keeps s0 s) (g : Nat) (c : Nat) (q : AmpReq) : Keeps s0 (State.dropSelect s g c q) := by
  unfold State.dropSelect
  repeat' (first
    | with_reducible (first
        | assumption | apply State.setChan_keeps | apply State.await_keeps) | split | dsimp only
    | refine Keeps.update ?_ rfl rfl rfl rfl rfl)

theorem State.selectsDone_keeps {s0 s : State} (h : Keeps s0 s)  : Keeps s0 (State.selectsDone s) := by
  unfold State.selectsDone
  repeat' (first
    | with_reducible (first
        | assumption | apply State.respond_keeps | apply Keeps.ite | refine Keeps.forAll (fun _ _ _ => ?_) ?_) | split | dsimp only
    | refine Keeps.update ?_ rfl rfl rfl rfl rfl)

theorem State.ampAbort_keeps {s0 s : State} (h : Keeps s0 s) (g : Nat) (flag : Nat) (all : Bool) : Keeps s0 (State.ampAbort s g flag all) := by
  unfold State.ampAbort
  repeat' (first
    | with_reducible (first
        | assumption | apply State.dropSelect_keeps | apply State.ampFinish_keeps | apply Keeps.ite
        | refine Keeps.forAll (fun _ _ _ => ?_) ?_) | split | dsimp only)

theorem State.spansDone_keeps {s0 s : State} (h : Keeps s0 s)  : Keeps s0 (State.spansDone s) := by
  unfold State.spansDone
  repeat' (first
    | with_reducible (first
        | assumption | apply State.respond_keeps | apply Keeps.ite | refine Keeps.forAll (fun _ _ _ => ?_) ?_) | split | dsimp only
    | refine Keeps.update ?_ rfl rfl rfl rfl rfl)

theorem State.ampOpen_keeps {s0 s : State} (h : Keeps s0 s) (g : Nat) : Keeps s0 (State.ampOpen s g) := by
  unfold State.ampOpen
  repeat' (first
    | with_reducible (first
        | assumption | apply State.spansDone_keeps | apply State.select_keeps | apply State.setBridge_keeps) | dsimp only)

theorem State.ampSafe_keeps {s0 s : State} (h : Keeps s0 s) (g : Nat) (flag : Nat) : Keeps s0 (State.ampSafe s g flag) := by
  unfold State.ampSafe
  repeat' (first
    | with_reducible (first
        | assumption | apply State.ampOpen_keeps | apply State.ampAbort_keeps | apply State.selectsDone_keeps
        | apply State.ampNext_keeps | apply Keeps.ite) | split | dsimp only)

theorem State.refsDone_keeps {s0 s : State} (h : Keeps s0 s)  : Keeps s0 (State.refsDone s) := by
  unfold State.refsDone
  repeat' (first
    | with_reducible (first
        | assumption | apply State.respond_keeps | apply State.choose_keeps | apply Keeps.ite
        | refine Keeps.forAll (fun _ _ _ => ?_) ?_) | dsimp only [State.fresh, State.choose] | split
    | refine Keeps.update ?_ rfl rfl rfl rfl rfl)

theorem State.newCandidate_keeps {s0 s : State} (h : Keeps s0 s)  : Keeps s0 (State.newCandidate s) := by
  unfold State.newCandidate
  repeat' (first | with_reducible (first | assumption) | dsimp only | refine Keeps.update ?_ rfl rfl rfl rfl rfl | refine State.setAmp_keeps ?_ _ rfl)

theorem State.lifeSet_keeps {s0 s : State} (h : Keeps s0 s) (target m : Nat) (ht : s.sec.mayGo target = true) :
    Keeps s0 (State.lifeSet s target m) := by
  unfold State.lifeSet
  extract_lets s1
  have h1 : Keeps s0 s1 := h.lift s.amp _ _ (State.go_neverFalls ht _)
  clear_value s1
  exact Keeps.ite (State.closeSheet_keeps h1 _) h1

theorem State.lifeCommit_keeps {s0 s : State} (h : Keeps s0 s) (target : Nat) (m : Nat) : Keeps s0 (State.lifeCommit s target m) := by
  unfold State.lifeCommit
  split
  · exact State.respond_keeps h _ _ _
  · rename_i hg
    exact State.respond_keeps (State.lifeSet_keeps h _ _ (by simpa using hg)) _ _ _

theorem State.lifeTry_keeps {s0 s : State} (h : Keeps s0 s)  : Keeps s0 (State.lifeTry s) := by
  unfold State.lifeTry
  repeat' (first
    | with_reducible (first
        | assumption | apply State.lifeCommit_keeps | apply Keeps.ite | refine Keeps.forAll (fun _ _ _ => ?_) ?_) | split | dsimp only
    | refine Keeps.update ?_ rfl rfl rfl rfl rfl)

theorem State.ampReset_keeps {s0 s : State} (h : Keeps s0 s)  : Keeps s0 (State.ampReset s) := by
  unfold State.ampReset
  repeat' (first
    | with_reducible (first
        | assumption | apply State.syncClaims_keeps | apply State.abandonSheets_keeps
        | refine Keeps.forAll (fun _ _ _ => ?_) ?_) | dsimp only | refine Keeps.update ?_ rfl rfl rfl rfl rfl
    | refine State.setAmp_keeps ?_ _ rfl)

theorem State.ampDrop_keeps {s0 s : State} (h : Keeps s0 s)  : Keeps s0 (State.ampDrop s) := by
  unfold State.ampDrop
  extract_lets s1
  have h1 : Keeps s0 s1 := by
    refine Keeps.forAll (fun u m k => ?_) h
    split
    · exact Keeps.ite (State.respond_keeps k _ _ _) k
    · exact k
  clear_value s1
  refine State.lifeTry_keeps (State.fencesDone_keeps (State.setMbx_keeps h1 _ _ ?_))
  exact fits_of_sublist (List.nil_sublist _) id

end Sys2Proof.Machine
end

