-- ==== Sys2Proof/Laws/KeepsReaction.lean ====
section
/-!
SUPPORT. The functions of Reaction.lean keep what `Keeps` says.
-/
namespace Sys2Proof.Machine

-- The case scripts of this file name more tactics than each case needs.
set_option linter.all false

theorem State.safeMeasures_keeps {s0 s : State} (h : Keeps s0 s) (g : Nat) : Keeps s0 (State.safeMeasures s g) := by
  unfold State.safeMeasures
  repeat' (first
    | with_reducible (first
        | assumption | apply State.await_keeps | refine Keeps.forAll (fun _ _ _ => ?_) ?_) | split | dsimp only
    | refine Keeps.update ?_ rfl rfl rfl rfl rfl)

theorem State.safeElements_keeps {s0 s : State} (h : Keeps s0 s) (g : Nat) (src : Half) : Keeps s0 (State.safeElements s g src) := by
  unfold State.safeElements
  repeat' (first
    | with_reducible (first
        | assumption | apply State.safeMeasures_keeps | apply State.ampSafe_keeps | apply State.endDigs_keeps | apply State.sync_keeps
        | apply State.leaveProgram_keeps | apply State.haltG_keeps | apply State.preempt_keeps | apply State.endTius_keeps
        | apply State.probes_keeps | apply State.setDig_keeps | apply State.setSmu_keeps | apply State.setPin_keeps
        | apply State.modG_keeps | refine Keeps.forAll (fun _ _ _ => ?_) ?_ | refine Keeps.foldl (fun _ _ _ => ?_) ?_) | dsimp only
    | refine Keeps.update ?_ rfl rfl rfl rfl rfl)

theorem State.enterSafe_keeps {s0 s : State} (h : Keeps s0 s) (g : Nat) (src : Half) : Keeps s0 (State.enterSafe s g src) := by
  unfold State.enterSafe
  repeat' (first
    | with_reducible (first
        | assumption | apply State.safeElements_keeps | apply State.modG_keeps) | dsimp only | refine Keeps.update ?_ rfl rfl rfl rfl rfl)

theorem State.annealMailboxes_keeps {s0 s : State} (h : Keeps s0 s) (held : Bool) : Keeps s0 (State.annealMailboxes s held) := by
  refine Keeps.forAll (fun u m k => ?_) h
  have fit : ∀ (front : Bool) (l : Word), (u.mailbox m).fits → Mailbox.fits { (u.mailbox m).anneal front held u.upNs with late := l } := by
    intro front l hx
    unfold Mailbox.anneal
    split
    · exact fits_of_sublist (x := u.mailbox m) (List.nil_sublist _) id hx
    · extract_lets cut es
      have hc : ∀ e, (cut e).refusal = e.refusal := by
        intro e; dsimp only [cut]; split
        · rfl
        · split <;> rfl
      have hy : Mailbox.fits { u.mailbox m with entries := es } := fits_of_updFirst (x := u.mailbox m) _ cut hc rfl rfl hx
      refine fits_of_map (x := { u.mailbox m with entries := es }) _ ?_ rfl id hy
      intro e; split <;> rfl
  dsimp only
  refine State.pumpMbx_keeps ?_ _
  have hs := fun (front : Bool) (l : Word) => State.setMbx_keeps k m _ (fit front l)
  split
  · exact State.advise_keeps (hs _ _) _ _ _
  · exact hs _ _

theorem State.holdProcessor_keeps {s0 s : State} (h : Keeps s0 s)  : Keeps s0 (State.holdProcessor s) := by
  unfold State.holdProcessor
  repeat' (first
    | with_reducible (first
        | assumption | apply State.annealMailboxes_keeps | apply Keeps.ite) | split | dsimp only | refine State.setFaults_same ?_ _ rfl
    | refine Keeps.update ?_ rfl rfl rfl rfl rfl)

theorem State.dropAnswers_keeps {s0 s : State} (h : Keeps s0 s)  : Keeps s0 (State.dropAnswers s) := by
  unfold State.dropAnswers
  repeat' (first | with_reducible (first | assumption) | dsimp only | refine Keeps.update ?_ rfl rfl rfl rfl rfl | refine State.setAmp_keeps ?_ _ rfl)

theorem State.annealStops_keeps {s0 s : State} (h : Keeps s0 s) (src : Half) : Keeps s0 (State.annealStops s src) := by
  unfold State.annealStops
  repeat' (first
    | with_reducible (first
        | assumption | apply State.annealMailboxes_keeps | apply State.safeElements_keeps | apply State.haltProgram_keeps
        | apply State.endTius_keeps | apply Keeps.ite | refine Keeps.forAll (fun _ _ _ => ?_) ?_) | split | dsimp only
    | refine Keeps.update ?_ rfl rfl rfl rfl rfl)

theorem State.annealTwin_keeps {s0 s : State} (h : Keeps s0 s)  : Keeps s0 (State.annealTwin s) := by
  unfold State.annealTwin
  repeat' (first | assumption | dsimp only | refine State.setTwin_same ?_ _ rfl | refine Keeps.update ?_ rfl rfl rfl rfl rfl)

theorem State.enterAnneal_keeps {s0 s : State} (h : Keeps s0 s) (src : Half) : Keeps s0 (State.enterAnneal s src) := by
  have h1 : Keeps s0 (s.setFaults { s.faults with anneal := true }) := State.setFaults_same h _ rfl
  have h2 := State.annealStops_keeps h1 src
  have quench : ∀ u : State, Keeps s0 u → Keeps s0 (u.setHatch u.hatch.quench) := fun _ k => State.setHatch_same k _ rfl
  unfold State.enterAnneal
  exact State.dropAnswers_keeps (State.annealTwin_keeps (State.syncLines_keeps (quench _ h2)))

theorem State.latchD_keeps {s0 s : State} (h : Keeps s0 s) (src : Half) : Keeps s0 (State.latchD s src) := by
  unfold State.latchD
  repeat' (first
    | with_reducible (first
        | assumption | apply Keeps.ite) | split | dsimp only | refine State.setFaults_same ?_ _ rfl
    | refine Keeps.update ?_ rfl rfl rfl rfl rfl)

theorem State.raise_keeps {s0 s : State} (h : Keeps s0 s) (src : Half) (scope : Half) (detail : Word) (real : Bool) (react : Bool) : Keeps s0 (State.raise s src scope detail real react) := by
  unfold State.raise
  repeat' (first
    | with_reducible (first
        | assumption | apply State.latchD_keeps | apply State.enterAnneal_keeps | apply State.holdProcessor_keeps
        | apply State.enterSafe_keeps | apply State.record_keeps | apply Keeps.ite) | split | dsimp only
    | refine Keeps.update ?_ rfl rfl rfl rfl rfl)

end Sys2Proof.Machine
end

