-- ==== Sys2Proof/Laws/KeepsEnvelope.lean ====
section
/-!
SUPPORT. The functions of Envelope.lean keep what `Keeps` says.
-/
namespace Sys2Proof.Machine

-- The case scripts of this file name more tactics than each case needs.
set_option linter.all false

theorem State.ring_keeps {s0 s : State} (h : Keeps s0 s) (op : Half) (r : Req) (xseq : Option Word) : PKeeps s0 (State.ring s op r xseq) := by
  unfold State.ring
  extract_lets m x front
  refine PKeeps.ite (PKeeps.mk h) ?_
  by_cases hr : x.entries.any (·.refusal) = true
  · rw [if_pos hr]; exact PKeeps.mk (State.setMbx_keeps h _ _ id)
  · rw [if_neg hr]
    by_cases hf : x.outstanding ≥ 16
    · rw [if_pos hf]
      refine PKeeps.mk (State.pumpMbx_keeps (State.setMbx_keeps h _ _ ?_) _)
      exact fits_of_append rfl rfl (fun _ => by simpa using hr) (fun e => by simp [refusalEntry] at e)
    · rw [if_neg hf]
      have add : ∀ e : Entry, e.refusal = false → Keeps s0 (s.setMbx m { x with accepted := x.accepted + 1, entries := x.entries ++ [e] }) := by
        intro e he
        exact State.setMbx_keeps h _ _ (fits_of_append rfl rfl (fun k => by rw [he] at k; cases k) (fun _ => Nat.lt_of_not_ge hf))
      refine PKeeps.ite (PKeeps.ite (PKeeps.mk (add _ rfl)) (PKeeps.mk h)) ?_
      exact PKeeps.ite (PKeeps.ite (PKeeps.mk (add _ rfl)) (PKeeps.mk h)) (PKeeps.mk (add _ rfl))

theorem State.startHead_keeps {s0 s : State} (h : Keeps s0 s) (m : Nat) : Keeps s0 (State.startHead s m) := by
  unfold State.startHead
  extract_lets x go
  exact State.setMbx_keeps h _ _ (fits_of_updFirst _ go (fun _ => rfl) rfl rfl)

theorem State.wakeIdle_keeps {s0 s : State} (h : Keeps s0 s) (op : Half) : Keeps s0 (State.wakeIdle s op) := by
  unfold State.wakeIdle
  repeat' (first | with_reducible (first | assumption | apply State.setPstate_keeps | apply Keeps.ite) | split | dsimp only)

theorem State.wakeFor_keeps {s0 s : State} (h : Keeps s0 s) (op : Half) (m : Nat) : Keeps s0 (State.wakeFor s op m) := by
  unfold State.wakeFor
  extract_lets u x f
  exact State.setMbx_keeps (State.wakeIdle_keeps h op) m _ (fits_of_updFirst _ f (fun _ => rfl) rfl rfl)

theorem State.boundBy_keeps {s0 s : State} (h : Keeps s0 s) (m : Nat) (bound : Nat) : Keeps s0 (State.boundBy s m bound) := by
  unfold State.boundBy
  extract_lets x
  exact State.setMbx_keeps h m _ (fits_of_updFirst _ (fun e => { e with bound := bound }) (fun _ => rfl) rfl rfl)

theorem State.shadowWrite_keeps {s0 s : State} (h : Keeps s0 s) (op : Half) (r : Req) : Keeps s0 (State.shadowWrite s op r) := by
  unfold State.shadowWrite
  repeat' (first
    | with_reducible (first
        | assumption | apply State.mirrorSend_keeps | apply Keeps.ite) | split | dsimp only | refine State.setTwin_same ?_ _ rfl
    | refine Keeps.update ?_ rfl rfl rfl rfl rfl)

theorem State.countRefused_keeps {s0 s : State} (h : Keeps s0 s) (m : Nat) (st : Half) : Keeps s0 (State.countRefused s m st) := by
  unfold State.countRefused
  repeat' (first | with_reducible (first | assumption | apply Keeps.ite) | split | dsimp only | refine Keeps.update ?_ rfl rfl rfl rfl rfl)

theorem State.finish_keeps {s0 s : State} (h : Keeps s0 s) (op : Half) (bound : Nat) (r : Req) (t : Tgt) (span : Option Tgt) (a : Act) : Keeps s0 (State.finish s op bound r t span a) := by
  unfold State.finish
  extract_lets m s5 ok s6 s7
  have h5 : Keeps s0 s5 := Keeps.ite (State.shadowWrite_keeps (State.wakeFor_keeps h _ _) _ _) h
  clear_value s5
  have h6 : Keeps s0 s6 := Keeps.ite (State.linkSend_keeps h5 _) (Keeps.ite (State.requestTurn_keeps h5) h5)
  clear_value s6
  have h7 : Keeps s0 s7 := State.boundBy_keeps h6 _ _
  clear_value s7
  split
  · exact State.await_keeps h7 _ _
  · split
    · exact State.await_keeps h7 _ _
    · exact State.respond_keeps h7 _ _ _
  · refine Keeps.ite (State.respond_keeps h7 _ _ _) (Keeps.ite (State.await_keeps h7 _ _) (State.await_keeps h7 _ _))

theorem State.otherWrite_keeps {s0 s : State} (h : Keeps s0 s) (op : Half) (r : Req) : Keeps s0 (State.otherWrite s op r) := by
  unfold State.otherWrite
  repeat' (first
    | with_reducible (first
        | assumption | apply Keeps.ite) | split | dsimp only | refine State.setTwin_same ?_ _ rfl
    | refine Keeps.update ?_ rfl rfl rfl rfl rfl)

theorem State.conclude_keeps {s0 s u : State} (h : Keeps s0 s) (hu : Keeps s0 u) (op : Half) (bound : Nat) (r : Req) (a : Act) :
    Keeps s0 (s.conclude op bound r u a) := by
  unfold State.conclude
  extract_lets span
  refine Keeps.ite (State.await_keeps (State.linkSend_keeps h _) _ _) (Keeps.ite ?_ (State.finish_keeps hu _ _ _ _ _ _))
  exact State.finish_keeps (State.otherWrite_keeps hu _ _) _ _ _ _ _ _

theorem State.runBody_keeps {s0 s : State} (h : Keeps s0 s) (op : Half) (bound : Nat) (r : Req) {body : State → Req → State × Act}
    (hb : ∀ u q, Keeps s0 u → PKeeps s0 (body u q)) : Keeps s0 (s.runBody op bound r body) := by
  unfold State.runBody
  split
  rename_i s4 a e4
  exact State.conclude_keeps h (PKeeps.eq e4 (hb _ _ h)) _ _ _ _

theorem State.refuseLast_keeps {s0 s : State} (h : Keeps s0 s) (m : Nat) (rep : Reply) : Keeps s0 (State.refuseLast s m rep) := by
  unfold State.refuseLast
  extract_lets x
  split
  · exact h
  · rename_i e he
    refine State.pumpMbx_keeps (State.setMbx_keeps h _ _ ?_) _
    exact fits_of_last (f := e.respond 0 0 0 0 rep) he rfl rfl id

theorem State.verdict_keeps {s0 s : State} (h : Keeps s0 s) (op : Half) (accept : List Nat) (r : Req) {body : State → Req → State × Act}
    (hb : ∀ u q, Keeps s0 u → PKeeps s0 (body u q)) : PKeeps s0 (s.verdict op accept r body) := by
  unfold State.verdict
  extract_lets m st
  refine PKeeps.ite (PKeeps.mk h) (PKeeps.ite (PKeeps.mk (State.countRefused_keeps h _ _)) (PKeeps.ite (PKeeps.mk h) ?_))
  split
  rename_i u a e
  split
  · exact PKeeps.mk (PKeeps.eq e (hb _ _ h))
  · exact PKeeps.mk h

theorem State.bellCheck_keeps {s0 s : State} (h : Keeps s0 s) (op : Half) (bound : Nat) (accept : List Nat) (r : Req) {body : State → Req → State × Act}
    (hb : ∀ u q, Keeps s0 u → PKeeps s0 (body u q)) : Keeps s0 (s.bellCheck op bound accept r body) := by
  unfold State.bellCheck
  extract_lets m x
  split
  · exact h
  · rename_i e he
    refine Keeps.ite h ?_
    split
    · rename_i u rep ev
      have hu := PKeeps.eq ev (State.verdict_keeps h op accept r hb)
      refine State.refuseLast_keeps (s := { u with mbx := s.mbx }) ⟨hu.pend, hu.flt, hu.note, hu.jrn, hu.twin, hu.mem, h.mbx, hu.up⟩ _ _
    · exact State.setMbx_keeps h _ _ (fits_of_last (f := { e with bound := bound }) he rfl rfl id)

theorem State.firmware_keeps {s0 s : State} (h : Keeps s0 s) (op : Half) (bound : Nat) (accept : List Nat) (r : Req)
    {body : State → Req → State × Act} (hb : ∀ u q, Keeps s0 u → PKeeps s0 (body u q)) : Keeps s0 (s.firmware op bound accept r body) := by
  unfold State.firmware
  extract_lets m matchHead free
  split
  rename_i s1 taken e1
  have h1 : Keeps s0 s1 := PKeeps.eq e1 (PKeeps.ite (PKeeps.mk h) (State.ring_keeps h _ _ _))
  have hc : Keeps s0 (s1.bellCheck op bound accept r body) := State.bellCheck_keeps h1 _ _ _ _ hb
  extract_lets atHead s2 st
  have h2 : Keeps s0 s2 := State.startHead_keeps h1 _
  clear_value s2
  refine Keeps.ite h1 (Keeps.ite hc (Keeps.ite (Keeps.ite h1 (State.requestTurn_keeps h1)) (Keeps.ite (Keeps.ite h1 hc) ?_)))
  refine Keeps.ite (State.respond_keeps h2 _ _ _) (Keeps.ite (State.respond_keeps (State.countRefused_keeps h2 _ _) _ _ _) ?_)
  exact Keeps.ite (State.respond_keeps h2 _ _ _) (State.runBody_keeps h2 op bound r hb)

theorem guarded_keeps {s0 s : State} (h : Keeps s0 s) (st : Half) {go : Unit → State × Act} (hg : PKeeps s0 (go ())) :
    PKeeps s0 (guarded s st go) := by
  unfold guarded
  exact PKeeps.ite (PKeeps.mk h) hg

end Sys2Proof.Machine
end

