-- ==== Sys2Proof/Laws/KeepsSeqr.lean ====
section
/-!
SUPPORT. The functions of Seqr.lean keep what `Keeps` says.
-/
namespace Sys2Proof.Machine

-- The case scripts of this file name more tactics than each case needs.
set_option linter.all false

theorem State.setSeq_keeps {s0 s : State} (h : Keeps s0 s) (x0 : Who) (x1 : Seq) : Keeps s0 (State.setSeq s x0 x1) := by
  unfold State.setSeq
  repeat' (first
    | with_reducible (first
        | assumption | apply State.modSeq_keeps | apply State.setProg_keeps) | split | dsimp only
    | refine Keeps.update ?_ rfl rfl rfl rfl rfl)

theorem State.remark_keeps {s0 s : State} (h : Keeps s0 s) (w : Who) : Keeps s0 (State.remark s w) := by
  unfold State.remark
  repeat' (first
    | with_reducible (first
        | assumption | apply State.setSeq_keeps) | split | dsimp only | refine Keeps.update ?_ rfl rfl rfl rfl rfl)

theorem State.hold_keeps {s0 s : State} (h : Keeps s0 s) (w : Who) (why : HoldWhy) : Keeps s0 (State.hold s w why) := by
  unfold State.hold
  repeat' (first
    | with_reducible (first
        | assumption | apply State.setSeq_keeps | apply State.modSeq_keeps | apply Keeps.ite | refine Keeps.forAll (fun _ _ _ => ?_) ?_)
    | split | dsimp only | refine Keeps.update ?_ rfl rfl rfl rfl rfl)

theorem State.haltWho_keeps {s0 s : State} (h : Keeps s0 s) (w : Who) (src : Nat) (reason : Nat) (flags : Nat) : Keeps s0 (State.haltWho s w src reason flags) := by
  unfold State.haltWho
  repeat' (first
    | with_reducible (first
        | assumption | apply State.syncMany_keeps | apply State.leaveProgram_keeps | apply State.haltProgram_keeps
        | apply State.haltG_keeps) | split | dsimp only | refine Keeps.update ?_ rfl rfl rfl rfl rfl)

theorem State.haltAt_keeps {s0 s : State} (h : Keeps s0 s) (w : Who) (t : Nat) (src : Nat) (reason : Nat) (flags : Nat) : Keeps s0 (State.haltAt s w t src reason flags) := by
  unfold State.haltAt
  repeat' (first
    | with_reducible (first
        | assumption | apply State.haltWho_keeps | apply State.modG_keeps | refine Keeps.forAll (fun _ _ _ => ?_) ?_) | dsimp only)

theorem State.countDrop_keeps {s0 s : State} (h : Keeps s0 s) (w : Who) : Keeps s0 (State.countDrop s w) := by
  unfold State.countDrop
  repeat' (first
    | with_reducible (first
        | assumption | apply State.setSeq_keeps | apply State.modSeq_keeps | refine Keeps.forAll (fun _ _ _ => ?_) ?_) | split
    | dsimp only | refine Keeps.update ?_ rfl rfl rfl rfl rfl)

theorem State.countLate_keeps {s0 s : State} (h : Keeps s0 s) (w : Who) : Keeps s0 (State.countLate s w) := by
  unfold State.countLate
  repeat' (first
    | with_reducible (first
        | assumption | apply State.setSeq_keeps | apply State.modSeq_keeps | refine Keeps.forAll (fun _ _ _ => ?_) ?_) | split
    | dsimp only | refine Keeps.update ?_ rfl rfl rfl rfl rfl)

theorem State.askEtch_keeps {s0 s : State} (h : Keeps s0 s) (bcast : Bool) (idx : Nat) (g : Nat) : Keeps s0 (State.askEtch s bcast idx g) := by
  unfold State.askEtch
  repeat' (first
    | with_reducible (first
        | assumption | apply State.modPlay_keeps | apply Keeps.ite) | split | dsimp only | refine Keeps.update ?_ rfl rfl rfl rfl rfl)

theorem State.askEtchDue_keeps {s0 s : State} (h : Keeps s0 s) (bcast : Bool) (idx : Nat) (g : Nat) : Keeps s0 (State.askEtchDue s bcast idx g) := by
  unfold State.askEtchDue
  repeat' (first
    | with_reducible (first
        | assumption | apply State.askEtch_keeps | apply State.postCkpt_keeps | apply State.modPlay_keeps | apply Keeps.ite) | split
    | dsimp only | refine Keeps.update ?_ rfl rfl rfl rfl rfl)

theorem State.oweEtchEnd_keeps {s0 s : State} (h : Keeps s0 s) (g : Nat) (stroke : Nat) (last : Nat) : Keeps s0 (State.oweEtchEnd s g stroke last) := by
  unfold State.oweEtchEnd
  repeat' (first | with_reducible (first | assumption | apply State.modPlay_keeps) | dsimp only | refine Keeps.update ?_ rfl rfl rfl rfl rfl)

theorem State.policies_keeps {s0 s : State} (h : Keeps s0 s) (w : Who) (due : List Strobe) (g : Nat) : Keeps s0 (State.policies s w due g) := by
  unfold State.policies
  repeat' (first
    | with_reducible (first
        | assumption | apply State.modPlay_keeps | apply Keeps.ite | refine Keeps.foldl (fun _ _ _ => ?_) ?_) | split | dsimp only
    | refine Keeps.update ?_ rfl rfl rfl rfl rfl)

theorem State.redirect_keeps {s0 s : State} (h : Keeps s0 s) (w : Who) (target : Nat) (left : Nat) (cut : Bool) (keep : Nat) : Keeps s0 (State.redirect s w target left cut keep) := by
  unfold State.redirect
  repeat' (first
    | with_reducible (first
        | assumption | apply State.modPlay_keeps | apply State.setCtx_keeps | apply Keeps.ite
        | refine Keeps.forAll (fun _ _ _ => ?_) ?_) | split | dsimp only | refine Keeps.update ?_ rfl rfl rfl rfl rfl)

theorem State.fixRendezvous_keeps {s0 s : State} (h : Keeps s0 s) (w : Who) (res : Resolved) : Keeps s0 (State.fixRendezvous s w res) := by
  unfold State.fixRendezvous
  repeat' (first
    | with_reducible (first
        | assumption | apply State.modPlay_keeps | apply Keeps.ite | refine Keeps.forAll (fun _ _ _ => ?_) ?_) | split | dsimp only
    | refine Keeps.update ?_ rfl rfl rfl rfl rfl)

theorem State.fix_keeps {s0 s : State} (h : Keeps s0 s) (w : Who) (res : Resolved) : Keeps s0 (State.fix s w res) := by
  unfold State.fix
  repeat' (first
    | with_reducible (first
        | assumption | apply State.fixRendezvous_keeps | apply State.askEtch_keeps | apply State.raise_keeps | apply Keeps.ite
        | refine Keeps.forAll (fun _ _ _ => ?_) ?_) | split | dsimp only | refine Keeps.update ?_ rfl rfl rfl rfl rfl)

theorem State.settle_keeps {s0 s : State} (h : Keeps s0 s) (w : Who) (t : Nat) (g : Nat) : Keeps s0 (State.settle s w t g) := by
  unfold State.settle
  repeat' (first
    | with_reducible (first
        | assumption | apply State.advance_keeps | apply State.fix_keeps | apply State.policies_keeps | apply State.probes_keeps
        | apply State.probeBlip_keeps | apply State.modG_keeps | apply Keeps.ite | refine Keeps.forAll (fun _ _ _ => ?_) ?_) | split
    | dsimp only | refine Keeps.update ?_ rfl rfl rfl rfl rfl)

theorem State.settleAll_keeps {s0 s : State} (h : Keeps s0 s) (w : Who) (t : Nat) (gs : List Nat) : Keeps s0 (State.settleAll s w t gs) := by
  unfold State.settleAll
  repeat' (first
    | with_reducible (first
        | assumption | apply State.settle_keeps | apply State.syncMany_keeps | apply Keeps.ite
        | refine Keeps.forAll (fun _ _ _ => ?_) ?_) | split | dsimp only)

theorem State.reachBoundary_keeps {s0 s : State} (h : Keeps s0 s) (w : Who) (t : Nat) : Keeps s0 (State.reachBoundary s w t) := by
  unfold State.reachBoundary
  repeat' (first
    | with_reducible (first
        | assumption | apply State.settleAll_keeps | apply State.setSeq_keeps) | dsimp only | refine Keeps.update ?_ rfl rfl rfl rfl rfl)

theorem State.muteOn_keeps {s0 s : State} (h : Keeps s0 s) (w : Who) (n : Nat) (g : Nat) : Keeps s0 (State.muteOn s w n g) := by
  unfold State.muteOn
  repeat' (first | with_reducible (first | assumption | apply State.modG_keeps | apply Keeps.ite) | split | dsimp only)

theorem State.playOn_keeps {s0 s : State} (h : Keeps s0 s) (w : Who) (e : Ent) (idx : Nat) (n : Nat) (obs : List Obs) (g : Nat) : Keeps s0 (State.playOn s w e idx n obs g) := by
  unfold State.playOn
  repeat' (first
    | with_reducible (first
        | assumption | apply State.sync_keeps | apply State.setG_keeps | apply Keeps.ite | refine Keeps.foldl (fun _ _ _ => ?_) ?_)
    | split | dsimp only | refine Keeps.update ?_ rfl rfl rfl rfl rfl)

theorem State.drain_keeps {s0 s : State} (h : Keeps s0 s) (w : Who) (idx : Nat) : Keeps s0 (State.drain s w idx) := by
  unfold State.drain
  repeat' (first
    | with_reducible (first
        | assumption | apply State.modPlay_keeps | apply Keeps.ite | refine Keeps.forAll (fun _ _ _ => ?_) ?_) | split | dsimp only
    | refine Keeps.update ?_ rfl rfl rfl rfl rfl)

theorem State.idleOn_keeps {s0 s : State} (h : Keeps s0 s) (w : Who) (e : Ent) (idx : Nat) (n : Nat) (g : Nat) : Keeps s0 (State.idleOn s w e idx n g) := by
  unfold State.idleOn
  repeat' (first
    | with_reducible (first
        | assumption | apply State.idle_keeps | apply State.setG_keeps) | dsimp only | refine Keeps.update ?_ rfl rfl rfl rfl rfl)

theorem State.beginGranule_keeps {s0 s : State} (h : Keeps s0 s) (w : Who) (obs : List Obs) : Keeps s0 (State.beginGranule s w obs) := by
  unfold State.beginGranule
  repeat' (first
    | with_reducible (first
        | assumption | apply State.idleOn_keeps | apply State.drain_keeps | apply State.playOn_keeps | apply State.muteOn_keeps
        | apply State.haltAt_keeps | apply State.hold_keeps | apply State.setSeq_keeps | apply State.modPlay_keeps | apply Keeps.ite
        | refine Keeps.forAll (fun _ _ _ => ?_) ?_) | split | dsimp only | refine Keeps.update ?_ rfl rfl rfl rfl rfl)

theorem State.join_keeps {s0 s : State} (h : Keeps s0 s) (t : Nat) (g : Nat) : Keeps s0 (State.join s t g) := by
  unfold State.join
  repeat' (first
    | with_reducible (first
        | assumption | apply State.closeResult_keeps | apply State.modG_keeps) | dsimp only | refine Keeps.update ?_ rfl rfl rfl rfl rfl)

theorem State.startOn_keeps {s0 s : State} (h : Keeps s0 s) (w : Who) (e : Ent) (idx : Nat) (st : Nat) (reset : Bool) (slow : Bool) (kept : Option Nat) (g : Nat) : Keeps s0 (State.startOn s w e idx st reset slow kept g) := by
  unfold State.startOn
  repeat' (first
    | with_reducible (first
        | assumption | apply State.calStroke_keeps | apply State.setG_keeps | apply Keeps.ite) | split | dsimp only
    | refine Keeps.update ?_ rfl rfl rfl rfl rfl)

theorem State.passBy_keeps {s0 s : State} (h : Keeps s0 s) (g : Nat) (e : Ent) (idx : Nat) (kept : Option Nat) : Keeps s0 (State.passBy s g e idx kept) := by
  unfold State.passBy
  repeat' (first
    | with_reducible (first
        | assumption | apply State.modPlay_keeps | apply Keeps.ite) | split | dsimp only | refine Keeps.update ?_ rfl rfl rfl rfl rfl)

theorem State.startStroke_keeps {s0 s : State} (h : Keeps s0 s) (w : Who) (c : Cont) (obs : List Obs) : Keeps s0 (State.startStroke s w c obs) := by
  unfold State.startStroke
  repeat' (first
    | with_reducible (first
        | assumption | apply State.passBy_keeps | apply State.startOn_keeps | apply State.join_keeps | apply State.beginGranule_keeps
        | apply State.settleAll_keeps | apply State.setSeq_keeps | apply Keeps.ite | refine Keeps.forAll (fun _ _ _ => ?_) ?_) | split
    | dsimp only | refine Keeps.update ?_ rfl rfl rfl rfl rfl)

theorem State.setFlag_keeps {s0 s : State} (h : Keeps s0 s) (w : Who) (k : Nat) : Keeps s0 (State.setFlag s w k) := by
  unfold State.setFlag
  repeat' (first
    | with_reducible (first
        | assumption | apply State.setSeq_keeps | apply State.advise_keeps | apply Keeps.ite | refine Keeps.forAll (fun _ _ _ => ?_) ?_)
    | split | dsimp only | refine Keeps.update ?_ rfl rfl rfl rfl rfl)

theorem State.postMarker_keeps {s0 s : State} (h : Keeps s0 s) (w : Who) (post : Nat × Nat) : Keeps s0 (State.postMarker s w post) := by
  unfold State.postMarker
  repeat' (first
    | with_reducible (first
        | assumption | apply State.oweEtchEnd_keeps | apply State.askEtch_keeps | apply Keeps.ite
        | refine Keeps.forAll (fun _ _ _ => ?_) ?_ | refine Keeps.foldl (fun _ _ _ => ?_) ?_) | split | dsimp only
    | refine Keeps.update ?_ rfl rfl rfl rfl rfl)

theorem State.chainEffects_keeps {s0 s : State} (h : Keeps s0 s) (w : Who) (c : Cont) : Keeps s0 (State.chainEffects s w c) := by
  unfold State.chainEffects
  repeat' (first
    | with_reducible (first
        | assumption | apply State.postMarker_keeps | apply State.setFlag_keeps | apply State.setSeq_keeps | apply State.advise_keeps
        | refine Keeps.forAll (fun _ _ _ => ?_) ?_ | refine Keeps.foldl (fun _ _ _ => ?_) ?_) | dsimp only
    | refine Keeps.update ?_ rfl rfl rfl rfl rfl)

theorem State.startVec_keeps {s0 s : State} (h : Keeps s0 s) (w : Who) (c : Cont) (obs : List Obs) : Keeps s0 (State.startVec s w c obs) := by
  unfold State.startVec
  repeat' (first
    | with_reducible (first
        | assumption | apply State.startStroke_keeps | apply State.askEtchDue_keeps | apply State.haltAt_keeps | apply State.hold_keeps
        | apply State.setSeq_keeps | apply State.modSeq_keeps | apply State.modG_keeps | apply Keeps.ite
        | refine Keeps.forAll (fun _ _ _ => ?_) ?_) | split | dsimp only | refine Keeps.update ?_ rfl rfl rfl rfl rfl)
  all_goals (try assumption)

theorem State.advance_keeps {s0 s : State} (h : Keeps s0 s) (w : Who) (obs : List Obs) (x0 : Nat) : Keeps s0 (State.advance s w obs x0) := by
  induction x0 generalizing s with
  | zero => exact h
  | succ n ih =>
    unfold State.advance
    repeat' (first
      | with_reducible (first
          | assumption | apply ih | apply State.startVec_keeps | apply State.chainEffects_keeps | apply State.countDrop_keeps
          | apply State.haltAt_keeps | apply State.hold_keeps | apply State.setSeq_keeps | apply State.raise_keeps
          | apply State.postCkpt_keeps | apply State.haltProgram_keeps | apply State.advise_keeps | apply Keeps.ite
          | refine Keeps.forAll (fun _ _ _ => ?_) ?_) | split | dsimp only | refine Keeps.update ?_ rfl rfl rfl rfl rfl)

theorem State.goOn_keeps {s0 s : State} (h : Keeps s0 s) (w : Who) (obs : List Obs) : Keeps s0 (State.goOn s w obs) := by
  unfold State.goOn
  repeat' (first | with_reducible (first | assumption | apply State.advance_keeps) | dsimp only)

theorem State.endOn_keeps {s0 s : State} (h : Keeps s0 s) (w : Who) (e : Ent) (idx : Nat) (g : Nat) : Keeps s0 (State.endOn s w e idx g) := by
  unfold State.endOn
  repeat' (first
    | with_reducible (first
        | assumption | apply State.settleAll_keeps | apply State.oweEtchEnd_keeps | apply State.closeResult_keeps
        | apply State.modPlay_keeps | apply State.modG_keeps | apply Keeps.ite) | split | dsimp only
    | refine Keeps.update ?_ rfl rfl rfl rfl rfl)

theorem State.endStroke_keeps {s0 s : State} (h : Keeps s0 s) (w : Who) (b : Nat) (res : Resolved) (avail : Nat) (jumped : Bool) (obs : List Obs) : Keeps s0 (State.endStroke s w b res avail jumped obs) := by
  unfold State.endStroke
  repeat' (first
    | with_reducible (first
        | assumption | apply State.endOn_keeps | apply State.goOn_keeps | apply State.countLate_keeps | apply State.setSeq_keeps
        | apply Keeps.ite | refine Keeps.forAll (fun _ _ _ => ?_) ?_ | refine Keeps.foldl (fun _ _ _ => ?_) ?_) | split | dsimp only
    | refine Keeps.update ?_ rfl rfl rfl rfl rfl)

theorem State.leaveAt_keeps {s0 s : State} (h : Keeps s0 s) (w : Who) (e : Ent) (idx : Nat) (b : Nat) (target : Nat) (reg : Nat) (g : Nat) : Keeps s0 (State.leaveAt s w e idx b target reg g) := by
  unfold State.leaveAt
  repeat' (first
    | with_reducible (first
        | assumption | apply State.endOn_keeps | apply State.goOn_keeps | apply State.modSeq_keeps | apply State.modG_keeps) | split
    | dsimp only | refine Keeps.update ?_ rfl rfl rfl rfl rfl)

theorem State.leaves_keeps {s0 s : State} (h : Keeps s0 s) (w : Who) (e : Ent) (idx : Nat) (b : Nat) : Keeps s0 (State.leaves s w e idx b) := by
  unfold State.leaves
  repeat' (first
    | with_reducible (first
        | assumption | apply State.leaveAt_keeps | apply State.modPlay_keeps | apply Keeps.ite
        | refine Keeps.forAll (fun _ _ _ => ?_) ?_) | split | dsimp only | refine Keeps.update ?_ rfl rfl rfl rfl rfl)

theorem State.dropHalted_keeps {s0 s : State} (h : Keeps s0 s) (w : Who) : Keeps s0 (State.dropHalted s w) := by
  unfold State.dropHalted
  repeat' (first
    | with_reducible (first
        | assumption | apply State.syncMany_keeps | apply State.leaveProgram_keeps | apply State.haltG_keeps | apply Keeps.ite
        | refine Keeps.forAll (fun _ _ _ => ?_) ?_) | split | dsimp only)

theorem State.boundary_keeps {s0 s : State} (h : Keeps s0 s) (w : Who) (obs : List Obs) : Keeps s0 (State.boundary s w obs) := by
  unfold State.boundary
  repeat' (first
    | with_reducible (first
        | assumption | apply State.leaves_keeps | apply State.endStroke_keeps | apply State.beginGranule_keeps
        | apply State.reachBoundary_keeps | apply State.fix_keeps | apply State.redirect_keeps | apply State.setSeq_keeps
        | apply Keeps.ite) | split | dsimp only | refine Keeps.update ?_ rfl rfl rfl rfl rfl)

theorem State.jumpAt_keeps {s0 s : State} (h : Keeps s0 s) (w : Who) (target : Nat) (due : Nat) (edge : Nat) : Keeps s0 (State.jumpAt s w target due edge) := by
  unfold State.jumpAt
  repeat' (first
    | with_reducible (first
        | assumption | apply State.fix_keeps | apply State.redirect_keeps | apply State.setSeq_keeps | apply Keeps.ite) | split
    | dsimp only | refine Keeps.update ?_ rfl rfl rfl rfl rfl)

theorem State.jumpLate_keeps {s0 s : State} (h : Keeps s0 s) (w : Who) (target : Nat) (edge : Nat) : Keeps s0 (State.jumpLate s w target edge) := by
  unfold State.jumpLate
  repeat' (first
    | with_reducible (first
        | assumption | apply State.fix_keeps | apply State.redirect_keeps | apply State.setSeq_keeps | apply Keeps.ite) | split
    | dsimp only | refine Keeps.update ?_ rfl rfl rfl rfl rfl)

theorem State.atEdge_keeps {s0 s : State} (h : Keeps s0 s) (w : Who) (edge : Nat) : Keeps s0 (State.atEdge s w edge) := by
  unfold State.atEdge
  repeat' (first | with_reducible (first | assumption | apply State.settleAll_keeps) | dsimp only)

theorem State.requestJoined_keeps {s0 s : State} (h : Keeps s0 s) (g : Nat) (cause : Cause) (cycle : Nat) : Keeps s0 (State.requestJoined s g cause cycle) := by
  unfold State.requestJoined
  repeat' (first
    | with_reducible (first
        | assumption | apply State.atEdge_keeps | apply State.fix_keeps | apply State.countLate_keeps | apply State.countDrop_keeps
        | apply State.modPlay_keeps | apply State.modSeq_keeps | apply Keeps.ite) | split | dsimp only
    | refine Keeps.update ?_ rfl rfl rfl rfl rfl)

theorem State.request_keeps {s0 s : State} (h : Keeps s0 s) (w : Who) (cause : Cause) (cycle : Nat) : Keeps s0 (State.request s w cause cycle) := by
  unfold State.request
  repeat' (first
    | with_reducible (first
        | assumption | apply State.atEdge_keeps | apply State.jumpLate_keeps | apply State.jumpAt_keeps | apply State.fix_keeps
        | apply State.redirect_keeps | apply State.countLate_keeps | apply State.countDrop_keeps | apply State.setSeq_keeps
        | apply Keeps.ite) | split | dsimp only | refine Keeps.update ?_ rfl rfl rfl rfl rfl)

theorem State.granule_keeps {s0 s : State} (h : Keeps s0 s) (w : Who) (obs : List Obs) : Keeps s0 (State.granule s w obs) := by
  unfold State.granule
  repeat' (first
    | with_reducible (first
        | assumption | apply State.boundary_keeps | apply State.dropHalted_keeps | apply State.goOn_keeps
        | apply State.beginGranule_keeps | apply State.reachBoundary_keeps | apply State.remark_keeps | apply State.setSeq_keeps
        | apply State.sync_keeps | apply State.haltG_keeps | apply State.smuReselect_keeps | apply State.modG_keeps | apply Keeps.ite)
    | split | dsimp only | refine Keeps.update ?_ rfl rfl rfl rfl rfl)

end Sys2Proof.Machine
end

