-- ==== Sys2Proof/Laws/KeepsPins.lean ====
section
/-!
SUPPORT. The functions of Pins.lean keep what `Keeps` says.
-/
namespace Sys2Proof.Machine

-- The case scripts of this file name more tactics than each case needs.
set_option linter.all false

theorem modPins_keeps {s0 s : State} (h : Keeps s0 s) (us : List Nat) (f : Pin → Pin) : Keeps s0 (modPins s us f) := by
  unfold modPins
  repeat' (first | with_reducible (first | assumption | apply State.setPin_keeps | refine Keeps.forAll (fun _ _ _ => ?_) ?_) | dsimp only)

theorem State.preemptPins_keeps {s0 s : State} (h : Keeps s0 s) (us : List Nat) : Keeps s0 (State.preemptPins s us) := by
  unfold State.preemptPins
  repeat' (first | with_reducible (first | assumption | apply State.preempt_keeps | refine Keeps.forAll (fun _ _ _ => ?_) ?_) | dsimp only)

theorem pinConfigBody_keeps {s0 s : State} (h : Keeps s0 s) (r : Req) : PKeeps s0 (pinConfigBody s r) := by
  unfold pinConfigBody
  repeat' (first
    | with_reducible (first
        | assumption | apply State.preemptPins_keeps | apply guarded_keeps | apply State.pinsChanged_keeps | apply State.modG_keeps
        | apply Keeps.ite | apply PKeeps.ite | refine Keeps.forAll (fun _ _ _ => ?_) ?_) | split | dsimp only
    | with_reducible apply PKeeps.mk)

theorem pinLevelsBody_keeps {s0 s : State} (h : Keeps s0 s) (r : Req) : PKeeps s0 (pinLevelsBody s r) := by
  unfold pinLevelsBody
  repeat' (first
    | with_reducible (first
        | assumption | apply State.preemptPins_keeps | apply guarded_keeps | apply State.setPin_keeps | apply Keeps.ite
        | apply PKeeps.ite | refine Keeps.forAll (fun _ _ _ => ?_) ?_) | split | dsimp only | with_reducible apply PKeeps.mk
    | refine Keeps.update ?_ rfl rfl rfl rfl rfl)

theorem pinLoadBody_keeps {s0 s : State} (h : Keeps s0 s) (r : Req) : PKeeps s0 (pinLoadBody s r) := by
  unfold pinLoadBody
  repeat' (first
    | with_reducible (first
        | assumption | apply State.preemptPins_keeps | apply modPins_keeps | apply guarded_keeps | apply PKeeps.ite) | dsimp only
    | with_reducible apply PKeeps.mk | refine Keeps.update ?_ rfl rfl rfl rfl rfl)

theorem pinClearBody_keeps {s0 s : State} (h : Keeps s0 s) (r : Req) : PKeeps s0 (pinClearBody s r) := by
  unfold pinClearBody
  repeat' (first
    | with_reducible (first
        | assumption | apply State.preemptPins_keeps | apply modPins_keeps | apply guarded_keeps | apply PKeeps.ite) | dsimp only
    | with_reducible apply PKeeps.mk | refine Keeps.update ?_ rfl rfl rfl rfl rfl)

theorem pinComparatorBody_keeps {s0 s : State} (h : Keeps s0 s) (r : Req) : PKeeps s0 (pinComparatorBody s r) := by
  unfold pinComparatorBody
  repeat' (first
    | with_reducible (first
        | assumption | apply State.preemptPins_keeps | apply modPins_keeps | apply guarded_keeps | apply State.flagRuns_keeps
        | apply PKeeps.ite | refine Keeps.forAll (fun _ _ _ => ?_) ?_) | dsimp only | with_reducible apply PKeeps.mk
    | refine Keeps.update ?_ rfl rfl rfl rfl rfl)

theorem pinReleaseBody_keeps {s0 s : State} (h : Keeps s0 s) (r : Req) : PKeeps s0 (pinReleaseBody s r) := by
  unfold pinReleaseBody
  repeat' (first
    | with_reducible (first
        | assumption | apply modPins_keeps | apply guarded_keeps | apply State.pinsChanged_keeps | apply State.modG_keeps
        | apply Keeps.ite | apply PKeeps.ite | refine Keeps.forAll (fun _ _ _ => ?_) ?_) | split | dsimp only
    | with_reducible apply PKeeps.mk | refine Keeps.update ?_ rfl rfl rfl rfl rfl)

theorem pinStatusBody_keeps {s0 s : State} (h : Keeps s0 s) (r : Req) : PKeeps s0 (pinStatusBody s r) := by
  unfold pinStatusBody
  repeat' (first
    | with_reducible (first
        | assumption | apply guarded_keeps | apply PKeeps.ite | refine Keeps.foldl (fun _ _ _ => ?_) ?_) | split | dsimp only
    | with_reducible apply PKeeps.mk | refine Keeps.update ?_ rfl rfl rfl rfl rfl)

theorem pinReadBody_keeps {s0 s : State} (h : Keeps s0 s) (r : Req) : PKeeps s0 (pinReadBody s r) := by
  unfold pinReadBody
  repeat' (first
    | with_reducible (first
        | assumption | apply guarded_keeps | apply PKeeps.ite) | dsimp only | with_reducible apply PKeeps.mk)

theorem execPinConfig_keeps {s0 s : State} (h : Keeps s0 s) (r : Req) : OKeeps s0 (execPinConfig r s) := by
  unfold execPinConfig
  exact OKeeps.next (State.firmware_keeps h _ _ _ _ fun _ _ k => pinConfigBody_keeps k _)

theorem execPinLevels_keeps {s0 s : State} (h : Keeps s0 s) (r : Req) : OKeeps s0 (execPinLevels r s) := by
  unfold execPinLevels
  exact OKeeps.next (State.firmware_keeps h _ _ _ _ fun _ _ k => pinLevelsBody_keeps k _)

theorem execPinLoad_keeps {s0 s : State} (h : Keeps s0 s) (r : Req) : OKeeps s0 (execPinLoad r s) := by
  unfold execPinLoad
  exact OKeeps.next (State.firmware_keeps h _ _ _ _ fun _ _ k => pinLoadBody_keeps k _)

theorem execPinClearCodes_keeps {s0 s : State} (h : Keeps s0 s) (r : Req) : OKeeps s0 (execPinClearCodes r s) := by
  unfold execPinClearCodes
  exact OKeeps.next (State.firmware_keeps h _ _ _ _ fun _ _ k => pinClearBody_keeps k _)

theorem execPinComparator_keeps {s0 s : State} (h : Keeps s0 s) (r : Req) : OKeeps s0 (execPinComparator r s) := by
  unfold execPinComparator
  exact OKeeps.next (State.firmware_keeps h _ _ _ _ fun _ _ k => pinComparatorBody_keeps k _)

theorem execPinRelease_keeps {s0 s : State} (h : Keeps s0 s) (r : Req) : OKeeps s0 (execPinRelease r s) := by
  unfold execPinRelease
  exact OKeeps.next (State.firmware_keeps h _ _ _ _ fun _ _ k => pinReleaseBody_keeps k _)

theorem execPinStatus_keeps {s0 s : State} (h : Keeps s0 s) (r : Req) : OKeeps s0 (execPinStatus r s) := by
  unfold execPinStatus
  exact OKeeps.next (State.firmware_keeps h _ _ _ _ fun _ _ k => pinStatusBody_keeps k _)

theorem execPinRead_keeps {s0 s : State} (h : Keeps s0 s) (r : Req) : OKeeps s0 (execPinRead r s) := by
  unfold execPinRead
  exact OKeeps.next (State.firmware_keeps h _ _ _ _ fun _ _ k => pinReadBody_keeps k _)

theorem execDriverOvercurrent_keeps {s0 s : State} (h : Keeps s0 s) (g : GIx) (p : PIx) : OKeeps s0 (execDriverOvercurrent g p s) := by
  unfold execDriverOvercurrent
  repeat' (first
    | with_reducible (first
        | assumption | apply State.pinsChanged_keeps | apply State.advise_keeps | apply State.modPlay_keeps | apply State.setPin_keeps
        | apply Keeps.ite | apply OKeeps.next | apply OKeeps.ite) | split | dsimp only | refine Keeps.update ?_ rfl rfl rfl rfl rfl)

theorem execDeglitchRelease_keeps {s0 s : State} (h : Keeps s0 s) (g : GIx) (p : PIx) : OKeeps s0 (execDeglitchRelease g p s) := by
  unfold execDeglitchRelease
  repeat' (first
    | with_reducible (first
        | assumption | apply State.release_keeps | apply State.hold_keeps | apply State.setPin_keeps | apply Keeps.ite
        | apply OKeeps.next | apply OKeeps.ite) | split | dsimp only | refine Keeps.update ?_ rfl rfl rfl rfl rfl)

theorem execLevelOrderedLatch_keeps {s0 s : State} (h : Keeps s0 s) (g : GIx) (p : PIx) : OKeeps s0 (execLevelOrderedLatch g p s) := by
  unfold execLevelOrderedLatch
  repeat' (first
    | with_reducible (first
        | assumption | apply State.setPin_keeps | apply Keeps.ite | apply OKeeps.next | apply OKeeps.ite) | split | dsimp only
    | refine Keeps.update ?_ rfl rfl rfl rfl rfl)

theorem execDacSettled_keeps {s0 s : State} (h : Keeps s0 s) (m : Fin 7) : OKeeps s0 (execDacSettled m s) := by
  unfold execDacSettled
  repeat' (first
    | with_reducible (first
        | assumption | apply State.respond_keeps | apply Keeps.ite | apply OKeeps.next | apply OKeeps.ite) | split | dsimp only
    | refine Keeps.update ?_ rfl rfl rfl rfl rfl)

end Sys2Proof.Machine
end

