-- ==== Sys2Proof/Laws/KeepsSmu.lean ====
section
/-!
SUPPORT. The functions of Smu.lean keep what `Keeps` says.
-/
namespace Sys2Proof.Machine

-- The case scripts of this file name more tactics than each case needs.
set_option linter.all false

theorem State.smuConfigured_keeps {s0 s : State} (h : Keeps s0 s) (t : Tgt) (cfg : Word) : Keeps s0 (State.smuConfigured s t cfg) := by
  unfold State.smuConfigured
  repeat' (first
    | with_reducible (first
        | assumption | apply State.gangPlaces_keeps | apply State.setSmu_keeps | refine Keeps.forAll (fun _ _ _ => ?_) ?_) | dsimp only)

theorem preemptSmus_keeps {s0 s : State} (h : Keeps s0 s) (us : List Nat) : Keeps s0 (preemptSmus s us) := by
  unfold preemptSmus
  repeat' (first | with_reducible (first | assumption | apply State.preempt_keeps | refine Keeps.forAll (fun _ _ _ => ?_) ?_) | dsimp only)

theorem smuConfigBody_keeps {s0 s : State} (h : Keeps s0 s) (r : Req) : PKeeps s0 (smuConfigBody s r) := by
  unfold smuConfigBody
  repeat' (first
    | with_reducible (first
        | assumption | apply preemptSmus_keeps | apply State.smuConfigured_keeps | apply guarded_keeps
        | apply State.comparatorsChanged_keeps | apply Keeps.ite | apply PKeeps.ite | refine Keeps.forAll (fun _ _ _ => ?_) ?_) | split
    | dsimp only | with_reducible apply PKeeps.mk)

theorem State.smuForced_keeps {s0 s : State} (h : Keeps s0 s) (t : Tgt) (c : SmuCodes) : Keeps s0 (State.smuForced s t c) := by
  unfold State.smuForced
  repeat' (first
    | with_reducible (first
        | assumption | apply State.gangPlaces_keeps | apply State.setSmu_keeps | refine Keeps.forAll (fun _ _ _ => ?_) ?_) | dsimp only)

theorem smuForceBody_keeps {s0 s : State} (h : Keeps s0 s) (r : Req) : PKeeps s0 (smuForceBody s r) := by
  unfold smuForceBody
  repeat' (first
    | with_reducible (first
        | assumption | apply State.smuForced_keeps | apply preemptSmus_keeps | apply guarded_keeps | apply State.disturb_keeps
        | apply PKeeps.ite | refine Keeps.forAll (fun _ _ _ => ?_) ?_) | dsimp only | with_reducible apply PKeeps.mk)

theorem smuSafeBody_keeps {s0 s : State} (h : Keeps s0 s) (r : Req) : PKeeps s0 (smuSafeBody s r) := by
  unfold smuSafeBody
  repeat' (first
    | with_reducible (first
        | assumption | apply preemptSmus_keeps | apply guarded_keeps | apply State.setSmu_keeps | apply PKeeps.ite
        | refine Keeps.forAll (fun _ _ _ => ?_) ?_) | dsimp only | with_reducible apply PKeeps.mk
    | refine Keeps.update ?_ rfl rfl rfl rfl rfl)

theorem smuTripBody_keeps {s0 s : State} (h : Keeps s0 s) (r : Req) : PKeeps s0 (smuTripBody s r) := by
  unfold smuTripBody
  repeat' (first
    | with_reducible (first
        | assumption | apply preemptSmus_keeps | apply guarded_keeps | apply State.comparatorsChanged_keeps | apply State.setSmu_keeps
        | apply PKeeps.ite | refine Keeps.forAll (fun _ _ _ => ?_) ?_) | split | dsimp only | with_reducible apply PKeeps.mk
    | refine Keeps.update ?_ rfl rfl rfl rfl rfl)

theorem smuMeasureBody_keeps {s0 s : State} (h : Keeps s0 s) (r : Req) : PKeeps s0 (smuMeasureBody s r) := by
  unfold smuMeasureBody
  repeat' (first
    | with_reducible (first
        | assumption | apply guarded_keeps | apply State.setSmu_keeps | apply PKeeps.ite | refine Keeps.forAll (fun _ _ _ => ?_) ?_)
    | dsimp only | with_reducible apply PKeeps.mk | refine Keeps.update ?_ rfl rfl rfl rfl rfl)

theorem smuReleaseBody_keeps {s0 s : State} (h : Keeps s0 s) (r : Req) : PKeeps s0 (smuReleaseBody s r) := by
  unfold smuReleaseBody
  repeat' (first
    | with_reducible (first
        | assumption | apply guarded_keeps | apply State.comparatorsChanged_keeps | apply State.setSmu_keeps | apply Keeps.ite
        | apply PKeeps.ite | refine Keeps.forAll (fun _ _ _ => ?_) ?_) | split | dsimp only | with_reducible apply PKeeps.mk
    | refine Keeps.update ?_ rfl rfl rfl rfl rfl)

theorem smuStatusBody_keeps {s0 s : State} (h : Keeps s0 s) (r : Req) : PKeeps s0 (smuStatusBody s r) := by
  unfold smuStatusBody
  repeat' (first
    | with_reducible (first
        | assumption | apply guarded_keeps | apply PKeeps.ite) | dsimp only | with_reducible apply PKeeps.mk)

theorem smuReadBody_keeps {s0 s : State} (h : Keeps s0 s) (r : Req) : PKeeps s0 (smuReadBody s r) := by
  unfold smuReadBody
  repeat' (first
    | with_reducible (first
        | assumption | apply guarded_keeps | apply PKeeps.ite) | dsimp only | with_reducible apply PKeeps.mk)

theorem execSmuConfig_keeps {s0 s : State} (h : Keeps s0 s) (r : Req) : OKeeps s0 (execSmuConfig r s) := by
  unfold execSmuConfig
  exact OKeeps.next (State.firmware_keeps h _ _ _ _ fun _ _ k => smuConfigBody_keeps k _)

theorem execSmuForce_keeps {s0 s : State} (h : Keeps s0 s) (r : Req) : OKeeps s0 (execSmuForce r s) := by
  unfold execSmuForce
  exact OKeeps.next (State.firmware_keeps h _ _ _ _ fun _ _ k => smuForceBody_keeps k _)

theorem execSmuSafe_keeps {s0 s : State} (h : Keeps s0 s) (r : Req) : OKeeps s0 (execSmuSafe r s) := by
  unfold execSmuSafe
  exact OKeeps.next (State.firmware_keeps h _ _ _ _ fun _ _ k => smuSafeBody_keeps k _)

theorem execSmuTrip_keeps {s0 s : State} (h : Keeps s0 s) (r : Req) : OKeeps s0 (execSmuTrip r s) := by
  unfold execSmuTrip
  exact OKeeps.next (State.firmware_keeps h _ _ _ _ fun _ _ k => smuTripBody_keeps k _)

theorem execSmuMeasure_keeps {s0 s : State} (h : Keeps s0 s) (r : Req) : OKeeps s0 (execSmuMeasure r s) := by
  unfold execSmuMeasure
  exact OKeeps.next (State.firmware_keeps h _ _ _ _ fun _ _ k => smuMeasureBody_keeps k _)

theorem execSmuRelease_keeps {s0 s : State} (h : Keeps s0 s) (r : Req) : OKeeps s0 (execSmuRelease r s) := by
  unfold execSmuRelease
  exact OKeeps.next (State.firmware_keeps h _ _ _ _ fun _ _ k => smuReleaseBody_keeps k _)

theorem execSmuStatus_keeps {s0 s : State} (h : Keeps s0 s) (r : Req) : OKeeps s0 (execSmuStatus r s) := by
  unfold execSmuStatus
  exact OKeeps.next (State.firmware_keeps h _ _ _ _ fun _ _ k => smuStatusBody_keeps k _)

theorem execSmuRead_keeps {s0 s : State} (h : Keeps s0 s) (r : Req) : OKeeps s0 (execSmuRead r s) := by
  unfold execSmuRead
  exact OKeeps.next (State.firmware_keeps h _ _ _ _ fun _ _ k => smuReadBody_keeps k _)

theorem execComplianceSwitch_keeps {s0 s : State} (h : Keeps s0 s) (g : GIx) (u : UIx) (value : Int) : OKeeps s0 (execComplianceSwitch g u value s) := by
  unfold execComplianceSwitch
  repeat' (first
    | with_reducible (first
        | assumption | apply State.setCompl_keeps | apply State.setSmu_keeps | apply Keeps.ite | apply OKeeps.next | apply OKeeps.ite)
    | split | dsimp only | refine Keeps.update ?_ rfl rfl rfl rfl rfl)

theorem execOpenLoopDetect_keeps {s0 s : State} (h : Keeps s0 s) (g : GIx) (u : UIx) : OKeeps s0 (execOpenLoopDetect g u s) := by
  unfold execOpenLoopDetect
  repeat' (first
    | with_reducible (first
        | assumption | apply State.note_keeps | apply State.advise_keeps | apply State.setSmu_keeps | apply Keeps.ite
        | apply OKeeps.next | apply OKeeps.ite) | split | dsimp only | refine Keeps.update ?_ rfl rfl rfl rfl rfl)

theorem execRangeStepEnd_keeps {s0 s : State} (h : Keeps s0 s) (g : GIx) (u : UIx) : OKeeps s0 (execRangeStepEnd g u s) := by
  unfold execRangeStepEnd
  repeat' (first
    | with_reducible (first
        | assumption | apply State.setCompl_keeps | apply State.rangesDone_keeps | apply State.setSmu_keeps | apply Keeps.ite
        | apply OKeeps.next | apply OKeeps.ite) | split | dsimp only | refine Keeps.update ?_ rfl rfl rfl rfl rfl)

theorem execSmuMeasureTrigger_keeps {s0 s : State} (h : Keeps s0 s) (m : Fin 7) : OKeeps s0 (execSmuMeasureTrigger m s) := by
  unfold execSmuMeasureTrigger
  repeat' (first
    | with_reducible (first
        | assumption | apply State.setSmu_keeps | apply Keeps.ite | apply OKeeps.next | apply OKeeps.ite
        | refine Keeps.forAll (fun _ _ _ => ?_) ?_) | split | dsimp only | refine Keeps.update ?_ rfl rfl rfl rfl rfl)

theorem execSmuConversion_keeps {s0 s : State} (h : Keeps s0 s) (g : GIx) (u : UIx) (code : Int) : OKeeps s0 (execSmuConversion g u code s) := by
  unfold execSmuConversion
  repeat' (first
    | with_reducible (first
        | assumption | apply State.setSmu_keeps | apply Keeps.ite | apply OKeeps.next | apply OKeeps.ite) | split | dsimp only
    | refine Keeps.update ?_ rfl rfl rfl rfl rfl)

theorem execSmuMeasureComplete_keeps {s0 s : State} (h : Keeps s0 s) (m : Fin 7) : OKeeps s0 (execSmuMeasureComplete m s) := by
  unfold execSmuMeasureComplete
  repeat' (first
    | with_reducible (first
        | assumption | apply State.emitRec_keeps | apply State.respond_keeps | apply State.record_keeps | apply State.setSmu_keeps
        | apply Keeps.ite | apply OKeeps.next | apply OKeeps.ite | refine Keeps.forAll (fun _ _ _ => ?_) ?_
        | refine Keeps.foldl (fun _ _ _ => ?_) ?_) | split | dsimp only | refine Keeps.update ?_ rfl rfl rfl rfl rfl)

theorem execSmuOutputSettled_keeps {s0 s : State} (h : Keeps s0 s) (m : Fin 7) : OKeeps s0 (execSmuOutputSettled m s) := by
  unfold execSmuOutputSettled
  repeat' (first
    | with_reducible (first
        | assumption | apply State.respond_keeps | apply Keeps.ite | apply OKeeps.next | apply OKeeps.ite) | split | dsimp only
    | refine Keeps.update ?_ rfl rfl rfl rfl rfl)

end Sys2Proof.Machine
end

