-- ==== Sys2Proof/Laws/KeepsComparators.lean ====
section
/-!
SUPPORT. The functions of Comparators.lean keep what `Keeps` says.
-/
namespace Sys2Proof.Machine

-- The case scripts of this file name more tactics than each case needs.
set_option linter.all false

theorem State.compare_keeps {s0 s : State} (h : Keeps s0 s) (x0 : CmpEvent) : Keeps s0 (State.compare s x0) := by
  unfold State.compare
  repeat' (first
    | with_reducible (first
        | assumption | apply State.startDwell_keeps | apply State.comparatorsChanged_keeps | apply State.setSent_keeps
        | apply State.setPin_keeps) | split | dsimp only | refine Keeps.update ?_ rfl rfl rfl rfl rfl)

theorem execComparatorChange_keeps {s0 s : State} (h : Keeps s0 s) (e : CmpEvent) : OKeeps s0 (execComparatorChange e s) := by
  unfold execComparatorChange
  repeat' (first
    | with_reducible (first
        | assumption | apply State.compare_keeps | apply Keeps.ite | apply OKeeps.next | apply OKeeps.ite) | dsimp only)

theorem execModeChangeHoldEnd_keeps {s0 s : State} (h : Keeps s0 s) (e : CmpEvent) : OKeeps s0 (execModeChangeHoldEnd e s) := by
  unfold execModeChangeHoldEnd
  repeat' (first
    | with_reducible (first
        | assumption | apply State.compare_keeps | apply Keeps.ite | apply OKeeps.next | apply OKeeps.ite) | dsimp only)

theorem sentConfigBody_keeps {s0 s : State} (h : Keeps s0 s) (r : Req) : PKeeps s0 (sentConfigBody s r) := by
  unfold sentConfigBody
  repeat' (first
    | with_reducible (first
        | assumption | apply guarded_keeps | apply State.comparatorsChanged_keeps | apply State.probes_keeps
        | apply State.startDwell_keeps | apply State.setSent_keeps | apply State.modG_keeps | apply PKeeps.ite
        | refine Keeps.forAll (fun _ _ _ => ?_) ?_) | dsimp only | with_reducible apply PKeeps.mk
    | refine Keeps.update ?_ rfl rfl rfl rfl rfl)

theorem sentStatusBody_keeps {s0 s : State} (h : Keeps s0 s) (r : Req) : PKeeps s0 (sentStatusBody s r) := by
  unfold sentStatusBody
  repeat' (first
    | with_reducible (first
        | assumption | apply guarded_keeps | apply State.setSent_keeps | apply PKeeps.ite | refine Keeps.forAll (fun _ _ _ => ?_) ?_
        | refine Keeps.foldl (fun _ _ _ => ?_) ?_) | dsimp only | with_reducible apply PKeeps.mk
    | refine Keeps.update ?_ rfl rfl rfl rfl rfl)

theorem contactCheckBody_keeps {s0 s : State} (h : Keeps s0 s) (r : Req) : PKeeps s0 (contactCheckBody s r) := by
  unfold contactCheckBody
  repeat' (first
    | with_reducible (first
        | assumption | apply guarded_keeps | apply PKeeps.ite) | dsimp only | with_reducible apply PKeeps.mk)

theorem execSentConfig_keeps {s0 s : State} (h : Keeps s0 s) (r : Req) : OKeeps s0 (execSentConfig r s) := by
  unfold execSentConfig
  exact OKeeps.next (State.firmware_keeps h _ _ _ _ fun _ _ k => sentConfigBody_keeps k _)

theorem execSentStatus_keeps {s0 s : State} (h : Keeps s0 s) (r : Req) : OKeeps s0 (execSentStatus r s) := by
  unfold execSentStatus
  exact OKeeps.next (State.firmware_keeps h _ _ _ _ fun _ _ k => sentStatusBody_keeps k _)

theorem execContactCheck_keeps {s0 s : State} (h : Keeps s0 s) (r : Req) : OKeeps s0 (execContactCheck r s) := by
  unfold execContactCheck
  exact OKeeps.next (State.firmware_keeps h _ _ _ _ fun _ _ k => contactCheckBody_keeps k _)

end Sys2Proof.Machine
end

