-- ==== Sys2Proof/Laws/KeepsSafeState.lean ====
section
/-!
SUPPORT. The functions of SafeState.lean keep what `Keeps` says.
-/
namespace Sys2Proof.Machine

-- The case scripts of this file name more tactics than each case needs.
set_option linter.all false

theorem State.pruneRecs_keeps {s0 s : State} (h : Keeps s0 s)  : Keeps s0 (State.pruneRecs s) := by
  unfold State.pruneRecs
  exact State.setFaults_keeps h _ fun o => orderly_of_sublist o List.filter_sublist rfl rfl

theorem State.releaseSafe_keeps {s0 s : State} (h : Keeps s0 s) (g : Nat) (replays : Bool) : Keeps s0 (State.releaseSafe s g replays) := by
  unfold State.releaseSafe
  repeat' (first
    | with_reducible (first
        | assumption | apply State.pruneRecs_keeps | apply State.comparatorsChanged_keeps | apply State.probes_keeps
        | apply State.setDig_keeps | apply State.setSmu_keeps | apply State.setPin_keeps | apply State.modG_keeps
        | refine Keeps.forAll (fun _ _ _ => ?_) ?_ | refine Keeps.foldl (fun _ _ _ => ?_) ?_) | dsimp only
    | refine Keeps.update ?_ rfl rfl rfl rfl rfl)

theorem State.startRelease_keeps {s0 s : State} (h : Keeps s0 s) (gs : List Nat) : MKeeps s0 (State.startRelease s gs) := by
  unfold State.startRelease
  repeat' (first
    | with_reducible (first
        | assumption | apply State.releaseSafe_keeps | apply Keeps.ite | apply MKeeps.some | exact MKeeps.none | apply MKeeps.ite
        | refine Keeps.forAll (fun _ _ _ => ?_) ?_) | split | dsimp only)

theorem execSafeReleaseCheck_keeps {s0 s : State} (h : Keeps s0 s)  : OKeeps s0 (execSafeReleaseCheck s) := by
  unfold execSafeReleaseCheck
  repeat' (first
    | with_reducible (first
        | assumption | apply State.releaseSafe_keeps | apply Keeps.ite | apply OKeeps.next | apply OKeeps.ite
        | refine Keeps.forAll (fun _ _ _ => ?_) ?_) | split | dsimp only)

end Sys2Proof.Machine
end

