-- ==== Sys2Proof/Laws/KeepsStroke.lean ====
section
/-!
SUPPORT. The functions of Stroke.lean keep what `Keeps` says.
-/
namespace Sys2Proof.Machine

-- The case scripts of this file name more tactics than each case needs.
set_option linter.all false

theorem strokeLoadBody_keeps {s0 s : State} (h : Keeps s0 s) (r : Req) : PKeeps s0 (strokeLoadBody s r) := by
  unfold strokeLoadBody
  extract_lets t first n
  refine guarded_keeps h _ ?_
  split
  · exact PKeeps.mk h
  · refine guarded_keeps h _ ?_
    exact PKeeps.mk (Keeps.forAll (fun _ _ k => State.modPlay_keeps k _ _) h)

theorem tsetLoadBody_keeps {s0 s : State} (h : Keeps s0 s) (r : Req) : PKeeps s0 (tsetLoadBody s r) := by
  unfold tsetLoadBody
  repeat' (first
    | with_reducible (first
        | assumption | apply guarded_keeps | apply State.modPlay_keeps | apply PKeeps.ite | refine Keeps.forAll (fun _ _ _ => ?_) ?_)
    | dsimp only | with_reducible apply PKeeps.mk | refine Keeps.update ?_ rfl rfl rfl rfl rfl)

theorem State.writeEtchEnd_keeps {s0 s : State} (h : Keeps s0 s) (g : Nat) : Keeps s0 (State.writeEtchEnd s g) := by
  unfold State.writeEtchEnd
  repeat' (first
    | with_reducible (first
        | assumption | apply State.writeMarker_keeps | apply State.modPlay_keeps) | split | dsimp only
    | refine Keeps.update ?_ rfl rfl rfl rfl rfl)

theorem State.flushEtchEnds_keeps {s0 s : State} (h : Keeps s0 s) (g : Nat) : Keeps s0 (State.flushEtchEnds s g) := by
  unfold State.flushEtchEnds
  repeat' (first
    | with_reducible (first
        | assumption | apply State.writeEtchEnd_keeps | refine Keeps.foldl (fun _ _ _ => ?_) ?_) | dsimp only)

theorem State.startCkpt_keeps {s0 s : State} (h : Keeps s0 s) (g : Nat) (idx : Nat) (bcast : Bool) : Keeps s0 (State.startCkpt s g idx bcast) := by
  unfold State.startCkpt
  repeat' (first
    | with_reducible (first
        | assumption | apply State.takeCkpt_keeps | apply State.postStart_keeps | apply Keeps.ite) | dsimp only)

theorem State.armGather_keeps {s0 s : State} (h : Keeps s0 s) (g : Nat) (idx : Nat) (mode : Nat) (src : Nat) (prog : Option Nat) : Keeps s0 (State.armGather s g idx mode src prog) := by
  unfold State.armGather
  repeat' (first
    | with_reducible (first
        | assumption | apply State.release_keeps | apply State.startCkpt_keeps | apply State.flushEtchEnds_keeps
        | apply State.comparatorsChanged_keeps | apply State.preempt_keeps | apply State.setSmu_keeps | apply State.modG_keeps
        | apply Keeps.ite | refine Keeps.forAll (fun _ _ _ => ?_) ?_ | refine Keeps.foldl (fun _ _ _ => ?_) ?_)
    | dsimp only [State.fresh, State.choose] | split | refine State.setTwin_same ?_ _ rfl | refine Keeps.update ?_ rfl rfl rfl rfl rfl)

theorem State.startOwn_keeps {s0 s : State} (h : Keeps s0 s) (g : Nat) (idx : Nat) (mode : Nat) (src : Nat) : Keeps s0 (State.startOwn s g idx mode src) := by
  unfold State.startOwn
  repeat' (first
    | with_reducible (first
        | assumption | apply State.armGather_keeps | apply State.modSeq_keeps) | dsimp only | refine Keeps.update ?_ rfl rfl rfl rfl rfl)

theorem strokeStartBody_keeps {s0 s : State} (h : Keeps s0 s) (r : Req) : PKeeps s0 (strokeStartBody s r) := by
  unfold strokeStartBody
  repeat' (first
    | with_reducible (first
        | assumption | apply State.startOwn_keeps | apply State.startRelease_keeps | apply guarded_keeps | apply State.modG_keeps
        | apply PKeeps.ite | refine Keeps.forAll (fun _ _ _ => ?_) ?_) | refine MKeeps.eq ‹_ = some _› ?_ | split | dsimp only
    | with_reducible apply PKeeps.mk | refine Keeps.update ?_ rfl rfl rfl rfl rfl)

theorem State.haltTarget_keeps {s0 s : State} (h : Keeps s0 s) (t : Tgt) : Keeps s0 (State.haltTarget s t) := by
  unfold State.haltTarget
  repeat' (first
    | with_reducible (first
        | assumption | apply State.haltWho_keeps | apply Keeps.ite | refine Keeps.forAll (fun _ _ _ => ?_) ?_) | split | dsimp only
    | refine Keeps.update ?_ rfl rfl rfl rfl rfl)

theorem strokeHaltBody_keeps {s0 s : State} (h : Keeps s0 s) (r : Req) : PKeeps s0 (strokeHaltBody s r) := by
  unfold strokeHaltBody
  repeat' (first
    | with_reducible (first
        | assumption | apply State.haltTarget_keeps | apply guarded_keeps | apply PKeeps.ite) | dsimp only
    | with_reducible apply PKeeps.mk)

theorem strokeStatusBody_keeps {s0 s : State} (h : Keeps s0 s) (r : Req) : PKeeps s0 (strokeStatusBody s r) := by
  unfold strokeStatusBody
  repeat' (first
    | with_reducible (first
        | assumption | apply guarded_keeps | apply PKeeps.ite) | dsimp only | with_reducible apply PKeeps.mk)

theorem strokeReadBody_keeps {s0 s : State} (h : Keeps s0 s) (r : Req) : PKeeps s0 (strokeReadBody s r) := by
  unfold strokeReadBody
  repeat' (first
    | with_reducible (first
        | assumption | apply guarded_keeps | apply Keeps.ite | apply PKeeps.ite) | split | dsimp only | with_reducible apply PKeeps.mk
    | refine Keeps.update ?_ rfl rfl rfl rfl rfl)

theorem seqConfigBody_keeps {s0 s : State} (h : Keeps s0 s) (r : Req) : PKeeps s0 (seqConfigBody s r) := by
  unfold seqConfigBody
  repeat' (first
    | with_reducible (first
        | assumption | apply guarded_keeps | apply State.modPlay_keeps | apply PKeeps.ite | refine Keeps.forAll (fun _ _ _ => ?_) ?_)
    | dsimp only | with_reducible apply PKeeps.mk | refine Keeps.update ?_ rfl rfl rfl rfl rfl)

theorem execStrokeLoad_keeps {s0 s : State} (h : Keeps s0 s) (r : Req) : OKeeps s0 (execStrokeLoad r s) := by
  unfold execStrokeLoad
  exact OKeeps.next (State.firmware_keeps h _ _ _ _ fun _ _ k => strokeLoadBody_keeps k _)

theorem execTsetLoad_keeps {s0 s : State} (h : Keeps s0 s) (r : Req) : OKeeps s0 (execTsetLoad r s) := by
  unfold execTsetLoad
  exact OKeeps.next (State.firmware_keeps h _ _ _ _ fun _ _ k => tsetLoadBody_keeps k _)

theorem execStrokeStart_keeps {s0 s : State} (h : Keeps s0 s) (r : Req) : OKeeps s0 (execStrokeStart r s) := by
  unfold execStrokeStart
  exact OKeeps.next (State.firmware_keeps h _ _ _ _ fun _ _ k => strokeStartBody_keeps k _)

theorem execStrokeHalt_keeps {s0 s : State} (h : Keeps s0 s) (r : Req) : OKeeps s0 (execStrokeHalt r s) := by
  unfold execStrokeHalt
  exact OKeeps.next (State.firmware_keeps h _ _ _ _ fun _ _ k => strokeHaltBody_keeps k _)

theorem execStrokeStatus_keeps {s0 s : State} (h : Keeps s0 s) (r : Req) : OKeeps s0 (execStrokeStatus r s) := by
  unfold execStrokeStatus
  exact OKeeps.next (State.firmware_keeps h _ _ _ _ fun _ _ k => strokeStatusBody_keeps k _)

theorem execStrokeRead_keeps {s0 s : State} (h : Keeps s0 s) (r : Req) : OKeeps s0 (execStrokeRead r s) := by
  unfold execStrokeRead
  exact OKeeps.next (State.firmware_keeps h _ _ _ _ fun _ _ k => strokeReadBody_keeps k _)

theorem execSeqConfig_keeps {s0 s : State} (h : Keeps s0 s) (r : Req) : OKeeps s0 (execSeqConfig r s) := by
  unfold execSeqConfig
  exact OKeeps.next (State.firmware_keeps h _ _ _ _ fun _ _ k => seqConfigBody_keeps k _)

theorem execStrokeStartTrigger_keeps {s0 s : State} (h : Keeps s0 s) (q : Seqr) : OKeeps s0 (execStrokeStartTrigger q s) := by
  unfold execStrokeStartTrigger
  repeat' (first
    | with_reducible (first
        | assumption | apply State.setSeq_keeps | apply Keeps.ite | apply OKeeps.next | apply OKeeps.ite) | split | dsimp only
    | refine Keeps.update ?_ rfl rfl rfl rfl rfl)

theorem execJumpRequest_keeps {s0 s : State} (h : Keeps s0 s) (q : Seqr) (cause : Cause) (cycle : Nat) : OKeeps s0 (execJumpRequest q cause cycle s) := by
  unfold execJumpRequest
  repeat' (first
    | with_reducible (first
        | assumption | apply State.request_keeps | apply State.requestJoined_keeps | apply Keeps.ite | apply OKeeps.next
        | apply OKeeps.ite) | split | dsimp only | refine Keeps.update ?_ rfl rfl rfl rfl rfl)

theorem execGranuleBoundary_keeps {s0 s : State} (h : Keeps s0 s) (q : Seqr) (obs : List Obs) : OKeeps s0 (execGranuleBoundary q obs s) := by
  unfold execGranuleBoundary
  repeat' (first | with_reducible (first | assumption | apply State.granule_keeps | apply OKeeps.next | apply OKeeps.ite) | dsimp only)

theorem State.resumeHeld_keeps {s0 s : State} (h : Keeps s0 s) (g : Nat) : Keeps s0 (State.resumeHeld s g) := by
  unfold State.resumeHeld
  repeat' (first
    | with_reducible (first
        | assumption | apply State.goOn_keeps | apply Keeps.ite | refine Keeps.forAll (fun _ _ _ => ?_) ?_) | split | dsimp only)

theorem State.etchRecheck_keeps {s0 s : State} (h : Keeps s0 s) (g : Nat) : Keeps s0 (State.etchRecheck s g) := by
  unfold State.etchRecheck
  repeat' (first
    | with_reducible (first
        | assumption | apply State.resumeHeld_keeps | apply State.modPlay_keeps | apply Keeps.ite) | split | dsimp only
    | refine Keeps.update ?_ rfl rfl rfl rfl rfl)

theorem execCheckpointEntryFree_keeps {s0 s : State} (h : Keeps s0 s) (g : GIx) : OKeeps s0 (execCheckpointEntryFree g s) := by
  unfold execCheckpointEntryFree
  repeat' (first
    | with_reducible (first
        | assumption | apply State.etchRecheck_keeps | apply State.takeCkpt_keeps | apply Keeps.ite | apply OKeeps.next
        | apply OKeeps.ite) | split | dsimp only)

theorem execResolutionComplete_keeps {s0 s : State} (h : Keeps s0 s) (q : Seqr) : OKeeps s0 (execResolutionComplete q s) := by
  unfold execResolutionComplete
  repeat' (first
    | with_reducible (first
        | assumption | apply State.goOn_keeps | apply State.setSeq_keeps | apply State.advise_keeps | apply State.modSeq_keeps
        | apply Keeps.ite | apply OKeeps.next | apply OKeeps.ite | refine Keeps.forAll (fun _ _ _ => ?_) ?_) | split | dsimp only
    | refine Keeps.update ?_ rfl rfl rfl rfl rfl)

theorem State.etchDurable_keeps {s0 s : State} (h : Keeps s0 s) (g : Nat) (e : Etch) : Keeps s0 (State.etchDurable s g e) := by
  unfold State.etchDurable
  repeat' (first
    | with_reducible (first
        | assumption | apply State.resumeHeld_keeps | apply State.writeMarker_keeps | apply State.modPlay_keeps | apply Keeps.ite)
    | split | dsimp only | refine Keeps.update ?_ rfl rfl rfl rfl rfl)

theorem execEtchBeginMarkerDurable_keeps {s0 s : State} (h : Keeps s0 s) (g : GIx) : OKeeps s0 (execEtchBeginMarkerDurable g s) := by
  unfold execEtchBeginMarkerDurable
  repeat' (first
    | with_reducible (first
        | assumption | apply State.etchDurable_keeps | apply OKeeps.next | apply OKeeps.ite) | split | dsimp only
    | refine Keeps.update ?_ rfl rfl rfl rfl rfl)

theorem execEtchEndMarkerWrite_keeps {s0 s : State} (h : Keeps s0 s) (g : GIx) : OKeeps s0 (execEtchEndMarkerWrite g s) := by
  unfold execEtchEndMarkerWrite
  repeat' (first
    | with_reducible (first
        | assumption | apply State.writeEtchEnd_keeps | apply State.settleAll_keeps | apply Keeps.ite | apply OKeeps.next
        | apply OKeeps.ite) | split | dsimp only | refine Keeps.update ?_ rfl rfl rfl rfl rfl)

theorem execStreamGranulePresent_keeps {s0 s : State} (h : Keeps s0 s) (g : GIx) : OKeeps s0 (execStreamGranulePresent g s) := by
  unfold execStreamGranulePresent
  repeat' (first
    | with_reducible (first
        | assumption | apply State.modPlay_keeps | apply OKeeps.next | apply OKeeps.ite) | dsimp only
    | refine Keeps.update ?_ rfl rfl rfl rfl rfl)

theorem execStallResume_keeps {s0 s : State} (h : Keeps s0 s) (q : Seqr) : OKeeps s0 (execStallResume q s) := by
  unfold execStallResume
  repeat' (first
    | with_reducible (first
        | assumption | apply State.beginGranule_keeps | apply State.reachBoundary_keeps | apply State.setSeq_keeps
        | apply State.modG_keeps | apply Keeps.ite | apply OKeeps.next | apply OKeeps.ite | refine Keeps.forAll (fun _ _ _ => ?_) ?_)
    | split | dsimp only | refine Keeps.update ?_ rfl rfl rfl rfl rfl)

theorem execStallLimitExpiry_keeps {s0 s : State} (h : Keeps s0 s) (q : Seqr) : OKeeps s0 (execStallLimitExpiry q s) := by
  unfold execStallLimitExpiry
  repeat' (first
    | with_reducible (first
        | assumption | apply State.haltAt_keeps | apply State.modPlay_keeps | apply Keeps.ite | apply OKeeps.next | apply OKeeps.ite
        | refine Keeps.forAll (fun _ _ _ => ?_) ?_) | split | dsimp only | refine Keeps.update ?_ rfl rfl rfl rfl rfl)

theorem execHaltHoldExpiry_keeps {s0 s : State} (h : Keeps s0 s) (g : GIx) : OKeeps s0 (execHaltHoldExpiry g s) := by
  unfold execHaltHoldExpiry
  repeat' (first
    | with_reducible (first
        | assumption | apply State.pinsChanged_keeps | apply State.modG_keeps | apply Keeps.ite | apply OKeeps.next | apply OKeeps.ite)
    | split | dsimp only)

end Sys2Proof.Machine
end

