-- ==== Sys2Proof/Laws/KeepsStream.lean ====
section
/-!
SUPPORT. The functions of Stream.lean keep what `Keeps` says.
-/
namespace Sys2Proof.Machine

-- The case scripts of this file name more tactics than each case needs.
set_option linter.all false

theorem State.pinBodies_keeps {s0 s : State} (h : Keeps s0 s) (g : Nat) (bcast : Bool) (tbl : Nat → Ent) (ix : List Nat) : PKeeps s0 (State.pinBodies s g bcast tbl ix) := by
  unfold State.pinBodies
  repeat' (first
    | with_reducible (first
        | assumption | apply State.modPlay_keeps | apply PKeeps.ite | refine Keeps.foldl (fun _ _ _ => ?_) ?_) | dsimp only
    | with_reducible apply PKeeps.mk | refine Keeps.update ?_ rfl rfl rfl rfl rfl)

theorem State.pinAll_keeps {s0 s : State} (h : Keeps s0 s) (t : Tgt) (bcast : Bool) (tbl : State → Nat → Nat → Ent) (ix : List Nat) : PKeeps s0 (State.pinAll s t bcast tbl ix) := by
  unfold State.pinAll
  repeat' (first
    | with_reducible (first
        | assumption | apply State.pinBodies_keeps | apply PKeeps.ite | refine Keeps.foldl (fun _ _ _ => ?_) ?_
        | refine PKeeps.foldl (fun _ _ _ => ?_) ?_ | apply PKeeps.fst) | refine PKeeps.eq ‹_ = (_, _)› ?_ | split | dsimp only
    | with_reducible apply PKeeps.mk)

theorem vmemWriteBody_keeps {s0 s : State} (h : Keeps s0 s) (r : Req) : PKeeps s0 (vmemWriteBody s r) := by
  unfold vmemWriteBody
  repeat' (first
    | with_reducible (first
        | assumption | apply guarded_keeps | apply State.modPlay_keeps | apply PKeeps.ite | refine Keeps.forAll (fun _ _ _ => ?_) ?_)
    | dsimp only | with_reducible apply PKeeps.mk | refine Keeps.update ?_ rfl rfl rfl rfl rfl)

theorem vmemReadBody_keeps {s0 s : State} (h : Keeps s0 s) (r : Req) : PKeeps s0 (vmemReadBody s r) := by
  unfold vmemReadBody
  repeat' (first
    | with_reducible (first
        | assumption | apply guarded_keeps | apply PKeeps.ite) | dsimp only | with_reducible apply PKeeps.mk)

theorem vmemPinBody_keeps {s0 s : State} (h : Keeps s0 s) (r : Req) : PKeeps s0 (vmemPinBody s r) := by
  unfold vmemPinBody
  repeat' (first
    | with_reducible (first
        | assumption | apply State.pinAll_keeps | apply guarded_keeps | apply State.modPlay_keeps | apply PKeeps.ite
        | refine Keeps.forAll (fun _ _ _ => ?_) ?_ | apply PKeeps.fst) | refine PKeeps.eq ‹_ = (_, _)› ?_ | split | dsimp only
    | with_reducible apply PKeeps.mk | refine Keeps.update ?_ rfl rfl rfl rfl rfl)

theorem streamOpenBody_keeps {s0 s : State} (h : Keeps s0 s) (r : Req) : PKeeps s0 (streamOpenBody s r) := by
  unfold streamOpenBody
  repeat' (first
    | with_reducible (first
        | assumption | apply guarded_keeps | apply State.setCtx_keeps | apply Keeps.ite | apply PKeeps.ite) | split | dsimp only
    | with_reducible apply PKeeps.mk)

theorem streamCloseBody_keeps {s0 s : State} (h : Keeps s0 s) (r : Req) : PKeeps s0 (streamCloseBody s r) := by
  unfold streamCloseBody
  repeat' (first
    | with_reducible (first
        | assumption | apply guarded_keeps | apply PKeeps.ite) | dsimp only | with_reducible apply PKeeps.mk
    | refine Keeps.update ?_ rfl rfl rfl rfl rfl)

theorem streamWriteBody_keeps {s0 s : State} (h : Keeps s0 s) (r : Req) : PKeeps s0 (streamWriteBody s r) := by
  unfold streamWriteBody
  repeat' (first
    | with_reducible (first
        | assumption | apply guarded_keeps | apply PKeeps.ite) | dsimp only | with_reducible apply PKeeps.mk
    | refine Keeps.updateDram ?_ rfl rfl rfl rfl rfl (Mem.wf_writeAll _ _ _) | refine Keeps.update ?_ rfl rfl rfl rfl rfl)

theorem bcastLoadBody_keeps {s0 s : State} (h : Keeps s0 s) (r : Req) : PKeeps s0 (bcastLoadBody s r) := by
  unfold bcastLoadBody
  repeat' (first
    | with_reducible (first
        | assumption | apply State.pinAll_keeps | apply guarded_keeps | apply State.modPlay_keeps | apply State.setProg_keeps
        | apply PKeeps.ite | refine Keeps.forAll (fun _ _ _ => ?_) ?_ | apply PKeeps.fst) | refine PKeeps.eq ‹_ = (_, _)› ?_ | split
    | dsimp only | with_reducible apply PKeeps.mk | refine Keeps.update ?_ rfl rfl rfl rfl rfl)

theorem State.beginProg_keeps {s0 s : State} (h : Keeps s0 s) (p : Nat) (q : Seq) : Keeps s0 (State.beginProg s p q) := by
  unfold State.beginProg
  repeat' (first
    | with_reducible (first
        | assumption | apply State.syncDevice_keeps | apply State.setProg_keeps) | dsimp only | refine Keeps.update ?_ rfl rfl rfl rfl rfl)

theorem State.startProg_keeps {s0 s : State} (h : Keeps s0 s) (p : Nat) (start : Nat) (mode : Nat) (src : Nat) (gs : List Nat) : Keeps s0 (State.startProg s p start mode src gs) := by
  unfold State.startProg
  repeat' (first
    | with_reducible (first
        | assumption | apply State.beginProg_keeps | apply State.armGather_keeps | apply State.modPlay_keeps
        | refine Keeps.forAll (fun _ _ _ => ?_) ?_) | dsimp only | refine Keeps.update ?_ rfl rfl rfl rfl rfl)

theorem bcastStartBody_keeps {s0 s : State} (h : Keeps s0 s) (r : Req) : PKeeps s0 (bcastStartBody s r) := by
  unfold bcastStartBody
  repeat' (first
    | with_reducible (first
        | assumption | apply State.startProg_keeps | apply State.startRelease_keeps | apply guarded_keeps | apply PKeeps.ite)
    | refine MKeeps.eq ‹_ = some _› ?_ | split | dsimp only | with_reducible apply PKeeps.mk | refine Keeps.update ?_ rfl rfl rfl rfl rfl)

theorem bcastUnloadBody_keeps {s0 s : State} (h : Keeps s0 s) (r : Req) : PKeeps s0 (bcastUnloadBody s r) := by
  unfold bcastUnloadBody
  repeat' (first
    | with_reducible (first
        | assumption | apply guarded_keeps | apply State.syncDevice_keeps | apply State.modPlay_keeps | apply PKeeps.ite
        | refine Keeps.forAll (fun _ _ _ => ?_) ?_) | split | dsimp only | with_reducible apply PKeeps.mk
    | refine Keeps.update ?_ rfl rfl rfl rfl rfl)

theorem stencilLoadBody_keeps {s0 s : State} (h : Keeps s0 s) (r : Req) : PKeeps s0 (stencilLoadBody s r) := by
  unfold stencilLoadBody
  repeat' (first
    | with_reducible (first
        | assumption | apply guarded_keeps | apply State.modPlay_keeps | apply PKeeps.ite | refine Keeps.forAll (fun _ _ _ => ?_) ?_)
    | dsimp only | with_reducible apply PKeeps.mk | refine Keeps.update ?_ rfl rfl rfl rfl rfl)

theorem stencilClearBody_keeps {s0 s : State} (h : Keeps s0 s) (r : Req) : PKeeps s0 (stencilClearBody s r) := by
  unfold stencilClearBody
  repeat' (first
    | with_reducible (first
        | assumption | apply guarded_keeps | apply State.modPlay_keeps | apply PKeeps.ite | refine Keeps.forAll (fun _ _ _ => ?_) ?_)
    | dsimp only | with_reducible apply PKeeps.mk | refine Keeps.update ?_ rfl rfl rfl rfl rfl)

theorem streamStatusBody_keeps {s0 s : State} (h : Keeps s0 s) (r : Req) : PKeeps s0 (streamStatusBody s r) := by
  unfold streamStatusBody
  extract_lets a1
  repeat' (first
    | with_reducible (first
        | assumption | apply guarded_keeps | apply State.record_keeps | apply State.fresh_keeps | apply Keeps.ite | apply PKeeps.ite
        | refine Keeps.foldl (fun _ _ _ => ?_) ?_) | dsimp only [State.fresh, State.choose] | split | with_reducible apply PKeeps.mk
    | refine Keeps.update ?_ rfl rfl rfl rfl rfl)

theorem execVmemWrite_keeps {s0 s : State} (h : Keeps s0 s) (r : Req) : OKeeps s0 (execVmemWrite r s) := by
  unfold execVmemWrite
  exact OKeeps.next (State.firmware_keeps h _ _ _ _ fun _ _ k => vmemWriteBody_keeps k _)

theorem execVmemRead_keeps {s0 s : State} (h : Keeps s0 s) (r : Req) : OKeeps s0 (execVmemRead r s) := by
  unfold execVmemRead
  exact OKeeps.next (State.firmware_keeps h _ _ _ _ fun _ _ k => vmemReadBody_keeps k _)

theorem execVmemPin_keeps {s0 s : State} (h : Keeps s0 s) (r : Req) : OKeeps s0 (execVmemPin r s) := by
  unfold execVmemPin
  exact OKeeps.next (State.firmware_keeps h _ _ _ _ fun _ _ k => vmemPinBody_keeps k _)

theorem execStreamOpen_keeps {s0 s : State} (h : Keeps s0 s) (r : Req) : OKeeps s0 (execStreamOpen r s) := by
  unfold execStreamOpen
  exact OKeeps.next (State.firmware_keeps h _ _ _ _ fun _ _ k => streamOpenBody_keeps k _)

theorem execStreamClose_keeps {s0 s : State} (h : Keeps s0 s) (r : Req) : OKeeps s0 (execStreamClose r s) := by
  unfold execStreamClose
  exact OKeeps.next (State.firmware_keeps h _ _ _ _ fun _ _ k => streamCloseBody_keeps k _)

theorem execStreamWrite_keeps {s0 s : State} (h : Keeps s0 s) (r : Req) : OKeeps s0 (execStreamWrite r s) := by
  unfold execStreamWrite
  exact OKeeps.next (State.firmware_keeps h _ _ _ _ fun _ _ k => streamWriteBody_keeps k _)

theorem execBcastLoad_keeps {s0 s : State} (h : Keeps s0 s) (r : Req) : OKeeps s0 (execBcastLoad r s) := by
  unfold execBcastLoad
  exact OKeeps.next (State.firmware_keeps h _ _ _ _ fun _ _ k => bcastLoadBody_keeps k _)

theorem execBcastStart_keeps {s0 s : State} (h : Keeps s0 s) (r : Req) : OKeeps s0 (execBcastStart r s) := by
  unfold execBcastStart
  exact OKeeps.next (State.firmware_keeps h _ _ _ _ fun _ _ k => bcastStartBody_keeps k _)

theorem execBcastUnload_keeps {s0 s : State} (h : Keeps s0 s) (r : Req) : OKeeps s0 (execBcastUnload r s) := by
  unfold execBcastUnload
  exact OKeeps.next (State.firmware_keeps h _ _ _ _ fun _ _ k => bcastUnloadBody_keeps k _)

theorem execStencilLoad_keeps {s0 s : State} (h : Keeps s0 s) (r : Req) : OKeeps s0 (execStencilLoad r s) := by
  unfold execStencilLoad
  exact OKeeps.next (State.firmware_keeps h _ _ _ _ fun _ _ k => stencilLoadBody_keeps k _)

theorem execStencilClear_keeps {s0 s : State} (h : Keeps s0 s) (r : Req) : OKeeps s0 (execStencilClear r s) := by
  unfold execStencilClear
  exact OKeeps.next (State.firmware_keeps h _ _ _ _ fun _ _ k => stencilClearBody_keeps k _)

theorem execStreamStatus_keeps {s0 s : State} (h : Keeps s0 s) (r : Req) : OKeeps s0 (execStreamStatus r s) := by
  unfold execStreamStatus
  exact OKeeps.next (State.firmware_keeps h _ _ _ _ fun _ _ k => streamStatusBody_keeps k _)

theorem execBcastPrimeComplete_keeps {s0 s : State} (h : Keeps s0 s) (p : Fin 4) : OKeeps s0 (execBcastPrimeComplete p s) := by
  unfold execBcastPrimeComplete
  repeat' (first
    | with_reducible (first
        | assumption | apply State.modPlay_keeps | apply State.setProg_keeps | apply Keeps.ite | apply OKeeps.next | apply OKeeps.ite
        | refine Keeps.forAll (fun _ _ _ => ?_) ?_) | split | dsimp only | refine Keeps.update ?_ rfl rfl rfl rfl rfl)

end Sys2Proof.Machine
end

