-- ==== Sys2Proof/Laws/KeepsUcode.lean ====
section
/-!
SUPPORT. The functions of Ucode.lean keep what `Keeps` says.
-/
namespace Sys2Proof.Machine

-- The case scripts of this file name more tactics than each case needs.
set_option linter.all false

theorem ucodeLoadBody_keeps {s0 s : State} (h : Keeps s0 s) (r : Req) : PKeeps s0 (ucodeLoadBody s r) := by
  unfold ucodeLoadBody
  repeat' (first
    | with_reducible (first
        | assumption | apply guarded_keeps | apply PKeeps.ite | refine Keeps.forAll (fun _ _ _ => ?_) ?_) | dsimp only
    | with_reducible apply PKeeps.mk | refine Keeps.update ?_ rfl rfl rfl rfl rfl)

theorem ucodeClearBody_keeps {s0 s : State} (h : Keeps s0 s) (r : Req) : PKeeps s0 (ucodeClearBody s r) := by
  unfold ucodeClearBody
  repeat' (first
    | with_reducible (first
        | assumption | apply guarded_keeps | apply PKeeps.ite | refine Keeps.forAll (fun _ _ _ => ?_) ?_) | dsimp only
    | with_reducible apply PKeeps.mk | refine Keeps.update ?_ rfl rfl rfl rfl rfl)

theorem ucodeQueryBody_keeps {s0 s : State} (h : Keeps s0 s) (r : Req) : PKeeps s0 (ucodeQueryBody s r) := by
  unfold ucodeQueryBody
  repeat' (first
    | with_reducible (first
        | assumption | apply guarded_keeps | apply PKeeps.ite) | dsimp only | with_reducible apply PKeeps.mk)

theorem ucodeReadBody_keeps {s0 s : State} (h : Keeps s0 s) (r : Req) : PKeeps s0 (ucodeReadBody s r) := by
  unfold ucodeReadBody
  repeat' (first
    | with_reducible (first
        | assumption | apply guarded_keeps | apply PKeeps.ite) | dsimp only | with_reducible apply PKeeps.mk)

theorem execUcodeLoad_keeps {s0 s : State} (h : Keeps s0 s) (r : Req) : OKeeps s0 (execUcodeLoad r s) := by
  unfold execUcodeLoad
  exact OKeeps.next (State.firmware_keeps h _ _ _ _ fun _ _ k => ucodeLoadBody_keeps k _)

theorem execUcodeClear_keeps {s0 s : State} (h : Keeps s0 s) (r : Req) : OKeeps s0 (execUcodeClear r s) := by
  unfold execUcodeClear
  exact OKeeps.next (State.firmware_keeps h _ _ _ _ fun _ _ k => ucodeClearBody_keeps k _)

theorem execUcodeQuery_keeps {s0 s : State} (h : Keeps s0 s) (r : Req) : OKeeps s0 (execUcodeQuery r s) := by
  unfold execUcodeQuery
  exact OKeeps.next (State.firmware_keeps h _ _ _ _ fun _ _ k => ucodeQueryBody_keeps k _)

theorem execUcodeRead_keeps {s0 s : State} (h : Keeps s0 s) (r : Req) : OKeeps s0 (execUcodeRead r s) := by
  unfold execUcodeRead
  exact OKeeps.next (State.firmware_keeps h _ _ _ _ fun _ _ k => ucodeReadBody_keeps k _)

end Sys2Proof.Machine
end

