-- ==== Sys2Proof/Laws/KeepsHatch.lean ====
section
/-!
SUPPORT. The functions of Hatch.lean keep what `Keeps` says.
-/
namespace Sys2Proof.Machine

-- The case scripts of this file name more tactics than each case needs.
set_option linter.all false

theorem hatchLineBody_keeps {s0 s : State} (h : Keeps s0 s) (r : Req) : PKeeps s0 (hatchLineBody s r) := by
  unfold hatchLineBody
  repeat' (first
    | with_reducible (first
        | assumption | apply guarded_keeps | apply State.syncAll_keeps | apply State.setLine_keeps | apply PKeeps.ite
        | refine Keeps.forAll (fun _ _ _ => ?_) ?_) | split | dsimp only | with_reducible apply PKeeps.mk
    | refine Keeps.update ?_ rfl rfl rfl rfl rfl)

theorem hatchRestoreBody_keeps {s0 s : State} (h : Keeps s0 s) (r : Req) : PKeeps s0 (hatchRestoreBody s r) := by
  unfold hatchRestoreBody
  repeat' (first
    | with_reducible (first
        | assumption | apply guarded_keeps | apply State.syncAll_keeps | apply State.setLine_keeps | apply PKeeps.ite
        | refine Keeps.forAll (fun _ _ _ => ?_) ?_) | split | dsimp only | with_reducible apply PKeeps.mk
    | refine Keeps.update ?_ rfl rfl rfl rfl rfl)

theorem hatchProducerBody_keeps {s0 s : State} (h : Keeps s0 s) (r : Req) : PKeeps s0 (hatchProducerBody s r) := by
  unfold hatchProducerBody
  repeat' (first
    | with_reducible (first
        | assumption | apply guarded_keeps | apply State.syncAll_keeps | apply State.collect_keeps | apply State.modG_keeps
        | apply Keeps.ite | apply PKeeps.ite | refine Keeps.forAll (fun _ _ _ => ?_) ?_ | refine Keeps.foldl (fun _ _ _ => ?_) ?_
        | refine PKeeps.foldl (fun _ _ _ => ?_) ?_ | apply PKeeps.fst) | refine PKeeps.eq ‹_ = (_, _)› ?_ | split | dsimp only
    | with_reducible apply PKeeps.mk | refine State.setHatch_same ?_ _ rfl | refine Keeps.update ?_ rfl rfl rfl rfl rfl)

theorem hatchForwardBody_keeps {s0 s : State} (h : Keeps s0 s) (r : Req) : PKeeps s0 (hatchForwardBody s r) := by
  unfold hatchForwardBody
  repeat' (first
    | with_reducible (first
        | assumption | apply guarded_keeps | apply State.syncAll_keeps | apply State.modG_keeps | apply Keeps.ite | apply PKeeps.ite
        | refine Keeps.forAll (fun _ _ _ => ?_) ?_) | split | dsimp only | with_reducible apply PKeeps.mk
    | refine State.setHatch_same ?_ _ rfl | refine Keeps.update ?_ rfl rfl rfl rfl rfl)

theorem hatchTaskBody_keeps {s0 s : State} (h : Keeps s0 s) (r : Req) : PKeeps s0 (hatchTaskBody s r) := by
  have e : ∀ (x : Hatch) (p : List Byte), x.bounded → (x.setTask p).bounded := by
    intro x p hx
    unfold Hatch.setTask
    repeat' split
    all_goals exact hx
  unfold hatchTaskBody
  extract_lets p u1 a2
  have hu1 : Keeps s0 u1 := State.setHatch_keeps h _ (e _ _)
  clear_value u1
  exact guarded_keeps h _ (PKeeps.mk (State.syncAll_keeps hu1 _ _))

theorem hatchBindBody_keeps {s0 s : State} (h : Keeps s0 s) (r : Req) : PKeeps s0 (hatchBindBody s r) := by
  unfold hatchBindBody
  repeat' (first
    | with_reducible (first
        | assumption | apply guarded_keeps | apply State.syncAll_keeps | apply State.modG_keeps | apply Keeps.ite | apply PKeeps.ite
        | refine Keeps.forAll (fun _ _ _ => ?_) ?_) | split | dsimp only | with_reducible apply PKeeps.mk
    | refine State.setHatch_same ?_ _ rfl | refine Keeps.update ?_ rfl rfl rfl rfl rfl)

theorem hatchGroupBody_keeps {s0 s : State} (h : Keeps s0 s) (r : Req) : PKeeps s0 (hatchGroupBody s r) := by
  unfold hatchGroupBody
  repeat' (first
    | with_reducible (first
        | assumption | apply guarded_keeps | apply State.syncAll_keeps | apply State.setGroup_keeps | apply PKeeps.ite
        | refine Keeps.foldl (fun _ _ _ => ?_) ?_) | dsimp only | with_reducible apply PKeeps.mk)

theorem hatchPulseBody_keeps {s0 s : State} (h : Keeps s0 s) (r : Req) : PKeeps s0 (hatchPulseBody s r) := by
  unfold hatchPulseBody
  repeat' (first
    | with_reducible (first
        | assumption | apply guarded_keeps | apply State.syncAll_keeps | apply PKeeps.ite) | dsimp only
    | with_reducible apply PKeeps.mk)

theorem State.clearMerge_keeps {s0 s : State} (h : Keeps s0 s) (keys : List Nat) : Keeps s0 (State.clearMerge s keys) := by
  unfold State.clearMerge
  repeat' (first
    | with_reducible (first
        | assumption | apply Keeps.ite) | split | dsimp only | refine State.setHatch_same ?_ _ rfl
    | refine Keeps.update ?_ rfl rfl rfl rfl rfl)

theorem hatchStatusBody_keeps {s0 s : State} (h : Keeps s0 s) (r : Req) : PKeeps s0 (hatchStatusBody s r) := by
  unfold hatchStatusBody
  repeat' (first
    | with_reducible (first
        | assumption | apply State.clearMerge_keeps | apply guarded_keeps | apply Keeps.ite | apply PKeeps.ite) | split | dsimp only
    | with_reducible apply PKeeps.mk | refine State.setHatch_same ?_ _ rfl)

theorem execHatchLineConfig_keeps {s0 s : State} (h : Keeps s0 s) (r : Req) : OKeeps s0 (execHatchLineConfig r s) := by
  unfold execHatchLineConfig
  exact OKeeps.next (State.firmware_keeps h _ _ _ _ fun _ _ k => hatchLineBody_keeps k _)

theorem execHatchProducer_keeps {s0 s : State} (h : Keeps s0 s) (r : Req) : OKeeps s0 (execHatchProducer r s) := by
  unfold execHatchProducer
  exact OKeeps.next (State.firmware_keeps h _ _ _ _ fun _ _ k => hatchProducerBody_keeps k _)

theorem execHatchForward_keeps {s0 s : State} (h : Keeps s0 s) (r : Req) : OKeeps s0 (execHatchForward r s) := by
  unfold execHatchForward
  exact OKeeps.next (State.firmware_keeps h _ _ _ _ fun _ _ k => hatchForwardBody_keeps k _)

theorem execHatchTask_keeps {s0 s : State} (h : Keeps s0 s) (r : Req) : OKeeps s0 (execHatchTask r s) := by
  unfold execHatchTask
  exact OKeeps.next (State.firmware_keeps h _ _ _ _ fun _ _ k => hatchTaskBody_keeps k _)

theorem execHatchBind_keeps {s0 s : State} (h : Keeps s0 s) (r : Req) : OKeeps s0 (execHatchBind r s) := by
  unfold execHatchBind
  exact OKeeps.next (State.firmware_keeps h _ _ _ _ fun _ _ k => hatchBindBody_keeps k _)

theorem execHatchGroup_keeps {s0 s : State} (h : Keeps s0 s) (r : Req) : OKeeps s0 (execHatchGroup r s) := by
  unfold execHatchGroup
  exact OKeeps.next (State.firmware_keeps h _ _ _ _ fun _ _ k => hatchGroupBody_keeps k _)

theorem execHatchRestore_keeps {s0 s : State} (h : Keeps s0 s) (r : Req) : OKeeps s0 (execHatchRestore r s) := by
  unfold execHatchRestore
  exact OKeeps.next (State.firmware_keeps h _ _ _ _ fun _ _ k => hatchRestoreBody_keeps k _)

theorem execHatchPulse_keeps {s0 s : State} (h : Keeps s0 s) (r : Req) : OKeeps s0 (execHatchPulse r s) := by
  unfold execHatchPulse
  exact OKeeps.next (State.firmware_keeps h _ _ _ _ fun _ _ k => hatchPulseBody_keeps k _)

theorem execHatchStatus_keeps {s0 s : State} (h : Keeps s0 s) (r : Req) : OKeeps s0 (execHatchStatus r s) := by
  unfold execHatchStatus
  exact OKeeps.next (State.firmware_keeps h _ _ _ _ fun _ _ k => hatchStatusBody_keeps k _)

theorem execTrigInEdge_keeps {s0 s : State} (h : Keeps s0 s) (j : Fin 4) (level : Lvl) : OKeeps s0 (execTrigInEdge j level s) := by
  unfold execTrigInEdge
  repeat' (first
    | with_reducible (first
        | assumption | apply State.syncAll_keeps | apply OKeeps.next | apply OKeeps.ite) | split | dsimp only
    | refine State.setHatch_same ?_ _ rfl | refine Keeps.update ?_ rfl rfl rfl rfl rfl)

theorem execRelayPulse_keeps {s0 s : State} (h : Keeps s0 s) (r : Fin 16) : OKeeps s0 (execRelayPulse r s) := by
  unfold execRelayPulse
  repeat' (first
    | with_reducible (first
        | assumption | apply State.syncAll_keeps | apply Keeps.ite | apply OKeeps.next | apply OKeeps.ite) | split | dsimp only
    | refine State.setHatch_same ?_ _ rfl | refine Keeps.update ?_ rfl rfl rfl rfl rfl)

theorem State.forceOff_keeps {s0 s : State} (h : Keeps s0 s) (key : Nat) (cause : Nat) (src : Half) : Keeps s0 (State.forceOff s key cause src) := by
  unfold State.forceOff
  repeat' (first
    | with_reducible (first
        | assumption | apply State.raise_keeps | apply State.syncAll_keeps | apply State.setLine_keeps | apply State.note_keeps
        | apply Keeps.ite | refine Keeps.foldl (fun _ _ _ => ?_) ?_) | split | dsimp only | refine Keeps.update ?_ rfl rfl rfl rfl rfl)

theorem execStormLimit_keeps {s0 s : State} (h : Keeps s0 s) (line : Half) : OKeeps s0 (execStormLimit line s) := by
  unfold execStormLimit
  repeat' (first
    | with_reducible (first
        | assumption | apply State.forceOff_keeps | apply Keeps.ite | apply OKeeps.next | apply OKeeps.ite) | split | dsimp only
    | refine Keeps.update ?_ rfl rfl rfl rfl rfl)

theorem execRingDetect_keeps {s0 s : State} (h : Keeps s0 s) (line : Half) : OKeeps s0 (execRingDetect line s) := by
  unfold execRingDetect
  repeat' (first
    | with_reducible (first
        | assumption | apply State.forceOff_keeps | apply Keeps.ite | apply OKeeps.next | apply OKeeps.ite) | split | dsimp only
    | refine Keeps.update ?_ rfl rfl rfl rfl rfl)

theorem execNotifyCoalesceEnd_keeps {s0 s : State} (h : Keeps s0 s) (line : Half) : OKeeps s0 (execNotifyCoalesceEnd line s) := by
  unfold execNotifyCoalesceEnd
  repeat' (first
    | with_reducible (first
        | assumption | apply State.setLine_keeps | apply State.note_keeps | apply Keeps.ite | apply OKeeps.next | apply OKeeps.ite)
    | split | dsimp only | refine Keeps.update ?_ rfl rfl rfl rfl rfl)

theorem execEvqLostPost_keeps {s0 s : State} (h : Keeps s0 s)  : OKeeps s0 (execEvqLostPost s) := by
  unfold execEvqLostPost
  repeat' (first
    | with_reducible (first
        | assumption | apply State.note_keeps | apply Keeps.ite | apply OKeeps.next | apply OKeeps.ite) | split | dsimp only
    | refine State.setHatch_same ?_ _ rfl | refine Keeps.update ?_ rfl rfl rfl rfl rfl)

theorem execHaltNReceive_keeps {s0 s : State} (h : Keeps s0 s)  : OKeeps s0 (execHaltNReceive s) := by
  unfold execHaltNReceive
  repeat' (first
    | with_reducible (first
        | assumption | apply State.syncAll_keeps | apply OKeeps.next | apply OKeeps.ite) | dsimp only
    | refine State.setHatch_same ?_ _ rfl | refine Keeps.update ?_ rfl rfl rfl rfl rfl)

theorem execHaltNRelease_keeps {s0 s : State} (h : Keeps s0 s)  : OKeeps s0 (execHaltNRelease s) := by
  unfold execHaltNRelease
  repeat' (first
    | with_reducible (first
        | assumption | apply State.syncAll_keeps | apply OKeeps.next | apply OKeeps.ite) | dsimp only
    | refine State.setHatch_same ?_ _ rfl | refine Keeps.update ?_ rfl rfl rfl rfl rfl)

end Sys2Proof.Machine
end

