-- ==== Sys2Proof/Laws/KeepsTiu.lean ====
section
/-!
SUPPORT. The functions of Tiu.lean keep what `Keeps` says.
-/
namespace Sys2Proof.Machine

-- The case scripts of this file name more tactics than each case needs.
set_option linter.all false

theorem execTiuEdgeStamp_keeps {s0 s : State} (h : Keeps s0 s) (g : GIx) (u : UIx) (stop : Bool) (place : Fin 768) (rising : Bool) (inWindow : Bool) : OKeeps s0 (execTiuEdgeStamp g u stop place rising inWindow s) := by
  unfold execTiuEdgeStamp
  repeat' (first
    | with_reducible (first
        | assumption | apply State.closeTiu_keeps | apply State.setTiu_keeps | apply Keeps.ite | apply OKeeps.next | apply OKeeps.ite)
    | split | dsimp only | refine Keeps.update ?_ rfl rfl rfl rfl rfl)

theorem execTiuGate_keeps {s0 s : State} (h : Keeps s0 s) (g : GIx) (u : UIx) (asserted : Bool) : OKeeps s0 (execTiuGate g u asserted s) := by
  unfold execTiuGate
  repeat' (first
    | with_reducible (first
        | assumption | apply State.closeTiu_keeps | apply State.setTiu_keeps | apply Keeps.ite | apply OKeeps.next | apply OKeeps.ite)
    | split | dsimp only | refine Keeps.update ?_ rfl rfl rfl rfl rfl)

theorem execTiuGateTimeout_keeps {s0 s : State} (h : Keeps s0 s) (g : GIx) (u : UIx) : OKeeps s0 (execTiuGateTimeout g u s) := by
  unfold execTiuGateTimeout
  repeat' (first
    | with_reducible (first
        | assumption | apply State.tiusDone_keeps | apply State.setTiu_keeps | apply Keeps.ite | apply OKeeps.next | apply OKeeps.ite)
    | split | dsimp only | refine Keeps.update ?_ rfl rfl rfl rfl rfl)

theorem execTiuWindowEnd_keeps {s0 s : State} (h : Keeps s0 s) (g : GIx) (u : UIx) : OKeeps s0 (execTiuWindowEnd g u s) := by
  unfold execTiuWindowEnd
  repeat' (first
    | with_reducible (first
        | assumption | apply State.closeTiu_keeps | apply Keeps.ite | apply OKeeps.next | apply OKeeps.ite) | split | dsimp only)

theorem execTiuServiceOverflow_keeps {s0 s : State} (h : Keeps s0 s) (g : GIx) (u : UIx) : OKeeps s0 (execTiuServiceOverflow g u s) := by
  unfold execTiuServiceOverflow
  repeat' (first
    | with_reducible (first
        | assumption | apply State.closeTiu_keeps | apply Keeps.ite | apply OKeeps.next | apply OKeeps.ite) | split | dsimp only)

theorem State.markFallback_keeps {s0 s : State} (h : Keeps s0 s)  : Keeps s0 (State.markFallback s) := by
  unfold State.markFallback
  repeat' (first | with_reducible (first | assumption | apply Keeps.ite) | split | dsimp only | refine Keeps.update ?_ rfl rfl rfl rfl rfl)

theorem execTrefLoss_keeps {s0 s : State} (h : Keeps s0 s)  : OKeeps s0 (execTrefLoss s) := by
  unfold execTrefLoss
  repeat' (first
    | with_reducible (first
        | assumption | apply State.markFallback_keeps | apply State.advise_keeps | apply Keeps.ite | apply OKeeps.next
        | apply OKeeps.ite) | split | dsimp only | refine Keeps.update ?_ rfl rfl rfl rfl rfl)

theorem execTrefReturn_keeps {s0 s : State} (h : Keeps s0 s) (mhz100 : Bool) : OKeeps s0 (execTrefReturn mhz100 s) := by
  unfold execTrefReturn
  repeat' (first
    | with_reducible (first
        | assumption | apply State.markFallback_keeps | apply State.advise_keeps | apply Keeps.ite | apply OKeeps.next
        | apply OKeeps.ite) | split | dsimp only | refine Keeps.update ?_ rfl rfl rfl rfl rfl)

theorem execTuclkWrap_keeps {s0 s : State} (h : Keeps s0 s)  : OKeeps s0 (execTuclkWrap s) := by
  unfold execTuclkWrap
  repeat' (first
    | with_reducible (first
        | assumption | apply OKeeps.next | apply OKeeps.ite) | dsimp only | refine Keeps.update ?_ rfl rfl rfl rfl rfl)

theorem tiuConfigBody_keeps {s0 s : State} (h : Keeps s0 s) (r : Req) : PKeeps s0 (tiuConfigBody s r) := by
  unfold tiuConfigBody
  repeat' (first
    | with_reducible (first
        | assumption | apply guarded_keeps | apply State.preempt_keeps | apply State.setTiu_keeps | apply PKeeps.ite
        | refine Keeps.forAll (fun _ _ _ => ?_) ?_) | dsimp only | with_reducible apply PKeeps.mk
    | refine Keeps.update ?_ rfl rfl rfl rfl rfl)

theorem State.startTiu_keeps {s0 s : State} (h : Keeps s0 s) (u : Nat) (m : TiuMeas) : Keeps s0 (State.startTiu s u m) := by
  unfold State.startTiu
  repeat' (first
    | with_reducible (first
        | assumption | apply State.setTiu_keeps | apply Keeps.ite) | dsimp only | refine Keeps.update ?_ rfl rfl rfl rfl rfl)

theorem tiuStartBody_keeps {s0 s : State} (h : Keeps s0 s) (r : Req) : PKeeps s0 (tiuStartBody s r) := by
  unfold tiuStartBody
  repeat' (first
    | with_reducible (first
        | assumption | apply State.startTiu_keeps | apply guarded_keeps | apply PKeeps.ite | refine Keeps.forAll (fun _ _ _ => ?_) ?_)
    | dsimp only | with_reducible apply PKeeps.mk)

theorem tiuAbortBody_keeps {s0 s : State} (h : Keeps s0 s) (r : Req) : PKeeps s0 (tiuAbortBody s r) := by
  unfold tiuAbortBody
  repeat' (first
    | with_reducible (first
        | assumption | apply guarded_keeps | apply State.closeTiu_keeps | apply Keeps.ite | apply PKeeps.ite
        | refine Keeps.forAll (fun _ _ _ => ?_) ?_) | split | dsimp only | with_reducible apply PKeeps.mk)

theorem tiuStampsBody_keeps {s0 s : State} (h : Keeps s0 s) (r : Req) : PKeeps s0 (tiuStampsBody s r) := by
  unfold tiuStampsBody
  repeat' (first
    | with_reducible (first
        | assumption | apply guarded_keeps | apply PKeeps.ite) | split | dsimp only | with_reducible apply PKeeps.mk
    | refine Keeps.update ?_ rfl rfl rfl rfl rfl)

theorem tiuStatusBody_keeps {s0 s : State} (h : Keeps s0 s) (r : Req) : PKeeps s0 (tiuStatusBody s r) := by
  unfold tiuStatusBody
  repeat' (first
    | with_reducible (first
        | assumption | apply guarded_keeps | apply Keeps.ite | apply PKeeps.ite) | split | dsimp only | with_reducible apply PKeeps.mk)

theorem tiuReadBody_keeps {s0 s : State} (h : Keeps s0 s) (r : Req) : PKeeps s0 (tiuReadBody s r) := by
  unfold tiuReadBody
  repeat' (first
    | with_reducible (first
        | assumption | apply guarded_keeps | apply PKeeps.ite) | dsimp only | with_reducible apply PKeeps.mk)

theorem State.selftestUnit_keeps {s0 : State} {acc : State × MemRec} (h : PKeeps s0 acc) (armed : List Nat) (u : Nat) : PKeeps s0 (State.selftestUnit armed acc u) := by
  obtain ⟨s, acc2⟩ := acc
  have h : Keeps s0 s := h.fst
  unfold State.selftestUnit
  dsimp only [State.fresh, State.choose]
  refine PKeeps.ite (PKeeps.mk h) (PKeeps.mk (Keeps.ite ?_ (State.raise_keeps ?_ _ _ _ _ _)))
  all_goals exact (State.freeService_keeps h (u / 4) [u % 4]).update rfl rfl rfl rfl rfl

theorem State.selftestGather_keeps {s0 : State} {acc : State × List (Nat × MemRec)} (h : PKeeps s0 acc) (armed : List Nat) (pg : Nat × Nat) : PKeeps s0 (State.selftestGather armed acc pg) := by
  obtain ⟨s, acc2⟩ := acc
  have h : Keeps s0 s := h.fst
  unfold State.selftestGather
  split
  rename_i e
  exact PKeeps.mk (PKeeps.eq e (PKeeps.foldl (fun _ _ k => State.selftestUnit_keeps k armed _) (PKeeps.mk h)))

theorem State.selftestsDone_keeps {s0 s : State} (h : Keeps s0 s)  : Keeps s0 (State.selftestsDone s) := by
  unfold State.selftestsDone
  repeat' (first
    | with_reducible (first
        | assumption | apply State.selftestGather_keeps | apply State.respond_keeps | apply Keeps.ite
        | refine Keeps.forAll (fun _ _ _ => ?_) ?_ | refine Keeps.foldl (fun _ _ _ => ?_) ?_ | refine PKeeps.foldl (fun _ _ _ => ?_) ?_
        | apply PKeeps.ite | apply PKeeps.fst) | refine PKeeps.eq ‹_ = (_, _)› ?_ | split | dsimp only | with_reducible apply PKeeps.mk
    | refine Keeps.update ?_ rfl rfl rfl rfl rfl)

theorem tiuSelftestBody_keeps {s0 s : State} (h : Keeps s0 s) (r : Req) : PKeeps s0 (tiuSelftestBody s r) := by
  unfold tiuSelftestBody
  repeat' (first
    | with_reducible (first
        | assumption | apply State.idle_keeps | apply State.selftestGather_keeps | apply guarded_keeps | apply State.setTiu_keeps
        | apply State.fresh_keeps | apply Keeps.ite | apply PKeeps.ite | refine Keeps.forAll (fun _ _ _ => ?_) ?_
        | refine Keeps.foldl (fun _ _ _ => ?_) ?_ | refine PKeeps.foldl (fun _ _ _ => ?_) ?_ | apply PKeeps.fst)
    | refine PKeeps.eq ‹_ = (_, _)› ?_ | dsimp only [State.fresh, State.choose] | split | with_reducible apply PKeeps.mk
    | refine Keeps.update ?_ rfl rfl rfl rfl rfl)

theorem execTiuConfig_keeps {s0 s : State} (h : Keeps s0 s) (r : Req) : OKeeps s0 (execTiuConfig r s) := by
  unfold execTiuConfig
  exact OKeeps.next (State.firmware_keeps h _ _ _ _ fun _ _ k => tiuConfigBody_keeps k _)

theorem execTiuStart_keeps {s0 s : State} (h : Keeps s0 s) (r : Req) : OKeeps s0 (execTiuStart r s) := by
  unfold execTiuStart
  exact OKeeps.next (State.firmware_keeps h _ _ _ _ fun _ _ k => tiuStartBody_keeps k _)

theorem execTiuAbort_keeps {s0 s : State} (h : Keeps s0 s) (r : Req) : OKeeps s0 (execTiuAbort r s) := by
  unfold execTiuAbort
  exact OKeeps.next (State.firmware_keeps h _ _ _ _ fun _ _ k => tiuAbortBody_keeps k _)

theorem execTiuStamps_keeps {s0 s : State} (h : Keeps s0 s) (r : Req) : OKeeps s0 (execTiuStamps r s) := by
  unfold execTiuStamps
  exact OKeeps.next (State.firmware_keeps h _ _ _ _ fun _ _ k => tiuStampsBody_keeps k _)

theorem execTiuStatus_keeps {s0 s : State} (h : Keeps s0 s) (r : Req) : OKeeps s0 (execTiuStatus r s) := by
  unfold execTiuStatus
  exact OKeeps.next (State.firmware_keeps h _ _ _ _ fun _ _ k => tiuStatusBody_keeps k _)

theorem execTiuSelftest_keeps {s0 s : State} (h : Keeps s0 s) (r : Req) : OKeeps s0 (execTiuSelftest r s) := by
  unfold execTiuSelftest
  exact OKeeps.next (State.firmware_keeps h _ _ _ _ fun _ _ k => tiuSelftestBody_keeps k _)

theorem execTiuRead_keeps {s0 s : State} (h : Keeps s0 s) (r : Req) : OKeeps s0 (execTiuRead r s) := by
  unfold execTiuRead
  exact OKeeps.next (State.firmware_keeps h _ _ _ _ fun _ _ k => tiuReadBody_keeps k _)

end Sys2Proof.Machine
end

