-- ==== Sys2Proof/Laws/KeepsCap.lean ====
section
/-!
SUPPORT. The functions of Cap.lean keep what `Keeps` says.
-/
namespace Sys2Proof.Machine

-- The case scripts of this file name more tactics than each case needs.
set_option linter.all false

theorem capConfigBody_keeps {s0 s : State} (h : Keeps s0 s) (r : Req) : PKeeps s0 (capConfigBody s r) := by
  unfold capConfigBody
  repeat' (first
    | with_reducible (first
        | assumption | apply guarded_keeps | apply State.preempt_keeps | apply State.setDig_keeps | apply Keeps.ite | apply PKeeps.ite
        | refine Keeps.forAll (fun _ _ _ => ?_) ?_) | split | dsimp only | with_reducible apply PKeeps.mk)

theorem capLimitsBody_keeps {s0 s : State} (h : Keeps s0 s) (r : Req) : PKeeps s0 (capLimitsBody s r) := by
  unfold capLimitsBody
  repeat' (first
    | with_reducible (first
        | assumption | apply guarded_keeps | apply State.preempt_keeps | apply State.setDig_keeps | apply PKeeps.ite
        | refine Keeps.forAll (fun _ _ _ => ?_) ?_) | dsimp only | with_reducible apply PKeeps.mk
    | refine Keeps.update ?_ rfl rfl rfl rfl rfl)

theorem capArmBody_keeps {s0 s : State} (h : Keeps s0 s) (r : Req) : PKeeps s0 (capArmBody s r) := by
  unfold capArmBody
  repeat' (first
    | with_reducible (first
        | assumption | apply guarded_keeps | apply State.preempt_keeps | apply State.setDig_keeps | apply PKeeps.ite
        | refine Keeps.forAll (fun _ _ _ => ?_) ?_) | split | dsimp only | with_reducible apply PKeeps.mk
    | refine Keeps.update ?_ rfl rfl rfl rfl rfl)

theorem capForceBody_keeps {s0 s : State} (h : Keeps s0 s) (r : Req) : PKeeps s0 (capForceBody s r) := by
  unfold capForceBody
  repeat' (first
    | with_reducible (first
        | assumption | apply guarded_keeps | apply State.registerTrigger_keeps | apply State.fresh_keeps | apply PKeeps.ite
        | refine Keeps.forAll (fun _ _ _ => ?_) ?_ | refine Keeps.foldl (fun _ _ _ => ?_) ?_) | dsimp only [State.fresh, State.choose]
    | split | with_reducible apply PKeeps.mk | refine Keeps.update ?_ rfl rfl rfl rfl rfl)

theorem capAbortBody_keeps {s0 s : State} (h : Keeps s0 s) (r : Req) : PKeeps s0 (capAbortBody s r) := by
  unfold capAbortBody
  repeat' (first
    | with_reducible (first
        | assumption | apply guarded_keeps | apply State.endDig_keeps | apply PKeeps.ite | refine Keeps.forAll (fun _ _ _ => ?_) ?_)
    | dsimp only | with_reducible apply PKeeps.mk)

theorem capStatusBody_keeps {s0 s : State} (h : Keeps s0 s) (r : Req) : PKeeps s0 (capStatusBody s r) := by
  unfold capStatusBody
  repeat' (first
    | with_reducible (first
        | assumption | apply guarded_keeps | apply PKeeps.ite) | dsimp only | with_reducible apply PKeeps.mk)

theorem capHeaderBody_keeps {s0 s : State} (h : Keeps s0 s) (r : Req) : PKeeps s0 (capHeaderBody s r) := by
  unfold capHeaderBody
  repeat' (first
    | with_reducible (first
        | assumption | apply guarded_keeps | apply PKeeps.ite) | split | dsimp only | with_reducible apply PKeeps.mk
    | refine Keeps.update ?_ rfl rfl rfl rfl rfl)

theorem capReadBody_keeps {s0 s : State} (h : Keeps s0 s) (r : Req) : PKeeps s0 (capReadBody s r) := by
  unfold capReadBody
  repeat' (first
    | with_reducible (first
        | assumption | apply guarded_keeps | apply PKeeps.ite) | split | dsimp only | with_reducible apply PKeeps.mk
    | refine Keeps.update ?_ rfl rfl rfl rfl rfl)

theorem capReadCfgBody_keeps {s0 s : State} (h : Keeps s0 s) (r : Req) : PKeeps s0 (capReadCfgBody s r) := by
  unfold capReadCfgBody
  repeat' (first
    | with_reducible (first
        | assumption | apply guarded_keeps | apply PKeeps.ite) | dsimp only | with_reducible apply PKeeps.mk)

theorem execCapConfig_keeps {s0 s : State} (h : Keeps s0 s) (r : Req) : OKeeps s0 (execCapConfig r s) := by
  unfold execCapConfig
  exact OKeeps.next (State.firmware_keeps h _ _ _ _ fun _ _ k => capConfigBody_keeps k _)

theorem execCapLimits_keeps {s0 s : State} (h : Keeps s0 s) (r : Req) : OKeeps s0 (execCapLimits r s) := by
  unfold execCapLimits
  exact OKeeps.next (State.firmware_keeps h _ _ _ _ fun _ _ k => capLimitsBody_keeps k _)

theorem execCapArm_keeps {s0 s : State} (h : Keeps s0 s) (r : Req) : OKeeps s0 (execCapArm r s) := by
  unfold execCapArm
  exact OKeeps.next (State.firmware_keeps h _ _ _ _ fun _ _ k => capArmBody_keeps k _)

theorem execCapForce_keeps {s0 s : State} (h : Keeps s0 s) (r : Req) : OKeeps s0 (execCapForce r s) := by
  unfold execCapForce
  exact OKeeps.next (State.firmware_keeps h _ _ _ _ fun _ _ k => capForceBody_keeps k _)

theorem execCapAbort_keeps {s0 s : State} (h : Keeps s0 s) (r : Req) : OKeeps s0 (execCapAbort r s) := by
  unfold execCapAbort
  exact OKeeps.next (State.firmware_keeps h _ _ _ _ fun _ _ k => capAbortBody_keeps k _)

theorem execCapStatus_keeps {s0 s : State} (h : Keeps s0 s) (r : Req) : OKeeps s0 (execCapStatus r s) := by
  unfold execCapStatus
  exact OKeeps.next (State.firmware_keeps h _ _ _ _ fun _ _ k => capStatusBody_keeps k _)

theorem execCapHeader_keeps {s0 s : State} (h : Keeps s0 s) (r : Req) : OKeeps s0 (execCapHeader r s) := by
  unfold execCapHeader
  exact OKeeps.next (State.firmware_keeps h _ _ _ _ fun _ _ k => capHeaderBody_keeps k _)

theorem execCapRead_keeps {s0 s : State} (h : Keeps s0 s) (r : Req) : OKeeps s0 (execCapRead r s) := by
  unfold execCapRead
  exact OKeeps.next (State.firmware_keeps h _ _ _ _ fun _ _ k => capReadBody_keeps k _)

theorem execCapReadCfg_keeps {s0 s : State} (h : Keeps s0 s) (r : Req) : OKeeps s0 (execCapReadCfg r s) := by
  unfold execCapReadCfg
  exact OKeeps.next (State.firmware_keeps h _ _ _ _ fun _ _ k => capReadCfgBody_keeps k _)

theorem execCapTrigger_keeps {s0 s : State} (h : Keeps s0 s) (g : GIx) (d : Two) (fire : CapFire) (place : Nat) : OKeeps s0 (execCapTrigger g d fire place s) := by
  unfold execCapTrigger
  repeat' (first
    | with_reducible (first
        | assumption | apply State.idle_keeps | apply State.registerTrigger_keeps | apply State.samplesTaken_keeps
        | apply State.setDig_keeps | apply Keeps.ite | apply OKeeps.next | apply OKeeps.ite) | split | dsimp only
    | refine Keeps.update ?_ rfl rfl rfl rfl rfl)
  all_goals (try assumption)

theorem execCapArbitrationEnd_keeps {s0 s : State} (h : Keeps s0 s) (g : GIx) (d : Two) : OKeeps s0 (execCapArbitrationEnd g d s) := by
  unfold execCapArbitrationEnd
  repeat' (first
    | with_reducible (first
        | assumption | apply State.setDig_keeps | apply OKeeps.next | apply OKeeps.ite | refine Keeps.forAll (fun _ _ _ => ?_) ?_)
    | split | dsimp only | refine Keeps.update ?_ rfl rfl rfl rfl rfl)

theorem execCapItemWrite_keeps {s0 s : State} (h : Keeps s0 s) (g : GIx) (d : Two) (samples : List Int) (drained : Nat) : OKeeps s0 (execCapItemWrite g d samples drained s) := by
  unfold execCapItemWrite
  extract_lets cs x
  have flow : ∀ (u : State) (a b : CapArm), Keeps s0 u → Keeps s0 { u with dram := a.flowItem b u.dram } := by
    intro u a b k
    refine k.updateDram rfl rfl rfl rfl rfl fun w => ?_
    unfold CapArm.flowItem CapArm.flow
    dsimp only
    split <;> exact Mem.wf_writeAll _ _ _ w
  refine OKeeps.ite (OKeeps.next h) ?_
  split
  · refine OKeeps.ite (OKeeps.next (State.samplesTaken_keeps h _ _ _)) (OKeeps.ite (OKeeps.next h) ?_)
    refine OKeeps.next (State.samplesTaken_keeps ?_ _ _ _)
    split
    · exact flow _ _ _ (State.setDig_keeps h _ _ _)
    · exact State.setDig_keeps h _ _ _
  · exact OKeeps.next (State.samplesTaken_keeps h _ _ _)

theorem execCapRecordEnd_keeps {s0 s : State} (h : Keeps s0 s) (g : GIx) (d : Two) : OKeeps s0 (execCapRecordEnd g d s) := by
  unfold execCapRecordEnd
  repeat' (first
    | with_reducible (first
        | assumption | apply State.closeRecord_keeps | apply Keeps.ite | apply OKeeps.next | apply OKeeps.ite) | split | dsimp only
    | refine Keeps.update ?_ rfl rfl rfl rfl rfl)

theorem execCapHoldoffEnd_keeps {s0 s : State} (h : Keeps s0 s) (g : GIx) (d : Two) : OKeeps s0 (execCapHoldoffEnd g d s) := by
  unfold execCapHoldoffEnd
  repeat' (first
    | with_reducible (first
        | assumption | apply State.armDig_keeps | apply Keeps.ite | apply OKeeps.next | apply OKeeps.ite) | split | dsimp only
    | refine Keeps.update ?_ rfl rfl rfl rfl rfl)

theorem execCapConverterReady_keeps {s0 s : State} (h : Keeps s0 s) (g : GIx) (d : Two) : OKeeps s0 (execCapConverterReady g d s) := by
  unfold execCapConverterReady
  repeat' (first
    | with_reducible (first
        | assumption | apply State.setDig_keeps | apply State.respond_keeps | apply Keeps.ite | apply OKeeps.next | apply OKeeps.ite
        | refine Keeps.forAll (fun _ _ _ => ?_) ?_) | split | dsimp only | refine Keeps.update ?_ rfl rfl rfl rfl rfl)

end Sys2Proof.Machine
end

