-- ==== Sys2Proof/Laws/KeepsAmp.lean ====
section
/-!
SUPPORT. The functions of Amp.lean keep what `Keeps` says.
-/
namespace Sys2Proof.Machine

-- The case scripts of this file name more tactics than each case needs.
set_option linter.all false

theorem State.countRefusal_keeps {s0 s : State} (h : Keeps s0 s)  : Keeps s0 (State.countRefusal s) := by
  unfold State.countRefusal
  repeat' (first | with_reducible (first | assumption) | dsimp only | refine Keeps.update ?_ rfl rfl rfl rfl rfl | refine State.setAmp_keeps ?_ _ rfl)

theorem ampGuard_keeps {s0 s : State} (h : Keeps s0 s) (st : Half) {go : Unit → State × Act} (hg : PKeeps s0 (go ())) :
    PKeeps s0 (ampGuard s st go) := by
  unfold ampGuard
  exact PKeeps.ite (PKeeps.mk (State.countRefusal_keeps h)) hg

theorem ampEnter_keeps {s0 s : State} (h : Keeps s0 s) (r : Req) (len : Nat) (legalOnly : Bool) {go : Unit → State × Act}
    (hg : PKeeps s0 (go ())) : PKeeps s0 (ampEnter s r len legalOnly go) := by
  unfold ampEnter
  exact PKeeps.ite (PKeeps.mk h) (PKeeps.ite (PKeeps.mk h) (ampGuard_keeps h _ hg))

theorem ampIdentBody_keeps {s0 s : State} (h : Keeps s0 s) (r : Req) : PKeeps s0 (ampIdentBody s r) := by
  unfold ampIdentBody
  repeat' (first
    | with_reducible (first
        | assumption | apply ampEnter_keeps | apply ampGuard_keeps | apply PKeeps.ite) | dsimp only | with_reducible apply PKeeps.mk)

theorem State.leaveDensity_keeps {s0 s : State} (h : Keeps s0 s) (u : Nat) : Keeps s0 (State.leaveDensity s u) := by
  unfold State.leaveDensity
  repeat' (first
    | with_reducible (first
        | assumption | apply State.setBridge_keeps | apply Keeps.ite) | split | dsimp only | refine Keeps.update ?_ rfl rfl rfl rfl rfl)

theorem State.enqueueSelect_keeps {s0 s : State} (h : Keeps s0 s) (r : Req) (t : Tgt) (src : Nat) : PKeeps s0 (State.enqueueSelect s r t src) := by
  unfold State.enqueueSelect
  repeat' (first
    | with_reducible (first
        | assumption | apply State.leaveDensity_keeps | apply State.setChan_keeps | apply Keeps.ite | apply PKeeps.ite
        | refine Keeps.forAll (fun _ _ _ => ?_) ?_) | split | dsimp only | with_reducible apply PKeeps.mk
    | refine Keeps.update ?_ rfl rfl rfl rfl rfl)

theorem ampConnectBody_keeps {s0 s : State} (h : Keeps s0 s) (r : Req) : PKeeps s0 (ampConnectBody s r) := by
  unfold ampConnectBody
  repeat' (first
    | with_reducible (first
        | assumption | apply State.enqueueSelect_keeps | apply ampEnter_keeps | apply ampGuard_keeps | apply PKeeps.ite) | dsimp only
    | with_reducible apply PKeeps.mk)

theorem ampDisconnectBody_keeps {s0 s : State} (h : Keeps s0 s) (r : Req) : PKeeps s0 (ampDisconnectBody s r) := by
  unfold ampDisconnectBody
  repeat' (first
    | with_reducible (first
        | assumption | apply State.enqueueSelect_keeps | apply ampEnter_keeps | apply ampGuard_keeps | apply PKeeps.ite) | dsimp only
    | with_reducible apply PKeeps.mk)

theorem ampConvertBody_keeps {s0 s : State} (h : Keeps s0 s) (r : Req) : PKeeps s0 (ampConvertBody s r) := by
  unfold ampConvertBody
  repeat' (first
    | with_reducible (first
        | assumption | apply State.leaveDensity_keeps | apply ampEnter_keeps | apply ampGuard_keeps | apply State.setChan_keeps
        | apply Keeps.ite | apply PKeeps.ite | refine Keeps.forAll (fun _ _ _ => ?_) ?_) | split | dsimp only
    | with_reducible apply PKeeps.mk | refine Keeps.update ?_ rfl rfl rfl rfl rfl)

theorem ampBridgeBody_keeps {s0 s : State} (h : Keeps s0 s) (r : Req) : PKeeps s0 (ampBridgeBody s r) := by
  unfold ampBridgeBody
  repeat' (first
    | with_reducible (first
        | assumption | apply ampEnter_keeps | apply ampGuard_keeps | apply State.flagRuns_keeps | apply State.setBridge_keeps
        | apply Keeps.ite | apply PKeeps.ite | refine Keeps.forAll (fun _ _ _ => ?_) ?_) | split | dsimp only
    | with_reducible apply PKeeps.mk)

theorem ampBridgeStatusBody_keeps {s0 s : State} (h : Keeps s0 s) (r : Req) : PKeeps s0 (ampBridgeStatusBody s r) := by
  unfold ampBridgeStatusBody
  repeat' (first
    | with_reducible (first
        | assumption | apply ampEnter_keeps | apply ampGuard_keeps | apply PKeeps.ite) | dsimp only | with_reducible apply PKeeps.mk)

theorem ampStatusBody_keeps {s0 s : State} (h : Keeps s0 s) (r : Req) : PKeeps s0 (ampStatusBody s r) := by
  unfold ampStatusBody
  repeat' (first
    | with_reducible (first
        | assumption | apply ampEnter_keeps | apply PKeeps.ite) | dsimp only | with_reducible apply PKeeps.mk)

theorem ampRefcheckBody_keeps {s0 s : State} (h : Keeps s0 s) (r : Req) : PKeeps s0 (ampRefcheckBody s r) := by
  unfold ampRefcheckBody
  repeat' (first
    | with_reducible (first
        | assumption | apply ampEnter_keeps | apply ampGuard_keeps | apply State.setChan_keeps | apply Keeps.ite | apply PKeeps.ite
        | refine Keeps.forAll (fun _ _ _ => ?_) ?_) | split | dsimp only | with_reducible apply PKeeps.mk
    | refine Keeps.update ?_ rfl rfl rfl rfl rfl)

theorem execAmpIdent_keeps {s0 s : State} (h : Keeps s0 s) (r : Req) : OKeeps s0 (execAmpIdent r s) := by
  unfold execAmpIdent
  exact OKeeps.next (State.firmware_keeps h _ _ _ _ fun _ _ k => ampIdentBody_keeps k _)

theorem execAmpConnect_keeps {s0 s : State} (h : Keeps s0 s) (r : Req) : OKeeps s0 (execAmpConnect r s) := by
  unfold execAmpConnect
  repeat' (first
    | with_reducible (first
        | assumption | apply ampConnectBody_keeps | refine State.firmware_keeps ?_ _ _ _ _ (fun _ _ _ => ?_)
        | apply State.ampNext_keeps | apply OKeeps.next | apply OKeeps.ite) | dsimp only)

theorem execAmpDisconnect_keeps {s0 s : State} (h : Keeps s0 s) (r : Req) : OKeeps s0 (execAmpDisconnect r s) := by
  unfold execAmpDisconnect
  repeat' (first
    | with_reducible (first
        | assumption | apply ampDisconnectBody_keeps | refine State.firmware_keeps ?_ _ _ _ _ (fun _ _ _ => ?_)
        | apply State.ampNext_keeps | apply OKeeps.next | apply OKeeps.ite) | dsimp only)

theorem execAmpConvert_keeps {s0 s : State} (h : Keeps s0 s) (r : Req) : OKeeps s0 (execAmpConvert r s) := by
  unfold execAmpConvert
  repeat' (first
    | with_reducible (first
        | assumption | apply ampConvertBody_keeps | refine State.firmware_keeps ?_ _ _ _ _ (fun _ _ _ => ?_)
        | apply State.convertsDone_keeps | apply State.ampNext_keeps | apply OKeeps.next | apply OKeeps.ite) | dsimp only)

theorem execAmpBridge_keeps {s0 s : State} (h : Keeps s0 s) (r : Req) : OKeeps s0 (execAmpBridge r s) := by
  unfold execAmpBridge
  repeat' (first
    | with_reducible (first
        | assumption | apply ampBridgeBody_keeps | refine State.firmware_keeps ?_ _ _ _ _ (fun _ _ _ => ?_) | apply State.ampNext_keeps
        | apply OKeeps.next | apply OKeeps.ite) | dsimp only)

theorem execAmpBridgeStatus_keeps {s0 s : State} (h : Keeps s0 s) (r : Req) : OKeeps s0 (execAmpBridgeStatus r s) := by
  unfold execAmpBridgeStatus
  exact OKeeps.next (State.firmware_keeps h _ _ _ _ fun _ _ k => ampBridgeStatusBody_keeps k _)

theorem execAmpStatus_keeps {s0 s : State} (h : Keeps s0 s) (r : Req) : OKeeps s0 (execAmpStatus r s) := by
  unfold execAmpStatus
  exact OKeeps.next (State.firmware_keeps h _ _ _ _ fun _ _ k => ampStatusBody_keeps k _)

theorem execAmpRefcheck_keeps {s0 s : State} (h : Keeps s0 s) (r : Req) : OKeeps s0 (execAmpRefcheck r s) := by
  unfold execAmpRefcheck
  exact OKeeps.next (State.firmware_keeps h _ _ _ _ fun _ _ k => ampRefcheckBody_keeps k _)

theorem execAmpTrigger_keeps {s0 s : State} (h : Keeps s0 s) (t : AmpTrig) : OKeeps s0 (execAmpTrigger t s) := by
  unfold execAmpTrigger
  repeat' (first
    | with_reducible (first
        | assumption | apply State.startConversions_keeps | apply State.setChan_keeps | apply Keeps.ite | apply OKeeps.next
        | apply OKeeps.ite | refine Keeps.forAll (fun _ _ _ => ?_) ?_) | split | dsimp only | refine Keeps.update ?_ rfl rfl rfl rfl rfl)

theorem execAmpTriggerTimeout_keeps {s0 s : State} (h : Keeps s0 s) (g : GIx) (c : Two) : OKeeps s0 (execAmpTriggerTimeout g c s) := by
  unfold execAmpTriggerTimeout
  repeat' (first
    | with_reducible (first
        | assumption | apply State.ampNext_keeps | apply State.setChan_keeps | apply State.respond_keeps | apply Keeps.ite
        | apply OKeeps.next | apply OKeeps.ite | refine Keeps.forAll (fun _ _ _ => ?_) ?_) | split | dsimp only
    | refine Keeps.update ?_ rfl rfl rfl rfl rfl)

theorem execAmpConversionEnd_keeps {s0 s : State} (h : Keeps s0 s) (g : GIx) (c : Two) (code : Int) (inj : Int) : OKeeps s0 (execAmpConversionEnd g c code inj s) := by
  unfold execAmpConversionEnd
  repeat' (first
    | with_reducible (first
        | assumption | apply State.ampFinish_keeps | apply State.ampNext_keeps | apply State.putComp_keeps | apply State.setChan_keeps
        | apply Keeps.ite | apply OKeeps.next | apply OKeeps.ite) | split | dsimp only | refine Keeps.update ?_ rfl rfl rfl rfl rfl)

theorem execAmpAnswerPost_keeps {s0 s : State} (h : Keeps s0 s) (g : GIx) (c : Two) : OKeeps s0 (execAmpAnswerPost g c s) := by
  unfold execAmpAnswerPost
  repeat' (first | with_reducible (first | assumption | apply State.ampPost_keeps | apply OKeeps.next | apply OKeeps.ite) | dsimp only)

theorem execClaimGrant_keeps {s0 s : State} (h : Keeps s0 s) (g : GIx) (c : Two) : OKeeps s0 (execClaimGrant g c s) := by
  unfold execClaimGrant
  repeat' (first
    | with_reducible (first
        | assumption | apply State.countRefusal_keeps | apply State.ampNext_keeps | apply State.dequeue_keeps
        | apply State.select_keeps | apply State.respondFrom_keeps | apply Keeps.ite | apply OKeeps.next | apply OKeeps.ite
        | refine Keeps.forAll (fun _ _ _ => ?_) ?_) | split | dsimp only | refine Keeps.update ?_ rfl rfl rfl rfl rfl)

theorem execSpanPhaseEnd_keeps {s0 s : State} (h : Keeps s0 s) (g : GIx) : OKeeps s0 (execSpanPhaseEnd g s) := by
  unfold execSpanPhaseEnd
  repeat' (first
    | with_reducible (first
        | assumption | apply State.spansDone_keeps | apply State.setBridge_keeps | apply Keeps.ite | apply OKeeps.next
        | apply OKeeps.ite) | split | dsimp only | refine Keeps.update ?_ rfl rfl rfl rfl rfl)

theorem execExcOutOfRange_keeps {s0 s : State} (h : Keeps s0 s) (g : GIx) (uv : Int) : OKeeps s0 (execExcOutOfRange g uv s) := by
  unfold execExcOutOfRange
  repeat' (first
    | with_reducible (first
        | assumption | apply State.flagRuns_keeps | apply State.setBridge_keeps | apply Keeps.ite | apply OKeeps.next
        | apply OKeeps.ite) | split | dsimp only)

theorem execClip_keeps {s0 s : State} (h : Keeps s0 s) (g : GIx) (uv : Int) : OKeeps s0 (execClip g uv s) := by
  unfold execClip
  repeat' (first
    | with_reducible (first
        | assumption | apply State.flagRuns_keeps | apply State.setBridge_keeps | apply Keeps.ite | apply OKeeps.next
        | apply OKeeps.ite) | split | dsimp only)

theorem State.refsLost_keeps {s0 s : State} (h : Keeps s0 s) (m : Nat) : Keeps s0 (State.refsLost s m) := by
  unfold State.refsLost
  repeat' (first
    | with_reducible (first
        | assumption | apply State.await_keeps) | split | dsimp only | refine Keeps.update ?_ rfl rfl rfl rfl rfl)

theorem execModclkLockLoss_keeps {s0 s : State} (h : Keeps s0 s)  : OKeeps s0 (execModclkLockLoss s) := by
  unfold execModclkLockLoss
  repeat' (first
    | with_reducible (first
        | assumption | apply State.refsLost_keeps | apply State.refsDone_keeps | apply State.ampAbort_keeps
        | apply State.setBridge_keeps | apply State.setChan_keeps | refine State.setAmp_keeps ?_ _ rfl | apply State.advise_keeps
        | apply Keeps.ite | apply OKeeps.next | apply OKeeps.ite | refine Keeps.forAll (fun _ _ _ => ?_) ?_) | split | dsimp only
    | refine Keeps.update ?_ rfl rfl rfl rfl rfl)

theorem execModclkLockReturn_keeps {s0 s : State} (h : Keeps s0 s)  : OKeeps s0 (execModclkLockReturn s) := by
  unfold execModclkLockReturn
  repeat' (first
    | with_reducible (first
        | assumption | apply State.ampNext_keeps | apply Keeps.ite | apply OKeeps.next | apply OKeeps.ite)
    | split | dsimp only | refine Keeps.update ?_ rfl rfl rfl rfl rfl
    | refine State.setAmp_keeps ?_ _ rfl)

theorem State.ampRailLost_keeps {s0 s : State} (h : Keeps s0 s)  : Keeps s0 (State.ampRailLost s) := by
  unfold State.ampRailLost
  repeat' (first
    | with_reducible (first
        | assumption | apply State.ampDrop_keeps | apply State.ampReset_keeps | apply State.endReservation_keeps
        | refine State.setAmp_keeps ?_ _ rfl | apply State.advise_keeps | apply Keeps.ite) | split | dsimp only
    | refine Keeps.update ?_ rfl rfl rfl rfl rfl)

theorem execAmpRailLoss_keeps {s0 s : State} (h : Keeps s0 s)  : OKeeps s0 (execAmpRailLoss s) := by
  unfold execAmpRailLoss
  repeat' (first | with_reducible (first | assumption | apply State.ampRailLost_keeps | apply OKeeps.next | apply OKeeps.ite) | dsimp only)

theorem execAmpouleStart_keeps {s0 s : State} (h : Keeps s0 s) (romOk : Bool) : OKeeps s0 (execAmpouleStart romOk s) := by
  unfold execAmpouleStart
  repeat' (first
    | with_reducible (first
        | assumption | apply State.fresh_keeps | apply Keeps.ite | apply OKeeps.next | apply OKeeps.ite)
    | dsimp only [State.fresh, State.choose] | split | refine Keeps.update ?_ rfl rfl rfl rfl rfl
    | refine State.setAmp_keeps ?_ _ rfl)

theorem execRefpCheckDue_keeps {s0 s : State} (h : Keeps s0 s) (g : GIx) (c : Two) : OKeeps s0 (execRefpCheckDue g c s) := by
  unfold execRefpCheckDue
  repeat' (first
    | with_reducible (first
        | assumption | apply State.ampChecks_keeps | apply State.setChan_keeps | apply Keeps.ite | apply OKeeps.next | apply OKeeps.ite)
    | split | dsimp only | refine Keeps.update ?_ rfl rfl rfl rfl rfl)

theorem execRefpCheckEnd_keeps {s0 s : State} (h : Keeps s0 s) (g : GIx) (c : Two) (uv : Int) (residuals : List Int) : OKeeps s0 (execRefpCheckEnd g c uv residuals s) := by
  unfold execRefpCheckEnd
  repeat' (first
    | with_reducible (first
        | assumption | apply State.refsDone_keeps | apply State.ampNext_keeps | apply State.setComp_keeps
        | apply State.closeSheet_keeps | apply State.setChan_keeps | apply State.advise_keeps | apply Keeps.ite | apply OKeeps.next
        | apply OKeeps.ite | refine Keeps.foldl (fun _ _ _ => ?_) ?_) | split | dsimp only | refine Keeps.update ?_ rfl rfl rfl rfl rfl)

theorem execSelfTraffic_keeps {s0 s : State} (h : Keeps s0 s) (g : GIx) (c : Two) (code : Int) (inj : Int) : OKeeps s0 (execSelfTraffic g c code inj s) := by
  unfold execSelfTraffic
  repeat' (first
    | with_reducible (first
        | assumption | apply State.idle_keeps | apply State.putComp_keeps | apply State.setChan_keeps | apply State.fresh_keeps
        | apply Keeps.ite | apply OKeeps.next | apply OKeeps.ite) | dsimp only [State.fresh, State.choose] | split
    | refine Keeps.update ?_ rfl rfl rfl rfl rfl)

theorem execCodeDensityDue_keeps {s0 s : State} (h : Keeps s0 s) (g : GIx) : OKeeps s0 (execCodeDensityDue g s) := by
  unfold execCodeDensityDue
  repeat' (first
    | with_reducible (first
        | assumption | apply State.setBridge_keeps | apply State.setChan_keeps | apply Keeps.ite | apply OKeeps.next | apply OKeeps.ite)
    | split | dsimp only | refine Keeps.update ?_ rfl rfl rfl rfl rfl)

theorem execCodeDensityEnd_keeps {s0 s : State} (h : Keeps s0 s) (g : GIx) (inlPpb : Nat) : OKeeps s0 (execCodeDensityEnd g inlPpb s) := by
  unfold execCodeDensityEnd
  repeat' (first
    | with_reducible (first
        | assumption | apply State.ampChecks_keeps | apply State.setBridge_keeps | apply State.advise_keeps | apply Keeps.ite
        | apply OKeeps.next | apply OKeeps.ite) | split | dsimp only | refine Keeps.update ?_ rfl rfl rfl rfl rfl)

theorem execCalBlockStale_keeps {s0 s : State} (h : Keeps s0 s) (g : GIx) (c : Two) (range : Fin 4) (offset : Bool) : OKeeps s0 (execCalBlockStale g c range offset s) := by
  unfold execCalBlockStale
  repeat' (first
    | with_reducible (first
        | assumption | apply State.setComp_keeps | apply Keeps.ite | apply OKeeps.next | apply OKeeps.ite) | dsimp only
    | refine Keeps.update ?_ rfl rfl rfl rfl rfl)

theorem execCompensationUpdate_keeps {s0 s : State} (h : Keeps s0 s) (g : GIx) (c : Two) (range : Fin 4) : OKeeps s0 (execCompensationUpdate g c range s) := by
  unfold execCompensationUpdate
  repeat' (first
    | with_reducible (first
        | assumption | apply State.applyComp_keeps | apply Keeps.ite | apply OKeeps.next | apply OKeeps.ite) | split | dsimp only)

end Sys2Proof.Machine
end

