-- ==== Sys2Proof/Laws/KeepsSeal.lean ====
section
/-!
SUPPORT. The functions of Seal.lean keep what `Keeps` says.
-/
namespace Sys2Proof.Machine

-- The case scripts of this file name more tactics than each case needs.
set_option linter.all false

theorem sat32_up (n : Nat) : n ≤ 0xFFFF_FFFF → n ≤ sat32 n ∧ sat32 n ≤ 0xFFFF_FFFF := by
  unfold sat32 satAdd; omega

theorem ampSheetCloseBody_keeps {s0 s : State} (h : Keeps s0 s) (r : Req) : PKeeps s0 (ampSheetCloseBody s r) := by
  unfold ampSheetCloseBody
  repeat' (first
    | with_reducible (first
        | assumption | apply ampEnter_keeps | apply ampGuard_keeps | apply State.closeSheet_keeps | apply PKeeps.ite) | split
    | dsimp only | with_reducible apply PKeeps.mk | refine Keeps.update ?_ rfl rfl rfl rfl rfl)

theorem ampSheetReadBody_keeps {s0 s : State} (h : Keeps s0 s) (r : Req) : PKeeps s0 (ampSheetReadBody s r) := by
  unfold ampSheetReadBody
  repeat' (first
    | with_reducible (first
        | assumption | apply ampEnter_keeps | apply ampGuard_keeps | apply Keeps.ite | apply PKeeps.ite) | split | dsimp only
    | with_reducible apply PKeeps.mk | refine Keeps.update ?_ rfl rfl rfl rfl rfl)

theorem ampAdjustBody_keeps {s0 s : State} (h : Keeps s0 s) (r : Req) : PKeeps s0 (ampAdjustBody s r) := by
  unfold ampAdjustBody
  repeat' (first
    | with_reducible (first
        | assumption | apply ampEnter_keeps | apply ampGuard_keeps | apply State.newCandidate_keeps
        | apply Keeps.ite | apply PKeeps.ite) | split | dsimp only | with_reducible apply PKeeps.mk
    | refine Keeps.update ?_ rfl rfl rfl rfl rfl
    | refine State.setAmp_keeps ?_ _ rfl)

theorem ampCounterBody_keeps {s0 s : State} (h : Keeps s0 s) (r : Req) : PKeeps s0 (ampCounterBody s r) := by
  unfold ampCounterBody
  repeat' (first
    | with_reducible (first
        | assumption | apply ampEnter_keeps | apply PKeeps.ite) | split | dsimp only | with_reducible apply PKeeps.mk
    | refine Keeps.update ?_ rfl rfl rfl rfl rfl)

theorem execAmpSheetClose_keeps {s0 s : State} (h : Keeps s0 s) (r : Req) : OKeeps s0 (execAmpSheetClose r s) := by
  unfold execAmpSheetClose
  exact OKeeps.next (State.firmware_keeps h _ _ _ _ fun _ _ k => ampSheetCloseBody_keeps k _)

theorem execAmpSheetRead_keeps {s0 s : State} (h : Keeps s0 s) (r : Req) : OKeeps s0 (execAmpSheetRead r s) := by
  unfold execAmpSheetRead
  exact OKeeps.next (State.firmware_keeps h _ _ _ _ fun _ _ k => ampSheetReadBody_keeps k _)

theorem execAmpAdjust_keeps {s0 s : State} (h : Keeps s0 s) (r : Req) : OKeeps s0 (execAmpAdjust r s) := by
  unfold execAmpAdjust
  exact OKeeps.next (State.firmware_keeps h _ _ _ _ fun _ _ k => ampAdjustBody_keeps k _)

theorem execAmpCounter_keeps {s0 s : State} (h : Keeps s0 s) (r : Req) : OKeeps s0 (execAmpCounter r s) := by
  unfold execAmpCounter
  exact OKeeps.next (State.firmware_keeps h _ _ _ _ fun _ _ k => ampCounterBody_keeps k _)

theorem execSealOpen_keeps {s0 s : State} (h : Keeps s0 s)  : OKeeps s0 (execSealOpen s) := by
  unfold execSealOpen
  repeat' (first
    | with_reducible (first
        | assumption | apply State.newCandidate_keeps | apply State.closeSheet_keeps | apply Keeps.ite
        | apply OKeeps.next | apply OKeeps.ite) | split | dsimp only | refine Keeps.update ?_ rfl rfl rfl rfl rfl
    | refine State.setAmp_keeps ?_ _ rfl)

theorem execSealClose_keeps {s0 s : State} (h : Keeps s0 s)  : OKeeps s0 (execSealClose s) := by
  unfold execSealClose
  repeat' (first
    | with_reducible (first
        | assumption | apply State.newCandidate_keeps | apply OKeeps.next | apply OKeeps.ite) | dsimp only
    | refine Keeps.update ?_ rfl rfl rfl rfl rfl
    | refine State.setAmp_keeps ?_ _ rfl)

theorem execAdjustmentGatherDone_keeps {s0 s : State} (h : Keeps s0 s) (g : GIx) : OKeeps s0 (execAdjustmentGatherDone g s) := by
  unfold execAdjustmentGatherDone
  repeat' (first
    | with_reducible (first
        | assumption | apply Keeps.ite | apply OKeeps.next | apply OKeeps.ite) | split | dsimp only
    | refine Keeps.update ?_ rfl rfl rfl rfl rfl
    | refine State.setAmp_keeps ?_ _ rfl)

theorem State.ampCommit_keeps {s0 s : State} (h : Keeps s0 s)  : Keeps s0 (State.ampCommit s) := by
  unfold State.ampCommit
  dsimp only
  split
  · exact h
  · split
    · refine State.respond_keeps (h.lift _ s.power s.sec ?_) _ _ _
      exact ⟨sat32_up _, ringGrows.refl _, ringGrows.refl _, fun _ => Nat.le_refl _, Nat.le_refl _⟩
    · refine State.respond_keeps (h.lift _ s.power _ ?_) _ _ _
      refine ⟨sat32_up _, ringGrows.refl _, ringGrows.refl _, fun k => ?_, Nat.le_refl _⟩
      dsimp only
      split
      · exact le_getD_set _ _ _ _
      · exact Nat.le_refl _

theorem execAdjustCommitDurable_keeps {s0 s : State} (h : Keeps s0 s)  : OKeeps s0 (execAdjustCommitDurable s) := by
  unfold execAdjustCommitDurable
  repeat' (first
    | with_reducible (first
        | assumption | apply State.ampCommit_keeps | apply State.lifeTry_keeps | apply OKeeps.next | apply OKeeps.ite) | dsimp only)

theorem State.answerSheet_keeps {s0 s : State} (h : Keeps s0 s) (num : Nat) (rep : Reply) : Keeps s0 (State.answerSheet s num rep) := by
  unfold State.answerSheet
  repeat' (first
    | with_reducible (first
        | assumption | apply State.respond_keeps | apply Keeps.ite | refine Keeps.forAll (fun _ _ _ => ?_) ?_) | split | dsimp only
    | refine Keeps.update ?_ rfl rfl rfl rfl rfl)

theorem execSigningIndexReserved_keeps {s0 s : State} (h : Keeps s0 s) (ok : Bool) : OKeeps s0 (execSigningIndexReserved ok s) := by
  unfold execSigningIndexReserved
  split
  · exact OKeeps.next h
  · dsimp only
    refine OKeeps.ite (OKeeps.next h) (OKeeps.ite ?_ ?_)
    · exact OKeeps.next (State.setSheets_keeps (QKeeps.snd (State.takeIndex_keeps h)) _)
    · refine OKeeps.next (State.lifeTry_keeps (State.answerSheet_keeps (State.advise_keeps (State.closeSheet_keeps ?_ _) _ _ _) _ _))
      have hu := QKeeps.snd (State.fresh_keeps h)
      refine hu.lift _ s.fresh.2.power s.fresh.2.sec ⟨fun b => ⟨Nat.le_refl _, b⟩, ?_, ringGrows.refl _, fun _ => Nat.le_refl _, Nat.le_refl _⟩
      exact ringTear_grows s.amp.hssRing _

theorem execSheetSealed_keeps {s0 s : State} (h : Keeps s0 s)  : OKeeps s0 (execSheetSealed s) := by
  unfold execSheetSealed
  repeat' (first
    | with_reducible (first
        | assumption | apply State.answerSheet_keeps | apply State.lifeTry_keeps | apply State.setSheets_keeps
        | apply State.emitRec_keeps | apply Keeps.ite | apply OKeeps.next | apply OKeeps.ite) | split | dsimp only
    | refine Keeps.update ?_ rfl rfl rfl rfl rfl)

theorem execLevel1TreeDone_keeps {s0 s : State} (h : Keeps s0 s)  : OKeeps s0 (execLevel1TreeDone s) := by
  unfold execLevel1TreeDone
  repeat' (first
    | with_reducible (first
        | assumption | apply Keeps.ite | apply OKeeps.next | apply OKeeps.ite) | split | dsimp only
    | refine Keeps.update ?_ rfl rfl rfl rfl rfl
    | refine State.setAmp_keeps ?_ _ rfl)

end Sys2Proof.Machine
end

