-- ==== Sys2Proof/Laws/KeepsCal.lean ====
section
/-!
SUPPORT. The functions of Cal.lean keep what `Keeps` says.
-/
namespace Sys2Proof.Machine

-- The case scripts of this file name more tactics than each case needs.
set_option linter.all false

theorem State.makeDue_keeps {s0 s : State} (h : Keeps s0 s) (t : Nat) (ball : Bool) : Keeps s0 (State.makeDue s t ball) := by
  unfold State.makeDue
  repeat' (first
    | with_reducible (first
        | assumption | apply State.setCalTile_keeps | apply State.setCalG_keeps | apply Keeps.ite
        | refine Keeps.forAll (fun _ _ _ => ?_) ?_) | split | dsimp only | refine Keeps.update ?_ rfl rfl rfl rfl rfl)

theorem State.tempDue_keeps {s0 s : State} (h : Keeps s0 s) (t : Nat) : Keeps s0 (State.tempDue s t) := by
  unfold State.tempDue
  repeat' (first | with_reducible (first | assumption | apply State.makeDue_keeps | apply Keeps.ite) | split | dsimp only)

theorem execTempRead_keeps {s0 s : State} (h : Keeps s0 s) (t : TIx) (readings : List Int) : OKeeps s0 (execTempRead t readings s) := by
  unfold execTempRead
  repeat' (first
    | with_reducible (first
        | assumption | apply State.tempDue_keeps | apply State.setCalTile_keeps | apply State.advise_keeps | apply State.choose_keeps
        | apply Keeps.ite | apply OKeeps.next | apply OKeeps.ite | refine Keeps.forAll (fun _ _ _ => ?_) ?_)
    | dsimp only [State.fresh, State.choose] | split | refine Keeps.update ?_ rfl rfl rfl rfl rfl)

theorem execCalStepStart_keeps {s0 s : State} (h : Keeps s0 s) (g : GIx) (e : CalEl) : OKeeps s0 (execCalStepStart g e s) := by
  unfold execCalStepStart
  repeat' (first
    | with_reducible (first
        | assumption | apply State.idle_keeps | apply State.endStep_keeps | apply State.setCalTile_keeps | apply State.setCalG_keeps
        | apply State.setTiu_keeps | apply State.setPstate_keeps | apply State.setPin_keeps | apply Keeps.ite | apply OKeeps.next
        | apply OKeeps.ite | refine Keeps.forAll (fun _ _ _ => ?_) ?_) | split | dsimp only | refine Keeps.update ?_ rfl rfl rfl rfl rfl)

theorem State.closePins_keeps {s0 s : State} (h : Keeps s0 s) (g : Nat) (ps : List Nat) : Keeps s0 (State.closePins s g ps) := by
  unfold State.closePins
  repeat' (first
    | with_reducible (first
        | assumption | apply State.pinsChanged_keeps | apply State.setPin_keeps | apply State.modG_keeps | apply Keeps.ite
        | refine Keeps.forAll (fun _ _ _ => ?_) ?_) | dsimp only | refine Keeps.update ?_ rfl rfl rfl rfl rfl)

theorem execCalStepEnd_keeps {s0 s : State} (h : Keeps s0 s) (g : GIx) (e : CalEl) (figure : Int) (more : List Int) : OKeeps s0 (execCalStepEnd g e figure more s) := by
  unfold execCalStepEnd
  repeat' (first
    | with_reducible (first
        | assumption | apply State.closePins_keeps | apply State.freeService_keeps | apply State.endStep_keeps
        | apply State.putCoef_keeps | apply State.setCalG_keeps | apply State.advise_keeps | apply Keeps.ite | apply OKeeps.next
        | apply OKeeps.ite) | split | dsimp only | refine Keeps.update ?_ rfl rfl rfl rfl rfl)
  all_goals (try assumption)

theorem execCalwinIsolationClose_keeps {s0 s : State} (h : Keeps s0 s) (g : GIx) : OKeeps s0 (execCalwinIsolationClose g s) := by
  unfold execCalwinIsolationClose
  repeat' (first
    | with_reducible (first
        | assumption | apply State.closePins_keeps | apply Keeps.ite | apply OKeeps.next | apply OKeeps.ite) | split | dsimp only)

theorem execCalOverdueTimer_keeps {s0 s : State} (h : Keeps s0 s) (t : TIx) : OKeeps s0 (execCalOverdueTimer t s) := by
  unfold execCalOverdueTimer
  repeat' (first
    | with_reducible (first
        | assumption | apply State.setCalTile_keeps | apply State.advise_keeps | apply Keeps.ite | apply OKeeps.next | apply OKeeps.ite)
    | split | dsimp only | refine Keeps.update ?_ rfl rfl rfl rfl rfl)

theorem execCalStoreDataDone_keeps {s0 s : State} (h : Keeps s0 s)  : OKeeps s0 (execCalStoreDataDone s) := by
  unfold execCalStoreDataDone
  repeat' (first
    | with_reducible (first
        | assumption | apply Keeps.ite | apply OKeeps.next | apply OKeeps.ite) | split | dsimp only
    | refine Keeps.update ?_ rfl rfl rfl rfl rfl)

theorem State.calCommit_keeps {s0 s : State} (h : Keeps s0 s)  : Keeps s0 (State.calCommit s) := by
  unfold State.calCommit
  repeat' (first
    | with_reducible (first
        | assumption | apply State.startStore_keeps | apply State.respond_keeps | apply Keeps.ite
        | refine Keeps.forAll (fun _ _ _ => ?_) ?_) | split | dsimp only | refine Keeps.update ?_ rfl rfl rfl rfl rfl)

theorem execCalStoreCommitDone_keeps {s0 s : State} (h : Keeps s0 s)  : OKeeps s0 (execCalStoreCommitDone s) := by
  unfold execCalStoreCommitDone
  repeat' (first | with_reducible (first | assumption | apply State.calCommit_keeps | apply OKeeps.next | apply OKeeps.ite) | dsimp only)

theorem calConfigBody_keeps {s0 s : State} (h : Keeps s0 s) (r : Req) : PKeeps s0 (calConfigBody s r) := by
  unfold calConfigBody
  repeat' (first
    | with_reducible (first
        | assumption | apply State.tempDue_keeps | apply guarded_keeps | apply PKeeps.ite | refine Keeps.forAll (fun _ _ _ => ?_) ?_)
    | dsimp only | with_reducible apply PKeeps.mk | refine Keeps.update ?_ rfl rfl rfl rfl rfl)

theorem calPinmaskBody_keeps {s0 s : State} (h : Keeps s0 s) (r : Req) : PKeeps s0 (calPinmaskBody s r) := by
  unfold calPinmaskBody
  repeat' (first
    | with_reducible (first
        | assumption | apply guarded_keeps | apply State.setCalG_keeps | apply PKeeps.ite | refine Keeps.forAll (fun _ _ _ => ?_) ?_)
    | dsimp only | with_reducible apply PKeeps.mk | refine Keeps.update ?_ rfl rfl rfl rfl rfl)

theorem calRunBody_keeps {s0 s : State} (h : Keeps s0 s) (r : Req) : PKeeps s0 (calRunBody s r) := by
  unfold calRunBody
  repeat' (first
    | with_reducible (first
        | assumption | apply State.makeDue_keeps | apply guarded_keeps | apply PKeeps.ite | refine Keeps.forAll (fun _ _ _ => ?_) ?_)
    | dsimp only | with_reducible apply PKeeps.mk)

theorem calStatusBody_keeps {s0 s : State} (h : Keeps s0 s) (r : Req) : PKeeps s0 (calStatusBody s r) := by
  unfold calStatusBody
  repeat' (first
    | with_reducible (first
        | assumption | apply guarded_keeps | apply Keeps.ite | apply PKeeps.ite | refine Keeps.foldl (fun _ _ _ => ?_) ?_) | split
    | dsimp only | with_reducible apply PKeeps.mk | refine Keeps.update ?_ rfl rfl rfl rfl rfl)

theorem calQualityBody_keeps {s0 s : State} (h : Keeps s0 s) (r : Req) : PKeeps s0 (calQualityBody s r) := by
  unfold calQualityBody
  repeat' (first
    | with_reducible (first
        | assumption | apply guarded_keeps | apply State.record_keeps | apply State.choose_keeps | apply Keeps.ite | apply PKeeps.ite)
    | dsimp only [State.fresh, State.choose] | split | with_reducible apply PKeeps.mk | refine Keeps.update ?_ rfl rfl rfl rfl rfl)

theorem calStoreBody_keeps {s0 s : State} (h : Keeps s0 s) (r : Req) : PKeeps s0 (calStoreBody s r) := by
  unfold calStoreBody
  repeat' (first
    | with_reducible (first
        | assumption | apply guarded_keeps | apply State.startStore_keeps | apply Keeps.ite | apply PKeeps.ite) | dsimp only
    | with_reducible apply PKeeps.mk)

theorem calTempsBody_keeps {s0 s : State} (h : Keeps s0 s) (r : Req) : PKeeps s0 (calTempsBody s r) := by
  unfold calTempsBody
  repeat' (first
    | with_reducible (first
        | assumption | apply guarded_keeps | apply PKeeps.ite | refine Keeps.foldl (fun _ _ _ => ?_) ?_) | dsimp only
    | with_reducible apply PKeeps.mk)

theorem execCalConfig_keeps {s0 s : State} (h : Keeps s0 s) (r : Req) : OKeeps s0 (execCalConfig r s) := by
  unfold execCalConfig
  exact OKeeps.next (State.firmware_keeps h _ _ _ _ fun _ _ k => calConfigBody_keeps k _)

theorem execCalPinmask_keeps {s0 s : State} (h : Keeps s0 s) (r : Req) : OKeeps s0 (execCalPinmask r s) := by
  unfold execCalPinmask
  exact OKeeps.next (State.firmware_keeps h _ _ _ _ fun _ _ k => calPinmaskBody_keeps k _)

theorem execCalRun_keeps {s0 s : State} (h : Keeps s0 s) (r : Req) : OKeeps s0 (execCalRun r s) := by
  unfold execCalRun
  exact OKeeps.next (State.firmware_keeps h _ _ _ _ fun _ _ k => calRunBody_keeps k _)

theorem execCalStatus_keeps {s0 s : State} (h : Keeps s0 s) (r : Req) : OKeeps s0 (execCalStatus r s) := by
  unfold execCalStatus
  exact OKeeps.next (State.firmware_keeps h _ _ _ _ fun _ _ k => calStatusBody_keeps k _)

theorem execCalQuality_keeps {s0 s : State} (h : Keeps s0 s) (r : Req) : OKeeps s0 (execCalQuality r s) := by
  unfold execCalQuality
  exact OKeeps.next (State.firmware_keeps h _ _ _ _ fun _ _ k => calQualityBody_keeps k _)

theorem execCalStore_keeps {s0 s : State} (h : Keeps s0 s) (r : Req) : OKeeps s0 (execCalStore r s) := by
  unfold execCalStore
  exact OKeeps.next (State.firmware_keeps h _ _ _ _ fun _ _ k => calStoreBody_keeps k _)

theorem execCalTemps_keeps {s0 s : State} (h : Keeps s0 s) (r : Req) : OKeeps s0 (execCalTemps r s) := by
  unfold execCalTemps
  exact OKeeps.next (State.firmware_keeps h _ _ _ _ fun _ _ k => calTempsBody_keeps k _)

end Sys2Proof.Machine
end

