-- ==== Sys2Proof/Laws/KeepsFaults.lean ====
section
/-!
SUPPORT. The functions of Faults.lean keep what `Keeps` says.
-/
namespace Sys2Proof.Machine

-- The case scripts of this file name more tactics than each case needs.
set_option linter.all false

theorem State.addCause_keeps {s0 s : State} (h : Keeps s0 s) (src : Half) (scope : Half) : Keeps s0 (State.addCause s src scope) := by
  unfold State.addCause
  repeat' (first
    | with_reducible (first
        | assumption | apply Keeps.ite) | split | dsimp only | refine State.setFaults_same ?_ _ rfl
    | refine Keeps.update ?_ rfl rfl rfl rfl rfl)

theorem State.lockstep_keeps {s0 s : State} (h : Keeps s0 s)  : Keeps s0 (State.lockstep s) := by
  unfold State.lockstep
  repeat' (first
    | with_reducible (first
        | assumption | apply State.raise_keeps | apply Keeps.ite) | split | dsimp only | refine State.setFaults_same ?_ _ rfl
    | refine Keeps.update ?_ rfl rfl rfl rfl rfl)

theorem State.storeMac_keeps {s0 s : State} (h : Keeps s0 s)  : Keeps s0 (State.storeMac s) := by
  unfold State.storeMac
  repeat' (first
    | with_reducible (first
        | assumption | apply State.addCause_keeps | apply State.raise_keeps | apply Keeps.ite) | split
    | dsimp only | refine Keeps.update ?_ rfl rfl rfl rfl rfl
    | refine State.setAmp_keeps ?_ _ rfl)

theorem execFaultOccurrence_keeps {s0 s : State} (h : Keeps s0 s) (src : Half) (scope : Half) (detail : Word) : OKeeps s0 (execFaultOccurrence src scope detail s) := by
  unfold execFaultOccurrence
  repeat' (first
    | with_reducible (first
        | assumption | apply State.storeMac_keeps | apply State.lockstep_keeps | apply State.addCause_keeps | apply State.raise_keeps
        | apply Keeps.ite | apply OKeeps.next | apply OKeeps.ite) | split | dsimp only)

theorem execFaultCauseClear_keeps {s0 s : State} (h : Keeps s0 s) (src : Half) (scope : Half) : OKeeps s0 (execFaultCauseClear src scope s) := by
  unfold execFaultCauseClear
  repeat' (first
    | with_reducible (first
        | assumption | apply OKeeps.next | apply OKeeps.ite) | dsimp only | refine State.setFaults_same ?_ _ rfl
    | refine Keeps.update ?_ rfl rfl rfl rfl rfl)

theorem State.logFault_keeps {s0 s : State} (h : Keeps s0 s)  : Keeps s0 (State.logFault s) := by
  unfold State.logFault
  extract_lets f
  split
  · exact h
  · rename_i r _
    refine State.setFaults_keeps h _ fun o => ?_
    refine orderly_of_map (fun x => if x.src == r.src && x.scope == r.scope then { x with logged := true } else x) ?_ ?_ ?_ o rfl ?_ rfl
    · intro x; split <;> rfl
    · intro x; split <;> rfl
    · intro x; split <;> rfl
    · intro _; dsimp only; rw [List.length_drop]; omega

theorem execFaultLogWrite_keeps {s0 s : State} (h : Keeps s0 s)  : OKeeps s0 (execFaultLogWrite s) := by
  unfold execFaultLogWrite
  repeat' (first | with_reducible (first | assumption | apply State.logFault_keeps | apply OKeeps.next | apply OKeeps.ite) | dsimp only)

theorem execWatchdogExpiry_keeps {s0 s : State} (h : Keeps s0 s)  : OKeeps s0 (execWatchdogExpiry s) := by
  unfold execWatchdogExpiry
  repeat' (first
    | with_reducible (first
        | assumption | apply State.raise_keeps | apply Keeps.ite | apply OKeeps.next | apply OKeeps.ite) | dsimp only)

theorem execFclkGap_keeps {s0 s : State} (h : Keeps s0 s)  : OKeeps s0 (execFclkGap s) := by
  unfold execFclkGap
  repeat' (first | with_reducible (first | assumption | apply State.raise_keeps | apply OKeeps.next | apply OKeeps.ite) | dsimp only)

theorem execCollectorMismatch_keeps {s0 s : State} (h : Keeps s0 s)  : OKeeps s0 (execCollectorMismatch s) := by
  unfold execCollectorMismatch
  repeat' (first | with_reducible (first | assumption | apply State.raise_keeps | apply OKeeps.next | apply OKeeps.ite) | dsimp only)

theorem execRefclkLoss_keeps {s0 s : State} (h : Keeps s0 s)  : OKeeps s0 (execRefclkLoss s) := by
  unfold execRefclkLoss
  repeat' (first
    | with_reducible (first
        | assumption | apply State.addCause_keeps | apply State.raise_keeps | apply OKeeps.next | apply OKeeps.ite) | dsimp only)

theorem execPllLoss_keeps {s0 s : State} (h : Keeps s0 s) (a0 : Pll) : OKeeps s0 (execPllLoss a0 s) := by
  unfold execPllLoss
  repeat' (first
    | with_reducible (first
        | assumption | apply State.addCause_keeps | apply State.raise_keeps | apply OKeeps.next | apply OKeeps.ite) | dsimp only)

theorem execTjCrit_keeps {s0 s : State} (h : Keeps s0 s) (sensor : Fin 16) (reading : Int) : OKeeps s0 (execTjCrit sensor reading s) := by
  unfold execTjCrit
  repeat' (first
    | with_reducible (first
        | assumption | apply State.addCause_keeps | apply State.raise_keeps | apply Keeps.ite | apply OKeeps.next | apply OKeeps.ite)
    | dsimp only)

theorem fltReadBody_keeps {s0 s : State} (h : Keeps s0 s) (r : Req) : PKeeps s0 (fltReadBody s r) := by
  unfold fltReadBody
  repeat' (first
    | with_reducible (first
        | assumption | apply guarded_keeps | apply PKeeps.ite) | dsimp only | with_reducible apply PKeeps.mk)

theorem fltAckBody_keeps {s0 s : State} (h : Keeps s0 s) (r : Req) : PKeeps s0 (fltAckBody s r) := by
  unfold fltAckBody
  extract_lets first last f named n u
  have hu : Keeps s0 u := by
    refine State.setFaults_keeps h _ fun o => ?_
    refine orderly_of_map (fun x => if named x then { x with ack := true } else x) ?_ ?_ ?_ o rfl id rfl
      <;> (intro x; split <;> rfl)
  exact guarded_keeps h _ (PKeeps.mk (State.pruneRecs_keeps hu))

theorem fltForceBody_keeps {s0 s : State} (h : Keeps s0 s) (r : Req) : PKeeps s0 (fltForceBody s r) := by
  unfold fltForceBody
  repeat' (first
    | with_reducible (first
        | assumption | apply guarded_keeps | apply State.raise_keeps | apply State.respond_keeps | apply Keeps.ite | apply PKeeps.ite)
    | dsimp only | with_reducible apply PKeeps.mk)

theorem fltConfigBody_keeps {s0 s : State} (h : Keeps s0 s) (r : Req) : PKeeps s0 (fltConfigBody s r) := by
  unfold fltConfigBody
  repeat' (first
    | with_reducible (first
        | assumption | apply guarded_keeps | apply PKeeps.ite) | dsimp only | with_reducible apply PKeeps.mk
    | refine State.setFaults_same ?_ _ rfl | refine Keeps.update ?_ rfl rfl rfl rfl rfl)

theorem fltLogBody_keeps {s0 s : State} (h : Keeps s0 s) (r : Req) : PKeeps s0 (fltLogBody s r) := by
  unfold fltLogBody
  repeat' (first
    | with_reducible (first
        | assumption | apply guarded_keeps | apply PKeeps.ite) | dsimp only | with_reducible apply PKeeps.mk)

theorem fltReleaseBody_keeps {s0 s : State} (h : Keeps s0 s) (r : Req) : PKeeps s0 (fltReleaseBody s r) := by
  unfold fltReleaseBody
  repeat' (first
    | with_reducible (first
        | assumption | apply State.releaseSafe_keeps | apply guarded_keeps | apply State.modG_keeps | apply Keeps.ite
        | apply PKeeps.ite | refine Keeps.forAll (fun _ _ _ => ?_) ?_) | split | dsimp only | with_reducible apply PKeeps.mk
    | refine Keeps.update ?_ rfl rfl rfl rfl rfl)

theorem execFltRead_keeps {s0 s : State} (h : Keeps s0 s) (r : Req) : OKeeps s0 (execFltRead r s) := by
  unfold execFltRead
  exact OKeeps.next (State.firmware_keeps h _ _ _ _ fun _ _ k => fltReadBody_keeps k _)

theorem execFltAck_keeps {s0 s : State} (h : Keeps s0 s) (r : Req) : OKeeps s0 (execFltAck r s) := by
  unfold execFltAck
  exact OKeeps.next (State.firmware_keeps h _ _ _ _ fun _ _ k => fltAckBody_keeps k _)

theorem execFltForce_keeps {s0 s : State} (h : Keeps s0 s) (r : Req) : OKeeps s0 (execFltForce r s) := by
  unfold execFltForce
  exact OKeeps.next (State.firmware_keeps h _ _ _ _ fun _ _ k => fltForceBody_keeps k _)

theorem execFltConfig_keeps {s0 s : State} (h : Keeps s0 s) (r : Req) : OKeeps s0 (execFltConfig r s) := by
  unfold execFltConfig
  exact OKeeps.next (State.firmware_keeps h _ _ _ _ fun _ _ k => fltConfigBody_keeps k _)

theorem execFltLog_keeps {s0 s : State} (h : Keeps s0 s) (r : Req) : OKeeps s0 (execFltLog r s) := by
  unfold execFltLog
  exact OKeeps.next (State.firmware_keeps h _ _ _ _ fun _ _ k => fltLogBody_keeps k _)

theorem execFltRelease_keeps {s0 s : State} (h : Keeps s0 s) (r : Req) : OKeeps s0 (execFltRelease r s) := by
  unfold execFltRelease
  exact OKeeps.next (State.firmware_keeps h _ _ _ _ fun _ _ k => fltReleaseBody_keeps k _)

end Sys2Proof.Machine
end

