-- ==== Sys2Proof/Laws/KeepsClear.lean ====
section
/-!
SUPPORT. The functions of Clear.lean keep what `Keeps` says.
-/
namespace Sys2Proof.Machine

-- The case scripts of this file name more tactics than each case needs.
set_option linter.all false

theorem State.pulseActs_keeps {s0 s : State} (h : Keeps s0 s) (ns : Nat) (lo : Nat) (hi : Nat) : QKeeps s0 (State.pulseActs s ns lo hi) := by
  unfold State.pulseActs
  repeat' (first
    | with_reducible (first
        | assumption | apply State.choose_keeps | apply Keeps.ite | apply QKeeps.ite) | dsimp only [State.fresh, State.choose] | split
    | with_reducible apply QKeeps.mk | refine Keeps.update ?_ rfl rfl rfl rfl rfl)

theorem State.clearGather_keeps {s0 s : State} (h : Keeps s0 s) (g : Nat) (f : Nat → Bool) : Keeps s0 (State.clearGather s g f) := by
  unfold State.clearGather
  repeat' (first
    | with_reducible (first
        | assumption | apply State.disturb_keeps | apply State.flagRuns_keeps | apply State.setBridge_keeps | apply State.setSmu_keeps
        | apply State.setPin_keeps | apply State.modG_keeps | apply Keeps.ite | refine Keeps.forAll (fun _ _ _ => ?_) ?_
        | refine Keeps.foldl (fun _ _ _ => ?_) ?_) | split | dsimp only | refine Keeps.update ?_ rfl rfl rfl rfl rfl)

theorem State.clearGathers_keeps {s0 s : State} (h : Keeps s0 s)  : Keeps s0 (State.clearGathers s) := by
  unfold State.clearGathers
  repeat' (first
    | with_reducible (first
        | assumption | apply State.clearGather_keeps | refine Keeps.forAll (fun _ _ _ => ?_) ?_) | dsimp only
    | refine Keeps.update ?_ rfl rfl rfl rfl rfl)

theorem State.clearAll_keeps {s0 s : State} (h : Keeps s0 s)  : Keeps s0 (State.clearAll s) := by
  unfold State.clearAll
  repeat' (first | with_reducible (first | assumption | apply State.clearGathers_keeps | apply State.advise_keeps) | dsimp only)

theorem State.clearAtStart_keeps {s0 s : State} (h : Keeps s0 s)  : Keeps s0 (State.clearAtStart s) := by
  unfold State.clearAtStart
  repeat' (first
    | with_reducible (first
        | assumption | apply State.clearAll_keeps | apply State.clearGathers_keeps | apply Keeps.ite) | split | dsimp only)

theorem State.clearPartly_keeps {s0 s : State} (h : Keeps s0 s)  : Keeps s0 (State.clearPartly s) := by
  unfold State.clearPartly
  repeat' (first
    | with_reducible (first
        | assumption | apply State.clearGather_keeps | apply State.advise_keeps | refine Keeps.forAll (fun _ _ _ => ?_) ?_
        | apply Keeps.ite) | dsimp only | refine Keeps.update ?_ rfl rfl rfl rfl rfl)

theorem execClearNAssert_keeps {s0 s : State} (h : Keeps s0 s) (pulseNs : Nat) : OKeeps s0 (execClearNAssert pulseNs s) := by
  unfold execClearNAssert
  repeat' (first
    | with_reducible (first
        | assumption | apply State.clearAll_keeps | apply State.clearPartly_keeps | apply Keeps.ite | apply OKeeps.next
        | apply OKeeps.ite) | with_reducible apply QKeeps.snd | refine QKeeps.eq ‹_ = (_, _)› ?_ | split | dsimp only)

theorem execClearNRelease_keeps {s0 s : State} (h : Keeps s0 s)  : OKeeps s0 (execClearNRelease s) := by
  unfold execClearNRelease
  repeat' (first
    | with_reducible (first
        | assumption | apply OKeeps.next | apply OKeeps.ite) | dsimp only | refine Keeps.update ?_ rfl rfl rfl rfl rfl)

theorem execHeadroomClamp_keeps {s0 s : State} (h : Keeps s0 s) (vphUv : Int) (vplUv : Int) : OKeeps s0 (execHeadroomClamp vphUv vplUv s) := by
  unfold execHeadroomClamp
  repeat' (first
    | with_reducible (first
        | assumption | apply Keeps.ite | apply OKeeps.next | apply OKeeps.ite) | split | dsimp only
    | refine Keeps.update ?_ rfl rfl rfl rfl rfl)

theorem execPeRailArm_keeps {s0 s : State} (h : Keeps s0 s)  : OKeeps s0 (execPeRailArm s) := by
  unfold execPeRailArm
  repeat' (first
    | with_reducible (first
        | assumption | apply Keeps.ite | apply OKeeps.next | apply OKeeps.ite) | dsimp only | refine Keeps.update ?_ rfl rfl rfl rfl rfl)

theorem execSentinelDwellEnd_keeps {s0 s : State} (h : Keeps s0 s) (g : GIx) (n : Two) : OKeeps s0 (execSentinelDwellEnd g n s) := by
  unfold execSentinelDwellEnd
  repeat' (first
    | with_reducible (first
        | assumption | apply State.setDwelled_keeps | apply State.comparatorsChanged_keeps | apply State.setSent_keeps
        | apply Keeps.ite | apply OKeeps.next | apply OKeeps.ite) | split | dsimp only | refine Keeps.update ?_ rfl rfl rfl rfl rfl)

end Sys2Proof.Machine
end

