-- ==== Sys2Proof/Laws/KeepsReset.lean ====
section
/-!
SUPPORT. The functions of Reset.lean keep what `Keeps` says.
-/
namespace Sys2Proof.Machine

-- The case scripts of this file name more tactics than each case needs.
set_option linter.all false

theorem State.finishStarted_keeps {s0 s : State} (h : Keeps s0 s)  : Keeps s0 (State.finishStarted s) := by
  unfold State.finishStarted
  repeat' (first
    | with_reducible (first
        | assumption | apply State.logFault_keeps | apply State.calCommit_keeps | apply State.ampCommit_keeps
        | apply State.flushEtchEnds_keeps | refine Keeps.forAll (fun _ _ _ => ?_) ?_ | refine Keeps.times _ (fun _ _ => ?_) ?_)
    | dsimp only)

theorem State.deviceReset_keeps {s0 s : State} (h : Keeps s0 s) (cause : Nat) : Keeps s0 (State.deviceReset s cause) := by
  have h1 : Keeps s0 (s.endReservation (cause == 0)).ampReset := State.ampReset_keeps (State.endReservation_keeps h _)
  refine h1.trans ⟨rfl, ?_, ?_, ?_, ?_, fun _ => rfl, ?_, neverFalls_same rfl⟩
  · intro o; exact ⟨Nat.zero_le _, o.2.1, List.Pairwise.nil, List.Pairwise.nil, fun _ hr => nomatch hr⟩
  · intro _; exact Nat.zero_le _
  · intro _; exact ⟨Nat.zero_le _, fun _ => Nat.zero_le _⟩
  · intro _; exact (by decide : 100 ≤ 1000 ∧ 1000 ≤ 2000 ∧ 1 ≤ 100 ∧ 100 ≤ 10000)
  · intro _ m; exact ⟨Nat.zero_le _, Nat.zero_le _, rfl⟩

theorem State.orderlyReset_keeps {s0 s : State} (h : Keeps s0 s) (cause : Nat) : Keeps s0 (State.orderlyReset s cause) := by
  unfold State.orderlyReset
  repeat' (first | with_reducible (first | assumption | apply State.deviceReset_keeps | apply State.finishStarted_keeps) | dsimp only)

theorem State.parkGather_keeps {s0 s : State} (h : Keeps s0 s) (g : Nat) : Keeps s0 (State.parkGather s g) := by
  unfold State.parkGather
  repeat' (first
    | with_reducible (first
        | assumption | apply State.park_keeps | apply State.ampSafe_keeps | apply State.calStrokeEnd_keeps | apply State.preempt_keeps
        | apply State.endDigs_keeps | apply State.setDig_keeps | apply State.endTius_keeps | apply State.leaveProgram_keeps
        | apply State.haltG_keeps | apply State.setSmu_keeps | apply State.setPin_keeps | apply State.modG_keeps
        | refine Keeps.forAll (fun _ _ _ => ?_) ?_ | refine Keeps.foldl (fun _ _ _ => ?_) ?_) | dsimp only
    | refine Keeps.update ?_ rfl rfl rfl rfl rfl)

theorem State.parkStores_keeps {s0 s : State} (h : Keeps s0 s)  : Keeps s0 (State.parkStores s) := by
  unfold State.parkStores
  repeat' (first | with_reducible (first | assumption | apply Keeps.ite) | split | dsimp only | refine Keeps.update ?_ rfl rfl rfl rfl rfl)

theorem State.parkGathers_keeps {s0 s : State} (h : Keeps s0 s)  : Keeps s0 (State.parkGathers s) := by
  unfold State.parkGathers
  repeat' (first
    | with_reducible (first
        | assumption | apply State.parkGather_keeps | apply State.haltProgram_keeps | apply Keeps.ite
        | refine Keeps.forAll (fun _ _ _ => ?_) ?_) | split | dsimp only)

theorem State.parkEvents_keeps {s0 s : State} (h : Keeps s0 s)  : Keeps s0 (State.parkEvents s) := by
  unfold State.parkEvents
  repeat' (first | assumption | dsimp only | refine Keeps.update ?_ rfl rfl rfl rfl rfl)

theorem State.park_keeps {s0 s : State} (h : Keeps s0 s)  : Keeps s0 (State.park s) := by
  unfold State.park
  repeat' (first
    | with_reducible (first
        | assumption | apply State.parkEvents_keeps | apply State.parkGathers_keeps | apply State.parkStores_keeps
        | apply State.rangesDone_keeps | apply State.syncLines_keeps) | dsimp only | refine Keeps.update ?_ rfl rfl rfl rfl rfl)

theorem State.startDormant_keeps {s0 s : State} (h : Keeps s0 s)  : Keeps s0 (State.startDormant s) := by
  unfold State.startDormant
  repeat' (first
    | with_reducible (first
        | assumption | apply State.closeSheet_keeps | apply State.preempt_keeps | apply State.endDigs_keeps | apply State.endTius_keeps
        | apply State.setSmu_keeps | apply Keeps.ite | refine Keeps.forAll (fun _ _ _ => ?_) ?_) | split | dsimp only
    | refine State.setTwin_same ?_ _ rfl | refine Keeps.update ?_ rfl rfl rfl rfl rfl)

theorem State.enterDormant_keeps {s0 s : State} (h : Keeps s0 s)  : Keeps s0 (State.enterDormant s) := by
  unfold State.enterDormant
  extract_lets u1 a1 u2 a2 u3
  have hu1 : Keeps s0 u1 := by
    dsimp only [u1]
    exact State.ampDrop_keeps (State.ampReset_keeps h)
  clear_value u1
  have hu2 : Keeps s0 u2 := by
    dsimp only [u2]
    repeat' (first | assumption | dsimp only | refine Keeps.update ?_ rfl rfl rfl rfl rfl)
  clear_value u2
  have hu3 : Keeps s0 u3 := by
    dsimp only [u3]
    repeat' (first | assumption | dsimp only | refine State.setTwin_same ?_ _ rfl)
  clear_value u3
  with_reducible refine Keeps.forAll (fun s g k => ?_) hu3
  extract_lets s1
  have h1 : Keeps s0 s1 := by
    dsimp only [s1]
    with_reducible apply State.modG_keeps
    exact k
  clear_value s1
  apply State.sync_keeps
  apply State.probes_keeps
  exact h1

theorem State.wake_keeps {s0 s : State} (h : Keeps s0 s) (restored : Bool) (dormantNs : Nat) : Keeps s0 (State.wake s restored dormantNs) := by
  unfold State.wake
  repeat' (first
    | with_reducible (first
        | assumption | apply State.deviceReset_keeps | apply State.comparatorsChanged_keeps | apply State.sync_keeps
        | apply State.probes_keeps | apply State.setSent_keeps | apply State.setSmu_keeps | apply State.setPin_keeps
        | apply State.modG_keeps | apply Keeps.ite | refine Keeps.forAll (fun _ _ _ => ?_) ?_ | refine Keeps.foldl (fun _ _ _ => ?_) ?_)
    | split | dsimp only | refine State.setTwin_same ?_ _ rfl | refine Keeps.update ?_ rfl rfl rfl rfl rfl)

theorem State.enterPower_keeps {s0 s : State} (h : Keeps s0 s) (st : Nat) : Keeps s0 (State.enterPower s st) := by
  unfold State.enterPower
  repeat' (first
    | with_reducible (first
        | assumption | apply State.startDormant_keeps | apply State.setPstate_keeps | apply Keeps.ite) | split | dsimp only)

end Sys2Proof.Machine
end

