-- ==== Sys2Proof/Laws/KeepsTransport.lean ====
section
/-!
SUPPORT. The functions of Transport.lean keep what `Keeps` says.
-/
namespace Sys2Proof.Machine

-- The case scripts of this file name more tactics than each case needs.
set_option linter.all false

theorem State.afterAck_keeps {s0 s : State} (h : Keeps s0 s) (m : Nat) (op : Half) (st : Half) : Keeps s0 (State.afterAck s m op st) := by
  unfold State.afterAck
  repeat' (first
    | with_reducible (first
        | assumption | apply State.enterPower_keeps | apply State.orderlyReset_keeps | apply Keeps.ite) | split | dsimp only
    | refine Keeps.update ?_ rfl rfl rfl rfl rfl)

theorem State.ackPart_keeps {s0 s : State} (h : Keeps s0 s) (m : Nat) (word : Word) : Keeps s0 (State.ackPart s m word) := by
  unfold State.ackPart
  extract_lets x
  split
  · exact h
  · rename_i e p he
    refine Keeps.ite h ?_
    have hx : ∃ l, x.entries = e :: l := by
      unfold Mailbox.shown at he
      split at he
      · split at he
        · cases he; exact ⟨_, ‹_›⟩
        · cases he
      · cases he
    obtain ⟨l, hl⟩ := hx
    split
    · refine State.pumpMbx_keeps (State.setMbx_keeps h m _ (fits_of_refusals ?_ ?_)) _
      rotate_left
      · exact id
      show (_ :: x.entries.tail).map _ = x.entries.map _
      rw [hl]; rfl
    · refine State.afterAck_keeps (State.pumpMbx_keeps (State.setMbx_keeps h _ _ ?_) _) _ _ _
      exact fits_of_sublist (List.tail_sublist _) id

theorem State.ackBatch_keeps {s0 s : State} (h : Keeps s0 s) (word : Word) : Keeps s0 (State.ackBatch s word) := by
  unfold State.ackBatch
  repeat' (first | with_reducible (first | assumption | apply Keeps.ite) | split | dsimp only | refine Keeps.update ?_ rfl rfl rfl rfl rfl)

theorem execResponseAck_keeps {s0 s : State} (h : Keeps s0 s) (m : Fin 8) (offset : BitVec 12) (word : Word) : OKeeps s0 (execResponseAck m offset word s) := by
  unfold execResponseAck
  repeat' (first
    | with_reducible (first
        | assumption | apply State.ackBatch_keeps | apply State.ackPart_keeps | apply Keeps.ite | apply OKeeps.next | apply OKeeps.ite)
    | split | dsimp only)

theorem execNotifyBatchAck_keeps {s0 s : State} (h : Keeps s0 s) (offset : BitVec 12) (word : Word) : OKeeps s0 (execNotifyBatchAck offset word s) := by
  unfold execNotifyBatchAck
  repeat' (first
    | with_reducible (first
        | assumption | apply State.ackBatch_keeps | apply Keeps.ite | apply OKeeps.next | apply OKeeps.ite) | dsimp only)

theorem State.sendBatch_keeps {s0 s : State} (h : Keeps s0 s)  : Keeps s0 (State.sendBatch s) := by
  unfold State.sendBatch
  repeat' (first | with_reducible (first | assumption | apply State.send_keeps | refine Keeps.forAll (fun _ _ _ => ?_) ?_) | dsimp only)

theorem execNotifyBatchForm_keeps {s0 s : State} (h : Keeps s0 s)  : OKeeps s0 (execNotifyBatchForm s) := by
  unfold execNotifyBatchForm
  extract_lets q _ u1
  refine OKeeps.ite (OKeeps.next h) (OKeeps.next ?_)
  have h1 : Keeps s0 u1 := State.setHatch_keeps h _ fun k => by
    show (q.drop 254).length ≤ 512
    rw [List.length_drop]; exact Nat.le_trans (Nat.sub_le _ _) k
  exact State.sendBatch_keeps (Keeps.update h1 rfl rfl rfl rfl rfl)

theorem State.sendShown_keeps {s0 s : State} (h : Keeps s0 s) (m : Nat) : Keeps s0 (State.sendShown s m) := by
  unfold State.sendShown
  repeat' (first
    | with_reducible (first
        | assumption | apply State.send_keeps) | split | dsimp only | refine Keeps.update ?_ rfl rfl rfl rfl rfl)

theorem execResponseResendTimer_keeps {s0 s : State} (h : Keeps s0 s) (m : Fin 8) : OKeeps s0 (execResponseResendTimer m s) := by
  unfold execResponseResendTimer
  repeat' (first
    | with_reducible (first
        | assumption | apply State.sendShown_keeps | apply State.sendBatch_keeps | apply Keeps.ite | apply OKeeps.next
        | apply OKeeps.ite) | split | dsimp only | refine State.setMbx_same ?_ _ _ rfl | refine Keeps.update ?_ rfl rfl rfl rfl rfl)

end Sys2Proof.Machine
end

