-- ==== Sys2Proof/Laws/KeepsCanes.lean ====
section
/-!
SUPPORT. The functions of Canes.lean keep what `Keeps` says.
-/
namespace Sys2Proof.Machine

-- The case scripts of this file name more tactics than each case needs.
set_option linter.all false

theorem State.swapHalves_keeps {s0 s : State} (h : Keeps s0 s)  : Keeps s0 (State.swapHalves s) := by
  unfold State.swapHalves
  exact h.other rfl rfl rfl rfl rfl rfl rfl rfl

theorem State.otherSide_keeps {s0 s : State} (h : Keeps s0 s)  : Keeps s0 (State.otherSide s) := by
  unfold State.otherSide
  repeat' (first
    | with_reducible (first
        | assumption | apply State.swapHalves_keeps | apply Keeps.ite | refine Keeps.foldl (fun _ _ _ => ?_) ?_) | split | dsimp only
    | refine Keeps.update ?_ rfl rfl rfl rfl rfl)

theorem State.changeCane_keeps {s0 s : State} (h : Keeps s0 s) (i : Nat) (f : Tab Cane → Tab Cane) : Keeps s0 (State.changeCane s i f) := by
  unfold State.changeCane
  split <;> exact h.other rfl rfl rfl rfl rfl rfl rfl rfl

theorem State.putCane_keeps {s0 s : State} (h : Keeps s0 s) (i : Nat) (c : Cane) : Keeps s0 (State.putCane s i c) := by
  unfold State.putCane
  repeat' (first | assumption | dsimp only | refine Keeps.update ?_ rfl rfl rfl rfl rfl)

theorem caneDefineBody_keeps {s0 s : State} (h : Keeps s0 s) (r : Req) : PKeeps s0 (caneDefineBody s r) := by
  unfold caneDefineBody
  repeat' (first
    | with_reducible (first
        | assumption | apply State.putCane_keeps | apply guarded_keeps | apply State.linkSend_keeps | apply State.choose_keeps
        | apply Keeps.ite | apply PKeeps.ite) | dsimp only [State.fresh, State.choose] | split | with_reducible apply PKeeps.mk
    | refine Keeps.update ?_ rfl rfl rfl rfl rfl)

theorem caneDeleteBody_keeps {s0 s : State} (h : Keeps s0 s) (r : Req) : PKeeps s0 (caneDeleteBody s r) := by
  unfold caneDeleteBody
  repeat' (first
    | with_reducible (first
        | assumption | apply State.changeCane_keeps | apply guarded_keeps | apply PKeeps.ite) | dsimp only
    | with_reducible apply PKeeps.mk)
  all_goals (try assumption)

theorem caneQueryBody_keeps {s0 s : State} (h : Keeps s0 s) (r : Req) : PKeeps s0 (caneQueryBody s r) := by
  unfold caneQueryBody
  repeat' (first
    | with_reducible (first
        | assumption | apply guarded_keeps | apply PKeeps.ite) | split | dsimp only | with_reducible apply PKeeps.mk
    | refine Keeps.update ?_ rfl rfl rfl rfl rfl)

theorem caneMaskBody_keeps {s0 s : State} (h : Keeps s0 s) (r : Req) : PKeeps s0 (caneMaskBody s r) := by
  unfold caneMaskBody
  repeat' (first
    | with_reducible (first
        | assumption | apply State.changeCane_keeps | apply guarded_keeps | apply State.gangPlaces_keeps | apply PKeeps.ite) | split
    | dsimp only | with_reducible apply PKeeps.mk | refine Keeps.update ?_ rfl rfl rfl rfl rfl)
  all_goals (try assumption)

theorem caneListBody_keeps {s0 s : State} (h : Keeps s0 s) (r : Req) : PKeeps s0 (caneListBody s r) := by
  unfold caneListBody
  repeat' (first
    | with_reducible (first
        | assumption | apply guarded_keeps | apply PKeeps.ite) | dsimp only | with_reducible apply PKeeps.mk)

theorem unitInfoBody_keeps {s0 s : State} (h : Keeps s0 s) (r : Req) : PKeeps s0 (unitInfoBody s r) := by
  unfold unitInfoBody
  repeat' (first
    | with_reducible (first
        | assumption | apply guarded_keeps | apply Keeps.ite | apply PKeeps.ite) | split | dsimp only | with_reducible apply PKeeps.mk)

theorem execUnitInfo_keeps {s0 s : State} (h : Keeps s0 s) (r : Req) : OKeeps s0 (execUnitInfo r s) := by
  unfold execUnitInfo
  exact OKeeps.next (State.firmware_keeps h _ _ _ _ fun _ _ k => unitInfoBody_keeps k _)

theorem execCaneDefine_keeps {s0 s : State} (h : Keeps s0 s) (r : Req) : OKeeps s0 (execCaneDefine r s) := by
  unfold execCaneDefine
  repeat' (first
    | with_reducible (first
        | assumption | apply caneDefineBody_keeps | refine State.firmware_keeps ?_ _ _ _ _ (fun _ _ _ => ?_) | apply Keeps.ite
        | apply OKeeps.next | apply OKeeps.ite) | dsimp only)

theorem execCaneDelete_keeps {s0 s : State} (h : Keeps s0 s) (r : Req) : OKeeps s0 (execCaneDelete r s) := by
  unfold execCaneDelete
  repeat' (first
    | with_reducible (first
        | assumption | apply caneDeleteBody_keeps | refine State.firmware_keeps ?_ _ _ _ _ (fun _ _ _ => ?_) | apply OKeeps.next
        | apply OKeeps.ite) | dsimp only)

theorem execCaneQuery_keeps {s0 s : State} (h : Keeps s0 s) (r : Req) : OKeeps s0 (execCaneQuery r s) := by
  unfold execCaneQuery
  exact OKeeps.next (State.firmware_keeps h _ _ _ _ fun _ _ k => caneQueryBody_keeps k _)

theorem execCaneMask_keeps {s0 s : State} (h : Keeps s0 s) (r : Req) : OKeeps s0 (execCaneMask r s) := by
  unfold execCaneMask
  repeat' (first
    | with_reducible (first
        | assumption | apply caneMaskBody_keeps | refine State.firmware_keeps ?_ _ _ _ _ (fun _ _ _ => ?_) | apply OKeeps.next
        | apply OKeeps.ite) | dsimp only)

theorem execCaneList_keeps {s0 s : State} (h : Keeps s0 s) (r : Req) : OKeeps s0 (execCaneList r s) := by
  unfold execCaneList
  exact OKeeps.next (State.firmware_keeps h _ _ _ _ fun _ _ k => caneListBody_keeps k _)

end Sys2Proof.Machine
end

