-- ==== Sys2Proof/Laws/KeepsJournal.lean ====
section
/-!
SUPPORT. The functions of Journal.lean keep what `Keeps` says.
-/
namespace Sys2Proof.Machine

-- The case scripts of this file name more tactics than each case needs.
set_option linter.all false

theorem State.replayPaid_keeps {s0 s : State} (h : Keeps s0 s) (g : Nat) : Keeps s0 (State.replayPaid s g) := by
  unfold State.replayPaid
  repeat' (first
    | with_reducible (first
        | assumption | apply State.modG_keeps) | dsimp only | refine State.setTwin_same ?_ _ rfl
    | refine Keeps.update ?_ rfl rfl rfl rfl rfl)

theorem State.replayReason_keeps {s0 s : State} (h : Keeps s0 s) (g : Nat) (mirror : Bool) (c : Ckpt) : QKeeps s0 (State.replayReason s g mirror c) := by
  unfold State.replayReason
  repeat' (first
    | with_reducible (first
        | assumption | apply State.choose_keeps | apply Keeps.ite | apply QKeeps.ite) | dsimp only [State.fresh, State.choose] | split
    | with_reducible apply QKeeps.mk | refine Keeps.update ?_ rfl rfl rfl rfl rfl)

theorem State.reportLost_keeps {s0 s : State} (h : Keeps s0 s) (g : Nat) (reason : Nat) (trigger : Nat) (run : Nat) (cseq : Nat) : Keeps s0 (State.reportLost s g reason trigger run cseq) := by
  unfold State.reportLost
  repeat' (first | with_reducible (first | assumption | apply State.report_keeps) | dsimp only)

theorem State.restore_keeps {s0 s : State} (h : Keeps s0 s) (g : Nat) (c : Ckpt) (mirror : Bool) (trigger : Nat) : Keeps s0 (State.restore s g c mirror trigger) := by
  unfold State.restore
  repeat' (first
    | with_reducible (first
        | assumption | apply State.release_keeps | apply State.replayPaid_keeps | apply State.flushEtchEnds_keeps
        | apply State.comparatorsChanged_keeps | apply State.preempt_keeps | apply State.report_keeps | apply State.modSeq_keeps
        | apply State.setSmu_keeps | apply State.modG_keeps | apply Keeps.ite | refine Keeps.forAll (fun _ _ _ => ?_) ?_
        | refine Keeps.foldl (fun _ _ _ => ?_) ?_) | split | dsimp only | refine State.setSite_same ?_ _ _ rfl
    | refine Keeps.update ?_ rfl rfl rfl rfl rfl)

theorem State.replayProg_keeps {s0 s : State} (h : Keeps s0 s) (p : Nat) (succ : Nat) (loops : Tab Nat) (stack : List Nat) (pend : Option Pend) (gs : List Nat) : Keeps s0 (State.replayProg s p succ loops stack pend gs) := by
  unfold State.replayProg
  repeat' (first
    | with_reducible (first
        | assumption | apply State.beginProg_keeps | apply State.modPlay_keeps | apply Keeps.ite
        | refine Keeps.forAll (fun _ _ _ => ?_) ?_) | split | dsimp only | refine Keeps.update ?_ rfl rfl rfl rfl rfl)

theorem State.replayOne_keeps {s0 s : State} (h : Keeps s0 s) (g : Nat) : QKeeps s0 (State.replayOne s g) := by
  unfold State.replayOne
  repeat' (first
    | with_reducible (first
        | assumption | apply State.restore_keeps | apply State.reportLost_keeps | apply State.replayReason_keeps
        | apply State.replayPaid_keeps | apply Keeps.ite | apply QKeeps.ite) | with_reducible apply QKeeps.snd
    | refine QKeeps.eq ‹_ = (_, _)› ?_ | split | dsimp only | with_reducible apply QKeeps.mk | refine Keeps.update ?_ rfl rfl rfl rfl rfl)

theorem State.replayMembers_keeps {s0 s : State} (h : Keeps s0 s) (g : Nat) (c : Ckpt) : Keeps s0 (State.replayMembers s g c) := by
  unfold State.replayMembers
  extract_lets p due lead same
  split
  rename_i gs t e
  have ht : Keeps s0 t := QKeeps.eq e (QKeeps.foldl (fun acc d k =>
    QKeeps.mk (State.replayOne_keeps k.snd _).snd) (QKeeps.mk h))
  clear e
  cases lead with
  | none => exact ht
  | some l => exact Keeps.ite ht (State.replayProg_keeps ht _ _ _ _ _ _)

theorem State.replayJoin_keeps {s0 s : State} (h : Keeps s0 s) (g : Nat) : Keeps s0 (State.replayJoin s g) := by
  unfold State.replayJoin
  repeat' (first
    | with_reducible (first
        | assumption | apply State.replayProg_keeps | apply State.haltWho_keeps | apply State.modPlay_keeps | apply Keeps.ite) | split
    | dsimp only | refine Keeps.update ?_ rfl rfl rfl rfl rfl)

theorem execReplayStart_keeps {s0 s : State} (h : Keeps s0 s) (site : Fin 128) : OKeeps s0 (execReplayStart site s) := by
  unfold execReplayStart
  repeat' (first
    | with_reducible (first
        | assumption | apply State.replayJoin_keeps | apply State.replayMembers_keeps | apply State.replayOne_keeps | apply Keeps.ite
        | apply OKeeps.next | apply OKeeps.ite) | with_reducible apply QKeeps.snd | refine QKeeps.eq ‹_ = (_, _)› ?_ | split
    | dsimp only | refine Keeps.update ?_ rfl rfl rfl rfl rfl)

theorem State.vfySettle_keeps {s0 s : State} (h : Keeps s0 s) (g : Nat) : Keeps s0 (State.vfySettle s g) := by
  unfold State.vfySettle
  repeat' (first
    | with_reducible (first
        | assumption | apply State.settleAll_keeps | apply Keeps.ite | refine Keeps.foldl (fun _ _ _ => ?_) ?_) | split | dsimp only
    | refine Keeps.update ?_ rfl rfl rfl rfl rfl)

theorem execVfyOutcomeWrite_keeps {s0 s : State} (h : Keeps s0 s) (g : GIx) : OKeeps s0 (execVfyOutcomeWrite g s) := by
  unfold execVfyOutcomeWrite
  repeat' (first
    | with_reducible (first
        | assumption | apply State.vfySettle_keeps | apply State.writeMarker_keeps | apply State.report_keeps | apply State.modG_keeps
        | apply OKeeps.next | apply OKeeps.ite) | split | dsimp only | refine Keeps.update ?_ rfl rfl rfl rfl rfl)

theorem jrnConfigBody_keeps {s0 s : State} (h : Keeps s0 s) (r : Req) : PKeeps s0 (jrnConfigBody s r) := by
  unfold jrnConfigBody
  repeat' (first
    | with_reducible (first
        | assumption | apply guarded_keeps | apply Keeps.ite | apply PKeeps.ite | refine Keeps.foldl (fun _ _ _ => ?_) ?_) | split
    | dsimp only | with_reducible apply PKeeps.mk | refine State.setJournal_same ?_ _ rfl | refine Keeps.update ?_ rfl rfl rfl rfl rfl)

theorem jrnCheckpointBody_keeps {s0 s : State} (h : Keeps s0 s) (r : Req) : PKeeps s0 (jrnCheckpointBody s r) := by
  unfold jrnCheckpointBody
  repeat' (first
    | with_reducible (first
        | assumption | apply guarded_keeps | apply PKeeps.ite) | split | dsimp only | with_reducible apply PKeeps.mk
    | refine Keeps.update ?_ rfl rfl rfl rfl rfl)

theorem jrnMarkersBody_keeps {s0 s : State} (h : Keeps s0 s) (r : Req) : PKeeps s0 (jrnMarkersBody s r) := by
  unfold jrnMarkersBody
  repeat' (first
    | with_reducible (first
        | assumption | apply guarded_keeps | apply PKeeps.ite) | split | dsimp only | with_reducible apply PKeeps.mk
    | refine Keeps.update ?_ rfl rfl rfl rfl rfl)

theorem jrnReportBody_keeps {s0 s : State} (h : Keeps s0 s) (r : Req) : PKeeps s0 (jrnReportBody s r) := by
  exact guarded_keeps h _ (PKeeps.mk (State.setJournal_keeps h _ fun k =>
    ⟨Nat.le_trans (List.length_drop ▸ Nat.sub_le _ _) k.1, k.2⟩))

theorem execJrnConfig_keeps {s0 s : State} (h : Keeps s0 s) (r : Req) : OKeeps s0 (execJrnConfig r s) := by
  unfold execJrnConfig
  exact OKeeps.next (State.firmware_keeps h _ _ _ _ fun _ _ k => jrnConfigBody_keeps k _)

theorem execJrnCheckpoint_keeps {s0 s : State} (h : Keeps s0 s) (r : Req) : OKeeps s0 (execJrnCheckpoint r s) := by
  unfold execJrnCheckpoint
  exact OKeeps.next (State.firmware_keeps h _ _ _ _ fun _ _ k => jrnCheckpointBody_keeps k _)

theorem execJrnMarkers_keeps {s0 s : State} (h : Keeps s0 s) (r : Req) : OKeeps s0 (execJrnMarkers r s) := by
  unfold execJrnMarkers
  exact OKeeps.next (State.firmware_keeps h _ _ _ _ fun _ _ k => jrnMarkersBody_keeps k _)

theorem execJrnReport_keeps {s0 s : State} (h : Keeps s0 s) (r : Req) : OKeeps s0 (execJrnReport r s) := by
  unfold execJrnReport
  exact OKeeps.next (State.firmware_keeps h _ _ _ _ fun _ _ k => jrnReportBody_keeps k _)

end Sys2Proof.Machine
end

