-- ==== Sys2Proof/Laws/KeepsTime.lean ====
section
/-!
SUPPORT. The functions of Time.lean keep what `Keeps` says.
-/
namespace Sys2Proof.Machine

-- The case scripts of this file name more tactics than each case needs.
set_option linter.all false

theorem State.tick_keeps {s0 s : State} (h : Keeps s0 s)  : Keeps s0 (State.tick s) := by
  unfold State.tick
  repeat' (first | with_reducible (first | assumption | apply Keeps.ite) | split | dsimp only | refine Keeps.update ?_ rfl rfl rfl rfl rfl)

theorem State.idle_keeps {s0 s : State} (h : Keeps s0 s)  : Keeps s0 (State.idle s) := by
  unfold State.idle
  repeat' (first
    | with_reducible (first
        | assumption | apply State.tick_keeps | apply State.selftestsDone_keeps | apply State.syncAfter_keeps | apply State.waves_keeps
        | apply Keeps.ite) | split | dsimp only | refine State.setHatch_same ?_ _ rfl | refine Keeps.update ?_ rfl rfl rfl rfl rfl)

theorem State.modTime_keeps {s0 s : State} (h : Keeps s0 s) (f : NetTime → NetTime) : Keeps s0 (State.modTime s f) := by
  unfold State.modTime
  repeat' (first | assumption | dsimp only | refine Keeps.update ?_ rfl rfl rfl rfl rfl)

theorem State.fireTcmp_keeps {s0 s : State} (h : Keeps s0 s) (n : Nat) (late : Bool) (stepped : Bool) : Keeps s0 (State.fireTcmp s n late stepped) := by
  unfold State.fireTcmp
  repeat' (first
    | with_reducible (first
        | assumption | apply State.setTcmp_keeps | apply State.syncAll_keeps | apply Keeps.ite | apply State.setPstate_keeps) | dsimp only | refine Keeps.update ?_ rfl rfl rfl rfl rfl)

theorem execTcmpFire_keeps {s0 s : State} (h : Keeps s0 s) (n : Fin 16) : OKeeps s0 (execTcmpFire n s) := by
  unfold execTcmpFire
  repeat' (first
    | with_reducible (first
        | assumption | apply State.fireTcmp_keeps | apply Keeps.ite | apply OKeeps.next | apply OKeeps.ite) | dsimp only)

theorem State.stepTime_keeps {s0 s : State} (h : Keeps s0 s) (adj : Int) (forced : Bool) : Keeps s0 (State.stepTime s adj forced) := by
  unfold State.stepTime
  repeat' (first
    | with_reducible (first
        | assumption | apply State.fireTcmp_keeps | apply State.modTime_keeps | refine Keeps.forAll (fun _ _ _ => ?_) ?_) | dsimp only
    | refine Keeps.update ?_ rfl rfl rfl rfl rfl)

theorem State.refuseStep_keeps {s0 s : State} (h : Keeps s0 s)  : Keeps s0 (State.refuseStep s) := by
  unfold State.refuseStep
  repeat' (first
    | with_reducible (first
        | assumption | apply State.modTime_keeps | apply State.advise_keeps) | dsimp only | refine Keeps.update ?_ rfl rfl rfl rfl rfl)

theorem State.servoStep_keeps {s0 s : State} (h : Keeps s0 s) (offset : Int) : Keeps s0 (State.servoStep s offset) := by
  unfold State.servoStep
  repeat' (first
    | with_reducible (first
        | assumption | apply State.refuseStep_keeps | apply State.stepTime_keeps | apply State.modTime_keeps | apply State.sync_keeps
        | apply Keeps.ite) | split | dsimp only | refine Keeps.update ?_ rfl rfl rfl rfl rfl)

theorem State.servo_keeps {s0 s : State} (h : Keeps s0 s) (offset : Int) : Keeps s0 (State.servo s offset) := by
  unfold State.servo
  repeat' (first
    | with_reducible (first
        | assumption | apply State.servoStep_keeps | apply State.modTime_keeps | apply State.choose_keeps | apply State.fresh_keeps
        | apply Keeps.ite) | dsimp only [State.fresh, State.choose] | split | refine Keeps.update ?_ rfl rfl rfl rfl rfl)

theorem State.synced_keeps {s0 s : State} (h : Keeps s0 s) (diff : Int) : Keeps s0 (State.synced s diff) := by
  unfold State.synced
  repeat' (first
    | with_reducible (first
        | assumption | apply State.servo_keeps | apply State.modTime_keeps) | dsimp only | refine Keeps.update ?_ rfl rfl rfl rfl rfl)

theorem execPtpSync_keeps {s0 s : State} (h : Keeps s0 s) (port : Two) (m : PtpSync) : OKeeps s0 (execPtpSync port m s) := by
  unfold execPtpSync
  repeat' (first
    | with_reducible (first
        | assumption | apply State.synced_keeps | apply State.modTime_keeps | apply Keeps.ite | apply OKeeps.next | apply OKeeps.ite)
    | split | dsimp only | refine Keeps.update ?_ rfl rfl rfl rfl rfl)
  all_goals (try assumption)

theorem execSyncTimeout_keeps {s0 s : State} (h : Keeps s0 s)  : OKeeps s0 (execSyncTimeout s) := by
  unfold execSyncTimeout
  repeat' (first
    | with_reducible (first
        | assumption | apply State.modTime_keeps | apply State.sync_keeps | apply Keeps.ite | apply OKeeps.next | apply OKeeps.ite)
    | dsimp only | refine Keeps.update ?_ rfl rfl rfl rfl rfl)

theorem State.delayed_keeps {s0 s : State} (h : Keeps s0 s) (p2p : Bool) (twice : Int) : Keeps s0 (State.delayed s p2p twice) := by
  unfold State.delayed
  repeat' (first
    | with_reducible (first
        | assumption | apply State.modTime_keeps | apply Keeps.ite) | split | dsimp only | refine Keeps.update ?_ rfl rfl rfl rfl rfl)

theorem execPtpMessage_keeps {s0 s : State} (h : Keeps s0 s) (port : Two) (m : PtpMsg) : OKeeps s0 (execPtpMessage port m s) := by
  unfold execPtpMessage
  repeat' (first
    | with_reducible (first
        | assumption | apply State.delayed_keeps | apply State.synced_keeps | apply State.modTime_keeps | apply State.send_keeps
        | apply Keeps.ite | apply OKeeps.next | apply OKeeps.ite) | split | dsimp only | refine Keeps.update ?_ rfl rfl rfl rfl rfl)

theorem ptpConfigBody_keeps {s0 s : State} (h : Keeps s0 s) (r : Req) : PKeeps s0 (ptpConfigBody s r) := by
  unfold ptpConfigBody
  repeat' (first
    | with_reducible (first
        | assumption | apply State.modTime_keeps | apply guarded_keeps | apply PKeeps.ite) | dsimp only
    | with_reducible apply PKeeps.mk | refine Keeps.update ?_ rfl rfl rfl rfl rfl)

theorem timeStatusBody_keeps {s0 s : State} (h : Keeps s0 s) (r : Req) : PKeeps s0 (timeStatusBody s r) := by
  unfold timeStatusBody
  repeat' (first
    | with_reducible (first
        | assumption | apply guarded_keeps | apply PKeeps.ite) | dsimp only | with_reducible apply PKeeps.mk)

theorem timeAdjustBody_keeps {s0 s : State} (h : Keeps s0 s) (r : Req) : PKeeps s0 (timeAdjustBody s r) := by
  unfold timeAdjustBody
  repeat' (first
    | with_reducible (first
        | assumption | apply State.modTime_keeps | apply guarded_keeps | apply PKeeps.ite) | dsimp only
    | with_reducible apply PKeeps.mk | refine Keeps.update ?_ rfl rfl rfl rfl rfl)

theorem timeStepBody_keeps {s0 s : State} (h : Keeps s0 s) (r : Req) : PKeeps s0 (timeStepBody s r) := by
  unfold timeStepBody
  repeat' (first
    | with_reducible (first
        | assumption | apply State.refuseStep_keeps | apply State.stepTime_keeps | apply guarded_keeps | apply Keeps.ite
        | apply PKeeps.ite) | split | dsimp only | with_reducible apply PKeeps.mk)

theorem tcmpArmBody_keeps {s0 s : State} (h : Keeps s0 s) (r : Req) : PKeeps s0 (tcmpArmBody s r) := by
  unfold tcmpArmBody
  repeat' (first
    | with_reducible (first
        | assumption | apply State.fireTcmp_keeps | apply State.setTcmp_keeps | apply guarded_keeps | apply Keeps.ite
        | apply PKeeps.ite) | dsimp only | with_reducible apply PKeeps.mk)

theorem tcmpStatusBody_keeps {s0 s : State} (h : Keeps s0 s) (r : Req) : PKeeps s0 (tcmpStatusBody s r) := by
  unfold tcmpStatusBody
  repeat' (first
    | with_reducible (first
        | assumption | apply guarded_keeps | apply PKeeps.ite) | dsimp only | with_reducible apply PKeeps.mk)

theorem execPtpConfig_keeps {s0 s : State} (h : Keeps s0 s) (r : Req) : OKeeps s0 (execPtpConfig r s) := by
  unfold execPtpConfig
  exact OKeeps.next (State.firmware_keeps h _ _ _ _ fun _ _ k => ptpConfigBody_keeps k _)

theorem execTimeStatus_keeps {s0 s : State} (h : Keeps s0 s) (r : Req) : OKeeps s0 (execTimeStatus r s) := by
  unfold execTimeStatus
  exact OKeeps.next (State.firmware_keeps h _ _ _ _ fun _ _ k => timeStatusBody_keeps k _)

theorem execTimeAdjust_keeps {s0 s : State} (h : Keeps s0 s) (r : Req) : OKeeps s0 (execTimeAdjust r s) := by
  unfold execTimeAdjust
  exact OKeeps.next (State.firmware_keeps h _ _ _ _ fun _ _ k => timeAdjustBody_keeps k _)

theorem execTimeStep_keeps {s0 s : State} (h : Keeps s0 s) (r : Req) : OKeeps s0 (execTimeStep r s) := by
  unfold execTimeStep
  exact OKeeps.next (State.firmware_keeps h _ _ _ _ fun _ _ k => timeStepBody_keeps k _)

theorem execTcmpArm_keeps {s0 s : State} (h : Keeps s0 s) (r : Req) : OKeeps s0 (execTcmpArm r s) := by
  unfold execTcmpArm
  exact OKeeps.next (State.firmware_keeps h _ _ _ _ fun _ _ k => tcmpArmBody_keeps k _)

theorem execTcmpStatus_keeps {s0 s : State} (h : Keeps s0 s) (r : Req) : OKeeps s0 (execTcmpStatus r s) := by
  unfold execTcmpStatus
  exact OKeeps.next (State.firmware_keeps h _ _ _ _ fun _ _ k => tcmpStatusBody_keeps k _)

end Sys2Proof.Machine
end

