-- ==== Sys2Proof/Laws/KeepsNet.lean ====
section
/-!
SUPPORT. The functions of Net.lean keep what `Keeps` says.
-/
namespace Sys2Proof.Machine

-- The case scripts of this file name more tactics than each case needs.
set_option linter.all false

theorem State.modPort_keeps {s0 s : State} (h : Keeps s0 s) (p : Nat) (f : Port → Port) : Keeps s0 (State.modPort s p f) := by
  unfold State.modPort
  repeat' (first | with_reducible (first | assumption | apply State.setPort_keeps) | dsimp only)

theorem State.receive_keeps {s0 s : State} (h : Keeps s0 s) (p : Nat) (mailbox : Bool) (frame : EthFrame) {f : State → State}
    (hf : Keeps s0 (f s)) : Keeps s0 (s.receive p mailbox frame f) := by
  unfold State.receive
  refine Keeps.ite h ?_
  split
  · exact State.modPort_keeps h _ _
  · exact hf

theorem execUdpAck_keeps {s0 s : State} (h : Keeps s0 s) (port : Two) (frame : EthFrame) (mbx : Byte) (word : Word) : OKeeps s0 (execUdpAck port frame mbx word s) := by
  exact OKeeps.next (State.receive_keeps h _ _ _ (Keeps.ite h (Keeps.ite (State.ackPart_keeps h _ _)
    (Keeps.ite (State.ackBatch_keeps h _) h))))

theorem execUdpPoll_keeps {s0 s : State} (h : Keeps s0 s) (port : Two) (frame : EthFrame) (mbx : Byte) : OKeeps s0 (execUdpPoll port frame mbx s) := by
  exact OKeeps.next (State.receive_keeps h _ _ _ (Keeps.ite h (Keeps.ite (State.sendShown_keeps h _)
    (Keeps.ite (State.send_keeps h _ _) h))))

theorem execArpNeighbourEcho_keeps {s0 s : State} (h : Keeps s0 s) (port : Two) (frame : EthFrame) (kind : EchoKind) : OKeeps s0 (execArpNeighbourEcho port frame kind s) := by
  exact OKeeps.next (State.receive_keeps h _ _ _ (Keeps.ite (State.send_keeps h _ _) h))

theorem execEthLinkUp_keeps {s0 s : State} (h : Keeps s0 s) (port : Two) : OKeeps s0 (execEthLinkUp port s) := by
  unfold execEthLinkUp
  repeat' (first
    | with_reducible (first
        | assumption | apply State.setPort_keeps | apply Keeps.ite | apply OKeeps.next | apply OKeeps.ite) | dsimp only
    | refine Keeps.update ?_ rfl rfl rfl rfl rfl)

theorem execEthLinkLoss_keeps {s0 s : State} (h : Keeps s0 s) (port : Two) : OKeeps s0 (execEthLinkLoss port s) := by
  unfold execEthLinkLoss
  repeat' (first
    | with_reducible (first
        | assumption | apply State.modPort_keeps | apply State.advise_keeps | apply Keeps.ite | apply OKeeps.next | apply OKeeps.ite)
    | dsimp only | refine Keeps.update ?_ rfl rfl rfl rfl rfl)

theorem State.modExp_keeps {s0 s : State} (h : Keeps s0 s) (f : Exporter → Exporter) : Keeps s0 (State.modExp s f) := by
  unfold State.modExp
  repeat' (first | assumption | dsimp only | refine Keeps.update ?_ rfl rfl rfl rfl rfl)

theorem State.resend_keeps {s0 s : State} (h : Keeps s0 s) (seq : Nat) : Keeps s0 (State.resend s seq) := by
  unfold State.resend
  repeat' (first
    | with_reducible (first
        | assumption | apply State.modExp_keeps | apply State.send_keeps | apply Keeps.ite) | split | dsimp only
    | refine Keeps.update ?_ rfl rfl rfl rfl rfl)

theorem State.closeExport_keeps {s0 s : State} (h : Keeps s0 s)  : Keeps s0 (State.closeExport s) := by
  unfold State.closeExport
  repeat' (first
    | with_reducible (first
        | assumption | apply State.modExp_keeps | apply State.respond_keeps | refine Keeps.forAll (fun _ _ _ => ?_) ?_) | dsimp only
    | refine Keeps.update ?_ rfl rfl rfl rfl rfl)

theorem State.exportDone_keeps {s0 s : State} (h : Keeps s0 s)  : Keeps s0 (State.exportDone s) := by
  unfold State.exportDone
  repeat' (first | with_reducible (first | assumption | apply State.closeExport_keeps | apply Keeps.ite) | split | dsimp only)

theorem execExportDatagramSend_keeps {s0 s : State} (h : Keeps s0 s)  : OKeeps s0 (execExportDatagramSend s) := by
  unfold execExportDatagramSend
  repeat' (first
    | with_reducible (first
        | assumption | apply State.sendDgram_keeps | apply Keeps.ite | apply OKeeps.next | apply OKeeps.ite) | dsimp only)

theorem execExportAck_keeps {s0 s : State} (h : Keeps s0 s) (fromDest : Bool) (crcOk : Bool) (ackSeq : Word) (naks : List Word) : OKeeps s0 (execExportAck fromDest crcOk ackSeq naks s) := by
  unfold execExportAck
  repeat' (first
    | with_reducible (first
        | assumption | apply State.exportDone_keeps | apply State.resend_keeps | apply State.modExp_keeps | apply State.modPort_keeps
        | apply Keeps.ite | apply OKeeps.next | apply OKeeps.ite | refine Keeps.forAll (fun _ _ _ => ?_) ?_) | split | dsimp only
    | refine Keeps.update ?_ rfl rfl rfl rfl rfl)

theorem execExportRto_keeps {s0 s : State} (h : Keeps s0 s) (seq : Word) : OKeeps s0 (execExportRto seq s) := by
  unfold execExportRto
  repeat' (first
    | with_reducible (first
        | assumption | apply State.resend_keeps | apply State.modExp_keeps | apply State.advise_keeps | apply Keeps.ite
        | apply OKeeps.next | apply OKeeps.ite) | split | dsimp only | refine Keeps.update ?_ rfl rfl rfl rfl rfl)

theorem execExportCloseTimeout_keeps {s0 s : State} (h : Keeps s0 s)  : OKeeps s0 (execExportCloseTimeout s) := by
  unfold execExportCloseTimeout
  repeat' (first
    | with_reducible (first
        | assumption | apply State.closeExport_keeps | apply Keeps.ite | apply OKeeps.next | apply OKeeps.ite) | dsimp only)

theorem netConfigBody_keeps {s0 s : State} (h : Keeps s0 s) (r : Req) : PKeeps s0 (netConfigBody s r) := by
  unfold netConfigBody
  repeat' (first
    | with_reducible (first
        | assumption | apply State.modPort_keeps | apply guarded_keeps | apply PKeeps.ite) | dsimp only
    | with_reducible apply PKeeps.mk | refine Keeps.update ?_ rfl rfl rfl rfl rfl)

theorem netStatusBody_keeps {s0 s : State} (h : Keeps s0 s) (r : Req) : PKeeps s0 (netStatusBody s r) := by
  unfold netStatusBody
  repeat' (first
    | with_reducible (first
        | assumption | apply guarded_keeps | apply PKeeps.ite) | dsimp only | with_reducible apply PKeeps.mk)

theorem exportOpenBody_keeps {s0 s : State} (h : Keeps s0 s) (r : Req) : PKeeps s0 (exportOpenBody s r) := by
  unfold exportOpenBody
  repeat' (first
    | with_reducible (first
        | assumption | apply guarded_keeps | apply PKeeps.ite) | dsimp only | with_reducible apply PKeeps.mk
    | refine Keeps.update ?_ rfl rfl rfl rfl rfl)

theorem exportCloseBody_keeps {s0 s : State} (h : Keeps s0 s) (r : Req) : PKeeps s0 (exportCloseBody s r) := by
  unfold exportCloseBody
  repeat' (first
    | with_reducible (first
        | assumption | apply State.closeExport_keeps | apply State.modExp_keeps | apply guarded_keeps | apply State.sendDgram_keeps
        | apply Keeps.ite | apply PKeeps.ite) | split | dsimp only | with_reducible apply PKeeps.mk
    | refine Keeps.update ?_ rfl rfl rfl rfl rfl)

theorem exportStatusBody_keeps {s0 s : State} (h : Keeps s0 s) (r : Req) : PKeeps s0 (exportStatusBody s r) := by
  unfold exportStatusBody
  repeat' (first
    | with_reducible (first
        | assumption | apply guarded_keeps | apply PKeeps.ite) | dsimp only | with_reducible apply PKeeps.mk)

theorem exportResendBody_keeps {s0 s : State} (h : Keeps s0 s) (r : Req) : PKeeps s0 (exportResendBody s r) := by
  unfold exportResendBody
  repeat' (first
    | with_reducible (first
        | assumption | apply State.resend_keeps | apply guarded_keeps | apply PKeeps.ite | refine Keeps.forAll (fun _ _ _ => ?_) ?_)
    | dsimp only | with_reducible apply PKeeps.mk)

theorem execNetConfig_keeps {s0 s : State} (h : Keeps s0 s) (r : Req) : OKeeps s0 (execNetConfig r s) := by
  unfold execNetConfig
  exact OKeeps.next (State.firmware_keeps h _ _ _ _ fun _ _ k => netConfigBody_keeps k _)

theorem execNetStatus_keeps {s0 s : State} (h : Keeps s0 s) (r : Req) : OKeeps s0 (execNetStatus r s) := by
  unfold execNetStatus
  exact OKeeps.next (State.firmware_keeps h _ _ _ _ fun _ _ k => netStatusBody_keeps k _)

theorem execExportOpen_keeps {s0 s : State} (h : Keeps s0 s) (r : Req) : OKeeps s0 (execExportOpen r s) := by
  unfold execExportOpen
  exact OKeeps.next (State.firmware_keeps h _ _ _ _ fun _ _ k => exportOpenBody_keeps k _)

theorem execExportClose_keeps {s0 s : State} (h : Keeps s0 s) (r : Req) : OKeeps s0 (execExportClose r s) := by
  unfold execExportClose
  repeat' (first
    | with_reducible (first
        | assumption | apply exportCloseBody_keeps | refine State.firmware_keeps ?_ _ _ _ _ (fun _ _ _ => ?_) | apply OKeeps.next
        | apply OKeeps.ite) | dsimp only)

theorem execExportStatus_keeps {s0 s : State} (h : Keeps s0 s) (r : Req) : OKeeps s0 (execExportStatus r s) := by
  unfold execExportStatus
  exact OKeeps.next (State.firmware_keeps h _ _ _ _ fun _ _ k => exportStatusBody_keeps k _)

theorem execExportResend_keeps {s0 s : State} (h : Keeps s0 s) (r : Req) : OKeeps s0 (execExportResend r s) := by
  unfold execExportResend
  exact OKeeps.next (State.firmware_keeps h _ _ _ _ fun _ _ k => exportResendBody_keeps k _)

end Sys2Proof.Machine
end

