-- ==== Sys2Proof/Laws/KeepsFront.lean ====
section
/-!
SUPPORT. The functions of Front.lean keep what `Keeps` says.
-/
namespace Sys2Proof.Machine

-- The case scripts of this file name more tactics than each case needs.
set_option linter.all false

theorem State.setChain_keeps {s0 s : State} (h : Keeps s0 s) (c : Chain) : Keeps s0 (State.setChain s c) := by
  unfold State.setChain
  repeat' (first | assumption | dsimp only | refine Keeps.update ?_ rfl rfl rfl rfl rfl)

theorem State.modPath_keeps {s0 s : State} (h : Keeps s0 s) (p : Path) (f : ChainPath → ChainPath) : Keeps s0 (State.modPath s p f) := by
  unfold State.modPath
  repeat' (first | with_reducible (first | assumption | apply State.setChain_keeps) | dsimp only)

theorem State.readWord_keeps {s0 s : State} (h : Keeps s0 s) (p : Path) (a : Nat) : PKeeps s0 (State.readWord s p a) := by
  unfold State.readWord
  repeat' (first
    | with_reducible (first
        | assumption | apply State.modPath_keeps | apply Keeps.ite | apply PKeeps.ite) | split | dsimp only
    | with_reducible apply PKeeps.mk | refine Keeps.update ?_ rfl rfl rfl rfl rfl)

theorem State.checkPos_keeps {s0 s : State} (h : Keeps s0 s)  : Keeps s0 (State.checkPos s) := by
  unfold State.checkPos
  repeat' (first
    | with_reducible (first
        | assumption | apply State.setChain_keeps | apply State.advise_keeps | apply Keeps.ite) | split | dsimp only
    | refine Keeps.update ?_ rfl rfl rfl rfl rfl)

end Sys2Proof.Machine
end

