-- ==== Sys2Proof/Laws/KeepsSys.lean ====
section
/-!
SUPPORT. The functions of Sys.lean keep what `Keeps` says.
-/
namespace Sys2Proof.Machine

-- The case scripts of this file name more tactics than each case needs.
set_option linter.all false

theorem sysPingBody_keeps {s0 s : State} (h : Keeps s0 s) (r : Req) : PKeeps s0 (sysPingBody s r) := by
  unfold sysPingBody
  repeat' (first | with_reducible (first | assumption | apply PKeeps.ite) | dsimp only | with_reducible apply PKeeps.mk)

theorem sysInfoBody_keeps {s0 s : State} (h : Keeps s0 s) (r : Req) : PKeeps s0 (sysInfoBody s r) := by
  unfold sysInfoBody
  repeat' (first
    | with_reducible (first
        | assumption | apply guarded_keeps | apply PKeeps.ite) | dsimp only | with_reducible apply PKeeps.mk)

theorem sysMbxInfoBody_keeps {s0 s : State} (h : Keeps s0 s) (r : Req) : PKeeps s0 (sysMbxInfoBody s r) := by
  unfold sysMbxInfoBody
  repeat' (first
    | with_reducible (first
        | assumption | apply guarded_keeps | apply PKeeps.ite) | dsimp only | with_reducible apply PKeeps.mk)

theorem sysFenceBody_keeps {s0 s : State} (h : Keeps s0 s) (r : Req) : PKeeps s0 (sysFenceBody s r) := by
  unfold sysFenceBody
  repeat' (first
    | with_reducible (first
        | assumption | apply guarded_keeps | apply Keeps.ite | apply PKeeps.ite) | split | dsimp only | with_reducible apply PKeeps.mk)

theorem sysResetBody_keeps {s0 s : State} (h : Keeps s0 s) (r : Req) : PKeeps s0 (sysResetBody s r) := by
  unfold sysResetBody
  repeat' (first
    | with_reducible (first
        | assumption | apply guarded_keeps | apply PKeeps.ite) | dsimp only | with_reducible apply PKeeps.mk
    | refine Keeps.update ?_ rfl rfl rfl rfl rfl)

theorem sysPowerBody_keeps {s0 s : State} (h : Keeps s0 s) (r : Req) : PKeeps s0 (sysPowerBody s r) := by
  unfold sysPowerBody
  repeat' (first
    | with_reducible (first
        | assumption | apply guarded_keeps | apply State.linkSend_keeps | apply Keeps.ite | apply PKeeps.ite) | split | dsimp only
    | with_reducible apply PKeeps.mk | refine Keeps.update ?_ rfl rfl rfl rfl rfl)

theorem execSysPing_keeps {s0 s : State} (h : Keeps s0 s) (r : Req) : OKeeps s0 (execSysPing r s) := by
  unfold execSysPing
  exact OKeeps.next (State.firmware_keeps h _ _ _ _ fun _ _ k => sysPingBody_keeps k _)

theorem execSysInfo_keeps {s0 s : State} (h : Keeps s0 s) (r : Req) : OKeeps s0 (execSysInfo r s) := by
  unfold execSysInfo
  exact OKeeps.next (State.firmware_keeps h _ _ _ _ fun _ _ k => sysInfoBody_keeps k _)

theorem execSysMbxInfo_keeps {s0 s : State} (h : Keeps s0 s) (r : Req) : OKeeps s0 (execSysMbxInfo r s) := by
  unfold execSysMbxInfo
  exact OKeeps.next (State.firmware_keeps h _ _ _ _ fun _ _ k => sysMbxInfoBody_keeps k _)

theorem execSysFence_keeps {s0 s : State} (h : Keeps s0 s) (r : Req) : OKeeps s0 (execSysFence r s) := by
  unfold execSysFence
  exact OKeeps.next (State.firmware_keeps h _ _ _ _ fun _ _ k => sysFenceBody_keeps k _)

theorem execSysReset_keeps {s0 s : State} (h : Keeps s0 s) (r : Req) : OKeeps s0 (execSysReset r s) := by
  unfold execSysReset
  exact OKeeps.next (State.firmware_keeps h _ _ _ _ fun _ _ k => sysResetBody_keeps k _)

theorem execSysPower_keeps {s0 s : State} (h : Keeps s0 s) (r : Req) : OKeeps s0 (execSysPower r s) := by
  unfold execSysPower
  exact OKeeps.next (State.firmware_keeps h _ _ _ _ fun _ _ k => sysPowerBody_keeps k _)

end Sys2Proof.Machine
end

