-- ==== Sys2Proof/Laws/KeepsPower.lean ====
section
/-!
SUPPORT. The functions of Power.lean keep what `Keeps` says.
-/
namespace Sys2Proof.Machine

-- The case scripts of this file name more tactics than each case needs.
set_option linter.all false

theorem State.dispose_keeps {s0 s : State} (h : Keeps s0 s) (po : Power) : Keeps s0 { s with power := po, sec := s.sec.dispose } := by
  refine h.update rfl rfl rfl rfl ?_
  unfold Sec.dispose
  split <;> rfl

theorem execPfailAssert_keeps {s0 s : State} (h : Keeps s0 s) (pulseNs : Nat) : OKeeps s0 (execPfailAssert pulseNs s) := by
  unfold execPfailAssert
  repeat' (first
    | with_reducible (first
        | assumption | apply State.park_keeps | apply State.pulseActs_keeps | apply Keeps.ite | apply OKeeps.next | apply OKeeps.ite)
    | with_reducible apply QKeeps.snd | refine QKeeps.eq ‹_ = (_, _)› ?_ | split | dsimp only)

theorem execPfailHighExpiry_keeps {s0 s : State} (h : Keeps s0 s)  : OKeeps s0 (execPfailHighExpiry s) := by
  unfold execPfailHighExpiry
  repeat' (first
    | with_reducible (first
        | assumption | apply State.orderlyReset_keeps | apply Keeps.ite | apply OKeeps.next | apply OKeeps.ite) | dsimp only)

theorem execResetNAssert_keeps {s0 s : State} (h : Keeps s0 s) (pulseNs : Nat) : OKeeps s0 (execResetNAssert pulseNs s) := by
  unfold execResetNAssert
  repeat' (first
    | with_reducible (first
        | assumption | apply State.orderlyReset_keeps | apply State.pulseActs_keeps | apply Keeps.ite | apply OKeeps.next
        | apply OKeeps.ite) | with_reducible apply QKeeps.snd | refine QKeeps.eq ‹_ = (_, _)› ?_ | split | dsimp only)

theorem State.powerOnReset_keeps {s0 s : State} (h : Keeps s0 s) (vddaoLost : Bool) : Keeps s0 (State.powerOnReset s vddaoLost) := by
  unfold State.powerOnReset
  repeat' (first
    | with_reducible (first
        | assumption | apply State.deviceReset_keeps | apply Keeps.ite) | split | dsimp only | refine Keeps.update ?_ rfl rfl rfl rfl rfl)

theorem execPowerOnReset_keeps {s0 s : State} (h : Keeps s0 s) (vddaoLost : Bool) : OKeeps s0 (execPowerOnReset vddaoLost s) := by
  unfold execPowerOnReset
  repeat' (first
    | with_reducible (first
        | assumption | apply State.powerOnReset_keeps | apply OKeeps.next | apply OKeeps.ite) | dsimp only)

theorem execResetTimer_keeps {s0 s : State} (h : Keeps s0 s)  : OKeeps s0 (execResetTimer s) := by
  unfold execResetTimer
  repeat' (first
    | with_reducible (first
        | assumption | apply State.orderlyReset_keeps | apply OKeeps.next | apply OKeeps.ite) | split | dsimp only
    | refine Keeps.update ?_ rfl rfl rfl rfl rfl)

theorem execRailOutOfWindow_keeps {s0 s : State} (h : Keeps s0 s) (r : Rail) (mv : Int) : OKeeps s0 (execRailOutOfWindow r mv s) := by
  unfold execRailOutOfWindow
  repeat' (first
    | with_reducible (first
        | assumption | apply State.powerOnReset_keeps | apply State.addCause_keeps | apply State.ampRailLost_keeps
        | apply State.raise_keeps | apply Keeps.ite | apply OKeeps.next | apply OKeeps.ite) | split | dsimp only
    | refine Keeps.update ?_ rfl rfl rfl rfl rfl)

theorem State.scanSite_keeps {s0 s : State} (h : Keeps s0 s) (site : Nat) : Keeps s0 (State.scanSite s site) := by
  unfold State.scanSite
  repeat' (first
    | with_reducible (first
        | assumption | apply State.report_keeps | apply Keeps.ite | refine Keeps.foldl (fun _ _ _ => ?_) ?_) | split | dsimp only
    | refine State.setSite_same ?_ _ _ rfl | refine Keeps.update ?_ rfl rfl rfl rfl rfl)

theorem State.scanMarkers_keeps {s0 s : State} (h : Keeps s0 s)  : Keeps s0 (State.scanMarkers s) := by
  unfold State.scanMarkers
  repeat' (first
    | with_reducible (first
        | assumption | apply State.scanSite_keeps | refine Keeps.forAll (fun _ _ _ => ?_) ?_) | dsimp only)

theorem State.bootImage_keeps {s0 s : State} (h : Keeps s0 s) (slotA : Bool) (slotB : Bool) : Keeps s0 (State.bootImage s slotA slotB) := by
  unfold State.bootImage
  repeat' (first | assumption | split | dsimp only | refine Keeps.update ?_ rfl rfl rfl rfl rfl)

theorem State.loaderPort_keeps {s0 s : State} (h : Keeps s0 s)  : Keeps s0 (State.loaderPort s) := by
  unfold State.loaderPort
  repeat' (first
    | with_reducible (first
        | assumption | apply State.setPort_keeps | apply Keeps.ite) | split | dsimp only | refine Keeps.update ?_ rfl rfl rfl rfl rfl)

theorem State.relatch_keeps {s0 s : State} (h : Keeps s0 s)  : Keeps s0 (State.relatch s) := by
  unfold State.relatch
  split
  · exact h
  · rename_i d ds _
    extract_lets f u1 u2
    have hf : ∀ (l : List Rec) (f : Faults), f.orderly →
        (l.foldl (fun (f : Faults) r => if f.recs.any (·.names r.src r.scope) then f else f.keep r) f).orderly := by
      intro l
      induction l with
      | nil => exact fun _ o => o
      | cons r l ih =>
        intro f o
        refine ih _ ?_
        dsimp only
        split
        · exact o
        · exact Faults.keep_orderly o _ (Bool.eq_false_iff.2 ‹_›)
    have h1 : Keeps s0 u1 := State.setFaults_keeps h _ fun o => hf _ _ o
    exact Keeps.ite (State.holdProcessor_keeps (State.enterAnneal_keeps h1 _)) (State.enterAnneal_keeps h1 _)

theorem State.bootCal_keeps {s0 s : State} (h : Keeps s0 s) (newer older : Bool) : Keeps s0 (s.bootCal newer older) := by
  unfold State.bootCal
  repeat' (first
    | with_reducible (first
        | assumption | apply State.advise_keeps | apply Keeps.ite) | split | dsimp only | refine Keeps.update ?_ rfl rfl rfl rfl rfl)

theorem execStartup_keeps {s0 s : State} (h : Keeps s0 s) (chainPos : BitVec 6) (chainLast : Bool) (twinId : Bool) (slotA : Bool) (slotB : Bool) (calNewer : Bool) (calOlder : Bool) (clocks : Clocks) : OKeeps s0 (execStartup chainPos chainLast twinId slotA slotB calNewer calOlder clocks s) := by
  unfold execStartup
  refine OKeeps.ite (OKeeps.next h) ?_
  extract_lets a1 s1 a2 s2 s3 a4 s4 s5 s6 s7
  have h1 : Keeps s0 s1 := State.checkPos_keeps (State.setChain_keeps h _)
  have h2 : Keeps s0 s2 := State.dispose_keeps h1 _
  clear_value s2
  have h3 : Keeps s0 s3 := State.scanMarkers_keeps (State.bootCal_keeps (State.loaderPort_keeps (State.bootImage_keeps h2 _ _)) _ _)
  have h4 : Keeps s0 a4 := State.setPstate_keeps h3 _
  clear_value a4
  have h5 : Keeps s0 s4 := Keeps.update h4 rfl rfl rfl rfl rfl
  have h6 : Keeps s0 s6 := State.syncAll_keeps (State.relatch_keeps (State.clearAtStart_keeps h5)) _ _
  clear_value s6
  have h7 : Keeps s0 s7 := by
    with_reducible refine Keeps.forAll (fun s g k => ?_) h6
    exact State.raise_keeps k _ _ _ _ _
  exact OKeeps.next (Keeps.ite h7 (State.raise_keeps (State.addCause_keeps h7 _ _) _ _ _ _ _))

theorem execWipeEnd_keeps {s0 s : State} (h : Keeps s0 s)  : OKeeps s0 (execWipeEnd s) := by
  unfold execWipeEnd
  repeat' (first
    | with_reducible (first
        | assumption | apply OKeeps.next | apply OKeeps.ite) | dsimp only | refine Keeps.update ?_ rfl rfl rfl rfl rfl)

theorem execDormantEntryDone_keeps {s0 s : State} (h : Keeps s0 s)  : OKeeps s0 (execDormantEntryDone s) := by
  unfold execDormantEntryDone
  repeat' (first
    | with_reducible (first
        | assumption | apply State.wake_keeps | apply State.enterDormant_keeps | apply Keeps.ite | apply OKeeps.next | apply OKeeps.ite)
    | split | dsimp only)

theorem execWakeNAssert_keeps {s0 s : State} (h : Keeps s0 s) (restored : Bool) (dormantNs : Nat) : OKeeps s0 (execWakeNAssert restored dormantNs s) := by
  unfold execWakeNAssert
  repeat' (first
    | with_reducible (first
        | assumption | apply State.wake_keeps | apply Keeps.ite | apply OKeeps.next | apply OKeeps.ite) | split | dsimp only
    | refine Keeps.update ?_ rfl rfl rfl rfl rfl)

end Sys2Proof.Machine
end

