-- ==== Sys2Proof/Laws/KeepsSec.lean ====
section
/-!
SUPPORT. The functions of Sec.lean keep what `Keeps` says.
-/
namespace Sys2Proof.Machine

-- The case scripts of this file name more tactics than each case needs.
set_option linter.all false

theorem secCertBody_keeps {s0 s : State} (h : Keeps s0 s) (r : Req) : PKeeps s0 (secCertBody s r) := by
  unfold secCertBody
  repeat' (first
    | with_reducible (first
        | assumption | apply guarded_keeps | apply Keeps.ite | apply PKeeps.ite) | split | dsimp only | with_reducible apply PKeeps.mk
    | refine Keeps.update ?_ rfl rfl rfl rfl rfl)

theorem State.deviceIndex_keeps {s0 s : State} (h : Keeps s0 s)  : QKeeps s0 (State.deviceIndex s) := by
  unfold State.deviceIndex
  refine QKeeps.mk (h.lift s.amp s.power _ ?_)
  exact ⟨fun b => ⟨Nat.le_refl _, b⟩, ringGrows.refl _, ringReserve_grows _, fun _ => Nat.le_refl _, Nat.le_refl _⟩

theorem secAttestBody_keeps {s0 s : State} (h : Keeps s0 s) (r : Req) : PKeeps s0 (secAttestBody s r) := by
  unfold secAttestBody
  repeat' (first
    | with_reducible (first
        | assumption | apply State.deviceIndex_keeps | apply guarded_keeps | apply Keeps.ite | apply PKeeps.ite)
    | with_reducible apply QKeeps.snd | refine QKeeps.eq ‹_ = (_, _)› ?_ | split | dsimp only | with_reducible apply PKeeps.mk)

theorem State.setSlot_keeps {s0 s : State} (h : Keeps s0 s) (target : Nat) (k : Nat) (x : Slot) : Keeps s0 (State.setSlot s target k x) := by
  unfold State.setSlot
  repeat' (first | assumption | dsimp only | refine Keeps.update ?_ rfl rfl rfl rfl rfl)

theorem State.setSession_keeps {s0 s : State} (h : Keeps s0 s) (target : Nat) (x : Option Nat) : Keeps s0 (State.setSession s target x) := by
  unfold State.setSession
  repeat' (first | assumption | dsimp only | refine Keeps.update ?_ rfl rfl rfl rfl rfl)

theorem imgWriteBody_keeps {s0 s : State} (h : Keeps s0 s) (r : Req) : PKeeps s0 (imgWriteBody s r) := by
  unfold imgWriteBody
  repeat' (first
    | with_reducible (first
        | assumption | apply State.setSession_keeps | apply State.setSlot_keeps | apply guarded_keeps | apply Keeps.ite
        | apply PKeeps.ite) | split | dsimp only | with_reducible apply PKeeps.mk | refine Keeps.update ?_ rfl rfl rfl rfl rfl)

theorem imgCommitBody_keeps {s0 s : State} (h : Keeps s0 s) (r : Req) : PKeeps s0 (imgCommitBody s r) := by
  unfold imgCommitBody
  repeat' (first
    | with_reducible (first
        | assumption | apply State.setSession_keeps | apply State.setSlot_keeps | apply guarded_keeps | apply Keeps.ite
        | apply PKeeps.ite) | split | dsimp only | with_reducible apply PKeeps.mk | refine Keeps.update ?_ rfl rfl rfl rfl rfl)

theorem imgActivateBody_keeps {s0 s : State} (h : Keeps s0 s) (r : Req) : PKeeps s0 (imgActivateBody s r) := by
  unfold imgActivateBody
  dsimp only
  refine guarded_keeps h _ ?_
  split
  · exact PKeeps.mk (State.setAmp_keeps h _ rfl)
  · refine PKeeps.mk (h.lift s.amp s.power _ ?_)
    refine ⟨fun b => ⟨Nat.le_refl _, b⟩, ringGrows.refl _, ringGrows.refl _, fun k => ?_, Nat.le_refl _⟩
    dsimp only
    split
    · exact le_getD_set _ _ _ _
    · exact Nat.le_refl _

theorem imgStatusBody_keeps {s0 s : State} (h : Keeps s0 s) (r : Req) : PKeeps s0 (imgStatusBody s r) := by
  unfold imgStatusBody
  repeat' (first
    | with_reducible (first
        | assumption | apply guarded_keeps | apply PKeeps.ite) | dsimp only | with_reducible apply PKeeps.mk)

theorem lcChallengeBody_keeps {s0 s : State} (h : Keeps s0 s) (r : Req) : PKeeps s0 (lcChallengeBody s r) := by
  unfold lcChallengeBody
  repeat' (first
    | with_reducible (first
        | assumption | apply guarded_keeps | apply State.fresh_keeps | apply PKeeps.ite) | dsimp only [State.fresh, State.choose]
    | split | with_reducible apply PKeeps.mk | refine Keeps.update ?_ rfl rfl rfl rfl rfl)

theorem lcCsrBody_keeps {s0 s : State} (h : Keeps s0 s) (r : Req) : PKeeps s0 (lcCsrBody s r) := by
  unfold lcCsrBody
  repeat' (first
    | with_reducible (first
        | assumption | apply State.deviceIndex_keeps | apply guarded_keeps | apply State.takeIndex_keeps | apply Keeps.ite
        | apply PKeeps.ite) | with_reducible apply QKeeps.snd | refine QKeeps.eq ‹_ = (_, _)› ?_ | split | dsimp only
    | with_reducible apply PKeeps.mk)

theorem lcInstallBody_keeps {s0 s : State} (h : Keeps s0 s) (r : Req) : PKeeps s0 (lcInstallBody s r) := by
  unfold lcInstallBody
  repeat' (first
    | with_reducible (first
        | assumption | apply guarded_keeps | apply Keeps.ite | apply PKeeps.ite) | split | dsimp only | with_reducible apply PKeeps.mk
    | refine Keeps.update ?_ rfl rfl rfl rfl rfl)

theorem lcTransitionBody_keeps {s0 s : State} (h : Keeps s0 s) (r : Req) : PKeeps s0 (lcTransitionBody s r) := by
  unfold lcTransitionBody
  dsimp only
  refine guarded_keeps h _ ?_
  have k : Keeps s0 { s with sec := { s.sec with challenge := none } } := h.update rfl rfl rfl rfl rfl
  split
  · exact PKeeps.mk k
  · rename_i hst
    have hm : s.sec.mayGo (u8 r.payload 0) = true := by
      cases hg : s.sec.mayGo (u8 r.payload 0) with
      | true => rfl
      | false => exact absurd (show _ = true by rw [hg]; rfl) hst
    split
    · exact PKeeps.mk k
    · exact PKeeps.mk (State.lifeSet_keeps k _ _ hm)

theorem execSecCert_keeps {s0 s : State} (h : Keeps s0 s) (r : Req) : OKeeps s0 (execSecCert r s) := by
  unfold execSecCert
  exact OKeeps.next (State.firmware_keeps h _ _ _ _ fun _ _ k => secCertBody_keeps k _)

theorem execSecAttest_keeps {s0 s : State} (h : Keeps s0 s) (r : Req) : OKeeps s0 (execSecAttest r s) := by
  unfold execSecAttest
  exact OKeeps.next (State.firmware_keeps h _ _ _ _ fun _ _ k => secAttestBody_keeps k _)

theorem execImgWrite_keeps {s0 s : State} (h : Keeps s0 s) (r : Req) : OKeeps s0 (execImgWrite r s) := by
  unfold execImgWrite
  exact OKeeps.next (State.firmware_keeps h _ _ _ _ fun _ _ k => imgWriteBody_keeps k _)

theorem execImgCommit_keeps {s0 s : State} (h : Keeps s0 s) (r : Req) : OKeeps s0 (execImgCommit r s) := by
  unfold execImgCommit
  repeat' (first
    | with_reducible (first
        | assumption | apply imgCommitBody_keeps | refine State.firmware_keeps ?_ _ _ _ _ (fun _ _ _ => ?_) | apply Keeps.ite
        | apply OKeeps.next | apply OKeeps.ite) | dsimp only)

theorem execImgActivate_keeps {s0 s : State} (h : Keeps s0 s) (r : Req) : OKeeps s0 (execImgActivate r s) := by
  unfold execImgActivate
  exact OKeeps.next (State.firmware_keeps h _ _ _ _ fun _ _ k => imgActivateBody_keeps k _)

theorem execImgStatus_keeps {s0 s : State} (h : Keeps s0 s) (r : Req) : OKeeps s0 (execImgStatus r s) := by
  unfold execImgStatus
  exact OKeeps.next (State.firmware_keeps h _ _ _ _ fun _ _ k => imgStatusBody_keeps k _)

theorem execLcChallenge_keeps {s0 s : State} (h : Keeps s0 s) (r : Req) : OKeeps s0 (execLcChallenge r s) := by
  unfold execLcChallenge
  exact OKeeps.next (State.firmware_keeps h _ _ _ _ fun _ _ k => lcChallengeBody_keeps k _)

theorem execLcCsr_keeps {s0 s : State} (h : Keeps s0 s) (r : Req) : OKeeps s0 (execLcCsr r s) := by
  unfold execLcCsr
  exact OKeeps.next (State.firmware_keeps h _ _ _ _ fun _ _ k => lcCsrBody_keeps k _)

theorem execLcInstall_keeps {s0 s : State} (h : Keeps s0 s) (r : Req) : OKeeps s0 (execLcInstall r s) := by
  unfold execLcInstall
  exact OKeeps.next (State.firmware_keeps h _ _ _ _ fun _ _ k => lcInstallBody_keeps k _)

theorem execLcTransition_keeps {s0 s : State} (h : Keeps s0 s) (r : Req) : OKeeps s0 (execLcTransition r s) := by
  unfold execLcTransition
  exact OKeeps.next (State.firmware_keeps h _ _ _ _ fun _ _ k => lcTransitionBody_keeps k _)

end Sys2Proof.Machine
end

