-- ==== Sys2Proof/Laws/KeepsTwin.lean ====
section
/-!
SUPPORT. The functions of Twin.lean keep what `Keeps` says.
-/
namespace Sys2Proof.Machine

-- The case scripts of this file name more tactics than each case needs.
set_option linter.all false

theorem bodyOf_keeps {s0 s : State} (h : Keeps s0 s) {op : Half} {b : State → Req → State × Act} (e : bodyOf op = some b) (r : Req) :
    PKeeps s0 (b s r) := by
  unfold bodyOf at e
  split at e
  · cases e; exact caneDefineBody_keeps h r
  · cases e; exact caneDeleteBody_keeps h r
  · cases e; exact caneMaskBody_keeps h r
  · cases e; exact strokeLoadBody_keeps h r
  · cases e; exact tsetLoadBody_keeps h r
  · cases e; exact strokeStartBody_keeps h r
  · cases e; exact strokeHaltBody_keeps h r
  · cases e; exact strokeStatusBody_keeps h r
  · cases e; exact strokeReadBody_keeps h r
  · cases e; exact seqConfigBody_keeps h r
  · cases e; exact vmemWriteBody_keeps h r
  · cases e; exact vmemReadBody_keeps h r
  · cases e; exact vmemPinBody_keeps h r
  · cases e; exact streamOpenBody_keeps h r
  · cases e; exact streamCloseBody_keeps h r
  · cases e; exact bcastLoadBody_keeps h r
  · cases e; exact bcastStartBody_keeps h r
  · cases e; exact bcastUnloadBody_keeps h r
  · cases e; exact stencilLoadBody_keeps h r
  · cases e; exact stencilClearBody_keeps h r
  · cases e; exact streamStatusBody_keeps h r
  · cases e; exact pinConfigBody_keeps h r
  · cases e; exact pinLevelsBody_keeps h r
  · cases e; exact pinLoadBody_keeps h r
  · cases e; exact pinClearBody_keeps h r
  · cases e; exact pinComparatorBody_keeps h r
  · cases e; exact sentConfigBody_keeps h r
  · cases e; exact sentStatusBody_keeps h r
  · cases e; exact contactCheckBody_keeps h r
  · cases e; exact smuConfigBody_keeps h r
  · cases e; exact smuForceBody_keeps h r
  · cases e; exact smuSafeBody_keeps h r
  · cases e; exact smuTripBody_keeps h r
  · cases e; exact tiuConfigBody_keeps h r
  · cases e; exact tiuSelftestBody_keeps h r
  · cases e; exact capConfigBody_keeps h r
  · cases e; exact capLimitsBody_keeps h r
  · cases e; exact hatchLineBody_keeps h r
  · cases e; exact hatchProducerBody_keeps h r
  · cases e; exact hatchForwardBody_keeps h r
  · cases e; exact hatchBindBody_keeps h r
  · cases e; exact hatchRestoreBody_keeps h r
  · cases e; exact hatchStatusBody_keeps h r
  · cases e; exact calPinmaskBody_keeps h r
  · cases e; exact jrnConfigBody_keeps h r
  · cases e; exact fltReleaseBody_keeps h r
  · cases e; exact ucodeLoadBody_keeps h r
  · cases e; exact ucodeClearBody_keeps h r
  · cases e


theorem State.applyWrite_keeps {s0 s : State} (h : Keeps s0 s) (w : Half × Req) : Keeps s0 (s.applyWrite w) := by
  unfold State.applyWrite
  refine Keeps.ite (State.putCane_keeps h _ _) ?_
  split
  · exact (bodyOf_keeps h ‹_› _).fst
  · exact h

theorem State.writeChain_keeps {s0 s : State} (h : Keeps s0 s) (away : Bool) : Keeps s0 (State.writeChain s away) := by
  unfold State.writeChain
  repeat' (first
    | with_reducible (first
        | assumption | apply Keeps.ite) | split | dsimp only | refine State.setTwin_same ?_ _ rfl
    | refine Keeps.update ?_ rfl rfl rfl rfl rfl)

theorem State.ackEntry_keeps {s0 s : State} (h : Keeps s0 s) (m : LinkMsg) : Keeps s0 (State.ackEntry s m) := by
  unfold State.ackEntry
  repeat' (first
    | with_reducible (first
        | assumption | apply State.etchRecheck_keeps | apply State.releaseMarkers_keeps | apply Keeps.ite) | split | dsimp only
    | refine Keeps.update ?_ rfl rfl rfl rfl rfl)

theorem State.ackTo_keeps {s0 s : State} (h : Keeps s0 s) (seq : Nat) : Keeps s0 (State.ackTo s seq) := by
  unfold State.ackTo
  repeat' (first
    | with_reducible (first
        | assumption | apply State.ackEntry_keeps | refine Keeps.foldl (fun _ _ _ => ?_) ?_) | dsimp only
    | refine State.setTwin_same ?_ _ rfl | refine Keeps.update ?_ rfl rfl rfl rfl rfl)

theorem State.spansDown_keeps {s0 s : State} (h : Keeps s0 s)  : Keeps s0 (State.spansDown s) := by
  unfold State.spansDown
  repeat' (first
    | with_reducible (first
        | assumption | apply State.respond_keeps | refine Keeps.forAll (fun _ _ _ => ?_) ?_) | split | dsimp only
    | refine Keeps.update ?_ rfl rfl rfl rfl rfl)

theorem State.stopAll_keeps {s0 s : State} (h : Keeps s0 s) (spare : Bool) : Keeps s0 (State.stopAll s spare) := by
  unfold State.stopAll
  extract_lets u1 u2 a1
  have hu1 : Keeps s0 u1 := by
    dsimp only [u1]
    repeat' (first
      | with_reducible (first
          | assumption | apply State.haltWho_keeps | apply Keeps.ite | refine Keeps.forAll (fun _ _ _ => ?_) ?_) | split | dsimp only)
  clear_value u1
  have hu2 : Keeps s0 u2 := by
    dsimp only [u2]
    repeat' (first
      | with_reducible (first
          | assumption | apply State.haltWho_keeps | apply Keeps.ite | refine Keeps.forAll (fun _ _ _ => ?_) ?_) | split | dsimp only
      | refine Keeps.update ?_ rfl rfl rfl rfl rfl)
  clear_value u2
  repeat' (first | assumption | dsimp only | refine State.setTwin_same ?_ _ rfl)

theorem State.takeOver_keeps {s0 s : State} (h : Keeps s0 s)  : Keeps s0 (State.takeOver s) := by
  unfold State.takeOver
  repeat' (first
    | with_reducible (first
        | assumption | apply State.requestTurn_keeps) | dsimp only | refine State.setTwin_same ?_ _ rfl
    | refine Keeps.update ?_ rfl rfl rfl rfl rfl)

theorem State.declareDown_keeps {s0 s : State} (h : Keeps s0 s)  : Keeps s0 (State.declareDown s) := by
  unfold State.declareDown
  extract_lets a1 u1 u2 u3 a2
  have hu1 : Keeps s0 u1 := by
    dsimp only [u1]
    repeat' (first | assumption | dsimp only | refine State.setTwin_same ?_ _ rfl)
  clear_value u1
  have hu2 : Keeps s0 u2 := by
    dsimp only [u2]
    repeat' (first
      | with_reducible (first
          | assumption | apply State.spansDown_keeps | apply State.syncDevice_keeps | apply State.advise_keeps) | dsimp only)
  clear_value u2
  have hu3 : Keeps s0 u3 := by
    dsimp only [u3]
    repeat' (first | with_reducible (first | assumption | apply State.stopAll_keeps) | dsimp only)
  clear_value u3
  repeat' (first
    | with_reducible (first
        | assumption | apply State.takeOver_keeps | apply State.stopAll_keeps | apply Keeps.ite) | split | dsimp only
    | refine State.setTwin_same ?_ _ rfl)

theorem execHeartbeatTimeout_keeps {s0 s : State} (h : Keeps s0 s)  : OKeeps s0 (execHeartbeatTimeout s) := by
  unfold execHeartbeatTimeout
  repeat' (first
    | with_reducible (first
        | assumption | apply State.declareDown_keeps | apply Keeps.ite | apply OKeeps.next | apply OKeeps.ite) | dsimp only)

theorem execMirrorAckTimeout_keeps {s0 s : State} (h : Keeps s0 s)  : OKeeps s0 (execMirrorAckTimeout s) := by
  unfold execMirrorAckTimeout
  repeat' (first
    | with_reducible (first
        | assumption | apply State.declareDown_keeps | apply Keeps.ite | apply OKeeps.next | apply OKeeps.ite) | dsimp only)

theorem execAnnealFrame_keeps {s0 s : State} (h : Keeps s0 s)  : OKeeps s0 (execAnnealFrame s) := by
  unfold execAnnealFrame
  repeat' (first | with_reducible (first | assumption | apply State.declareDown_keeps | apply OKeeps.next | apply OKeeps.ite) | dsimp only)

theorem execLinkLoss_keeps {s0 s : State} (h : Keeps s0 s)  : OKeeps s0 (execLinkLoss s) := by
  unfold execLinkLoss
  repeat' (first
    | with_reducible (first
        | assumption | apply State.declareDown_keeps | apply Keeps.ite | apply OKeeps.next | apply OKeeps.ite) | split | dsimp only
    | refine State.setTwin_same ?_ _ rfl | refine Keeps.update ?_ rfl rfl rfl rfl rfl)

theorem execWakeLinkTimeout_keeps {s0 s : State} (h : Keeps s0 s)  : OKeeps s0 (execWakeLinkTimeout s) := by
  unfold execWakeLinkTimeout
  repeat' (first
    | with_reducible (first
        | assumption | apply State.declareDown_keeps | apply Keeps.ite | apply OKeeps.next | apply OKeeps.ite) | dsimp only)

theorem execDormantFrame_keeps {s0 s : State} (h : Keeps s0 s)  : OKeeps s0 (execDormantFrame s) := by
  unfold execDormantFrame
  repeat' (first
    | with_reducible (first
        | assumption | apply Keeps.ite | apply OKeeps.next | apply OKeeps.ite) | dsimp only | refine State.setTwin_same ?_ _ rfl
    | refine Keeps.update ?_ rfl rfl rfl rfl rfl)

theorem execCounterproofLinkUp_keeps {s0 s : State} (h : Keeps s0 s)  : OKeeps s0 (execCounterproofLinkUp s) := by
  unfold execCounterproofLinkUp
  repeat' (first
    | with_reducible (first
        | assumption | apply Keeps.ite | apply OKeeps.next | apply OKeeps.ite) | dsimp only | refine State.setTwin_same ?_ _ rfl
    | refine Keeps.update ?_ rfl rfl rfl rfl rfl)

theorem State.sendOwed_keeps {s0 s : State} (h : Keeps s0 s) (asked : Bool) : Keeps s0 (State.sendOwed s asked) := by
  unfold State.sendOwed
  repeat' (first
    | with_reducible (first
        | assumption | apply State.mirrorSend_keeps | apply State.linkSend_keeps | apply Keeps.ite
        | refine Keeps.foldl (fun _ _ _ => ?_) ?_) | split | dsimp only | refine State.setTwin_same ?_ _ rfl
    | refine Keeps.update ?_ rfl rfl rfl rfl rfl)

theorem execLinkPaired_keeps {s0 s : State} (h : Keeps s0 s) (matching : Bool) (shadows : Bool) : OKeeps s0 (execLinkPaired matching shadows s) := by
  unfold execLinkPaired
  repeat' (first
    | with_reducible (first
        | assumption | apply State.sendOwed_keeps | apply State.advise_keeps | apply Keeps.ite | apply OKeeps.next | apply OKeeps.ite)
    | split | dsimp only | refine State.setTwin_same ?_ _ rfl | refine Keeps.update ?_ rfl rfl rfl rfl rfl)

theorem execTwinAbsentTimeout_keeps {s0 s : State} (h : Keeps s0 s)  : OKeeps s0 (execTwinAbsentTimeout s) := by
  unfold execTwinAbsentTimeout
  repeat' (first
    | with_reducible (first
        | assumption | apply State.advise_keeps | apply Keeps.ite | apply OKeeps.next | apply OKeeps.ite) | dsimp only
    | refine State.setTwin_same ?_ _ rfl | refine Keeps.update ?_ rfl rfl rfl rfl rfl)

theorem execHeartbeatSend_keeps {s0 s : State} (h : Keeps s0 s)  : OKeeps s0 (execHeartbeatSend s) := by
  unfold execHeartbeatSend
  repeat' (first
    | with_reducible (first
        | assumption | apply Keeps.ite | apply OKeeps.next | apply OKeeps.ite) | dsimp only | refine State.setTwin_same ?_ _ rfl
    | refine Keeps.update ?_ rfl rfl rfl rfl rfl)

theorem execHeartbeatReceive_keeps {s0 s : State} (h : Keeps s0 s) (state : BitVec 3) (mirrorSeq : Nat) (ownsBus : Bool) : OKeeps s0 (execHeartbeatReceive state mirrorSeq ownsBus s) := by
  unfold execHeartbeatReceive
  repeat' (first
    | with_reducible (first
        | assumption | apply State.ackTo_keeps | apply Keeps.ite | apply OKeeps.next | apply OKeeps.ite) | split | dsimp only
    | refine State.setTwin_same ?_ _ rfl | refine Keeps.update ?_ rfl rfl rfl rfl rfl)

theorem execMirrorEntryAck_keeps {s0 s : State} (h : Keeps s0 s) (seq : Nat) : OKeeps s0 (execMirrorEntryAck seq s) := by
  unfold execMirrorEntryAck
  repeat' (first
    | with_reducible (first
        | assumption | apply State.ackTo_keeps | apply Keeps.ite | apply OKeeps.next | apply OKeeps.ite) | dsimp only)

theorem execHosOwnerWaitExpiry_keeps {s0 s : State} (h : Keeps s0 s)  : OKeeps s0 (execHosOwnerWaitExpiry s) := by
  unfold execHosOwnerWaitExpiry
  repeat' (first
    | with_reducible (first
        | assumption | apply State.writeChain_keeps | apply Keeps.ite | apply OKeeps.next | apply OKeeps.ite) | dsimp only
    | refine State.setTwin_same ?_ _ rfl | refine Keeps.update ?_ rfl rfl rfl rfl rfl)

theorem execHosEdgeSeen_keeps {s0 s : State} (h : Keeps s0 s)  : OKeeps s0 (execHosEdgeSeen s) := by
  unfold execHosEdgeSeen
  repeat' (first
    | with_reducible (first
        | assumption | apply Keeps.ite | apply OKeeps.next | apply OKeeps.ite) | split | dsimp only
    | refine State.setTwin_same ?_ _ rfl | refine Keeps.update ?_ rfl rfl rfl rfl rfl)

theorem execHosSilenceExpiry_keeps {s0 s : State} (h : Keeps s0 s)  : OKeeps s0 (execHosSilenceExpiry s) := by
  unfold execHosSilenceExpiry
  repeat' (first
    | with_reducible (first
        | assumption | apply State.takeOver_keeps | apply Keeps.ite | apply OKeeps.next | apply OKeeps.ite) | dsimp only
    | refine State.setTwin_same ?_ _ rfl | refine Keeps.update ?_ rfl rfl rfl rfl rfl)

theorem execHosReadbackConflict_keeps {s0 s : State} (h : Keeps s0 s)  : OKeeps s0 (execHosReadbackConflict s) := by
  unfold execHosReadbackConflict
  repeat' (first
    | with_reducible (first
        | assumption | apply Keeps.ite | apply OKeeps.next | apply OKeeps.ite) | dsimp only | refine State.setTwin_same ?_ _ rfl
    | refine Keeps.update ?_ rfl rfl rfl rfl rfl)

theorem execHosRefresh_keeps {s0 s : State} (h : Keeps s0 s)  : OKeeps s0 (execHosRefresh s) := by
  unfold execHosRefresh
  repeat' (first
    | with_reducible (first
        | assumption | apply State.writeChain_keeps | apply Keeps.ite | apply OKeeps.next | apply OKeeps.ite) | dsimp only)

theorem execHosBeacon_keeps {s0 s : State} (h : Keeps s0 s)  : OKeeps s0 (execHosBeacon s) := by
  unfold execHosBeacon
  repeat' (first
    | with_reducible (first
        | assumption | apply Keeps.ite | apply OKeeps.next | apply OKeeps.ite) | dsimp only | refine State.setTwin_same ?_ _ rfl
    | refine Keeps.update ?_ rfl rfl rfl rfl rfl)

theorem State.openBridges_keeps {s0 s : State} (h : Keeps s0 s)  : Keeps s0 (State.openBridges s) := by
  unfold State.openBridges
  repeat' (first | with_reducible (first | assumption | apply State.ampOpen_keeps | refine Keeps.forAll (fun _ _ _ => ?_) ?_) | dsimp only)

theorem State.endTurn_keeps {s0 s : State} (h : Keeps s0 s)  : Keeps s0 (State.endTurn s) := by
  unfold State.endTurn
  repeat' (first
    | with_reducible (first
        | assumption | apply State.openBridges_keeps | apply State.preempt_keeps | apply State.modG_keeps
        | refine Keeps.forAll (fun _ _ _ => ?_) ?_) | dsimp only | refine Keeps.update ?_ rfl rfl rfl rfl rfl)

theorem State.release_keeps {s0 s : State} (h : Keeps s0 s)  : Keeps s0 (State.release s) := by
  unfold State.release
  repeat' (first
    | with_reducible (first
        | assumption | apply State.swapHalves_keeps | apply State.sendOwed_keeps | apply State.writeChain_keeps
        | apply State.syncLines_keeps | apply State.linkSend_keeps | apply State.respond_keeps | apply Keeps.ite
        | refine Keeps.forAll (fun _ _ _ => ?_) ?_) | split | dsimp only | refine State.setTwin_same ?_ _ rfl
    | refine Keeps.update ?_ rfl rfl rfl rfl rfl)

theorem execTurnChange_keeps {s0 s : State} (h : Keeps s0 s)  : OKeeps s0 (execTurnChange s) := by
  unfold execTurnChange
  repeat' (first
    | with_reducible (first
        | assumption | apply State.release_keeps | apply State.endTurn_keeps | apply State.writeChain_keeps | apply Keeps.ite
        | apply OKeeps.next | apply OKeeps.ite) | split | dsimp only | refine State.setTwin_same ?_ _ rfl
    | refine Keeps.update ?_ rfl rfl rfl rfl rfl)

theorem State.runOn_keeps {s0 s : State} (h : Keeps s0 s) (t : Tgt) (op : Half) {body : State → Req → State × Act} (hb : bodyOf op = some body)
    (r : Req) : PKeeps s0 (s.runOn t body r) := by
  unfold State.runOn
  split
  · exact bodyOf_keeps h hb r
  · extract_lets kept
    split
    rename_i u a e
    have hu : Keeps s0 u := PKeeps.eq e (bodyOf_keeps (State.putCane_keeps h _ _) hb _)
    exact PKeeps.mk (Keeps.update hu rfl rfl rfl rfl rfl)

theorem State.runOther_keeps {s0 s : State} (h : Keeps s0 s) (m : Nat) : Keeps s0 (State.runOther s m) := by
  unfold State.runOther
  repeat' (first
    | with_reducible (first
        | assumption | apply State.runOn_keeps | apply State.shadowWrite_keeps | apply State.respond_keeps | apply Keeps.ite
        | apply PKeeps.ite | apply PKeeps.fst) | refine PKeeps.eq ‹_ = (_, _)› ?_ | split | dsimp only | with_reducible apply PKeeps.mk
    | refine Keeps.update ?_ rfl rfl rfl rfl rfl)

theorem execTurnSwapDone_keeps {s0 s : State} (h : Keeps s0 s)  : OKeeps s0 (execTurnSwapDone s) := by
  unfold execTurnSwapDone
  repeat' (first
    | with_reducible (first
        | assumption | apply State.runOther_keeps | apply State.swapHalves_keeps | apply State.applyWrite_keeps
        | apply State.syncLines_keeps | apply Keeps.ite | apply OKeeps.next | apply OKeeps.ite
        | refine Keeps.forAll (fun _ _ _ => ?_) ?_ | refine Keeps.foldl (fun _ _ _ => ?_) ?_) | split | dsimp only
    | refine State.setTwin_same ?_ _ rfl | refine Keeps.update ?_ rfl rfl rfl rfl rfl)

theorem execTurnLimitExpiry_keeps {s0 s : State} (h : Keeps s0 s)  : OKeeps s0 (execTurnLimitExpiry s) := by
  unfold execTurnLimitExpiry
  repeat' (first
    | with_reducible (first
        | assumption | apply State.stopAll_keeps | apply State.ampAbort_keeps | apply State.endDigs_keeps | apply State.endTius_keeps
        | apply State.advise_keeps | apply Keeps.ite | apply OKeeps.next | apply OKeeps.ite | refine Keeps.forAll (fun _ _ _ => ?_) ?_)
    | split | dsimp only | refine State.setTwin_same ?_ _ rfl | refine Keeps.update ?_ rfl rfl rfl rfl rfl)

theorem State.storeCkpt_keeps {s0 s : State} (h : Keeps s0 s) (c : Ckpt) : Keeps s0 (State.storeCkpt s c) := by
  unfold State.storeCkpt
  extract_lets x ring u1
  refine State.releaseMarkers_keeps (State.setSite_keeps h _ _ fun hx => ?_) _ _ _
  show (if ring.length > 256 then ring.drop 1 else ring).length ≤ 256
  have hl : ring.length = x.ring.length + 1 := by simp [ring]
  have hx : x.ring.length ≤ 256 := hx
  split
  · rw [List.length_drop]; omega
  · omega

theorem State.gotEntry_keeps {s0 s : State} (h : Keeps s0 s)  : Keeps s0 (State.gotEntry s) := by
  unfold State.gotEntry
  repeat' (first | assumption | dsimp only | refine State.setTwin_same ?_ _ rfl | refine Keeps.update ?_ rfl rfl rfl rfl rfl)

theorem State.answerForwarded_keeps {s0 s : State} (h : Keeps s0 s) (r : Req) (st : Half) (recs : List (Nat × Bool × List Byte)) : Keeps s0 (State.answerForwarded s r st recs) := by
  unfold State.answerForwarded
  extract_lets x
  refine State.linkSend_keeps (State.setMbx_keeps h 4 _ fun k => ?_) _
  exact fits_of_sublist (x := s.mailbox 4) List.filter_sublist id k

theorem State.forwardedBody_keeps {s0 s : State} (h : Keeps s0 s) (op : Half) (r : Req) {body : State → Req → State × Act}
    (hb : ∀ u q, Keeps s0 u → PKeeps s0 (body u q)) : Keeps s0 (State.forwardedBody s op r body) := by
  unfold State.forwardedBody
  split
  rename_i u a e
  have hu := PKeeps.eq e (guarded_keeps h _ (hb _ _ h))
  extract_lets v
  have hv : Keeps s0 v := Keeps.ite (State.shadowWrite_keeps (State.wakeIdle_keeps hu _) _ _) hu
  clear_value v
  split <;> exact State.answerForwarded_keeps hv _ _ _

theorem State.runForwarded_keeps {s0 s : State} (h : Keeps s0 s) (op : Half) (r : Req) : Keeps s0 (State.runForwarded s op r) := by
  unfold State.runForwarded
  extract_lets r4 matchHead free x
  split
  rename_i u taken e
  have hu : Keeps s0 u := PKeeps.eq e (PKeeps.ite (PKeeps.mk h) (PKeeps.ite (PKeeps.mk (State.setMbx_keeps h 4 _ id)) (State.ring_keeps h _ _ _)))
  refine Keeps.ite (State.linkSend_keeps hu _) (Keeps.ite hu ?_)
  extract_lets v st
  have hv : Keeps s0 v := State.startHead_keeps hu _
  clear_value v
  refine Keeps.ite (State.answerForwarded_keeps hv _ _ _) ?_
  split
  · exact State.answerForwarded_keeps hv _ _ _
  · exact State.forwardedBody_keeps hv _ _ fun _ q k => bodyOf_keeps k ‹_› q

theorem State.gotReport_keeps {s0 s : State} (h : Keeps s0 s) (m : Nat) (tag st : Half) (recs : List (Nat × Bool × List Byte)) :
    Keeps s0 (State.gotReport s m tag st recs) := by
  unfold State.gotReport
  split
  · refine Keeps.ite ?_ h
    extract_lets bound
    refine Keeps.ite (Keeps.ite (State.respond_keeps h _ _ _) ?_) (State.respond_keeps h _ _ _)
    split
    · rename_i body eb
      split
      rename_i s1 a e1
      have h1 : Keeps s0 s1 := PKeeps.eq e1 (bodyOf_keeps h eb _)
      split
      · exact State.respond_keeps (Keeps.ite (State.shadowWrite_keeps h1 _ _) h1) _ _ _
      · exact h1
    · exact h
  · exact h

theorem execTwinLinkFrame_keeps {s0 s : State} (h : Keeps s0 s) (m : LinkMsg) : OKeeps s0 (execTwinLinkFrame m s) := by
  unfold execTwinLinkFrame
  repeat' (first
    | with_reducible (first
        | assumption | apply State.gotReport_keeps | apply State.runForwarded_keeps | apply State.gotEntry_keeps
        | apply State.storeCkpt_keeps | apply State.applyWrite_keeps | apply State.startDormant_keeps | apply State.syncLines_keeps
        | apply State.report_keeps | apply Keeps.ite | apply OKeeps.next | apply OKeeps.ite | refine Keeps.foldl (fun _ _ _ => ?_) ?_)
    | split | dsimp only | refine State.setJournal_same ?_ _ rfl | refine State.setTwin_same ?_ _ rfl
    | refine Keeps.update ?_ rfl rfl rfl rfl rfl)

theorem twinConfigBody_keeps {s0 s : State} (h : Keeps s0 s) (r : Req) : PKeeps s0 (twinConfigBody s r) := by
  unfold twinConfigBody
  extract_lets p
  unfold guarded
  by_cases hg : (100 ≤ u16 p 2 ∧ u16 p 2 ≤ 2000) ∧ 1 ≤ u32 p 4 ∧ u32 p 4 ≤ 10000
  · exact PKeeps.ite (PKeeps.mk h) (PKeeps.mk (State.setTwin_keeps h _ fun _ => ⟨hg.1.1, hg.1.2, hg.2.1, hg.2.2⟩))
  · rw [if_pos]
    · exact PKeeps.mk h
    · have hu : (u8 p 0 ≤ 1 && zeros p 1 1 && decide (100 ≤ u16 p 2 ∧ u16 p 2 ≤ 2000) && decide (1 ≤ u32 p 4 ∧ u32 p 4 ≤ 10000)) = false := by
        rw [Bool.and_assoc, ← Bool.decide_and, decide_eq_false hg, Bool.and_false]
      rw [hu]
      have key : checks [needLen r 8, unless' false stBadField] ≠ stOK := by
        unfold checks needLen unless'
        split <;> decide
      simpa using key

theorem twinStatusBody_keeps {s0 s : State} (h : Keeps s0 s) (r : Req) : PKeeps s0 (twinStatusBody s r) := by
  unfold twinStatusBody
  repeat' (first
    | with_reducible (first
        | assumption | apply State.reportLost_keeps | apply guarded_keeps | apply State.fresh_keeps | apply PKeeps.ite)
    | dsimp only [State.fresh, State.choose] | split | with_reducible apply PKeeps.mk | refine Keeps.update ?_ rfl rfl rfl rfl rfl)

theorem twinHalfBody_keeps {s0 s : State} (h : Keeps s0 s) (r : Req) : PKeeps s0 (twinHalfBody s r) := by
  unfold twinHalfBody
  exact guarded_keeps h _ (PKeeps.mk (State.setMbx_same h _ _ rfl))

theorem twinReleaseBody_keeps {s0 s : State} (h : Keeps s0 s) (r : Req) : PKeeps s0 (twinReleaseBody s r) := by
  unfold twinReleaseBody
  repeat' (first
    | with_reducible (first
        | assumption | apply guarded_keeps | apply PKeeps.ite) | dsimp only | with_reducible apply PKeeps.mk)

theorem execTwinConfig_keeps {s0 s : State} (h : Keeps s0 s) (r : Req) : OKeeps s0 (execTwinConfig r s) := by
  unfold execTwinConfig
  exact OKeeps.next (State.firmware_keeps h _ _ _ _ fun _ _ k => twinConfigBody_keeps k _)

theorem execTwinStatus_keeps {s0 s : State} (h : Keeps s0 s) (r : Req) : OKeeps s0 (execTwinStatus r s) := by
  unfold execTwinStatus
  exact OKeeps.next (State.firmware_keeps h _ _ _ _ fun _ _ k => twinStatusBody_keeps k _)

theorem execTwinHalf_keeps {s0 s : State} (h : Keeps s0 s) (r : Req) : OKeeps s0 (execTwinHalf r s) := by
  unfold execTwinHalf
  exact OKeeps.next (State.firmware_keeps h _ _ _ _ fun _ _ k => twinHalfBody_keeps k _)

theorem execTwinRelease_keeps {s0 s : State} (h : Keeps s0 s) (r : Req) : OKeeps s0 (execTwinRelease r s) := by
  unfold execTwinRelease
  exact OKeeps.next (State.firmware_keeps h _ _ _ _ fun _ _ k => twinReleaseBody_keeps k _)

end Sys2Proof.Machine
end

