-- ==== Sys2Proof/Laws/KeepsTable.lean ====
section
/-!
SUPPORT. The functions of Table.lean keep what `Keeps` says.
-/
namespace Sys2Proof.Machine

-- The case scripts of this file name more tactics than each case needs.
set_option linter.all false

theorem unknownBody_keeps {s0 s : State} (h : Keeps s0 s) (a1 : Req) : PKeeps s0 (unknownBody s a1) := by
  unfold unknownBody
  repeat' (first
    | with_reducible (first
        | assumption | apply Keeps.ite | apply PKeeps.ite) | split | dsimp only | with_reducible apply PKeeps.mk
    | refine Keeps.update ?_ rfl rfl rfl rfl rfl)

end Sys2Proof.Machine
end

