-- ==== Sys2Proof/Laws/KeepsDoorbell.lean ====
section
/-!
SUPPORT. The functions of Doorbell.lean keep what `Keeps` says.
-/
namespace Sys2Proof.Machine

-- The case scripts of this file name more tactics than each case needs.
set_option linter.all false

/-- The own part of every command keeps what `Keeps` says. -/
theorem commandOf_keeps {s0 : State} (s : State) (op : Half) (r : Req) (u : State) (q : Req) (h : Keeps s0 u) :
    PKeeps s0 ((s.commandOf op r).body u q) := by
  unfold State.commandOf
  split
  · exact sysPingBody_keeps h q
  · exact sysInfoBody_keeps h q
  · exact sysMbxInfoBody_keeps h q
  · exact sysFenceBody_keeps h q
  · exact sysResetBody_keeps h q
  · exact sysPowerBody_keeps h q
  · exact unitInfoBody_keeps h q
  · exact caneDefineBody_keeps h q
  · exact caneDeleteBody_keeps h q
  · exact caneQueryBody_keeps h q
  · exact caneMaskBody_keeps h q
  · exact caneListBody_keeps h q
  · exact strokeLoadBody_keeps h q
  · exact tsetLoadBody_keeps h q
  · exact strokeStartBody_keeps h q
  · exact strokeHaltBody_keeps h q
  · exact strokeStatusBody_keeps h q
  · exact strokeReadBody_keeps h q
  · exact seqConfigBody_keeps h q
  · exact vmemWriteBody_keeps h q
  · exact vmemReadBody_keeps h q
  · exact vmemPinBody_keeps h q
  · exact streamOpenBody_keeps h q
  · exact streamCloseBody_keeps h q
  · exact streamWriteBody_keeps h q
  · exact bcastLoadBody_keeps h q
  · exact bcastStartBody_keeps h q
  · exact bcastUnloadBody_keeps h q
  · exact stencilLoadBody_keeps h q
  · exact stencilClearBody_keeps h q
  · exact streamStatusBody_keeps h q
  · exact pinConfigBody_keeps h q
  · exact pinLevelsBody_keeps h q
  · exact pinLoadBody_keeps h q
  · exact pinClearBody_keeps h q
  · exact pinComparatorBody_keeps h q
  · exact pinReleaseBody_keeps h q
  · exact pinStatusBody_keeps h q
  · exact pinReadBody_keeps h q
  · exact sentConfigBody_keeps h q
  · exact sentStatusBody_keeps h q
  · exact contactCheckBody_keeps h q
  · exact smuConfigBody_keeps h q
  · exact smuForceBody_keeps h q
  · exact smuSafeBody_keeps h q
  · exact smuTripBody_keeps h q
  · exact smuMeasureBody_keeps h q
  · exact smuReleaseBody_keeps h q
  · exact smuStatusBody_keeps h q
  · exact smuReadBody_keeps h q
  · exact ampIdentBody_keeps h q
  · exact ampConnectBody_keeps h q
  · exact ampDisconnectBody_keeps h q
  · exact ampConvertBody_keeps h q
  · exact ampBridgeBody_keeps h q
  · exact ampBridgeStatusBody_keeps h q
  · exact ampStatusBody_keeps h q
  · exact ampSheetCloseBody_keeps h q
  · exact ampSheetReadBody_keeps h q
  · exact ampAdjustBody_keeps h q
  · exact ampCounterBody_keeps h q
  · exact ampRefcheckBody_keeps h q
  · exact tiuConfigBody_keeps h q
  · exact tiuStartBody_keeps h q
  · exact tiuAbortBody_keeps h q
  · exact tiuStampsBody_keeps h q
  · exact tiuStatusBody_keeps h q
  · exact tiuSelftestBody_keeps h q
  · exact tiuReadBody_keeps h q
  · exact capConfigBody_keeps h q
  · exact capLimitsBody_keeps h q
  · exact capArmBody_keeps h q
  · exact capForceBody_keeps h q
  · exact capAbortBody_keeps h q
  · exact capStatusBody_keeps h q
  · exact capHeaderBody_keeps h q
  · exact capReadBody_keeps h q
  · exact capReadCfgBody_keeps h q
  · exact hatchLineBody_keeps h q
  · exact hatchProducerBody_keeps h q
  · exact hatchForwardBody_keeps h q
  · exact hatchTaskBody_keeps h q
  · exact hatchBindBody_keeps h q
  · exact hatchGroupBody_keeps h q
  · exact hatchRestoreBody_keeps h q
  · exact hatchPulseBody_keeps h q
  · exact hatchStatusBody_keeps h q
  · exact calConfigBody_keeps h q
  · exact calPinmaskBody_keeps h q
  · exact calRunBody_keeps h q
  · exact calStatusBody_keeps h q
  · exact calQualityBody_keeps h q
  · exact calStoreBody_keeps h q
  · exact calTempsBody_keeps h q
  · exact netConfigBody_keeps h q
  · exact netStatusBody_keeps h q
  · exact ptpConfigBody_keeps h q
  · exact timeStatusBody_keeps h q
  · exact timeAdjustBody_keeps h q
  · exact timeStepBody_keeps h q
  · exact tcmpArmBody_keeps h q
  · exact tcmpStatusBody_keeps h q
  · exact exportOpenBody_keeps h q
  · exact exportCloseBody_keeps h q
  · exact exportStatusBody_keeps h q
  · exact exportResendBody_keeps h q
  · exact twinConfigBody_keeps h q
  · exact twinStatusBody_keeps h q
  · exact twinHalfBody_keeps h q
  · exact twinReleaseBody_keeps h q
  · exact jrnConfigBody_keeps h q
  · exact jrnCheckpointBody_keeps h q
  · exact jrnMarkersBody_keeps h q
  · exact jrnReportBody_keeps h q
  · exact fltReadBody_keeps h q
  · exact fltAckBody_keeps h q
  · exact fltForceBody_keeps h q
  · exact fltConfigBody_keeps h q
  · exact fltLogBody_keeps h q
  · exact fltReleaseBody_keeps h q
  · exact secCertBody_keeps h q
  · exact secAttestBody_keeps h q
  · exact imgWriteBody_keeps h q
  · exact imgCommitBody_keeps h q
  · exact imgActivateBody_keeps h q
  · exact imgStatusBody_keeps h q
  · exact lcChallengeBody_keeps h q
  · exact lcCsrBody_keeps h q
  · exact lcInstallBody_keeps h q
  · exact lcTransitionBody_keeps h q
  · exact ucodeLoadBody_keeps h q
  · exact ucodeClearBody_keeps h q
  · exact ucodeQueryBody_keeps h q
  · exact ucodeReadBody_keeps h q
  · exact unknownBody_keeps h q

theorem State.doorbell_keeps {s0 s : State} (h : Keeps s0 s) (m : Fin 7) (xseq : Option Word) : Keeps s0 (State.doorbell s m xseq) := by
  unfold State.doorbell
  extract_lets b
  split
  rename_i op r st _
  split
  rename_i u taken e
  have hu : Keeps s0 u := PKeeps.eq e (State.ring_keeps h _ _ _)
  refine Keeps.ite hu ?_
  extract_lets x v
  have hv : Keeps s0 v := by
    refine State.setMbx_keeps hu m.val _ fun k => ?_
    exact ⟨k.1, k.2.1, rfl⟩
  clear_value v
  split
  · refine Keeps.ite hv (Keeps.ite (State.refuseLast_keeps hv _ _) ?_)
    exact State.bellCheck_keeps hv _ _ _ _ (fun w q k => commandOf_keeps _ op r w q k)
  · exact hv

theorem State.doorbellBad_keeps {s0 s : State} (h : Keeps s0 s)  : Keeps s0 (State.doorbellBad s) := by
  unfold State.doorbellBad
  repeat' (first | assumption | dsimp only | refine Keeps.update ?_ rfl rfl rfl rfl rfl)

theorem execMbxDoorbell_keeps {s0 s : State} (h : Keeps s0 s) (m : Fin 8) : OKeeps s0 (execMbxDoorbell m s) := by
  unfold execMbxDoorbell
  repeat' (first
    | with_reducible (first
        | assumption | apply State.doorbellBad_keeps | apply State.doorbell_keeps | apply Keeps.ite | apply OKeeps.next
        | apply OKeeps.ite) | split | dsimp only)

theorem State.learnHost_keeps {s0 s : State} (h : Keeps s0 s) (p : Nat) (m : Nat) (src : List Byte) (body : List Byte) : Keeps s0 (State.learnHost s p m src body) := by
  unfold State.learnHost
  repeat' (first
    | with_reducible (first
        | assumption | apply State.setPort_keeps | apply Keeps.ite) | split | dsimp only | refine Keeps.update ?_ rfl rfl rfl rfl rfl)

theorem execUdpRequest_keeps {s0 s : State} (h : Keeps s0 s) (port : Two) (frame : EthFrame) (mbx : Byte) (xseq : Word) (body : List Byte) : OKeeps s0 (execUdpRequest port frame mbx xseq body s) := by
  refine OKeeps.next (State.receive_keeps h _ _ _ ?_)
  dsimp only
  refine Keeps.ite h (Keeps.ite ?_ (State.doorbell_keeps (State.learnHost_keeps (State.setMbx_keeps h _ _ ?_) _ _ _ _) _ _))
  · split
    · exact Keeps.ite (State.sendShown_keeps h _) h
    · exact h
  · exact fun k => ⟨k.1, k.2.1, Mem.wf_writeAll _ _ _ k.2.2⟩

end Sys2Proof.Machine
end

