-- ==== Sys2Proof/Laws/KeepsChain.lean ====
section
/-!
SUPPORT. The functions of Chain.lean keep what `Keeps` says.
-/
namespace Sys2Proof.Machine

-- The case scripts of this file name more tactics than each case needs.
set_option linter.all false

theorem State.windowWrite_keeps {s0 s : State} (h : Keeps s0 s) (m : Nat) (response : Bool) (off : Nat) (v : Word) : Keeps s0 (State.windowWrite s m response off v) := by
  unfold State.windowWrite
  extract_lets x
  refine Keeps.ite ?_ (Keeps.ite h (Keeps.ite (State.ackBatch_keeps h _) (State.ackPart_keeps h _ _)))
  exact State.setMbx_keeps h _ _ fun k => ⟨k.1, k.2.1, Mem.wf_writeAll _ _ _ k.2.2⟩

theorem State.writeWord_keeps {s0 s : State} (h : Keeps s0 s) (p : Path) (a : Nat) (v : Word) : PKeeps s0 (State.writeWord s p a v) := by
  unfold State.writeWord
  repeat' (first
    | with_reducible (first
        | assumption | apply State.windowWrite_keeps | apply State.checkPos_keeps | apply State.modPath_keeps
        | apply State.setChain_keeps | apply State.doorbell_keeps | apply Keeps.ite | apply PKeeps.ite) | split | dsimp only
    | with_reducible apply PKeeps.mk | refine Keeps.update ?_ rfl rfl rfl rfl rfl)

theorem State.setSticky_keeps {s0 s : State} (h : Keeps s0 s) (f : Byte) : Keeps s0 (State.setSticky s f) := by
  unfold State.setSticky
  repeat' (first | with_reducible (first | assumption | apply State.setChain_keeps) | dsimp only | refine Keeps.update ?_ rfl rfl rfl rfl rfl)

theorem State.flagResp_keeps {s0 s : State} (h : Keeps s0 s) (p : Path) (f : Byte) : Keeps s0 (State.flagResp s p f) := by
  unfold State.flagResp
  repeat' (first
    | with_reducible (first
        | assumption | apply State.setSticky_keeps | apply State.modPath_keeps) | dsimp only | refine Keeps.update ?_ rfl rfl rfl rfl rfl)

theorem State.single_keeps {s0 s : State} (h : Keeps s0 s) {r : State × Access} (hr : PKeeps s0 r) : Keeps s0 (State.single s r) := by
  obtain ⟨t, a⟩ := r
  exact Keeps.ite (State.setSticky_keeps h _) (State.setSticky_keeps (Keeps.update hr.fst rfl rfl rfl rfl rfl) _)

theorem execMbxDataAccess_keeps {s0 s : State} (h : Keeps s0 s) (path : Path) (write : Option Word) : OKeeps s0 (execMbxDataAccess path write s) := by
  refine OKeeps.next (State.single_keeps h ?_)
  cases write
  · exact State.readWord_keeps h _ _
  · exact State.writeWord_keeps h _ _ _

theorem execChnTimingWrite_keeps {s0 s : State} (h : Keeps s0 s) (value : Word) : OKeeps s0 (execChnTimingWrite value s) := by
  exact OKeeps.next (State.single_keeps h (State.writeWord_keeps h _ _ _))

theorem execHoldingWordRead_keeps {s0 s : State} (h : Keeps s0 s) (path : Path) (addr : BitVec 12) : OKeeps s0 (execHoldingWordRead path addr s) := by
  exact OKeeps.next (State.single_keeps h (PKeeps.ite (PKeeps.mk h) (State.readWord_keeps h _ _)))

theorem execTimeSnapRead_keeps {s0 s : State} (h : Keeps s0 s) (path : Path) : OKeeps s0 (execTimeSnapRead path s) := by
  exact OKeeps.next (State.single_keeps h (State.readWord_keeps h _ _))

theorem execRegisterWrite_keeps {s0 s : State} (h : Keeps s0 s) (path : Path) (addr : BitVec 12) (value : Word) : OKeeps s0 (execRegisterWrite path addr value s) := by
  exact OKeeps.next (State.single_keeps h (PKeeps.ite (PKeeps.mk h) (State.writeWord_keeps h _ _ _)))

theorem State.tooShort_keeps {s0 s : State} (h : Keeps s0 s) (measured : Nat) (want : Nat) : QKeeps s0 (State.tooShort s measured want) := by
  unfold State.tooShort
  repeat' (first
    | with_reducible (first
        | assumption | apply State.choose_keeps | apply Keeps.ite | apply QKeeps.ite) | dsimp only [State.fresh, State.choose] | split
    | with_reducible apply QKeeps.mk | refine Keeps.update ?_ rfl rfl rfl rfl rfl)

theorem State.timingErr_keeps {s0 s : State} (h : Keeps s0 s) (p : Path) (d : Delays) : QKeeps s0 (State.timingErr s p d) := by
  unfold State.timingErr
  repeat' (first
    | with_reducible (first
        | assumption | apply State.tooShort_keeps | apply State.setChain_keeps | apply QKeeps.ite) | with_reducible apply QKeeps.snd
    | refine QKeeps.eq ‹_ = (_, _)› ?_ | split | dsimp only | with_reducible apply QKeeps.mk | refine Keeps.update ?_ rfl rfl rfl rfl rfl)

theorem State.shiftOut_keeps {s0 s : State} (h : Keeps s0 s) (p : Path) (soon : Bool) : Keeps s0 (State.shiftOut s p soon) := by
  unfold State.shiftOut
  repeat' (first
    | with_reducible (first
        | assumption | apply State.modPath_keeps | apply State.choose_keeps | apply Keeps.ite) | dsimp only [State.fresh, State.choose]
    | split | refine Keeps.update ?_ rfl rfl rfl rfl rfl)

theorem State.putResp_keeps {s0 s : State} (h : Keeps s0 s) (p : Path) (first : Bool) (r : ChainResp) : Keeps s0 (State.putResp s p first r) := by
  unfold State.putResp
  repeat' (first
    | with_reducible (first
        | assumption | apply State.setSticky_keeps | apply State.modPath_keeps | apply Keeps.ite) | split | dsimp only
    | refine Keeps.update ?_ rfl rfl rfl rfl rfl)

theorem State.readWords_keeps {s0 s : State} (h : Keeps s0 s) (p : Path) (a n : Nat) : PKeeps s0 (State.readWords s p a n) := by
  induction n generalizing s a with
  | zero => exact PKeeps.mk h
  | succ n ih =>
    unfold State.readWords
    split
    rename_i s1 x e
    split
    rename_i s2 xs e2
    exact PKeeps.mk (PKeeps.eq e2 (ih (PKeeps.eq e (State.readWord_keeps h _ _)) _))

theorem State.writeWords_keeps {s0 s : State} (h : Keeps s0 s) (p : Path) (a : Nat) (vs : List Word) :
    PKeeps s0 (State.writeWords s p a vs) := by
  induction vs generalizing s a with
  | nil => exact PKeeps.mk h
  | cons v vs ih =>
    unfold State.writeWords
    split
    rename_i s1 x e
    split
    rename_i s2 xs e2
    exact PKeeps.mk (PKeeps.eq e2 (ih (PKeeps.eq e (State.writeWord_keeps h _ _ _)) _))

theorem State.readTwo_keeps {s0 s : State} (h : Keeps s0 s) (p : Path) (a : Nat) (n : Nat) : PKeeps s0 (State.readTwo s p a n) := by
  unfold State.readTwo
  repeat' (first
    | with_reducible (first
        | assumption | apply State.readWord_keeps | apply Keeps.ite | apply PKeeps.ite | apply PKeeps.fst)
    | refine PKeeps.eq ‹_ = (_, _)› ?_ | split | dsimp only | with_reducible apply PKeeps.mk)

theorem State.writeTwo_keeps {s0 s : State} (h : Keeps s0 s) (p : Path) (a : Nat) (data : DWord) (n : Nat) : PKeeps s0 (State.writeTwo s p a data n) := by
  unfold State.writeTwo
  repeat' (first
    | with_reducible (first
        | assumption | apply State.writeWord_keeps | apply Keeps.ite | apply PKeeps.ite | apply PKeeps.fst)
    | refine PKeeps.eq ‹_ = (_, _)› ?_ | split | dsimp only | with_reducible apply PKeeps.mk)

theorem State.burst_keeps {s0 s : State} (h : Keeps s0 s) (bits : Nat) (sdi : Nat) (flags : Byte) : Keeps s0 (State.burst s bits sdi flags) := by
  unfold State.burst
  repeat' (first
    | with_reducible (first
        | assumption | apply State.writeWords_keeps | apply State.putResp_keeps | apply State.flagResp_keeps
        | apply State.modPath_keeps | apply Keeps.ite | apply PKeeps.ite | apply PKeeps.fst) | refine PKeeps.eq ‹_ = (_, _)› ?_ | split
    | dsimp only | with_reducible apply PKeeps.mk | refine Keeps.update ?_ rfl rfl rfl rfl rfl)

theorem State.shiftIn_keeps {s0 s : State} (h : Keeps s0 s) (p : Path) (v : BitVec 128) : Keeps s0 (State.shiftIn s p v) := by
  unfold State.shiftIn
  repeat' (first | with_reducible (first | assumption | apply State.modPath_keeps) | dsimp only | refine Keeps.update ?_ rfl rfl rfl rfl rfl)

theorem State.clashed_keeps {s0 s : State} (h : Keeps s0 s) (bits : Nat) (sdi : Nat) (d : Delays) : Keeps s0 (State.clashed s bits sdi d) := by
  unfold State.clashed
  repeat' (first
    | with_reducible (first
        | assumption | apply State.shiftIn_keeps | apply State.burst_keeps | apply State.shiftOut_keeps | apply State.timingErr_keeps
        | apply State.flagResp_keeps | apply Keeps.ite) | with_reducible apply QKeeps.snd | refine QKeeps.eq ‹_ = (_, _)› ?_ | split
    | dsimp only)

theorem execChainBurstTransfer_keeps {s0 s : State} (h : Keeps s0 s) (bits : Nat) (sdi : Nat) (delays : Delays) (clash : Bool) (overReset : Bool) : OKeeps s0 (execChainBurstTransfer bits sdi delays clash overReset s) := by
  unfold execChainBurstTransfer
  repeat' (first
    | with_reducible (first
        | assumption | apply State.clashed_keeps | apply State.shiftIn_keeps | apply State.burst_keeps | apply State.shiftOut_keeps
        | apply State.timingErr_keeps | apply Keeps.ite | apply OKeeps.next | apply OKeeps.ite) | with_reducible apply QKeeps.snd
    | refine QKeeps.eq ‹_ = (_, _)› ?_ | split | dsimp only)

theorem State.runFrame_keeps {s0 s : State} (h : Keeps s0 s) (p : Path) (op : Nat) (f : Frame) : Keeps s0 (State.runFrame s p op f) := by
  unfold State.runFrame
  extract_lets first w _ u1 u2 a
  have h2 : Keeps s0 u2 := State.modPath_keeps (State.setChain_keeps h _) _ _
  clear_value u2
  split
  · split
    rename_i t xs e
    exact State.putResp_keeps (PKeeps.eq e (State.readTwo_keeps h2 _ _ _)) _ _ _
  · split
    rename_i t xs e
    exact Keeps.ite (State.flagResp_keeps h _ _) (State.putResp_keeps (PKeeps.eq e (State.writeTwo_keeps h2 _ _ _ _)) _ _ _)
  · split
    rename_i t xs e
    exact State.modPath_keeps (State.modPath_keeps (PKeeps.eq e (State.readWords_keeps h2 _ _ _)) _ _) _ _
  · exact State.modPath_keeps h2 _ _
  · exact State.modPath_keeps (State.putResp_keeps h2 _ _ _) _ _
  · exact State.putResp_keeps h2 _ _ _

theorem State.frame_keeps {s0 s : State} (h : Keeps s0 s) (p : Path) (op : Nat) (f : Frame) : Keeps s0 (State.frame s p op f) := by
  unfold State.frame
  repeat' (first
    | with_reducible (first
        | assumption | apply State.runFrame_keeps | apply State.clashed_keeps | apply State.shiftIn_keeps | apply State.burst_keeps
        | apply State.shiftOut_keeps | apply State.timingErr_keeps | apply State.flagResp_keeps | apply State.modPath_keeps
        | apply Keeps.ite) | with_reducible apply QKeeps.snd | refine QKeeps.eq ‹_ = (_, _)› ?_ | split | dsimp only
    | refine Keeps.update ?_ rfl rfl rfl rfl rfl)

theorem execChainNop_keeps {s0 s : State} (h : Keeps s0 s) (path : Path) (op : BitVec 4) (f : Frame) : OKeeps s0 (execChainNop path op f s) := by
  unfold execChainNop
  repeat' (first
    | with_reducible (first
        | assumption | apply State.frame_keeps | apply Keeps.ite | apply OKeeps.next | apply OKeeps.ite) | dsimp only)

theorem execChainRd_keeps {s0 s : State} (h : Keeps s0 s) (path : Path) (f : Frame) : OKeeps s0 (execChainRd path f s) := by
  unfold execChainRd
  repeat' (first | with_reducible (first | assumption | apply State.frame_keeps | apply OKeeps.next | apply OKeeps.ite) | dsimp only)

theorem execChainWr_keeps {s0 s : State} (h : Keeps s0 s) (path : Path) (f : Frame) : OKeeps s0 (execChainWr path f s) := by
  unfold execChainWr
  repeat' (first | with_reducible (first | assumption | apply State.frame_keeps | apply OKeeps.next | apply OKeeps.ite) | dsimp only)

theorem execChainRdb_keeps {s0 s : State} (h : Keeps s0 s) (path : Path) (f : Frame) : OKeeps s0 (execChainRdb path f s) := by
  unfold execChainRdb
  repeat' (first | with_reducible (first | assumption | apply State.frame_keeps | apply OKeeps.next | apply OKeeps.ite) | dsimp only)

theorem execChainWrb_keeps {s0 s : State} (h : Keeps s0 s) (path : Path) (f : Frame) : OKeeps s0 (execChainWrb path f s) := by
  unfold execChainWrb
  repeat' (first | with_reducible (first | assumption | apply State.frame_keeps | apply OKeeps.next | apply OKeeps.ite) | dsimp only)

theorem execChainByp_keeps {s0 s : State} (h : Keeps s0 s) (path : Path) (f : Frame) : OKeeps s0 (execChainByp path f s) := by
  unfold execChainByp
  repeat' (first | with_reducible (first | assumption | apply State.frame_keeps | apply OKeeps.next | apply OKeeps.ite) | dsimp only)

theorem execChainStallTimeout_keeps {s0 s : State} (h : Keeps s0 s)  : OKeeps s0 (execChainStallTimeout s) := by
  unfold execChainStallTimeout
  repeat' (first
    | with_reducible (first
        | assumption | apply State.setChain_keeps | apply OKeeps.next | apply OKeeps.ite) | dsimp only
    | refine Keeps.update ?_ rfl rfl rfl rfl rfl)

theorem execMpTick_keeps {s0 s : State} (h : Keeps s0 s)  : OKeeps s0 (execMpTick s) := by
  unfold execMpTick
  repeat' (first
    | with_reducible (first
        | assumption | apply Keeps.ite | apply OKeeps.next | apply OKeeps.ite) | dsimp only | refine Keeps.update ?_ rfl rfl rfl rfl rfl)

end Sys2Proof.Machine
end

