-- ==== Sys2Proof/Laws/KeepsJtag.lean ====
section
/-!
SUPPORT. The functions of Jtag.lean keep what `Keeps` says.
-/
namespace Sys2Proof.Machine

-- The case scripts of this file name more tactics than each case needs.
set_option linter.all false

theorem execJtagUpdateIr_keeps {s0 s : State} (h : Keeps s0 s) (ir : Byte) : OKeeps s0 (execJtagUpdateIr ir s) := by
  unfold execJtagUpdateIr
  repeat' (first
    | with_reducible (first
        | assumption | apply OKeeps.next | apply OKeeps.ite) | dsimp only | refine Keeps.update ?_ rfl rfl rfl rfl rfl)

theorem execJtagUpdateDr_keeps {s0 s : State} (h : Keeps s0 s) (cells : BitVec 39) : OKeeps s0 (execJtagUpdateDr cells s) := by
  unfold execJtagUpdateDr
  repeat' (first
    | with_reducible (first
        | assumption | apply Keeps.ite | apply OKeeps.next | apply OKeeps.ite) | dsimp only | refine Keeps.update ?_ rfl rfl rfl rfl rfl)

theorem execJtagTestLogicReset_keeps {s0 s : State} (h : Keeps s0 s)  : OKeeps s0 (execJtagTestLogicReset s) := by
  unfold execJtagTestLogicReset
  repeat' (first
    | with_reducible (first
        | assumption | apply OKeeps.next | apply OKeeps.ite) | dsimp only | refine Keeps.update ?_ rfl rfl rfl rfl rfl)

end Sys2Proof.Machine
end

