-- ==== Sys2Proof/Laws/KeepsExec.lean ====
section
/-!
SUPPORT. Every command, and the tick, keep what `Keeps` says.
-/
namespace Sys2Proof.Machine

-- The case scripts of this file name more tactics than each case needs.
set_option linter.all false

theorem exec_keeps {s0 s : State} (h : Keeps s0 s) (i : Instr) : OKeeps s0 (exec i s) := by
  cases i with
  | mbxDoorbell m => exact execMbxDoorbell_keeps h m
  | responseAck m offset word => exact execResponseAck_keeps h m offset word
  | notifyBatchForm => exact execNotifyBatchForm_keeps h
  | notifyBatchAck offset word => exact execNotifyBatchAck_keeps h offset word
  | mbxDataAccess path write => exact execMbxDataAccess_keeps h path write
  | chnTimingWrite value => exact execChnTimingWrite_keeps h value
  | holdingWordRead path addr => exact execHoldingWordRead_keeps h path addr
  | timeSnapRead path => exact execTimeSnapRead_keeps h path
  | registerWrite path addr value => exact execRegisterWrite_keeps h path addr value
  | chainNop path op f => exact execChainNop_keeps h path op f
  | chainRd path f => exact execChainRd_keeps h path f
  | chainWr path f => exact execChainWr_keeps h path f
  | chainRdb path f => exact execChainRdb_keeps h path f
  | chainWrb path f => exact execChainWrb_keeps h path f
  | chainByp path f => exact execChainByp_keeps h path f
  | chainBurstTransfer bits sdi delays clash overReset => exact execChainBurstTransfer_keeps h bits sdi delays clash overReset
  | chainStallTimeout => exact execChainStallTimeout_keeps h
  | udpRequest port frame mbx xseq body => exact execUdpRequest_keeps h port frame mbx xseq body
  | udpAck port frame mbx word => exact execUdpAck_keeps h port frame mbx word
  | udpPoll port frame mbx => exact execUdpPoll_keeps h port frame mbx
  | responseResendTimer m => exact execResponseResendTimer_keeps h m
  | arpNeighbourEcho port frame kind => exact execArpNeighbourEcho_keeps h port frame kind
  | ethLinkUp port => exact execEthLinkUp_keeps h port
  | ethLinkLoss port => exact execEthLinkLoss_keeps h port
  | ptpSync port m => exact execPtpSync_keeps h port m
  | syncTimeout => exact execSyncTimeout_keeps h
  | tcmpFire n => exact execTcmpFire_keeps h n
  | exportDatagramSend => exact execExportDatagramSend_keeps h
  | exportAck fromDest crcOk ackSeq naks => exact execExportAck_keeps h fromDest crcOk ackSeq naks
  | exportRto seq => exact execExportRto_keeps h seq
  | trigInEdge j level => exact execTrigInEdge_keeps h j level
  | relayPulse r => exact execRelayPulse_keeps h r
  | stormLimit line => exact execStormLimit_keeps h line
  | ringDetect line => exact execRingDetect_keeps h line
  | notifyCoalesceEnd line => exact execNotifyCoalesceEnd_keeps h line
  | evqLostPost => exact execEvqLostPost_keeps h
  | haltNReceive => exact execHaltNReceive_keeps h
  | comparatorChange e => exact execComparatorChange_keeps h e
  | modeChangeHoldEnd e => exact execModeChangeHoldEnd_keeps h e
  | sentinelDwellEnd g n => exact execSentinelDwellEnd_keeps h g n
  | driverOvercurrent g p => exact execDriverOvercurrent_keeps h g p
  | deglitchRelease g p => exact execDeglitchRelease_keeps h g p
  | levelOrderedLatch g p => exact execLevelOrderedLatch_keeps h g p
  | dacSettled m => exact execDacSettled_keeps h m
  | clearNAssert pulseNs => exact execClearNAssert_keeps h pulseNs
  | headroomClamp vphUv vplUv => exact execHeadroomClamp_keeps h vphUv vplUv
  | complianceSwitch g u value => exact execComplianceSwitch_keeps h g u value
  | openLoopDetect g u => exact execOpenLoopDetect_keeps h g u
  | rangeStepEnd g u => exact execRangeStepEnd_keeps h g u
  | smuMeasureTrigger m => exact execSmuMeasureTrigger_keeps h m
  | smuConversion g u code => exact execSmuConversion_keeps h g u code
  | smuMeasureComplete m => exact execSmuMeasureComplete_keeps h m
  | strokeStartTrigger q => exact execStrokeStartTrigger_keeps h q
  | jumpRequest q cause cycle => exact execJumpRequest_keeps h q cause cycle
  | granuleBoundary q obs => exact execGranuleBoundary_keeps h q obs
  | checkpointEntryFree g => exact execCheckpointEntryFree_keeps h g
  | resolutionComplete q => exact execResolutionComplete_keeps h q
  | etchBeginMarkerDurable g => exact execEtchBeginMarkerDurable_keeps h g
  | etchEndMarkerWrite g => exact execEtchEndMarkerWrite_keeps h g
  | streamGranulePresent g => exact execStreamGranulePresent_keeps h g
  | stallResume q => exact execStallResume_keeps h q
  | stallLimitExpiry q => exact execStallLimitExpiry_keeps h q
  | haltHoldExpiry g => exact execHaltHoldExpiry_keeps h g
  | bcastPrimeComplete p => exact execBcastPrimeComplete_keeps h p
  | ampTrigger t => exact execAmpTrigger_keeps h t
  | ampTriggerTimeout g c => exact execAmpTriggerTimeout_keeps h g c
  | ampConversionEnd g c code inj => exact execAmpConversionEnd_keeps h g c code inj
  | ampAnswerPost g c => exact execAmpAnswerPost_keeps h g c
  | claimGrant g c => exact execClaimGrant_keeps h g c
  | spanPhaseEnd g => exact execSpanPhaseEnd_keeps h g
  | excOutOfRange g uv => exact execExcOutOfRange_keeps h g uv
  | modclkLockLoss => exact execModclkLockLoss_keeps h
  | modclkLockReturn => exact execModclkLockReturn_keeps h
  | ampRailLoss => exact execAmpRailLoss_keeps h
  | ampouleStart romOk => exact execAmpouleStart_keeps h romOk
  | refpCheckDue g c => exact execRefpCheckDue_keeps h g c
  | refpCheckEnd g c uv residuals => exact execRefpCheckEnd_keeps h g c uv residuals
  | selfTraffic g c code inj => exact execSelfTraffic_keeps h g c code inj
  | codeDensityDue g => exact execCodeDensityDue_keeps h g
  | codeDensityEnd g inlPpb => exact execCodeDensityEnd_keeps h g inlPpb
  | calBlockStale g c range offset => exact execCalBlockStale_keeps h g c range offset
  | compensationUpdate g c range => exact execCompensationUpdate_keeps h g c range
  | sealOpen => exact execSealOpen_keeps h
  | adjustmentGatherDone g => exact execAdjustmentGatherDone_keeps h g
  | sealClose => exact execSealClose_keeps h
  | signingIndexReserved ok => exact execSigningIndexReserved_keeps h ok
  | sheetSealed => exact execSheetSealed_keeps h
  | level1TreeDone => exact execLevel1TreeDone_keeps h
  | adjustCommitDurable => exact execAdjustCommitDurable_keeps h
  | tiuGate g u asserted => exact execTiuGate_keeps h g u asserted
  | tiuGateTimeout g u => exact execTiuGateTimeout_keeps h g u
  | tiuWindowEnd g u => exact execTiuWindowEnd_keeps h g u
  | tiuEdgeStamp g u stop place rising inWindow => exact execTiuEdgeStamp_keeps h g u stop place rising inWindow
  | tiuServiceOverflow g u => exact execTiuServiceOverflow_keeps h g u
  | trefLoss => exact execTrefLoss_keeps h
  | trefReturn mhz100 => exact execTrefReturn_keeps h mhz100
  | tuclkWrap => exact execTuclkWrap_keeps h
  | capTrigger g d fire place => exact execCapTrigger_keeps h g d fire place
  | capArbitrationEnd g d => exact execCapArbitrationEnd_keeps h g d
  | capItemWrite g d samples drained => exact execCapItemWrite_keeps h g d samples drained
  | capRecordEnd g d => exact execCapRecordEnd_keeps h g d
  | capHoldoffEnd g d => exact execCapHoldoffEnd_keeps h g d
  | capConverterReady g d => exact execCapConverterReady_keeps h g d
  | tempRead t readings => exact execTempRead_keeps h t readings
  | tjCrit sensor reading => exact execTjCrit_keeps h sensor reading
  | calStepStart g e => exact execCalStepStart_keeps h g e
  | calStepEnd g e figure more => exact execCalStepEnd_keeps h g e figure more
  | calwinIsolationClose g => exact execCalwinIsolationClose_keeps h g
  | calOverdueTimer t => exact execCalOverdueTimer_keeps h t
  | calStoreDataDone => exact execCalStoreDataDone_keeps h
  | calStoreCommitDone => exact execCalStoreCommitDone_keeps h
  | faultOccurrence src scope detail => exact execFaultOccurrence_keeps h src scope detail
  | faultLogWrite => exact execFaultLogWrite_keeps h
  | safeReleaseCheck => exact execSafeReleaseCheck_keeps h
  | replayStart site => exact execReplayStart_keeps h site
  | vfyOutcomeWrite g => exact execVfyOutcomeWrite_keeps h g
  | watchdogExpiry => exact execWatchdogExpiry_keeps h
  | fclkGap => exact execFclkGap_keeps h
  | collectorMismatch => exact execCollectorMismatch_keeps h
  | refclkLoss => exact execRefclkLoss_keeps h
  | pllLoss p => exact execPllLoss_keeps h p
  | railOutOfWindow r mv => exact execRailOutOfWindow_keeps h r mv
  | peRailArm => exact execPeRailArm_keeps h
  | linkPaired matching shadows => exact execLinkPaired_keeps h matching shadows
  | twinAbsentTimeout => exact execTwinAbsentTimeout_keeps h
  | heartbeatSend => exact execHeartbeatSend_keeps h
  | heartbeatTimeout => exact execHeartbeatTimeout_keeps h
  | mirrorAckTimeout => exact execMirrorAckTimeout_keeps h
  | linkLoss => exact execLinkLoss_keeps h
  | annealFrame => exact execAnnealFrame_keeps h
  | mirrorEntryAck seq => exact execMirrorEntryAck_keeps h seq
  | twinLinkFrame m => exact execTwinLinkFrame_keeps h m
  | dormantFrame => exact execDormantFrame_keeps h
  | wakeLinkTimeout => exact execWakeLinkTimeout_keeps h
  | hosOwnerWaitExpiry => exact execHosOwnerWaitExpiry_keeps h
  | hosSilenceExpiry => exact execHosSilenceExpiry_keeps h
  | hosEdgeSeen => exact execHosEdgeSeen_keeps h
  | hosReadbackConflict => exact execHosReadbackConflict_keeps h
  | hosRefresh => exact execHosRefresh_keeps h
  | hosBeacon => exact execHosBeacon_keeps h
  | turnChange => exact execTurnChange_keeps h
  | turnSwapDone => exact execTurnSwapDone_keeps h
  | turnLimitExpiry => exact execTurnLimitExpiry_keeps h
  | pfailAssert pulseNs => exact execPfailAssert_keeps h pulseNs
  | pfailHighExpiry => exact execPfailHighExpiry_keeps h
  | resetNAssert pulseNs => exact execResetNAssert_keeps h pulseNs
  | powerOnReset vddaoLost => exact execPowerOnReset_keeps h vddaoLost
  | resetTimer => exact execResetTimer_keeps h
  | startup chainPos chainLast twinId slotA slotB calNewer calOlder clocks => exact execStartup_keeps h chainPos chainLast twinId slotA slotB calNewer calOlder clocks
  | wipeEnd => exact execWipeEnd_keeps h
  | dormantEntryDone => exact execDormantEntryDone_keeps h
  | wakeNAssert restored dormantNs => exact execWakeNAssert_keeps h restored dormantNs
  | sysPing r => exact execSysPing_keeps h r
  | sysInfo r => exact execSysInfo_keeps h r
  | sysMbxInfo r => exact execSysMbxInfo_keeps h r
  | sysFence r => exact execSysFence_keeps h r
  | sysReset r => exact execSysReset_keeps h r
  | sysPower r => exact execSysPower_keeps h r
  | unitInfo r => exact execUnitInfo_keeps h r
  | caneDefine r => exact execCaneDefine_keeps h r
  | caneDelete r => exact execCaneDelete_keeps h r
  | caneQuery r => exact execCaneQuery_keeps h r
  | caneMask r => exact execCaneMask_keeps h r
  | caneList r => exact execCaneList_keeps h r
  | strokeLoad r => exact execStrokeLoad_keeps h r
  | tsetLoad r => exact execTsetLoad_keeps h r
  | strokeStart r => exact execStrokeStart_keeps h r
  | strokeHalt r => exact execStrokeHalt_keeps h r
  | strokeStatus r => exact execStrokeStatus_keeps h r
  | strokeRead r => exact execStrokeRead_keeps h r
  | seqConfig r => exact execSeqConfig_keeps h r
  | vmemWrite r => exact execVmemWrite_keeps h r
  | vmemRead r => exact execVmemRead_keeps h r
  | vmemPin r => exact execVmemPin_keeps h r
  | streamOpen r => exact execStreamOpen_keeps h r
  | streamClose r => exact execStreamClose_keeps h r
  | streamWrite r => exact execStreamWrite_keeps h r
  | bcastLoad r => exact execBcastLoad_keeps h r
  | bcastStart r => exact execBcastStart_keeps h r
  | bcastUnload r => exact execBcastUnload_keeps h r
  | stencilLoad r => exact execStencilLoad_keeps h r
  | stencilClear r => exact execStencilClear_keeps h r
  | streamStatus r => exact execStreamStatus_keeps h r
  | ucodeLoad r => exact execUcodeLoad_keeps h r
  | ucodeClear r => exact execUcodeClear_keeps h r
  | ucodeQuery r => exact execUcodeQuery_keeps h r
  | ucodeRead r => exact execUcodeRead_keeps h r
  | pinConfig r => exact execPinConfig_keeps h r
  | pinLevels r => exact execPinLevels_keeps h r
  | pinLoad r => exact execPinLoad_keeps h r
  | pinClearCodes r => exact execPinClearCodes_keeps h r
  | pinComparator r => exact execPinComparator_keeps h r
  | pinRelease r => exact execPinRelease_keeps h r
  | pinStatus r => exact execPinStatus_keeps h r
  | pinRead r => exact execPinRead_keeps h r
  | sentConfig r => exact execSentConfig_keeps h r
  | sentStatus r => exact execSentStatus_keeps h r
  | contactCheck r => exact execContactCheck_keeps h r
  | smuConfig r => exact execSmuConfig_keeps h r
  | smuForce r => exact execSmuForce_keeps h r
  | smuSafe r => exact execSmuSafe_keeps h r
  | smuTrip r => exact execSmuTrip_keeps h r
  | smuMeasure r => exact execSmuMeasure_keeps h r
  | smuRelease r => exact execSmuRelease_keeps h r
  | smuStatus r => exact execSmuStatus_keeps h r
  | smuRead r => exact execSmuRead_keeps h r
  | ampIdent r => exact execAmpIdent_keeps h r
  | ampConnect r => exact execAmpConnect_keeps h r
  | ampDisconnect r => exact execAmpDisconnect_keeps h r
  | ampConvert r => exact execAmpConvert_keeps h r
  | ampBridge r => exact execAmpBridge_keeps h r
  | ampBridgeStatus r => exact execAmpBridgeStatus_keeps h r
  | ampStatus r => exact execAmpStatus_keeps h r
  | ampSheetClose r => exact execAmpSheetClose_keeps h r
  | ampSheetRead r => exact execAmpSheetRead_keeps h r
  | ampAdjust r => exact execAmpAdjust_keeps h r
  | ampCounter r => exact execAmpCounter_keeps h r
  | ampRefcheck r => exact execAmpRefcheck_keeps h r
  | tiuConfig r => exact execTiuConfig_keeps h r
  | tiuStart r => exact execTiuStart_keeps h r
  | tiuAbort r => exact execTiuAbort_keeps h r
  | tiuStamps r => exact execTiuStamps_keeps h r
  | tiuStatus r => exact execTiuStatus_keeps h r
  | tiuSelftest r => exact execTiuSelftest_keeps h r
  | tiuRead r => exact execTiuRead_keeps h r
  | capConfig r => exact execCapConfig_keeps h r
  | capLimits r => exact execCapLimits_keeps h r
  | capArm r => exact execCapArm_keeps h r
  | capForce r => exact execCapForce_keeps h r
  | capAbort r => exact execCapAbort_keeps h r
  | capStatus r => exact execCapStatus_keeps h r
  | capHeader r => exact execCapHeader_keeps h r
  | capRead r => exact execCapRead_keeps h r
  | capReadCfg r => exact execCapReadCfg_keeps h r
  | hatchLineConfig r => exact execHatchLineConfig_keeps h r
  | hatchProducer r => exact execHatchProducer_keeps h r
  | hatchForward r => exact execHatchForward_keeps h r
  | hatchTask r => exact execHatchTask_keeps h r
  | hatchBind r => exact execHatchBind_keeps h r
  | hatchGroup r => exact execHatchGroup_keeps h r
  | hatchRestore r => exact execHatchRestore_keeps h r
  | hatchPulse r => exact execHatchPulse_keeps h r
  | hatchStatus r => exact execHatchStatus_keeps h r
  | calConfig r => exact execCalConfig_keeps h r
  | calPinmask r => exact execCalPinmask_keeps h r
  | calRun r => exact execCalRun_keeps h r
  | calStatus r => exact execCalStatus_keeps h r
  | calQuality r => exact execCalQuality_keeps h r
  | calStore r => exact execCalStore_keeps h r
  | calTemps r => exact execCalTemps_keeps h r
  | netConfig r => exact execNetConfig_keeps h r
  | netStatus r => exact execNetStatus_keeps h r
  | ptpConfig r => exact execPtpConfig_keeps h r
  | timeStatus r => exact execTimeStatus_keeps h r
  | timeAdjust r => exact execTimeAdjust_keeps h r
  | timeStep r => exact execTimeStep_keeps h r
  | tcmpArm r => exact execTcmpArm_keeps h r
  | tcmpStatus r => exact execTcmpStatus_keeps h r
  | exportOpen r => exact execExportOpen_keeps h r
  | exportClose r => exact execExportClose_keeps h r
  | exportStatus r => exact execExportStatus_keeps h r
  | exportResend r => exact execExportResend_keeps h r
  | twinConfig r => exact execTwinConfig_keeps h r
  | twinStatus r => exact execTwinStatus_keeps h r
  | twinHalf r => exact execTwinHalf_keeps h r
  | twinRelease r => exact execTwinRelease_keeps h r
  | jrnConfig r => exact execJrnConfig_keeps h r
  | jrnCheckpoint r => exact execJrnCheckpoint_keeps h r
  | jrnMarkers r => exact execJrnMarkers_keeps h r
  | jrnReport r => exact execJrnReport_keeps h r
  | fltRead r => exact execFltRead_keeps h r
  | fltAck r => exact execFltAck_keeps h r
  | fltForce r => exact execFltForce_keeps h r
  | fltConfig r => exact execFltConfig_keeps h r
  | fltLog r => exact execFltLog_keeps h r
  | fltRelease r => exact execFltRelease_keeps h r
  | secCert r => exact execSecCert_keeps h r
  | secAttest r => exact execSecAttest_keeps h r
  | imgWrite r => exact execImgWrite_keeps h r
  | imgCommit r => exact execImgCommit_keeps h r
  | imgActivate r => exact execImgActivate_keeps h r
  | imgStatus r => exact execImgStatus_keeps h r
  | lcChallenge r => exact execLcChallenge_keeps h r
  | lcCsr r => exact execLcCsr_keeps h r
  | lcInstall r => exact execLcInstall_keeps h r
  | lcTransition r => exact execLcTransition_keeps h r
  | clearNRelease => exact execClearNRelease_keeps h
  | haltNRelease => exact execHaltNRelease_keeps h
  | heartbeatReceive state mirrorSeq ownsBus => exact execHeartbeatReceive_keeps h state mirrorSeq ownsBus
  | counterproofLinkUp => exact execCounterproofLinkUp_keeps h
  | ptpMessage port m => exact execPtpMessage_keeps h port m
  | faultCauseClear src scope => exact execFaultCauseClear_keeps h src scope
  | mpTick => exact execMpTick_keeps h
  | jtagUpdateIr ir => exact execJtagUpdateIr_keeps h ir
  | jtagUpdateDr cells => exact execJtagUpdateDr_keeps h cells
  | jtagTestLogicReset => exact execJtagTestLogicReset_keeps h
  | clip g uv => exact execClip_keeps h g uv
  | smuOutputSettled m => exact execSmuOutputSettled_keeps h m
  | exportCloseTimeout => exact execExportCloseTimeout_keeps h

end Sys2Proof.Machine
end

