-- ==== Sys2Proof/Laws/State.lean ====
section
/-!
SUPPORT. What each update of the state leaves and gives: one lemma for each field and update, true by definition, and the read-back of each
table.
-/
namespace Sys2Proof.Machine

/-! ## setG -/

@[simp] theorem State.setG_pending (s : State) (g : Nat) (G : Gather) : (s.setG g G).pending = s.pending := rfl
@[simp] theorem State.setG_bcTable (s : State) (g : Nat) (G : Gather) : (s.setG g G).bcTable = s.bcTable := rfl
@[simp] theorem State.setG_ctxs (s : State) (g : Nat) (G : Gather) : (s.setG g G).ctxs = s.ctxs := rfl
@[simp] theorem State.setG_progs (s : State) (g : Nat) (G : Gather) : (s.setG g G).progs = s.progs := rfl
@[simp] theorem State.setG_patches (s : State) (g : Nat) (G : Gather) : (s.setG g G).patches = s.patches := rfl
@[simp] theorem State.setG_canes (s : State) (g : Nat) (G : Gather) : (s.setG g G).canes = s.canes := rfl
@[simp] theorem State.setG_mbx (s : State) (g : Nat) (G : Gather) : (s.setG g G).mbx = s.mbx := rfl
@[simp] theorem State.setG_outbox (s : State) (g : Nat) (G : Gather) : (s.setG g G).outbox = s.outbox := rfl
@[simp] theorem State.setG_chain (s : State) (g : Nat) (G : Gather) : (s.setG g G).chain = s.chain := rfl
@[simp] theorem State.setG_hatch (s : State) (g : Nat) (G : Gather) : (s.setG g G).hatch = s.hatch := rfl
@[simp] theorem State.setG_faults (s : State) (g : Nat) (G : Gather) : (s.setG g G).faults = s.faults := rfl
@[simp] theorem State.setG_upNs (s : State) (g : Nat) (G : Gather) : (s.setG g G).upNs = s.upNs := rfl
@[simp] theorem State.setG_freeCount (s : State) (g : Nat) (G : Gather) : (s.setG g G).freeCount = s.freeCount := rfl
@[simp] theorem State.setG_dram (s : State) (g : Nat) (G : Gather) : (s.setG g G).dram = s.dram := rfl
@[simp] theorem State.setG_clearLow (s : State) (g : Nat) (G : Gather) : (s.setG g G).clearLow = s.clearLow := rfl
@[simp] theorem State.setG_tref (s : State) (g : Nat) (G : Gather) : (s.setG g G).tref = s.tref := rfl
@[simp] theorem State.setG_time (s : State) (g : Nat) (G : Gather) : (s.setG g G).time = s.time := rfl
@[simp] theorem State.setG_tcmps (s : State) (g : Nat) (G : Gather) : (s.setG g G).tcmps = s.tcmps := rfl
@[simp] theorem State.setG_ports (s : State) (g : Nat) (G : Gather) : (s.setG g G).ports = s.ports := rfl
@[simp] theorem State.setG_exporter (s : State) (g : Nat) (G : Gather) : (s.setG g G).exporter = s.exporter := rfl
@[simp] theorem State.setG_amp (s : State) (g : Nat) (G : Gather) : (s.setG g G).amp = s.amp := rfl
@[simp] theorem State.setG_cal (s : State) (g : Nat) (G : Gather) : (s.setG g G).cal = s.cal := rfl
@[simp] theorem State.setG_twin (s : State) (g : Nat) (G : Gather) : (s.setG g G).twin = s.twin := rfl
@[simp] theorem State.setG_journal (s : State) (g : Nat) (G : Gather) : (s.setG g G).journal = s.journal := rfl
@[simp] theorem State.setG_power (s : State) (g : Nat) (G : Gather) : (s.setG g G).power = s.power := rfl
@[simp] theorem State.setG_sec (s : State) (g : Nat) (G : Gather) : (s.setG g G).sec = s.sec := rfl
@[simp] theorem State.setG_jtag (s : State) (g : Nat) (G : Gather) : (s.setG g G).jtag = s.jtag := rfl

/-! ## setMbx -/

@[simp] theorem State.setMbx_pending (s : State) (m : Nat) (x : Mailbox) : (s.setMbx m x).pending = s.pending := rfl
@[simp] theorem State.setMbx_gathers (s : State) (m : Nat) (x : Mailbox) : (s.setMbx m x).gathers = s.gathers := rfl
@[simp] theorem State.setMbx_bcTable (s : State) (m : Nat) (x : Mailbox) : (s.setMbx m x).bcTable = s.bcTable := rfl
@[simp] theorem State.setMbx_ctxs (s : State) (m : Nat) (x : Mailbox) : (s.setMbx m x).ctxs = s.ctxs := rfl
@[simp] theorem State.setMbx_progs (s : State) (m : Nat) (x : Mailbox) : (s.setMbx m x).progs = s.progs := rfl
@[simp] theorem State.setMbx_patches (s : State) (m : Nat) (x : Mailbox) : (s.setMbx m x).patches = s.patches := rfl
@[simp] theorem State.setMbx_canes (s : State) (m : Nat) (x : Mailbox) : (s.setMbx m x).canes = s.canes := rfl
@[simp] theorem State.setMbx_outbox (s : State) (m : Nat) (x : Mailbox) : (s.setMbx m x).outbox = s.outbox := rfl
@[simp] theorem State.setMbx_chain (s : State) (m : Nat) (x : Mailbox) : (s.setMbx m x).chain = s.chain := rfl
@[simp] theorem State.setMbx_hatch (s : State) (m : Nat) (x : Mailbox) : (s.setMbx m x).hatch = s.hatch := rfl
@[simp] theorem State.setMbx_faults (s : State) (m : Nat) (x : Mailbox) : (s.setMbx m x).faults = s.faults := rfl
@[simp] theorem State.setMbx_upNs (s : State) (m : Nat) (x : Mailbox) : (s.setMbx m x).upNs = s.upNs := rfl
@[simp] theorem State.setMbx_freeCount (s : State) (m : Nat) (x : Mailbox) : (s.setMbx m x).freeCount = s.freeCount := rfl
@[simp] theorem State.setMbx_dram (s : State) (m : Nat) (x : Mailbox) : (s.setMbx m x).dram = s.dram := rfl
@[simp] theorem State.setMbx_clearLow (s : State) (m : Nat) (x : Mailbox) : (s.setMbx m x).clearLow = s.clearLow := rfl
@[simp] theorem State.setMbx_tref (s : State) (m : Nat) (x : Mailbox) : (s.setMbx m x).tref = s.tref := rfl
@[simp] theorem State.setMbx_time (s : State) (m : Nat) (x : Mailbox) : (s.setMbx m x).time = s.time := rfl
@[simp] theorem State.setMbx_tcmps (s : State) (m : Nat) (x : Mailbox) : (s.setMbx m x).tcmps = s.tcmps := rfl
@[simp] theorem State.setMbx_ports (s : State) (m : Nat) (x : Mailbox) : (s.setMbx m x).ports = s.ports := rfl
@[simp] theorem State.setMbx_exporter (s : State) (m : Nat) (x : Mailbox) : (s.setMbx m x).exporter = s.exporter := rfl
@[simp] theorem State.setMbx_amp (s : State) (m : Nat) (x : Mailbox) : (s.setMbx m x).amp = s.amp := rfl
@[simp] theorem State.setMbx_cal (s : State) (m : Nat) (x : Mailbox) : (s.setMbx m x).cal = s.cal := rfl
@[simp] theorem State.setMbx_twin (s : State) (m : Nat) (x : Mailbox) : (s.setMbx m x).twin = s.twin := rfl
@[simp] theorem State.setMbx_journal (s : State) (m : Nat) (x : Mailbox) : (s.setMbx m x).journal = s.journal := rfl
@[simp] theorem State.setMbx_power (s : State) (m : Nat) (x : Mailbox) : (s.setMbx m x).power = s.power := rfl
@[simp] theorem State.setMbx_sec (s : State) (m : Nat) (x : Mailbox) : (s.setMbx m x).sec = s.sec := rfl
@[simp] theorem State.setMbx_jtag (s : State) (m : Nat) (x : Mailbox) : (s.setMbx m x).jtag = s.jtag := rfl

/-! ## setProg -/

@[simp] theorem State.setProg_pending (s : State) (p : Nat) (x : Prog) : (s.setProg p x).pending = s.pending := rfl
@[simp] theorem State.setProg_gathers (s : State) (p : Nat) (x : Prog) : (s.setProg p x).gathers = s.gathers := rfl
@[simp] theorem State.setProg_bcTable (s : State) (p : Nat) (x : Prog) : (s.setProg p x).bcTable = s.bcTable := rfl
@[simp] theorem State.setProg_ctxs (s : State) (p : Nat) (x : Prog) : (s.setProg p x).ctxs = s.ctxs := rfl
@[simp] theorem State.setProg_patches (s : State) (p : Nat) (x : Prog) : (s.setProg p x).patches = s.patches := rfl
@[simp] theorem State.setProg_canes (s : State) (p : Nat) (x : Prog) : (s.setProg p x).canes = s.canes := rfl
@[simp] theorem State.setProg_mbx (s : State) (p : Nat) (x : Prog) : (s.setProg p x).mbx = s.mbx := rfl
@[simp] theorem State.setProg_outbox (s : State) (p : Nat) (x : Prog) : (s.setProg p x).outbox = s.outbox := rfl
@[simp] theorem State.setProg_chain (s : State) (p : Nat) (x : Prog) : (s.setProg p x).chain = s.chain := rfl
@[simp] theorem State.setProg_hatch (s : State) (p : Nat) (x : Prog) : (s.setProg p x).hatch = s.hatch := rfl
@[simp] theorem State.setProg_faults (s : State) (p : Nat) (x : Prog) : (s.setProg p x).faults = s.faults := rfl
@[simp] theorem State.setProg_upNs (s : State) (p : Nat) (x : Prog) : (s.setProg p x).upNs = s.upNs := rfl
@[simp] theorem State.setProg_freeCount (s : State) (p : Nat) (x : Prog) : (s.setProg p x).freeCount = s.freeCount := rfl
@[simp] theorem State.setProg_dram (s : State) (p : Nat) (x : Prog) : (s.setProg p x).dram = s.dram := rfl
@[simp] theorem State.setProg_clearLow (s : State) (p : Nat) (x : Prog) : (s.setProg p x).clearLow = s.clearLow := rfl
@[simp] theorem State.setProg_tref (s : State) (p : Nat) (x : Prog) : (s.setProg p x).tref = s.tref := rfl
@[simp] theorem State.setProg_time (s : State) (p : Nat) (x : Prog) : (s.setProg p x).time = s.time := rfl
@[simp] theorem State.setProg_tcmps (s : State) (p : Nat) (x : Prog) : (s.setProg p x).tcmps = s.tcmps := rfl
@[simp] theorem State.setProg_ports (s : State) (p : Nat) (x : Prog) : (s.setProg p x).ports = s.ports := rfl
@[simp] theorem State.setProg_exporter (s : State) (p : Nat) (x : Prog) : (s.setProg p x).exporter = s.exporter := rfl
@[simp] theorem State.setProg_amp (s : State) (p : Nat) (x : Prog) : (s.setProg p x).amp = s.amp := rfl
@[simp] theorem State.setProg_cal (s : State) (p : Nat) (x : Prog) : (s.setProg p x).cal = s.cal := rfl
@[simp] theorem State.setProg_twin (s : State) (p : Nat) (x : Prog) : (s.setProg p x).twin = s.twin := rfl
@[simp] theorem State.setProg_journal (s : State) (p : Nat) (x : Prog) : (s.setProg p x).journal = s.journal := rfl
@[simp] theorem State.setProg_power (s : State) (p : Nat) (x : Prog) : (s.setProg p x).power = s.power := rfl
@[simp] theorem State.setProg_sec (s : State) (p : Nat) (x : Prog) : (s.setProg p x).sec = s.sec := rfl
@[simp] theorem State.setProg_jtag (s : State) (p : Nat) (x : Prog) : (s.setProg p x).jtag = s.jtag := rfl

/-! ## setCtx -/

@[simp] theorem State.setCtx_pending (s : State) (c : Nat) (x : Ctx) : (s.setCtx c x).pending = s.pending := rfl
@[simp] theorem State.setCtx_gathers (s : State) (c : Nat) (x : Ctx) : (s.setCtx c x).gathers = s.gathers := rfl
@[simp] theorem State.setCtx_bcTable (s : State) (c : Nat) (x : Ctx) : (s.setCtx c x).bcTable = s.bcTable := rfl
@[simp] theorem State.setCtx_progs (s : State) (c : Nat) (x : Ctx) : (s.setCtx c x).progs = s.progs := rfl
@[simp] theorem State.setCtx_patches (s : State) (c : Nat) (x : Ctx) : (s.setCtx c x).patches = s.patches := rfl
@[simp] theorem State.setCtx_canes (s : State) (c : Nat) (x : Ctx) : (s.setCtx c x).canes = s.canes := rfl
@[simp] theorem State.setCtx_mbx (s : State) (c : Nat) (x : Ctx) : (s.setCtx c x).mbx = s.mbx := rfl
@[simp] theorem State.setCtx_outbox (s : State) (c : Nat) (x : Ctx) : (s.setCtx c x).outbox = s.outbox := rfl
@[simp] theorem State.setCtx_chain (s : State) (c : Nat) (x : Ctx) : (s.setCtx c x).chain = s.chain := rfl
@[simp] theorem State.setCtx_hatch (s : State) (c : Nat) (x : Ctx) : (s.setCtx c x).hatch = s.hatch := rfl
@[simp] theorem State.setCtx_faults (s : State) (c : Nat) (x : Ctx) : (s.setCtx c x).faults = s.faults := rfl
@[simp] theorem State.setCtx_upNs (s : State) (c : Nat) (x : Ctx) : (s.setCtx c x).upNs = s.upNs := rfl
@[simp] theorem State.setCtx_freeCount (s : State) (c : Nat) (x : Ctx) : (s.setCtx c x).freeCount = s.freeCount := rfl
@[simp] theorem State.setCtx_dram (s : State) (c : Nat) (x : Ctx) : (s.setCtx c x).dram = s.dram := rfl
@[simp] theorem State.setCtx_clearLow (s : State) (c : Nat) (x : Ctx) : (s.setCtx c x).clearLow = s.clearLow := rfl
@[simp] theorem State.setCtx_tref (s : State) (c : Nat) (x : Ctx) : (s.setCtx c x).tref = s.tref := rfl
@[simp] theorem State.setCtx_time (s : State) (c : Nat) (x : Ctx) : (s.setCtx c x).time = s.time := rfl
@[simp] theorem State.setCtx_tcmps (s : State) (c : Nat) (x : Ctx) : (s.setCtx c x).tcmps = s.tcmps := rfl
@[simp] theorem State.setCtx_ports (s : State) (c : Nat) (x : Ctx) : (s.setCtx c x).ports = s.ports := rfl
@[simp] theorem State.setCtx_exporter (s : State) (c : Nat) (x : Ctx) : (s.setCtx c x).exporter = s.exporter := rfl
@[simp] theorem State.setCtx_amp (s : State) (c : Nat) (x : Ctx) : (s.setCtx c x).amp = s.amp := rfl
@[simp] theorem State.setCtx_cal (s : State) (c : Nat) (x : Ctx) : (s.setCtx c x).cal = s.cal := rfl
@[simp] theorem State.setCtx_twin (s : State) (c : Nat) (x : Ctx) : (s.setCtx c x).twin = s.twin := rfl
@[simp] theorem State.setCtx_journal (s : State) (c : Nat) (x : Ctx) : (s.setCtx c x).journal = s.journal := rfl
@[simp] theorem State.setCtx_power (s : State) (c : Nat) (x : Ctx) : (s.setCtx c x).power = s.power := rfl
@[simp] theorem State.setCtx_sec (s : State) (c : Nat) (x : Ctx) : (s.setCtx c x).sec = s.sec := rfl
@[simp] theorem State.setCtx_jtag (s : State) (c : Nat) (x : Ctx) : (s.setCtx c x).jtag = s.jtag := rfl

/-! ## putCane -/

@[simp] theorem State.putCane_pending (s : State) (i : Nat) (c : Cane) : (s.putCane i c).pending = s.pending := rfl
@[simp] theorem State.putCane_gathers (s : State) (i : Nat) (c : Cane) : (s.putCane i c).gathers = s.gathers := rfl
@[simp] theorem State.putCane_bcTable (s : State) (i : Nat) (c : Cane) : (s.putCane i c).bcTable = s.bcTable := rfl
@[simp] theorem State.putCane_ctxs (s : State) (i : Nat) (c : Cane) : (s.putCane i c).ctxs = s.ctxs := rfl
@[simp] theorem State.putCane_progs (s : State) (i : Nat) (c : Cane) : (s.putCane i c).progs = s.progs := rfl
@[simp] theorem State.putCane_patches (s : State) (i : Nat) (c : Cane) : (s.putCane i c).patches = s.patches := rfl
@[simp] theorem State.putCane_mbx (s : State) (i : Nat) (c : Cane) : (s.putCane i c).mbx = s.mbx := rfl
@[simp] theorem State.putCane_outbox (s : State) (i : Nat) (c : Cane) : (s.putCane i c).outbox = s.outbox := rfl
@[simp] theorem State.putCane_chain (s : State) (i : Nat) (c : Cane) : (s.putCane i c).chain = s.chain := rfl
@[simp] theorem State.putCane_hatch (s : State) (i : Nat) (c : Cane) : (s.putCane i c).hatch = s.hatch := rfl
@[simp] theorem State.putCane_faults (s : State) (i : Nat) (c : Cane) : (s.putCane i c).faults = s.faults := rfl
@[simp] theorem State.putCane_upNs (s : State) (i : Nat) (c : Cane) : (s.putCane i c).upNs = s.upNs := rfl
@[simp] theorem State.putCane_freeCount (s : State) (i : Nat) (c : Cane) : (s.putCane i c).freeCount = s.freeCount := rfl
@[simp] theorem State.putCane_dram (s : State) (i : Nat) (c : Cane) : (s.putCane i c).dram = s.dram := rfl
@[simp] theorem State.putCane_clearLow (s : State) (i : Nat) (c : Cane) : (s.putCane i c).clearLow = s.clearLow := rfl
@[simp] theorem State.putCane_tref (s : State) (i : Nat) (c : Cane) : (s.putCane i c).tref = s.tref := rfl
@[simp] theorem State.putCane_time (s : State) (i : Nat) (c : Cane) : (s.putCane i c).time = s.time := rfl
@[simp] theorem State.putCane_tcmps (s : State) (i : Nat) (c : Cane) : (s.putCane i c).tcmps = s.tcmps := rfl
@[simp] theorem State.putCane_ports (s : State) (i : Nat) (c : Cane) : (s.putCane i c).ports = s.ports := rfl
@[simp] theorem State.putCane_exporter (s : State) (i : Nat) (c : Cane) : (s.putCane i c).exporter = s.exporter := rfl
@[simp] theorem State.putCane_amp (s : State) (i : Nat) (c : Cane) : (s.putCane i c).amp = s.amp := rfl
@[simp] theorem State.putCane_cal (s : State) (i : Nat) (c : Cane) : (s.putCane i c).cal = s.cal := rfl
@[simp] theorem State.putCane_twin (s : State) (i : Nat) (c : Cane) : (s.putCane i c).twin = s.twin := rfl
@[simp] theorem State.putCane_journal (s : State) (i : Nat) (c : Cane) : (s.putCane i c).journal = s.journal := rfl
@[simp] theorem State.putCane_power (s : State) (i : Nat) (c : Cane) : (s.putCane i c).power = s.power := rfl
@[simp] theorem State.putCane_sec (s : State) (i : Nat) (c : Cane) : (s.putCane i c).sec = s.sec := rfl
@[simp] theorem State.putCane_jtag (s : State) (i : Nat) (c : Cane) : (s.putCane i c).jtag = s.jtag := rfl

/-! ## setFaults -/

@[simp] theorem State.setFaults_pending (s : State) (f : Faults) : (s.setFaults f).pending = s.pending := rfl
@[simp] theorem State.setFaults_gathers (s : State) (f : Faults) : (s.setFaults f).gathers = s.gathers := rfl
@[simp] theorem State.setFaults_bcTable (s : State) (f : Faults) : (s.setFaults f).bcTable = s.bcTable := rfl
@[simp] theorem State.setFaults_ctxs (s : State) (f : Faults) : (s.setFaults f).ctxs = s.ctxs := rfl
@[simp] theorem State.setFaults_progs (s : State) (f : Faults) : (s.setFaults f).progs = s.progs := rfl
@[simp] theorem State.setFaults_patches (s : State) (f : Faults) : (s.setFaults f).patches = s.patches := rfl
@[simp] theorem State.setFaults_canes (s : State) (f : Faults) : (s.setFaults f).canes = s.canes := rfl
@[simp] theorem State.setFaults_mbx (s : State) (f : Faults) : (s.setFaults f).mbx = s.mbx := rfl
@[simp] theorem State.setFaults_outbox (s : State) (f : Faults) : (s.setFaults f).outbox = s.outbox := rfl
@[simp] theorem State.setFaults_chain (s : State) (f : Faults) : (s.setFaults f).chain = s.chain := rfl
@[simp] theorem State.setFaults_hatch (s : State) (f : Faults) : (s.setFaults f).hatch = s.hatch := rfl
@[simp] theorem State.setFaults_upNs (s : State) (f : Faults) : (s.setFaults f).upNs = s.upNs := rfl
@[simp] theorem State.setFaults_freeCount (s : State) (f : Faults) : (s.setFaults f).freeCount = s.freeCount := rfl
@[simp] theorem State.setFaults_dram (s : State) (f : Faults) : (s.setFaults f).dram = s.dram := rfl
@[simp] theorem State.setFaults_clearLow (s : State) (f : Faults) : (s.setFaults f).clearLow = s.clearLow := rfl
@[simp] theorem State.setFaults_tref (s : State) (f : Faults) : (s.setFaults f).tref = s.tref := rfl
@[simp] theorem State.setFaults_time (s : State) (f : Faults) : (s.setFaults f).time = s.time := rfl
@[simp] theorem State.setFaults_tcmps (s : State) (f : Faults) : (s.setFaults f).tcmps = s.tcmps := rfl
@[simp] theorem State.setFaults_ports (s : State) (f : Faults) : (s.setFaults f).ports = s.ports := rfl
@[simp] theorem State.setFaults_exporter (s : State) (f : Faults) : (s.setFaults f).exporter = s.exporter := rfl
@[simp] theorem State.setFaults_amp (s : State) (f : Faults) : (s.setFaults f).amp = s.amp := rfl
@[simp] theorem State.setFaults_cal (s : State) (f : Faults) : (s.setFaults f).cal = s.cal := rfl
@[simp] theorem State.setFaults_twin (s : State) (f : Faults) : (s.setFaults f).twin = s.twin := rfl
@[simp] theorem State.setFaults_journal (s : State) (f : Faults) : (s.setFaults f).journal = s.journal := rfl
@[simp] theorem State.setFaults_power (s : State) (f : Faults) : (s.setFaults f).power = s.power := rfl
@[simp] theorem State.setFaults_sec (s : State) (f : Faults) : (s.setFaults f).sec = s.sec := rfl
@[simp] theorem State.setFaults_jtag (s : State) (f : Faults) : (s.setFaults f).jtag = s.jtag := rfl

/-! ## setHatch -/

@[simp] theorem State.setHatch_pending (s : State) (h : Hatch) : (s.setHatch h).pending = s.pending := rfl
@[simp] theorem State.setHatch_gathers (s : State) (h : Hatch) : (s.setHatch h).gathers = s.gathers := rfl
@[simp] theorem State.setHatch_bcTable (s : State) (h : Hatch) : (s.setHatch h).bcTable = s.bcTable := rfl
@[simp] theorem State.setHatch_ctxs (s : State) (h : Hatch) : (s.setHatch h).ctxs = s.ctxs := rfl
@[simp] theorem State.setHatch_progs (s : State) (h : Hatch) : (s.setHatch h).progs = s.progs := rfl
@[simp] theorem State.setHatch_patches (s : State) (h : Hatch) : (s.setHatch h).patches = s.patches := rfl
@[simp] theorem State.setHatch_canes (s : State) (h : Hatch) : (s.setHatch h).canes = s.canes := rfl
@[simp] theorem State.setHatch_mbx (s : State) (h : Hatch) : (s.setHatch h).mbx = s.mbx := rfl
@[simp] theorem State.setHatch_outbox (s : State) (h : Hatch) : (s.setHatch h).outbox = s.outbox := rfl
@[simp] theorem State.setHatch_chain (s : State) (h : Hatch) : (s.setHatch h).chain = s.chain := rfl
@[simp] theorem State.setHatch_faults (s : State) (h : Hatch) : (s.setHatch h).faults = s.faults := rfl
@[simp] theorem State.setHatch_upNs (s : State) (h : Hatch) : (s.setHatch h).upNs = s.upNs := rfl
@[simp] theorem State.setHatch_freeCount (s : State) (h : Hatch) : (s.setHatch h).freeCount = s.freeCount := rfl
@[simp] theorem State.setHatch_dram (s : State) (h : Hatch) : (s.setHatch h).dram = s.dram := rfl
@[simp] theorem State.setHatch_clearLow (s : State) (h : Hatch) : (s.setHatch h).clearLow = s.clearLow := rfl
@[simp] theorem State.setHatch_tref (s : State) (h : Hatch) : (s.setHatch h).tref = s.tref := rfl
@[simp] theorem State.setHatch_time (s : State) (h : Hatch) : (s.setHatch h).time = s.time := rfl
@[simp] theorem State.setHatch_tcmps (s : State) (h : Hatch) : (s.setHatch h).tcmps = s.tcmps := rfl
@[simp] theorem State.setHatch_ports (s : State) (h : Hatch) : (s.setHatch h).ports = s.ports := rfl
@[simp] theorem State.setHatch_exporter (s : State) (h : Hatch) : (s.setHatch h).exporter = s.exporter := rfl
@[simp] theorem State.setHatch_amp (s : State) (h : Hatch) : (s.setHatch h).amp = s.amp := rfl
@[simp] theorem State.setHatch_cal (s : State) (h : Hatch) : (s.setHatch h).cal = s.cal := rfl
@[simp] theorem State.setHatch_twin (s : State) (h : Hatch) : (s.setHatch h).twin = s.twin := rfl
@[simp] theorem State.setHatch_journal (s : State) (h : Hatch) : (s.setHatch h).journal = s.journal := rfl
@[simp] theorem State.setHatch_power (s : State) (h : Hatch) : (s.setHatch h).power = s.power := rfl
@[simp] theorem State.setHatch_sec (s : State) (h : Hatch) : (s.setHatch h).sec = s.sec := rfl
@[simp] theorem State.setHatch_jtag (s : State) (h : Hatch) : (s.setHatch h).jtag = s.jtag := rfl

/-! ## setTwin -/

@[simp] theorem State.setTwin_pending (s : State) (t : Twin) : (s.setTwin t).pending = s.pending := rfl
@[simp] theorem State.setTwin_gathers (s : State) (t : Twin) : (s.setTwin t).gathers = s.gathers := rfl
@[simp] theorem State.setTwin_bcTable (s : State) (t : Twin) : (s.setTwin t).bcTable = s.bcTable := rfl
@[simp] theorem State.setTwin_ctxs (s : State) (t : Twin) : (s.setTwin t).ctxs = s.ctxs := rfl
@[simp] theorem State.setTwin_progs (s : State) (t : Twin) : (s.setTwin t).progs = s.progs := rfl
@[simp] theorem State.setTwin_patches (s : State) (t : Twin) : (s.setTwin t).patches = s.patches := rfl
@[simp] theorem State.setTwin_canes (s : State) (t : Twin) : (s.setTwin t).canes = s.canes := rfl
@[simp] theorem State.setTwin_mbx (s : State) (t : Twin) : (s.setTwin t).mbx = s.mbx := rfl
@[simp] theorem State.setTwin_outbox (s : State) (t : Twin) : (s.setTwin t).outbox = s.outbox := rfl
@[simp] theorem State.setTwin_chain (s : State) (t : Twin) : (s.setTwin t).chain = s.chain := rfl
@[simp] theorem State.setTwin_hatch (s : State) (t : Twin) : (s.setTwin t).hatch = s.hatch := rfl
@[simp] theorem State.setTwin_faults (s : State) (t : Twin) : (s.setTwin t).faults = s.faults := rfl
@[simp] theorem State.setTwin_upNs (s : State) (t : Twin) : (s.setTwin t).upNs = s.upNs := rfl
@[simp] theorem State.setTwin_freeCount (s : State) (t : Twin) : (s.setTwin t).freeCount = s.freeCount := rfl
@[simp] theorem State.setTwin_dram (s : State) (t : Twin) : (s.setTwin t).dram = s.dram := rfl
@[simp] theorem State.setTwin_clearLow (s : State) (t : Twin) : (s.setTwin t).clearLow = s.clearLow := rfl
@[simp] theorem State.setTwin_tref (s : State) (t : Twin) : (s.setTwin t).tref = s.tref := rfl
@[simp] theorem State.setTwin_time (s : State) (t : Twin) : (s.setTwin t).time = s.time := rfl
@[simp] theorem State.setTwin_tcmps (s : State) (t : Twin) : (s.setTwin t).tcmps = s.tcmps := rfl
@[simp] theorem State.setTwin_ports (s : State) (t : Twin) : (s.setTwin t).ports = s.ports := rfl
@[simp] theorem State.setTwin_exporter (s : State) (t : Twin) : (s.setTwin t).exporter = s.exporter := rfl
@[simp] theorem State.setTwin_amp (s : State) (t : Twin) : (s.setTwin t).amp = s.amp := rfl
@[simp] theorem State.setTwin_cal (s : State) (t : Twin) : (s.setTwin t).cal = s.cal := rfl
@[simp] theorem State.setTwin_journal (s : State) (t : Twin) : (s.setTwin t).journal = s.journal := rfl
@[simp] theorem State.setTwin_power (s : State) (t : Twin) : (s.setTwin t).power = s.power := rfl
@[simp] theorem State.setTwin_sec (s : State) (t : Twin) : (s.setTwin t).sec = s.sec := rfl
@[simp] theorem State.setTwin_jtag (s : State) (t : Twin) : (s.setTwin t).jtag = s.jtag := rfl

/-! ## setJournal -/

@[simp] theorem State.setJournal_pending (s : State) (j : Journal) : (s.setJournal j).pending = s.pending := rfl
@[simp] theorem State.setJournal_gathers (s : State) (j : Journal) : (s.setJournal j).gathers = s.gathers := rfl
@[simp] theorem State.setJournal_bcTable (s : State) (j : Journal) : (s.setJournal j).bcTable = s.bcTable := rfl
@[simp] theorem State.setJournal_ctxs (s : State) (j : Journal) : (s.setJournal j).ctxs = s.ctxs := rfl
@[simp] theorem State.setJournal_progs (s : State) (j : Journal) : (s.setJournal j).progs = s.progs := rfl
@[simp] theorem State.setJournal_patches (s : State) (j : Journal) : (s.setJournal j).patches = s.patches := rfl
@[simp] theorem State.setJournal_canes (s : State) (j : Journal) : (s.setJournal j).canes = s.canes := rfl
@[simp] theorem State.setJournal_mbx (s : State) (j : Journal) : (s.setJournal j).mbx = s.mbx := rfl
@[simp] theorem State.setJournal_outbox (s : State) (j : Journal) : (s.setJournal j).outbox = s.outbox := rfl
@[simp] theorem State.setJournal_chain (s : State) (j : Journal) : (s.setJournal j).chain = s.chain := rfl
@[simp] theorem State.setJournal_hatch (s : State) (j : Journal) : (s.setJournal j).hatch = s.hatch := rfl
@[simp] theorem State.setJournal_faults (s : State) (j : Journal) : (s.setJournal j).faults = s.faults := rfl
@[simp] theorem State.setJournal_upNs (s : State) (j : Journal) : (s.setJournal j).upNs = s.upNs := rfl
@[simp] theorem State.setJournal_freeCount (s : State) (j : Journal) : (s.setJournal j).freeCount = s.freeCount := rfl
@[simp] theorem State.setJournal_dram (s : State) (j : Journal) : (s.setJournal j).dram = s.dram := rfl
@[simp] theorem State.setJournal_clearLow (s : State) (j : Journal) : (s.setJournal j).clearLow = s.clearLow := rfl
@[simp] theorem State.setJournal_tref (s : State) (j : Journal) : (s.setJournal j).tref = s.tref := rfl
@[simp] theorem State.setJournal_time (s : State) (j : Journal) : (s.setJournal j).time = s.time := rfl
@[simp] theorem State.setJournal_tcmps (s : State) (j : Journal) : (s.setJournal j).tcmps = s.tcmps := rfl
@[simp] theorem State.setJournal_ports (s : State) (j : Journal) : (s.setJournal j).ports = s.ports := rfl
@[simp] theorem State.setJournal_exporter (s : State) (j : Journal) : (s.setJournal j).exporter = s.exporter := rfl
@[simp] theorem State.setJournal_amp (s : State) (j : Journal) : (s.setJournal j).amp = s.amp := rfl
@[simp] theorem State.setJournal_cal (s : State) (j : Journal) : (s.setJournal j).cal = s.cal := rfl
@[simp] theorem State.setJournal_twin (s : State) (j : Journal) : (s.setJournal j).twin = s.twin := rfl
@[simp] theorem State.setJournal_power (s : State) (j : Journal) : (s.setJournal j).power = s.power := rfl
@[simp] theorem State.setJournal_sec (s : State) (j : Journal) : (s.setJournal j).sec = s.sec := rfl
@[simp] theorem State.setJournal_jtag (s : State) (j : Journal) : (s.setJournal j).jtag = s.jtag := rfl

/-! ## setPort -/

@[simp] theorem State.setPort_pending (s : State) (p : Nat) (x : Port) : (s.setPort p x).pending = s.pending := rfl
@[simp] theorem State.setPort_gathers (s : State) (p : Nat) (x : Port) : (s.setPort p x).gathers = s.gathers := rfl
@[simp] theorem State.setPort_bcTable (s : State) (p : Nat) (x : Port) : (s.setPort p x).bcTable = s.bcTable := rfl
@[simp] theorem State.setPort_ctxs (s : State) (p : Nat) (x : Port) : (s.setPort p x).ctxs = s.ctxs := rfl
@[simp] theorem State.setPort_progs (s : State) (p : Nat) (x : Port) : (s.setPort p x).progs = s.progs := rfl
@[simp] theorem State.setPort_patches (s : State) (p : Nat) (x : Port) : (s.setPort p x).patches = s.patches := rfl
@[simp] theorem State.setPort_canes (s : State) (p : Nat) (x : Port) : (s.setPort p x).canes = s.canes := rfl
@[simp] theorem State.setPort_mbx (s : State) (p : Nat) (x : Port) : (s.setPort p x).mbx = s.mbx := rfl
@[simp] theorem State.setPort_outbox (s : State) (p : Nat) (x : Port) : (s.setPort p x).outbox = s.outbox := rfl
@[simp] theorem State.setPort_chain (s : State) (p : Nat) (x : Port) : (s.setPort p x).chain = s.chain := rfl
@[simp] theorem State.setPort_hatch (s : State) (p : Nat) (x : Port) : (s.setPort p x).hatch = s.hatch := rfl
@[simp] theorem State.setPort_faults (s : State) (p : Nat) (x : Port) : (s.setPort p x).faults = s.faults := rfl
@[simp] theorem State.setPort_upNs (s : State) (p : Nat) (x : Port) : (s.setPort p x).upNs = s.upNs := rfl
@[simp] theorem State.setPort_freeCount (s : State) (p : Nat) (x : Port) : (s.setPort p x).freeCount = s.freeCount := rfl
@[simp] theorem State.setPort_dram (s : State) (p : Nat) (x : Port) : (s.setPort p x).dram = s.dram := rfl
@[simp] theorem State.setPort_clearLow (s : State) (p : Nat) (x : Port) : (s.setPort p x).clearLow = s.clearLow := rfl
@[simp] theorem State.setPort_tref (s : State) (p : Nat) (x : Port) : (s.setPort p x).tref = s.tref := rfl
@[simp] theorem State.setPort_time (s : State) (p : Nat) (x : Port) : (s.setPort p x).time = s.time := rfl
@[simp] theorem State.setPort_tcmps (s : State) (p : Nat) (x : Port) : (s.setPort p x).tcmps = s.tcmps := rfl
@[simp] theorem State.setPort_exporter (s : State) (p : Nat) (x : Port) : (s.setPort p x).exporter = s.exporter := rfl
@[simp] theorem State.setPort_amp (s : State) (p : Nat) (x : Port) : (s.setPort p x).amp = s.amp := rfl
@[simp] theorem State.setPort_cal (s : State) (p : Nat) (x : Port) : (s.setPort p x).cal = s.cal := rfl
@[simp] theorem State.setPort_twin (s : State) (p : Nat) (x : Port) : (s.setPort p x).twin = s.twin := rfl
@[simp] theorem State.setPort_journal (s : State) (p : Nat) (x : Port) : (s.setPort p x).journal = s.journal := rfl
@[simp] theorem State.setPort_power (s : State) (p : Nat) (x : Port) : (s.setPort p x).power = s.power := rfl
@[simp] theorem State.setPort_sec (s : State) (p : Nat) (x : Port) : (s.setPort p x).sec = s.sec := rfl
@[simp] theorem State.setPort_jtag (s : State) (p : Nat) (x : Port) : (s.setPort p x).jtag = s.jtag := rfl

/-! ## setPstate -/

@[simp] theorem State.setPstate_pending (s : State) (p : Nat) : (s.setPstate p).pending = s.pending := rfl
@[simp] theorem State.setPstate_gathers (s : State) (p : Nat) : (s.setPstate p).gathers = s.gathers := rfl
@[simp] theorem State.setPstate_bcTable (s : State) (p : Nat) : (s.setPstate p).bcTable = s.bcTable := rfl
@[simp] theorem State.setPstate_ctxs (s : State) (p : Nat) : (s.setPstate p).ctxs = s.ctxs := rfl
@[simp] theorem State.setPstate_progs (s : State) (p : Nat) : (s.setPstate p).progs = s.progs := rfl
@[simp] theorem State.setPstate_patches (s : State) (p : Nat) : (s.setPstate p).patches = s.patches := rfl
@[simp] theorem State.setPstate_canes (s : State) (p : Nat) : (s.setPstate p).canes = s.canes := rfl
@[simp] theorem State.setPstate_mbx (s : State) (p : Nat) : (s.setPstate p).mbx = s.mbx := rfl
@[simp] theorem State.setPstate_outbox (s : State) (p : Nat) : (s.setPstate p).outbox = s.outbox := rfl
@[simp] theorem State.setPstate_chain (s : State) (p : Nat) : (s.setPstate p).chain = s.chain := rfl
@[simp] theorem State.setPstate_hatch (s : State) (p : Nat) : (s.setPstate p).hatch = s.hatch := rfl
@[simp] theorem State.setPstate_faults (s : State) (p : Nat) : (s.setPstate p).faults = s.faults := rfl
@[simp] theorem State.setPstate_upNs (s : State) (p : Nat) : (s.setPstate p).upNs = s.upNs := rfl
@[simp] theorem State.setPstate_freeCount (s : State) (p : Nat) : (s.setPstate p).freeCount = s.freeCount := rfl
@[simp] theorem State.setPstate_dram (s : State) (p : Nat) : (s.setPstate p).dram = s.dram := rfl
@[simp] theorem State.setPstate_clearLow (s : State) (p : Nat) : (s.setPstate p).clearLow = s.clearLow := rfl
@[simp] theorem State.setPstate_tref (s : State) (p : Nat) : (s.setPstate p).tref = s.tref := rfl
@[simp] theorem State.setPstate_time (s : State) (p : Nat) : (s.setPstate p).time = s.time := rfl
@[simp] theorem State.setPstate_tcmps (s : State) (p : Nat) : (s.setPstate p).tcmps = s.tcmps := rfl
@[simp] theorem State.setPstate_ports (s : State) (p : Nat) : (s.setPstate p).ports = s.ports := rfl
@[simp] theorem State.setPstate_exporter (s : State) (p : Nat) : (s.setPstate p).exporter = s.exporter := rfl
@[simp] theorem State.setPstate_amp (s : State) (p : Nat) : (s.setPstate p).amp = s.amp := rfl
@[simp] theorem State.setPstate_cal (s : State) (p : Nat) : (s.setPstate p).cal = s.cal := rfl
@[simp] theorem State.setPstate_twin (s : State) (p : Nat) : (s.setPstate p).twin = s.twin := rfl
@[simp] theorem State.setPstate_journal (s : State) (p : Nat) : (s.setPstate p).journal = s.journal := rfl
@[simp] theorem State.setPstate_sec (s : State) (p : Nat) : (s.setPstate p).sec = s.sec := rfl
@[simp] theorem State.setPstate_jtag (s : State) (p : Nat) : (s.setPstate p).jtag = s.jtag := rfl

/-! ## setAmp -/

@[simp] theorem State.setAmp_pending (s : State) (a : Amp) : (s.setAmp a).pending = s.pending := rfl
@[simp] theorem State.setAmp_gathers (s : State) (a : Amp) : (s.setAmp a).gathers = s.gathers := rfl
@[simp] theorem State.setAmp_bcTable (s : State) (a : Amp) : (s.setAmp a).bcTable = s.bcTable := rfl
@[simp] theorem State.setAmp_ctxs (s : State) (a : Amp) : (s.setAmp a).ctxs = s.ctxs := rfl
@[simp] theorem State.setAmp_progs (s : State) (a : Amp) : (s.setAmp a).progs = s.progs := rfl
@[simp] theorem State.setAmp_patches (s : State) (a : Amp) : (s.setAmp a).patches = s.patches := rfl
@[simp] theorem State.setAmp_canes (s : State) (a : Amp) : (s.setAmp a).canes = s.canes := rfl
@[simp] theorem State.setAmp_mbx (s : State) (a : Amp) : (s.setAmp a).mbx = s.mbx := rfl
@[simp] theorem State.setAmp_outbox (s : State) (a : Amp) : (s.setAmp a).outbox = s.outbox := rfl
@[simp] theorem State.setAmp_chain (s : State) (a : Amp) : (s.setAmp a).chain = s.chain := rfl
@[simp] theorem State.setAmp_hatch (s : State) (a : Amp) : (s.setAmp a).hatch = s.hatch := rfl
@[simp] theorem State.setAmp_faults (s : State) (a : Amp) : (s.setAmp a).faults = s.faults := rfl
@[simp] theorem State.setAmp_upNs (s : State) (a : Amp) : (s.setAmp a).upNs = s.upNs := rfl
@[simp] theorem State.setAmp_freeCount (s : State) (a : Amp) : (s.setAmp a).freeCount = s.freeCount := rfl
@[simp] theorem State.setAmp_dram (s : State) (a : Amp) : (s.setAmp a).dram = s.dram := rfl
@[simp] theorem State.setAmp_clearLow (s : State) (a : Amp) : (s.setAmp a).clearLow = s.clearLow := rfl
@[simp] theorem State.setAmp_tref (s : State) (a : Amp) : (s.setAmp a).tref = s.tref := rfl
@[simp] theorem State.setAmp_time (s : State) (a : Amp) : (s.setAmp a).time = s.time := rfl
@[simp] theorem State.setAmp_tcmps (s : State) (a : Amp) : (s.setAmp a).tcmps = s.tcmps := rfl
@[simp] theorem State.setAmp_ports (s : State) (a : Amp) : (s.setAmp a).ports = s.ports := rfl
@[simp] theorem State.setAmp_exporter (s : State) (a : Amp) : (s.setAmp a).exporter = s.exporter := rfl
@[simp] theorem State.setAmp_cal (s : State) (a : Amp) : (s.setAmp a).cal = s.cal := rfl
@[simp] theorem State.setAmp_twin (s : State) (a : Amp) : (s.setAmp a).twin = s.twin := rfl
@[simp] theorem State.setAmp_journal (s : State) (a : Amp) : (s.setAmp a).journal = s.journal := rfl
@[simp] theorem State.setAmp_power (s : State) (a : Amp) : (s.setAmp a).power = s.power := rfl
@[simp] theorem State.setAmp_sec (s : State) (a : Amp) : (s.setAmp a).sec = s.sec := rfl
@[simp] theorem State.setAmp_jtag (s : State) (a : Amp) : (s.setAmp a).jtag = s.jtag := rfl

/-! ## setChain -/

@[simp] theorem State.setChain_pending (s : State) (c : Chain) : (s.setChain c).pending = s.pending := rfl
@[simp] theorem State.setChain_gathers (s : State) (c : Chain) : (s.setChain c).gathers = s.gathers := rfl
@[simp] theorem State.setChain_bcTable (s : State) (c : Chain) : (s.setChain c).bcTable = s.bcTable := rfl
@[simp] theorem State.setChain_ctxs (s : State) (c : Chain) : (s.setChain c).ctxs = s.ctxs := rfl
@[simp] theorem State.setChain_progs (s : State) (c : Chain) : (s.setChain c).progs = s.progs := rfl
@[simp] theorem State.setChain_patches (s : State) (c : Chain) : (s.setChain c).patches = s.patches := rfl
@[simp] theorem State.setChain_canes (s : State) (c : Chain) : (s.setChain c).canes = s.canes := rfl
@[simp] theorem State.setChain_mbx (s : State) (c : Chain) : (s.setChain c).mbx = s.mbx := rfl
@[simp] theorem State.setChain_outbox (s : State) (c : Chain) : (s.setChain c).outbox = s.outbox := rfl
@[simp] theorem State.setChain_hatch (s : State) (c : Chain) : (s.setChain c).hatch = s.hatch := rfl
@[simp] theorem State.setChain_faults (s : State) (c : Chain) : (s.setChain c).faults = s.faults := rfl
@[simp] theorem State.setChain_upNs (s : State) (c : Chain) : (s.setChain c).upNs = s.upNs := rfl
@[simp] theorem State.setChain_freeCount (s : State) (c : Chain) : (s.setChain c).freeCount = s.freeCount := rfl
@[simp] theorem State.setChain_dram (s : State) (c : Chain) : (s.setChain c).dram = s.dram := rfl
@[simp] theorem State.setChain_clearLow (s : State) (c : Chain) : (s.setChain c).clearLow = s.clearLow := rfl
@[simp] theorem State.setChain_tref (s : State) (c : Chain) : (s.setChain c).tref = s.tref := rfl
@[simp] theorem State.setChain_time (s : State) (c : Chain) : (s.setChain c).time = s.time := rfl
@[simp] theorem State.setChain_tcmps (s : State) (c : Chain) : (s.setChain c).tcmps = s.tcmps := rfl
@[simp] theorem State.setChain_ports (s : State) (c : Chain) : (s.setChain c).ports = s.ports := rfl
@[simp] theorem State.setChain_exporter (s : State) (c : Chain) : (s.setChain c).exporter = s.exporter := rfl
@[simp] theorem State.setChain_amp (s : State) (c : Chain) : (s.setChain c).amp = s.amp := rfl
@[simp] theorem State.setChain_cal (s : State) (c : Chain) : (s.setChain c).cal = s.cal := rfl
@[simp] theorem State.setChain_twin (s : State) (c : Chain) : (s.setChain c).twin = s.twin := rfl
@[simp] theorem State.setChain_journal (s : State) (c : Chain) : (s.setChain c).journal = s.journal := rfl
@[simp] theorem State.setChain_power (s : State) (c : Chain) : (s.setChain c).power = s.power := rfl
@[simp] theorem State.setChain_sec (s : State) (c : Chain) : (s.setChain c).sec = s.sec := rfl
@[simp] theorem State.setChain_jtag (s : State) (c : Chain) : (s.setChain c).jtag = s.jtag := rfl

/-! ## setTcmp -/

@[simp] theorem State.setTcmp_pending (s : State) (n : Nat) (x : Tcmp) : (s.setTcmp n x).pending = s.pending := rfl
@[simp] theorem State.setTcmp_gathers (s : State) (n : Nat) (x : Tcmp) : (s.setTcmp n x).gathers = s.gathers := rfl
@[simp] theorem State.setTcmp_bcTable (s : State) (n : Nat) (x : Tcmp) : (s.setTcmp n x).bcTable = s.bcTable := rfl
@[simp] theorem State.setTcmp_ctxs (s : State) (n : Nat) (x : Tcmp) : (s.setTcmp n x).ctxs = s.ctxs := rfl
@[simp] theorem State.setTcmp_progs (s : State) (n : Nat) (x : Tcmp) : (s.setTcmp n x).progs = s.progs := rfl
@[simp] theorem State.setTcmp_patches (s : State) (n : Nat) (x : Tcmp) : (s.setTcmp n x).patches = s.patches := rfl
@[simp] theorem State.setTcmp_canes (s : State) (n : Nat) (x : Tcmp) : (s.setTcmp n x).canes = s.canes := rfl
@[simp] theorem State.setTcmp_mbx (s : State) (n : Nat) (x : Tcmp) : (s.setTcmp n x).mbx = s.mbx := rfl
@[simp] theorem State.setTcmp_outbox (s : State) (n : Nat) (x : Tcmp) : (s.setTcmp n x).outbox = s.outbox := rfl
@[simp] theorem State.setTcmp_chain (s : State) (n : Nat) (x : Tcmp) : (s.setTcmp n x).chain = s.chain := rfl
@[simp] theorem State.setTcmp_hatch (s : State) (n : Nat) (x : Tcmp) : (s.setTcmp n x).hatch = s.hatch := rfl
@[simp] theorem State.setTcmp_faults (s : State) (n : Nat) (x : Tcmp) : (s.setTcmp n x).faults = s.faults := rfl
@[simp] theorem State.setTcmp_upNs (s : State) (n : Nat) (x : Tcmp) : (s.setTcmp n x).upNs = s.upNs := rfl
@[simp] theorem State.setTcmp_freeCount (s : State) (n : Nat) (x : Tcmp) : (s.setTcmp n x).freeCount = s.freeCount := rfl
@[simp] theorem State.setTcmp_dram (s : State) (n : Nat) (x : Tcmp) : (s.setTcmp n x).dram = s.dram := rfl
@[simp] theorem State.setTcmp_clearLow (s : State) (n : Nat) (x : Tcmp) : (s.setTcmp n x).clearLow = s.clearLow := rfl
@[simp] theorem State.setTcmp_tref (s : State) (n : Nat) (x : Tcmp) : (s.setTcmp n x).tref = s.tref := rfl
@[simp] theorem State.setTcmp_time (s : State) (n : Nat) (x : Tcmp) : (s.setTcmp n x).time = s.time := rfl
@[simp] theorem State.setTcmp_ports (s : State) (n : Nat) (x : Tcmp) : (s.setTcmp n x).ports = s.ports := rfl
@[simp] theorem State.setTcmp_exporter (s : State) (n : Nat) (x : Tcmp) : (s.setTcmp n x).exporter = s.exporter := rfl
@[simp] theorem State.setTcmp_amp (s : State) (n : Nat) (x : Tcmp) : (s.setTcmp n x).amp = s.amp := rfl
@[simp] theorem State.setTcmp_cal (s : State) (n : Nat) (x : Tcmp) : (s.setTcmp n x).cal = s.cal := rfl
@[simp] theorem State.setTcmp_twin (s : State) (n : Nat) (x : Tcmp) : (s.setTcmp n x).twin = s.twin := rfl
@[simp] theorem State.setTcmp_journal (s : State) (n : Nat) (x : Tcmp) : (s.setTcmp n x).journal = s.journal := rfl
@[simp] theorem State.setTcmp_power (s : State) (n : Nat) (x : Tcmp) : (s.setTcmp n x).power = s.power := rfl
@[simp] theorem State.setTcmp_sec (s : State) (n : Nat) (x : Tcmp) : (s.setTcmp n x).sec = s.sec := rfl
@[simp] theorem State.setTcmp_jtag (s : State) (n : Nat) (x : Tcmp) : (s.setTcmp n x).jtag = s.jtag := rfl

/-! ## modTime -/

@[simp] theorem State.modTime_pending (s : State) (f : NetTime → NetTime) : (s.modTime f).pending = s.pending := rfl
@[simp] theorem State.modTime_gathers (s : State) (f : NetTime → NetTime) : (s.modTime f).gathers = s.gathers := rfl
@[simp] theorem State.modTime_bcTable (s : State) (f : NetTime → NetTime) : (s.modTime f).bcTable = s.bcTable := rfl
@[simp] theorem State.modTime_ctxs (s : State) (f : NetTime → NetTime) : (s.modTime f).ctxs = s.ctxs := rfl
@[simp] theorem State.modTime_progs (s : State) (f : NetTime → NetTime) : (s.modTime f).progs = s.progs := rfl
@[simp] theorem State.modTime_patches (s : State) (f : NetTime → NetTime) : (s.modTime f).patches = s.patches := rfl
@[simp] theorem State.modTime_canes (s : State) (f : NetTime → NetTime) : (s.modTime f).canes = s.canes := rfl
@[simp] theorem State.modTime_mbx (s : State) (f : NetTime → NetTime) : (s.modTime f).mbx = s.mbx := rfl
@[simp] theorem State.modTime_outbox (s : State) (f : NetTime → NetTime) : (s.modTime f).outbox = s.outbox := rfl
@[simp] theorem State.modTime_chain (s : State) (f : NetTime → NetTime) : (s.modTime f).chain = s.chain := rfl
@[simp] theorem State.modTime_hatch (s : State) (f : NetTime → NetTime) : (s.modTime f).hatch = s.hatch := rfl
@[simp] theorem State.modTime_faults (s : State) (f : NetTime → NetTime) : (s.modTime f).faults = s.faults := rfl
@[simp] theorem State.modTime_upNs (s : State) (f : NetTime → NetTime) : (s.modTime f).upNs = s.upNs := rfl
@[simp] theorem State.modTime_freeCount (s : State) (f : NetTime → NetTime) : (s.modTime f).freeCount = s.freeCount := rfl
@[simp] theorem State.modTime_dram (s : State) (f : NetTime → NetTime) : (s.modTime f).dram = s.dram := rfl
@[simp] theorem State.modTime_clearLow (s : State) (f : NetTime → NetTime) : (s.modTime f).clearLow = s.clearLow := rfl
@[simp] theorem State.modTime_tref (s : State) (f : NetTime → NetTime) : (s.modTime f).tref = s.tref := rfl
@[simp] theorem State.modTime_tcmps (s : State) (f : NetTime → NetTime) : (s.modTime f).tcmps = s.tcmps := rfl
@[simp] theorem State.modTime_ports (s : State) (f : NetTime → NetTime) : (s.modTime f).ports = s.ports := rfl
@[simp] theorem State.modTime_exporter (s : State) (f : NetTime → NetTime) : (s.modTime f).exporter = s.exporter := rfl
@[simp] theorem State.modTime_amp (s : State) (f : NetTime → NetTime) : (s.modTime f).amp = s.amp := rfl
@[simp] theorem State.modTime_cal (s : State) (f : NetTime → NetTime) : (s.modTime f).cal = s.cal := rfl
@[simp] theorem State.modTime_twin (s : State) (f : NetTime → NetTime) : (s.modTime f).twin = s.twin := rfl
@[simp] theorem State.modTime_journal (s : State) (f : NetTime → NetTime) : (s.modTime f).journal = s.journal := rfl
@[simp] theorem State.modTime_power (s : State) (f : NetTime → NetTime) : (s.modTime f).power = s.power := rfl
@[simp] theorem State.modTime_sec (s : State) (f : NetTime → NetTime) : (s.modTime f).sec = s.sec := rfl
@[simp] theorem State.modTime_jtag (s : State) (f : NetTime → NetTime) : (s.modTime f).jtag = s.jtag := rfl

/-! ## modExp -/

@[simp] theorem State.modExp_pending (s : State) (f : Exporter → Exporter) : (s.modExp f).pending = s.pending := rfl
@[simp] theorem State.modExp_gathers (s : State) (f : Exporter → Exporter) : (s.modExp f).gathers = s.gathers := rfl
@[simp] theorem State.modExp_bcTable (s : State) (f : Exporter → Exporter) : (s.modExp f).bcTable = s.bcTable := rfl
@[simp] theorem State.modExp_ctxs (s : State) (f : Exporter → Exporter) : (s.modExp f).ctxs = s.ctxs := rfl
@[simp] theorem State.modExp_progs (s : State) (f : Exporter → Exporter) : (s.modExp f).progs = s.progs := rfl
@[simp] theorem State.modExp_patches (s : State) (f : Exporter → Exporter) : (s.modExp f).patches = s.patches := rfl
@[simp] theorem State.modExp_canes (s : State) (f : Exporter → Exporter) : (s.modExp f).canes = s.canes := rfl
@[simp] theorem State.modExp_mbx (s : State) (f : Exporter → Exporter) : (s.modExp f).mbx = s.mbx := rfl
@[simp] theorem State.modExp_outbox (s : State) (f : Exporter → Exporter) : (s.modExp f).outbox = s.outbox := rfl
@[simp] theorem State.modExp_chain (s : State) (f : Exporter → Exporter) : (s.modExp f).chain = s.chain := rfl
@[simp] theorem State.modExp_hatch (s : State) (f : Exporter → Exporter) : (s.modExp f).hatch = s.hatch := rfl
@[simp] theorem State.modExp_faults (s : State) (f : Exporter → Exporter) : (s.modExp f).faults = s.faults := rfl
@[simp] theorem State.modExp_upNs (s : State) (f : Exporter → Exporter) : (s.modExp f).upNs = s.upNs := rfl
@[simp] theorem State.modExp_freeCount (s : State) (f : Exporter → Exporter) : (s.modExp f).freeCount = s.freeCount := rfl
@[simp] theorem State.modExp_dram (s : State) (f : Exporter → Exporter) : (s.modExp f).dram = s.dram := rfl
@[simp] theorem State.modExp_clearLow (s : State) (f : Exporter → Exporter) : (s.modExp f).clearLow = s.clearLow := rfl
@[simp] theorem State.modExp_tref (s : State) (f : Exporter → Exporter) : (s.modExp f).tref = s.tref := rfl
@[simp] theorem State.modExp_time (s : State) (f : Exporter → Exporter) : (s.modExp f).time = s.time := rfl
@[simp] theorem State.modExp_tcmps (s : State) (f : Exporter → Exporter) : (s.modExp f).tcmps = s.tcmps := rfl
@[simp] theorem State.modExp_ports (s : State) (f : Exporter → Exporter) : (s.modExp f).ports = s.ports := rfl
@[simp] theorem State.modExp_amp (s : State) (f : Exporter → Exporter) : (s.modExp f).amp = s.amp := rfl
@[simp] theorem State.modExp_cal (s : State) (f : Exporter → Exporter) : (s.modExp f).cal = s.cal := rfl
@[simp] theorem State.modExp_twin (s : State) (f : Exporter → Exporter) : (s.modExp f).twin = s.twin := rfl
@[simp] theorem State.modExp_journal (s : State) (f : Exporter → Exporter) : (s.modExp f).journal = s.journal := rfl
@[simp] theorem State.modExp_power (s : State) (f : Exporter → Exporter) : (s.modExp f).power = s.power := rfl
@[simp] theorem State.modExp_sec (s : State) (f : Exporter → Exporter) : (s.modExp f).sec = s.sec := rfl
@[simp] theorem State.modExp_jtag (s : State) (f : Exporter → Exporter) : (s.modExp f).jtag = s.jtag := rfl

/-! ## setCalG -/

@[simp] theorem State.setCalG_pending (s : State) (g : Nat) (x : CalG) : (s.setCalG g x).pending = s.pending := rfl
@[simp] theorem State.setCalG_gathers (s : State) (g : Nat) (x : CalG) : (s.setCalG g x).gathers = s.gathers := rfl
@[simp] theorem State.setCalG_bcTable (s : State) (g : Nat) (x : CalG) : (s.setCalG g x).bcTable = s.bcTable := rfl
@[simp] theorem State.setCalG_ctxs (s : State) (g : Nat) (x : CalG) : (s.setCalG g x).ctxs = s.ctxs := rfl
@[simp] theorem State.setCalG_progs (s : State) (g : Nat) (x : CalG) : (s.setCalG g x).progs = s.progs := rfl
@[simp] theorem State.setCalG_patches (s : State) (g : Nat) (x : CalG) : (s.setCalG g x).patches = s.patches := rfl
@[simp] theorem State.setCalG_canes (s : State) (g : Nat) (x : CalG) : (s.setCalG g x).canes = s.canes := rfl
@[simp] theorem State.setCalG_mbx (s : State) (g : Nat) (x : CalG) : (s.setCalG g x).mbx = s.mbx := rfl
@[simp] theorem State.setCalG_outbox (s : State) (g : Nat) (x : CalG) : (s.setCalG g x).outbox = s.outbox := rfl
@[simp] theorem State.setCalG_chain (s : State) (g : Nat) (x : CalG) : (s.setCalG g x).chain = s.chain := rfl
@[simp] theorem State.setCalG_hatch (s : State) (g : Nat) (x : CalG) : (s.setCalG g x).hatch = s.hatch := rfl
@[simp] theorem State.setCalG_faults (s : State) (g : Nat) (x : CalG) : (s.setCalG g x).faults = s.faults := rfl
@[simp] theorem State.setCalG_upNs (s : State) (g : Nat) (x : CalG) : (s.setCalG g x).upNs = s.upNs := rfl
@[simp] theorem State.setCalG_freeCount (s : State) (g : Nat) (x : CalG) : (s.setCalG g x).freeCount = s.freeCount := rfl
@[simp] theorem State.setCalG_dram (s : State) (g : Nat) (x : CalG) : (s.setCalG g x).dram = s.dram := rfl
@[simp] theorem State.setCalG_clearLow (s : State) (g : Nat) (x : CalG) : (s.setCalG g x).clearLow = s.clearLow := rfl
@[simp] theorem State.setCalG_tref (s : State) (g : Nat) (x : CalG) : (s.setCalG g x).tref = s.tref := rfl
@[simp] theorem State.setCalG_time (s : State) (g : Nat) (x : CalG) : (s.setCalG g x).time = s.time := rfl
@[simp] theorem State.setCalG_tcmps (s : State) (g : Nat) (x : CalG) : (s.setCalG g x).tcmps = s.tcmps := rfl
@[simp] theorem State.setCalG_ports (s : State) (g : Nat) (x : CalG) : (s.setCalG g x).ports = s.ports := rfl
@[simp] theorem State.setCalG_exporter (s : State) (g : Nat) (x : CalG) : (s.setCalG g x).exporter = s.exporter := rfl
@[simp] theorem State.setCalG_amp (s : State) (g : Nat) (x : CalG) : (s.setCalG g x).amp = s.amp := rfl
@[simp] theorem State.setCalG_twin (s : State) (g : Nat) (x : CalG) : (s.setCalG g x).twin = s.twin := rfl
@[simp] theorem State.setCalG_journal (s : State) (g : Nat) (x : CalG) : (s.setCalG g x).journal = s.journal := rfl
@[simp] theorem State.setCalG_power (s : State) (g : Nat) (x : CalG) : (s.setCalG g x).power = s.power := rfl
@[simp] theorem State.setCalG_sec (s : State) (g : Nat) (x : CalG) : (s.setCalG g x).sec = s.sec := rfl
@[simp] theorem State.setCalG_jtag (s : State) (g : Nat) (x : CalG) : (s.setCalG g x).jtag = s.jtag := rfl

/-! ## setCalTile -/

@[simp] theorem State.setCalTile_pending (s : State) (t : Nat) (x : CalTile) : (s.setCalTile t x).pending = s.pending := rfl
@[simp] theorem State.setCalTile_gathers (s : State) (t : Nat) (x : CalTile) : (s.setCalTile t x).gathers = s.gathers := rfl
@[simp] theorem State.setCalTile_bcTable (s : State) (t : Nat) (x : CalTile) : (s.setCalTile t x).bcTable = s.bcTable := rfl
@[simp] theorem State.setCalTile_ctxs (s : State) (t : Nat) (x : CalTile) : (s.setCalTile t x).ctxs = s.ctxs := rfl
@[simp] theorem State.setCalTile_progs (s : State) (t : Nat) (x : CalTile) : (s.setCalTile t x).progs = s.progs := rfl
@[simp] theorem State.setCalTile_patches (s : State) (t : Nat) (x : CalTile) : (s.setCalTile t x).patches = s.patches := rfl
@[simp] theorem State.setCalTile_canes (s : State) (t : Nat) (x : CalTile) : (s.setCalTile t x).canes = s.canes := rfl
@[simp] theorem State.setCalTile_mbx (s : State) (t : Nat) (x : CalTile) : (s.setCalTile t x).mbx = s.mbx := rfl
@[simp] theorem State.setCalTile_outbox (s : State) (t : Nat) (x : CalTile) : (s.setCalTile t x).outbox = s.outbox := rfl
@[simp] theorem State.setCalTile_chain (s : State) (t : Nat) (x : CalTile) : (s.setCalTile t x).chain = s.chain := rfl
@[simp] theorem State.setCalTile_hatch (s : State) (t : Nat) (x : CalTile) : (s.setCalTile t x).hatch = s.hatch := rfl
@[simp] theorem State.setCalTile_faults (s : State) (t : Nat) (x : CalTile) : (s.setCalTile t x).faults = s.faults := rfl
@[simp] theorem State.setCalTile_upNs (s : State) (t : Nat) (x : CalTile) : (s.setCalTile t x).upNs = s.upNs := rfl
@[simp] theorem State.setCalTile_freeCount (s : State) (t : Nat) (x : CalTile) : (s.setCalTile t x).freeCount = s.freeCount := rfl
@[simp] theorem State.setCalTile_dram (s : State) (t : Nat) (x : CalTile) : (s.setCalTile t x).dram = s.dram := rfl
@[simp] theorem State.setCalTile_clearLow (s : State) (t : Nat) (x : CalTile) : (s.setCalTile t x).clearLow = s.clearLow := rfl
@[simp] theorem State.setCalTile_tref (s : State) (t : Nat) (x : CalTile) : (s.setCalTile t x).tref = s.tref := rfl
@[simp] theorem State.setCalTile_time (s : State) (t : Nat) (x : CalTile) : (s.setCalTile t x).time = s.time := rfl
@[simp] theorem State.setCalTile_tcmps (s : State) (t : Nat) (x : CalTile) : (s.setCalTile t x).tcmps = s.tcmps := rfl
@[simp] theorem State.setCalTile_ports (s : State) (t : Nat) (x : CalTile) : (s.setCalTile t x).ports = s.ports := rfl
@[simp] theorem State.setCalTile_exporter (s : State) (t : Nat) (x : CalTile) : (s.setCalTile t x).exporter = s.exporter := rfl
@[simp] theorem State.setCalTile_amp (s : State) (t : Nat) (x : CalTile) : (s.setCalTile t x).amp = s.amp := rfl
@[simp] theorem State.setCalTile_twin (s : State) (t : Nat) (x : CalTile) : (s.setCalTile t x).twin = s.twin := rfl
@[simp] theorem State.setCalTile_journal (s : State) (t : Nat) (x : CalTile) : (s.setCalTile t x).journal = s.journal := rfl
@[simp] theorem State.setCalTile_power (s : State) (t : Nat) (x : CalTile) : (s.setCalTile t x).power = s.power := rfl
@[simp] theorem State.setCalTile_sec (s : State) (t : Nat) (x : CalTile) : (s.setCalTile t x).sec = s.sec := rfl
@[simp] theorem State.setCalTile_jtag (s : State) (t : Nat) (x : CalTile) : (s.setCalTile t x).jtag = s.jtag := rfl

/-! ## setSlot -/

@[simp] theorem State.setSlot_pending (s : State) (t k : Nat) (x : Slot) : (s.setSlot t k x).pending = s.pending := rfl
@[simp] theorem State.setSlot_gathers (s : State) (t k : Nat) (x : Slot) : (s.setSlot t k x).gathers = s.gathers := rfl
@[simp] theorem State.setSlot_bcTable (s : State) (t k : Nat) (x : Slot) : (s.setSlot t k x).bcTable = s.bcTable := rfl
@[simp] theorem State.setSlot_ctxs (s : State) (t k : Nat) (x : Slot) : (s.setSlot t k x).ctxs = s.ctxs := rfl
@[simp] theorem State.setSlot_progs (s : State) (t k : Nat) (x : Slot) : (s.setSlot t k x).progs = s.progs := rfl
@[simp] theorem State.setSlot_patches (s : State) (t k : Nat) (x : Slot) : (s.setSlot t k x).patches = s.patches := rfl
@[simp] theorem State.setSlot_canes (s : State) (t k : Nat) (x : Slot) : (s.setSlot t k x).canes = s.canes := rfl
@[simp] theorem State.setSlot_mbx (s : State) (t k : Nat) (x : Slot) : (s.setSlot t k x).mbx = s.mbx := rfl
@[simp] theorem State.setSlot_outbox (s : State) (t k : Nat) (x : Slot) : (s.setSlot t k x).outbox = s.outbox := rfl
@[simp] theorem State.setSlot_chain (s : State) (t k : Nat) (x : Slot) : (s.setSlot t k x).chain = s.chain := rfl
@[simp] theorem State.setSlot_hatch (s : State) (t k : Nat) (x : Slot) : (s.setSlot t k x).hatch = s.hatch := rfl
@[simp] theorem State.setSlot_faults (s : State) (t k : Nat) (x : Slot) : (s.setSlot t k x).faults = s.faults := rfl
@[simp] theorem State.setSlot_upNs (s : State) (t k : Nat) (x : Slot) : (s.setSlot t k x).upNs = s.upNs := rfl
@[simp] theorem State.setSlot_freeCount (s : State) (t k : Nat) (x : Slot) : (s.setSlot t k x).freeCount = s.freeCount := rfl
@[simp] theorem State.setSlot_dram (s : State) (t k : Nat) (x : Slot) : (s.setSlot t k x).dram = s.dram := rfl
@[simp] theorem State.setSlot_clearLow (s : State) (t k : Nat) (x : Slot) : (s.setSlot t k x).clearLow = s.clearLow := rfl
@[simp] theorem State.setSlot_tref (s : State) (t k : Nat) (x : Slot) : (s.setSlot t k x).tref = s.tref := rfl
@[simp] theorem State.setSlot_time (s : State) (t k : Nat) (x : Slot) : (s.setSlot t k x).time = s.time := rfl
@[simp] theorem State.setSlot_tcmps (s : State) (t k : Nat) (x : Slot) : (s.setSlot t k x).tcmps = s.tcmps := rfl
@[simp] theorem State.setSlot_ports (s : State) (t k : Nat) (x : Slot) : (s.setSlot t k x).ports = s.ports := rfl
@[simp] theorem State.setSlot_exporter (s : State) (t k : Nat) (x : Slot) : (s.setSlot t k x).exporter = s.exporter := rfl
@[simp] theorem State.setSlot_amp (s : State) (t k : Nat) (x : Slot) : (s.setSlot t k x).amp = s.amp := rfl
@[simp] theorem State.setSlot_cal (s : State) (t k : Nat) (x : Slot) : (s.setSlot t k x).cal = s.cal := rfl
@[simp] theorem State.setSlot_twin (s : State) (t k : Nat) (x : Slot) : (s.setSlot t k x).twin = s.twin := rfl
@[simp] theorem State.setSlot_journal (s : State) (t k : Nat) (x : Slot) : (s.setSlot t k x).journal = s.journal := rfl
@[simp] theorem State.setSlot_power (s : State) (t k : Nat) (x : Slot) : (s.setSlot t k x).power = s.power := rfl
@[simp] theorem State.setSlot_jtag (s : State) (t k : Nat) (x : Slot) : (s.setSlot t k x).jtag = s.jtag := rfl

/-! ## setSession -/

@[simp] theorem State.setSession_pending (s : State) (t : Nat) (x : Option Nat) : (s.setSession t x).pending = s.pending := rfl
@[simp] theorem State.setSession_gathers (s : State) (t : Nat) (x : Option Nat) : (s.setSession t x).gathers = s.gathers := rfl
@[simp] theorem State.setSession_bcTable (s : State) (t : Nat) (x : Option Nat) : (s.setSession t x).bcTable = s.bcTable := rfl
@[simp] theorem State.setSession_ctxs (s : State) (t : Nat) (x : Option Nat) : (s.setSession t x).ctxs = s.ctxs := rfl
@[simp] theorem State.setSession_progs (s : State) (t : Nat) (x : Option Nat) : (s.setSession t x).progs = s.progs := rfl
@[simp] theorem State.setSession_patches (s : State) (t : Nat) (x : Option Nat) : (s.setSession t x).patches = s.patches := rfl
@[simp] theorem State.setSession_canes (s : State) (t : Nat) (x : Option Nat) : (s.setSession t x).canes = s.canes := rfl
@[simp] theorem State.setSession_mbx (s : State) (t : Nat) (x : Option Nat) : (s.setSession t x).mbx = s.mbx := rfl
@[simp] theorem State.setSession_outbox (s : State) (t : Nat) (x : Option Nat) : (s.setSession t x).outbox = s.outbox := rfl
@[simp] theorem State.setSession_chain (s : State) (t : Nat) (x : Option Nat) : (s.setSession t x).chain = s.chain := rfl
@[simp] theorem State.setSession_hatch (s : State) (t : Nat) (x : Option Nat) : (s.setSession t x).hatch = s.hatch := rfl
@[simp] theorem State.setSession_faults (s : State) (t : Nat) (x : Option Nat) : (s.setSession t x).faults = s.faults := rfl
@[simp] theorem State.setSession_upNs (s : State) (t : Nat) (x : Option Nat) : (s.setSession t x).upNs = s.upNs := rfl
@[simp] theorem State.setSession_freeCount (s : State) (t : Nat) (x : Option Nat) : (s.setSession t x).freeCount = s.freeCount := rfl
@[simp] theorem State.setSession_dram (s : State) (t : Nat) (x : Option Nat) : (s.setSession t x).dram = s.dram := rfl
@[simp] theorem State.setSession_clearLow (s : State) (t : Nat) (x : Option Nat) : (s.setSession t x).clearLow = s.clearLow := rfl
@[simp] theorem State.setSession_tref (s : State) (t : Nat) (x : Option Nat) : (s.setSession t x).tref = s.tref := rfl
@[simp] theorem State.setSession_time (s : State) (t : Nat) (x : Option Nat) : (s.setSession t x).time = s.time := rfl
@[simp] theorem State.setSession_tcmps (s : State) (t : Nat) (x : Option Nat) : (s.setSession t x).tcmps = s.tcmps := rfl
@[simp] theorem State.setSession_ports (s : State) (t : Nat) (x : Option Nat) : (s.setSession t x).ports = s.ports := rfl
@[simp] theorem State.setSession_exporter (s : State) (t : Nat) (x : Option Nat) : (s.setSession t x).exporter = s.exporter := rfl
@[simp] theorem State.setSession_amp (s : State) (t : Nat) (x : Option Nat) : (s.setSession t x).amp = s.amp := rfl
@[simp] theorem State.setSession_cal (s : State) (t : Nat) (x : Option Nat) : (s.setSession t x).cal = s.cal := rfl
@[simp] theorem State.setSession_twin (s : State) (t : Nat) (x : Option Nat) : (s.setSession t x).twin = s.twin := rfl
@[simp] theorem State.setSession_journal (s : State) (t : Nat) (x : Option Nat) : (s.setSession t x).journal = s.journal := rfl
@[simp] theorem State.setSession_power (s : State) (t : Nat) (x : Option Nat) : (s.setSession t x).power = s.power := rfl
@[simp] theorem State.setSession_jtag (s : State) (t : Nat) (x : Option Nat) : (s.setSession t x).jtag = s.jtag := rfl

/-! ## setSite -/

@[simp] theorem State.setSite_pending (s : State) (n : Nat) (x : SiteJrn) : (s.setSite n x).pending = s.pending := rfl
@[simp] theorem State.setSite_gathers (s : State) (n : Nat) (x : SiteJrn) : (s.setSite n x).gathers = s.gathers := rfl
@[simp] theorem State.setSite_bcTable (s : State) (n : Nat) (x : SiteJrn) : (s.setSite n x).bcTable = s.bcTable := rfl
@[simp] theorem State.setSite_ctxs (s : State) (n : Nat) (x : SiteJrn) : (s.setSite n x).ctxs = s.ctxs := rfl
@[simp] theorem State.setSite_progs (s : State) (n : Nat) (x : SiteJrn) : (s.setSite n x).progs = s.progs := rfl
@[simp] theorem State.setSite_patches (s : State) (n : Nat) (x : SiteJrn) : (s.setSite n x).patches = s.patches := rfl
@[simp] theorem State.setSite_canes (s : State) (n : Nat) (x : SiteJrn) : (s.setSite n x).canes = s.canes := rfl
@[simp] theorem State.setSite_mbx (s : State) (n : Nat) (x : SiteJrn) : (s.setSite n x).mbx = s.mbx := rfl
@[simp] theorem State.setSite_outbox (s : State) (n : Nat) (x : SiteJrn) : (s.setSite n x).outbox = s.outbox := rfl
@[simp] theorem State.setSite_chain (s : State) (n : Nat) (x : SiteJrn) : (s.setSite n x).chain = s.chain := rfl
@[simp] theorem State.setSite_hatch (s : State) (n : Nat) (x : SiteJrn) : (s.setSite n x).hatch = s.hatch := rfl
@[simp] theorem State.setSite_faults (s : State) (n : Nat) (x : SiteJrn) : (s.setSite n x).faults = s.faults := rfl
@[simp] theorem State.setSite_upNs (s : State) (n : Nat) (x : SiteJrn) : (s.setSite n x).upNs = s.upNs := rfl
@[simp] theorem State.setSite_freeCount (s : State) (n : Nat) (x : SiteJrn) : (s.setSite n x).freeCount = s.freeCount := rfl
@[simp] theorem State.setSite_dram (s : State) (n : Nat) (x : SiteJrn) : (s.setSite n x).dram = s.dram := rfl
@[simp] theorem State.setSite_clearLow (s : State) (n : Nat) (x : SiteJrn) : (s.setSite n x).clearLow = s.clearLow := rfl
@[simp] theorem State.setSite_tref (s : State) (n : Nat) (x : SiteJrn) : (s.setSite n x).tref = s.tref := rfl
@[simp] theorem State.setSite_time (s : State) (n : Nat) (x : SiteJrn) : (s.setSite n x).time = s.time := rfl
@[simp] theorem State.setSite_tcmps (s : State) (n : Nat) (x : SiteJrn) : (s.setSite n x).tcmps = s.tcmps := rfl
@[simp] theorem State.setSite_ports (s : State) (n : Nat) (x : SiteJrn) : (s.setSite n x).ports = s.ports := rfl
@[simp] theorem State.setSite_exporter (s : State) (n : Nat) (x : SiteJrn) : (s.setSite n x).exporter = s.exporter := rfl
@[simp] theorem State.setSite_amp (s : State) (n : Nat) (x : SiteJrn) : (s.setSite n x).amp = s.amp := rfl
@[simp] theorem State.setSite_cal (s : State) (n : Nat) (x : SiteJrn) : (s.setSite n x).cal = s.cal := rfl
@[simp] theorem State.setSite_twin (s : State) (n : Nat) (x : SiteJrn) : (s.setSite n x).twin = s.twin := rfl
@[simp] theorem State.setSite_power (s : State) (n : Nat) (x : SiteJrn) : (s.setSite n x).power = s.power := rfl
@[simp] theorem State.setSite_sec (s : State) (n : Nat) (x : SiteJrn) : (s.setSite n x).sec = s.sec := rfl
@[simp] theorem State.setSite_jtag (s : State) (n : Nat) (x : SiteJrn) : (s.setSite n x).jtag = s.jtag := rfl

/-! ## setLine -/

@[simp] theorem State.setLine_pending (s : State) (k : Nat) (l : Line) : (s.setLine k l).pending = s.pending := rfl
@[simp] theorem State.setLine_gathers (s : State) (k : Nat) (l : Line) : (s.setLine k l).gathers = s.gathers := rfl
@[simp] theorem State.setLine_bcTable (s : State) (k : Nat) (l : Line) : (s.setLine k l).bcTable = s.bcTable := rfl
@[simp] theorem State.setLine_ctxs (s : State) (k : Nat) (l : Line) : (s.setLine k l).ctxs = s.ctxs := rfl
@[simp] theorem State.setLine_progs (s : State) (k : Nat) (l : Line) : (s.setLine k l).progs = s.progs := rfl
@[simp] theorem State.setLine_patches (s : State) (k : Nat) (l : Line) : (s.setLine k l).patches = s.patches := rfl
@[simp] theorem State.setLine_canes (s : State) (k : Nat) (l : Line) : (s.setLine k l).canes = s.canes := rfl
@[simp] theorem State.setLine_mbx (s : State) (k : Nat) (l : Line) : (s.setLine k l).mbx = s.mbx := rfl
@[simp] theorem State.setLine_outbox (s : State) (k : Nat) (l : Line) : (s.setLine k l).outbox = s.outbox := rfl
@[simp] theorem State.setLine_chain (s : State) (k : Nat) (l : Line) : (s.setLine k l).chain = s.chain := rfl
@[simp] theorem State.setLine_faults (s : State) (k : Nat) (l : Line) : (s.setLine k l).faults = s.faults := rfl
@[simp] theorem State.setLine_upNs (s : State) (k : Nat) (l : Line) : (s.setLine k l).upNs = s.upNs := rfl
@[simp] theorem State.setLine_freeCount (s : State) (k : Nat) (l : Line) : (s.setLine k l).freeCount = s.freeCount := rfl
@[simp] theorem State.setLine_dram (s : State) (k : Nat) (l : Line) : (s.setLine k l).dram = s.dram := rfl
@[simp] theorem State.setLine_clearLow (s : State) (k : Nat) (l : Line) : (s.setLine k l).clearLow = s.clearLow := rfl
@[simp] theorem State.setLine_tref (s : State) (k : Nat) (l : Line) : (s.setLine k l).tref = s.tref := rfl
@[simp] theorem State.setLine_time (s : State) (k : Nat) (l : Line) : (s.setLine k l).time = s.time := rfl
@[simp] theorem State.setLine_tcmps (s : State) (k : Nat) (l : Line) : (s.setLine k l).tcmps = s.tcmps := rfl
@[simp] theorem State.setLine_ports (s : State) (k : Nat) (l : Line) : (s.setLine k l).ports = s.ports := rfl
@[simp] theorem State.setLine_exporter (s : State) (k : Nat) (l : Line) : (s.setLine k l).exporter = s.exporter := rfl
@[simp] theorem State.setLine_amp (s : State) (k : Nat) (l : Line) : (s.setLine k l).amp = s.amp := rfl
@[simp] theorem State.setLine_cal (s : State) (k : Nat) (l : Line) : (s.setLine k l).cal = s.cal := rfl
@[simp] theorem State.setLine_twin (s : State) (k : Nat) (l : Line) : (s.setLine k l).twin = s.twin := rfl
@[simp] theorem State.setLine_journal (s : State) (k : Nat) (l : Line) : (s.setLine k l).journal = s.journal := rfl
@[simp] theorem State.setLine_power (s : State) (k : Nat) (l : Line) : (s.setLine k l).power = s.power := rfl
@[simp] theorem State.setLine_sec (s : State) (k : Nat) (l : Line) : (s.setLine k l).sec = s.sec := rfl
@[simp] theorem State.setLine_jtag (s : State) (k : Nat) (l : Line) : (s.setLine k l).jtag = s.jtag := rfl

/-! ## setPin -/

@[simp] theorem State.setPin_pending (s : State) (g p : Nat) (x : Pin) : (s.setPin g p x).pending = s.pending := rfl
@[simp] theorem State.setPin_bcTable (s : State) (g p : Nat) (x : Pin) : (s.setPin g p x).bcTable = s.bcTable := rfl
@[simp] theorem State.setPin_ctxs (s : State) (g p : Nat) (x : Pin) : (s.setPin g p x).ctxs = s.ctxs := rfl
@[simp] theorem State.setPin_progs (s : State) (g p : Nat) (x : Pin) : (s.setPin g p x).progs = s.progs := rfl
@[simp] theorem State.setPin_patches (s : State) (g p : Nat) (x : Pin) : (s.setPin g p x).patches = s.patches := rfl
@[simp] theorem State.setPin_canes (s : State) (g p : Nat) (x : Pin) : (s.setPin g p x).canes = s.canes := rfl
@[simp] theorem State.setPin_mbx (s : State) (g p : Nat) (x : Pin) : (s.setPin g p x).mbx = s.mbx := rfl
@[simp] theorem State.setPin_outbox (s : State) (g p : Nat) (x : Pin) : (s.setPin g p x).outbox = s.outbox := rfl
@[simp] theorem State.setPin_chain (s : State) (g p : Nat) (x : Pin) : (s.setPin g p x).chain = s.chain := rfl
@[simp] theorem State.setPin_hatch (s : State) (g p : Nat) (x : Pin) : (s.setPin g p x).hatch = s.hatch := rfl
@[simp] theorem State.setPin_faults (s : State) (g p : Nat) (x : Pin) : (s.setPin g p x).faults = s.faults := rfl
@[simp] theorem State.setPin_upNs (s : State) (g p : Nat) (x : Pin) : (s.setPin g p x).upNs = s.upNs := rfl
@[simp] theorem State.setPin_freeCount (s : State) (g p : Nat) (x : Pin) : (s.setPin g p x).freeCount = s.freeCount := rfl
@[simp] theorem State.setPin_dram (s : State) (g p : Nat) (x : Pin) : (s.setPin g p x).dram = s.dram := rfl
@[simp] theorem State.setPin_clearLow (s : State) (g p : Nat) (x : Pin) : (s.setPin g p x).clearLow = s.clearLow := rfl
@[simp] theorem State.setPin_tref (s : State) (g p : Nat) (x : Pin) : (s.setPin g p x).tref = s.tref := rfl
@[simp] theorem State.setPin_time (s : State) (g p : Nat) (x : Pin) : (s.setPin g p x).time = s.time := rfl
@[simp] theorem State.setPin_tcmps (s : State) (g p : Nat) (x : Pin) : (s.setPin g p x).tcmps = s.tcmps := rfl
@[simp] theorem State.setPin_ports (s : State) (g p : Nat) (x : Pin) : (s.setPin g p x).ports = s.ports := rfl
@[simp] theorem State.setPin_exporter (s : State) (g p : Nat) (x : Pin) : (s.setPin g p x).exporter = s.exporter := rfl
@[simp] theorem State.setPin_amp (s : State) (g p : Nat) (x : Pin) : (s.setPin g p x).amp = s.amp := rfl
@[simp] theorem State.setPin_cal (s : State) (g p : Nat) (x : Pin) : (s.setPin g p x).cal = s.cal := rfl
@[simp] theorem State.setPin_twin (s : State) (g p : Nat) (x : Pin) : (s.setPin g p x).twin = s.twin := rfl
@[simp] theorem State.setPin_journal (s : State) (g p : Nat) (x : Pin) : (s.setPin g p x).journal = s.journal := rfl
@[simp] theorem State.setPin_power (s : State) (g p : Nat) (x : Pin) : (s.setPin g p x).power = s.power := rfl
@[simp] theorem State.setPin_sec (s : State) (g p : Nat) (x : Pin) : (s.setPin g p x).sec = s.sec := rfl
@[simp] theorem State.setPin_jtag (s : State) (g p : Nat) (x : Pin) : (s.setPin g p x).jtag = s.jtag := rfl

/-! ## setSmu -/

@[simp] theorem State.setSmu_pending (s : State) (g u : Nat) (x : Smu) : (s.setSmu g u x).pending = s.pending := rfl
@[simp] theorem State.setSmu_bcTable (s : State) (g u : Nat) (x : Smu) : (s.setSmu g u x).bcTable = s.bcTable := rfl
@[simp] theorem State.setSmu_ctxs (s : State) (g u : Nat) (x : Smu) : (s.setSmu g u x).ctxs = s.ctxs := rfl
@[simp] theorem State.setSmu_progs (s : State) (g u : Nat) (x : Smu) : (s.setSmu g u x).progs = s.progs := rfl
@[simp] theorem State.setSmu_patches (s : State) (g u : Nat) (x : Smu) : (s.setSmu g u x).patches = s.patches := rfl
@[simp] theorem State.setSmu_canes (s : State) (g u : Nat) (x : Smu) : (s.setSmu g u x).canes = s.canes := rfl
@[simp] theorem State.setSmu_mbx (s : State) (g u : Nat) (x : Smu) : (s.setSmu g u x).mbx = s.mbx := rfl
@[simp] theorem State.setSmu_outbox (s : State) (g u : Nat) (x : Smu) : (s.setSmu g u x).outbox = s.outbox := rfl
@[simp] theorem State.setSmu_chain (s : State) (g u : Nat) (x : Smu) : (s.setSmu g u x).chain = s.chain := rfl
@[simp] theorem State.setSmu_hatch (s : State) (g u : Nat) (x : Smu) : (s.setSmu g u x).hatch = s.hatch := rfl
@[simp] theorem State.setSmu_faults (s : State) (g u : Nat) (x : Smu) : (s.setSmu g u x).faults = s.faults := rfl
@[simp] theorem State.setSmu_upNs (s : State) (g u : Nat) (x : Smu) : (s.setSmu g u x).upNs = s.upNs := rfl
@[simp] theorem State.setSmu_freeCount (s : State) (g u : Nat) (x : Smu) : (s.setSmu g u x).freeCount = s.freeCount := rfl
@[simp] theorem State.setSmu_dram (s : State) (g u : Nat) (x : Smu) : (s.setSmu g u x).dram = s.dram := rfl
@[simp] theorem State.setSmu_clearLow (s : State) (g u : Nat) (x : Smu) : (s.setSmu g u x).clearLow = s.clearLow := rfl
@[simp] theorem State.setSmu_tref (s : State) (g u : Nat) (x : Smu) : (s.setSmu g u x).tref = s.tref := rfl
@[simp] theorem State.setSmu_time (s : State) (g u : Nat) (x : Smu) : (s.setSmu g u x).time = s.time := rfl
@[simp] theorem State.setSmu_tcmps (s : State) (g u : Nat) (x : Smu) : (s.setSmu g u x).tcmps = s.tcmps := rfl
@[simp] theorem State.setSmu_ports (s : State) (g u : Nat) (x : Smu) : (s.setSmu g u x).ports = s.ports := rfl
@[simp] theorem State.setSmu_exporter (s : State) (g u : Nat) (x : Smu) : (s.setSmu g u x).exporter = s.exporter := rfl
@[simp] theorem State.setSmu_amp (s : State) (g u : Nat) (x : Smu) : (s.setSmu g u x).amp = s.amp := rfl
@[simp] theorem State.setSmu_cal (s : State) (g u : Nat) (x : Smu) : (s.setSmu g u x).cal = s.cal := rfl
@[simp] theorem State.setSmu_twin (s : State) (g u : Nat) (x : Smu) : (s.setSmu g u x).twin = s.twin := rfl
@[simp] theorem State.setSmu_journal (s : State) (g u : Nat) (x : Smu) : (s.setSmu g u x).journal = s.journal := rfl
@[simp] theorem State.setSmu_power (s : State) (g u : Nat) (x : Smu) : (s.setSmu g u x).power = s.power := rfl
@[simp] theorem State.setSmu_sec (s : State) (g u : Nat) (x : Smu) : (s.setSmu g u x).sec = s.sec := rfl
@[simp] theorem State.setSmu_jtag (s : State) (g u : Nat) (x : Smu) : (s.setSmu g u x).jtag = s.jtag := rfl

/-! ## setSent -/

@[simp] theorem State.setSent_pending (s : State) (g n : Nat) (x : Sent) : (s.setSent g n x).pending = s.pending := rfl
@[simp] theorem State.setSent_bcTable (s : State) (g n : Nat) (x : Sent) : (s.setSent g n x).bcTable = s.bcTable := rfl
@[simp] theorem State.setSent_ctxs (s : State) (g n : Nat) (x : Sent) : (s.setSent g n x).ctxs = s.ctxs := rfl
@[simp] theorem State.setSent_progs (s : State) (g n : Nat) (x : Sent) : (s.setSent g n x).progs = s.progs := rfl
@[simp] theorem State.setSent_patches (s : State) (g n : Nat) (x : Sent) : (s.setSent g n x).patches = s.patches := rfl
@[simp] theorem State.setSent_canes (s : State) (g n : Nat) (x : Sent) : (s.setSent g n x).canes = s.canes := rfl
@[simp] theorem State.setSent_mbx (s : State) (g n : Nat) (x : Sent) : (s.setSent g n x).mbx = s.mbx := rfl
@[simp] theorem State.setSent_outbox (s : State) (g n : Nat) (x : Sent) : (s.setSent g n x).outbox = s.outbox := rfl
@[simp] theorem State.setSent_chain (s : State) (g n : Nat) (x : Sent) : (s.setSent g n x).chain = s.chain := rfl
@[simp] theorem State.setSent_hatch (s : State) (g n : Nat) (x : Sent) : (s.setSent g n x).hatch = s.hatch := rfl
@[simp] theorem State.setSent_faults (s : State) (g n : Nat) (x : Sent) : (s.setSent g n x).faults = s.faults := rfl
@[simp] theorem State.setSent_upNs (s : State) (g n : Nat) (x : Sent) : (s.setSent g n x).upNs = s.upNs := rfl
@[simp] theorem State.setSent_freeCount (s : State) (g n : Nat) (x : Sent) : (s.setSent g n x).freeCount = s.freeCount := rfl
@[simp] theorem State.setSent_dram (s : State) (g n : Nat) (x : Sent) : (s.setSent g n x).dram = s.dram := rfl
@[simp] theorem State.setSent_clearLow (s : State) (g n : Nat) (x : Sent) : (s.setSent g n x).clearLow = s.clearLow := rfl
@[simp] theorem State.setSent_tref (s : State) (g n : Nat) (x : Sent) : (s.setSent g n x).tref = s.tref := rfl
@[simp] theorem State.setSent_time (s : State) (g n : Nat) (x : Sent) : (s.setSent g n x).time = s.time := rfl
@[simp] theorem State.setSent_tcmps (s : State) (g n : Nat) (x : Sent) : (s.setSent g n x).tcmps = s.tcmps := rfl
@[simp] theorem State.setSent_ports (s : State) (g n : Nat) (x : Sent) : (s.setSent g n x).ports = s.ports := rfl
@[simp] theorem State.setSent_exporter (s : State) (g n : Nat) (x : Sent) : (s.setSent g n x).exporter = s.exporter := rfl
@[simp] theorem State.setSent_amp (s : State) (g n : Nat) (x : Sent) : (s.setSent g n x).amp = s.amp := rfl
@[simp] theorem State.setSent_cal (s : State) (g n : Nat) (x : Sent) : (s.setSent g n x).cal = s.cal := rfl
@[simp] theorem State.setSent_twin (s : State) (g n : Nat) (x : Sent) : (s.setSent g n x).twin = s.twin := rfl
@[simp] theorem State.setSent_journal (s : State) (g n : Nat) (x : Sent) : (s.setSent g n x).journal = s.journal := rfl
@[simp] theorem State.setSent_power (s : State) (g n : Nat) (x : Sent) : (s.setSent g n x).power = s.power := rfl
@[simp] theorem State.setSent_sec (s : State) (g n : Nat) (x : Sent) : (s.setSent g n x).sec = s.sec := rfl
@[simp] theorem State.setSent_jtag (s : State) (g n : Nat) (x : Sent) : (s.setSent g n x).jtag = s.jtag := rfl

/-! ## setTiu -/

@[simp] theorem State.setTiu_pending (s : State) (g u : Nat) (x : Tiu) : (s.setTiu g u x).pending = s.pending := rfl
@[simp] theorem State.setTiu_bcTable (s : State) (g u : Nat) (x : Tiu) : (s.setTiu g u x).bcTable = s.bcTable := rfl
@[simp] theorem State.setTiu_ctxs (s : State) (g u : Nat) (x : Tiu) : (s.setTiu g u x).ctxs = s.ctxs := rfl
@[simp] theorem State.setTiu_progs (s : State) (g u : Nat) (x : Tiu) : (s.setTiu g u x).progs = s.progs := rfl
@[simp] theorem State.setTiu_patches (s : State) (g u : Nat) (x : Tiu) : (s.setTiu g u x).patches = s.patches := rfl
@[simp] theorem State.setTiu_canes (s : State) (g u : Nat) (x : Tiu) : (s.setTiu g u x).canes = s.canes := rfl
@[simp] theorem State.setTiu_mbx (s : State) (g u : Nat) (x : Tiu) : (s.setTiu g u x).mbx = s.mbx := rfl
@[simp] theorem State.setTiu_outbox (s : State) (g u : Nat) (x : Tiu) : (s.setTiu g u x).outbox = s.outbox := rfl
@[simp] theorem State.setTiu_chain (s : State) (g u : Nat) (x : Tiu) : (s.setTiu g u x).chain = s.chain := rfl
@[simp] theorem State.setTiu_hatch (s : State) (g u : Nat) (x : Tiu) : (s.setTiu g u x).hatch = s.hatch := rfl
@[simp] theorem State.setTiu_faults (s : State) (g u : Nat) (x : Tiu) : (s.setTiu g u x).faults = s.faults := rfl
@[simp] theorem State.setTiu_upNs (s : State) (g u : Nat) (x : Tiu) : (s.setTiu g u x).upNs = s.upNs := rfl
@[simp] theorem State.setTiu_freeCount (s : State) (g u : Nat) (x : Tiu) : (s.setTiu g u x).freeCount = s.freeCount := rfl
@[simp] theorem State.setTiu_dram (s : State) (g u : Nat) (x : Tiu) : (s.setTiu g u x).dram = s.dram := rfl
@[simp] theorem State.setTiu_clearLow (s : State) (g u : Nat) (x : Tiu) : (s.setTiu g u x).clearLow = s.clearLow := rfl
@[simp] theorem State.setTiu_tref (s : State) (g u : Nat) (x : Tiu) : (s.setTiu g u x).tref = s.tref := rfl
@[simp] theorem State.setTiu_time (s : State) (g u : Nat) (x : Tiu) : (s.setTiu g u x).time = s.time := rfl
@[simp] theorem State.setTiu_tcmps (s : State) (g u : Nat) (x : Tiu) : (s.setTiu g u x).tcmps = s.tcmps := rfl
@[simp] theorem State.setTiu_ports (s : State) (g u : Nat) (x : Tiu) : (s.setTiu g u x).ports = s.ports := rfl
@[simp] theorem State.setTiu_exporter (s : State) (g u : Nat) (x : Tiu) : (s.setTiu g u x).exporter = s.exporter := rfl
@[simp] theorem State.setTiu_amp (s : State) (g u : Nat) (x : Tiu) : (s.setTiu g u x).amp = s.amp := rfl
@[simp] theorem State.setTiu_cal (s : State) (g u : Nat) (x : Tiu) : (s.setTiu g u x).cal = s.cal := rfl
@[simp] theorem State.setTiu_twin (s : State) (g u : Nat) (x : Tiu) : (s.setTiu g u x).twin = s.twin := rfl
@[simp] theorem State.setTiu_journal (s : State) (g u : Nat) (x : Tiu) : (s.setTiu g u x).journal = s.journal := rfl
@[simp] theorem State.setTiu_power (s : State) (g u : Nat) (x : Tiu) : (s.setTiu g u x).power = s.power := rfl
@[simp] theorem State.setTiu_sec (s : State) (g u : Nat) (x : Tiu) : (s.setTiu g u x).sec = s.sec := rfl
@[simp] theorem State.setTiu_jtag (s : State) (g u : Nat) (x : Tiu) : (s.setTiu g u x).jtag = s.jtag := rfl

/-! ## setDig -/

@[simp] theorem State.setDig_pending (s : State) (g d : Nat) (x : Dig) : (s.setDig g d x).pending = s.pending := rfl
@[simp] theorem State.setDig_bcTable (s : State) (g d : Nat) (x : Dig) : (s.setDig g d x).bcTable = s.bcTable := rfl
@[simp] theorem State.setDig_ctxs (s : State) (g d : Nat) (x : Dig) : (s.setDig g d x).ctxs = s.ctxs := rfl
@[simp] theorem State.setDig_progs (s : State) (g d : Nat) (x : Dig) : (s.setDig g d x).progs = s.progs := rfl
@[simp] theorem State.setDig_patches (s : State) (g d : Nat) (x : Dig) : (s.setDig g d x).patches = s.patches := rfl
@[simp] theorem State.setDig_canes (s : State) (g d : Nat) (x : Dig) : (s.setDig g d x).canes = s.canes := rfl
@[simp] theorem State.setDig_mbx (s : State) (g d : Nat) (x : Dig) : (s.setDig g d x).mbx = s.mbx := rfl
@[simp] theorem State.setDig_outbox (s : State) (g d : Nat) (x : Dig) : (s.setDig g d x).outbox = s.outbox := rfl
@[simp] theorem State.setDig_chain (s : State) (g d : Nat) (x : Dig) : (s.setDig g d x).chain = s.chain := rfl
@[simp] theorem State.setDig_hatch (s : State) (g d : Nat) (x : Dig) : (s.setDig g d x).hatch = s.hatch := rfl
@[simp] theorem State.setDig_faults (s : State) (g d : Nat) (x : Dig) : (s.setDig g d x).faults = s.faults := rfl
@[simp] theorem State.setDig_upNs (s : State) (g d : Nat) (x : Dig) : (s.setDig g d x).upNs = s.upNs := rfl
@[simp] theorem State.setDig_freeCount (s : State) (g d : Nat) (x : Dig) : (s.setDig g d x).freeCount = s.freeCount := rfl
@[simp] theorem State.setDig_dram (s : State) (g d : Nat) (x : Dig) : (s.setDig g d x).dram = s.dram := rfl
@[simp] theorem State.setDig_clearLow (s : State) (g d : Nat) (x : Dig) : (s.setDig g d x).clearLow = s.clearLow := rfl
@[simp] theorem State.setDig_tref (s : State) (g d : Nat) (x : Dig) : (s.setDig g d x).tref = s.tref := rfl
@[simp] theorem State.setDig_time (s : State) (g d : Nat) (x : Dig) : (s.setDig g d x).time = s.time := rfl
@[simp] theorem State.setDig_tcmps (s : State) (g d : Nat) (x : Dig) : (s.setDig g d x).tcmps = s.tcmps := rfl
@[simp] theorem State.setDig_ports (s : State) (g d : Nat) (x : Dig) : (s.setDig g d x).ports = s.ports := rfl
@[simp] theorem State.setDig_exporter (s : State) (g d : Nat) (x : Dig) : (s.setDig g d x).exporter = s.exporter := rfl
@[simp] theorem State.setDig_amp (s : State) (g d : Nat) (x : Dig) : (s.setDig g d x).amp = s.amp := rfl
@[simp] theorem State.setDig_cal (s : State) (g d : Nat) (x : Dig) : (s.setDig g d x).cal = s.cal := rfl
@[simp] theorem State.setDig_twin (s : State) (g d : Nat) (x : Dig) : (s.setDig g d x).twin = s.twin := rfl
@[simp] theorem State.setDig_journal (s : State) (g d : Nat) (x : Dig) : (s.setDig g d x).journal = s.journal := rfl
@[simp] theorem State.setDig_power (s : State) (g d : Nat) (x : Dig) : (s.setDig g d x).power = s.power := rfl
@[simp] theorem State.setDig_sec (s : State) (g d : Nat) (x : Dig) : (s.setDig g d x).sec = s.sec := rfl
@[simp] theorem State.setDig_jtag (s : State) (g d : Nat) (x : Dig) : (s.setDig g d x).jtag = s.jtag := rfl

/-! ## setChan -/

@[simp] theorem State.setChan_pending (s : State) (g c : Nat) (x : Chan) : (s.setChan g c x).pending = s.pending := rfl
@[simp] theorem State.setChan_gathers (s : State) (g c : Nat) (x : Chan) : (s.setChan g c x).gathers = s.gathers := rfl
@[simp] theorem State.setChan_bcTable (s : State) (g c : Nat) (x : Chan) : (s.setChan g c x).bcTable = s.bcTable := rfl
@[simp] theorem State.setChan_ctxs (s : State) (g c : Nat) (x : Chan) : (s.setChan g c x).ctxs = s.ctxs := rfl
@[simp] theorem State.setChan_progs (s : State) (g c : Nat) (x : Chan) : (s.setChan g c x).progs = s.progs := rfl
@[simp] theorem State.setChan_patches (s : State) (g c : Nat) (x : Chan) : (s.setChan g c x).patches = s.patches := rfl
@[simp] theorem State.setChan_canes (s : State) (g c : Nat) (x : Chan) : (s.setChan g c x).canes = s.canes := rfl
@[simp] theorem State.setChan_mbx (s : State) (g c : Nat) (x : Chan) : (s.setChan g c x).mbx = s.mbx := rfl
@[simp] theorem State.setChan_outbox (s : State) (g c : Nat) (x : Chan) : (s.setChan g c x).outbox = s.outbox := rfl
@[simp] theorem State.setChan_chain (s : State) (g c : Nat) (x : Chan) : (s.setChan g c x).chain = s.chain := rfl
@[simp] theorem State.setChan_hatch (s : State) (g c : Nat) (x : Chan) : (s.setChan g c x).hatch = s.hatch := rfl
@[simp] theorem State.setChan_faults (s : State) (g c : Nat) (x : Chan) : (s.setChan g c x).faults = s.faults := rfl
@[simp] theorem State.setChan_upNs (s : State) (g c : Nat) (x : Chan) : (s.setChan g c x).upNs = s.upNs := rfl
@[simp] theorem State.setChan_freeCount (s : State) (g c : Nat) (x : Chan) : (s.setChan g c x).freeCount = s.freeCount := rfl
@[simp] theorem State.setChan_dram (s : State) (g c : Nat) (x : Chan) : (s.setChan g c x).dram = s.dram := rfl
@[simp] theorem State.setChan_clearLow (s : State) (g c : Nat) (x : Chan) : (s.setChan g c x).clearLow = s.clearLow := rfl
@[simp] theorem State.setChan_tref (s : State) (g c : Nat) (x : Chan) : (s.setChan g c x).tref = s.tref := rfl
@[simp] theorem State.setChan_time (s : State) (g c : Nat) (x : Chan) : (s.setChan g c x).time = s.time := rfl
@[simp] theorem State.setChan_tcmps (s : State) (g c : Nat) (x : Chan) : (s.setChan g c x).tcmps = s.tcmps := rfl
@[simp] theorem State.setChan_ports (s : State) (g c : Nat) (x : Chan) : (s.setChan g c x).ports = s.ports := rfl
@[simp] theorem State.setChan_exporter (s : State) (g c : Nat) (x : Chan) : (s.setChan g c x).exporter = s.exporter := rfl
@[simp] theorem State.setChan_cal (s : State) (g c : Nat) (x : Chan) : (s.setChan g c x).cal = s.cal := rfl
@[simp] theorem State.setChan_twin (s : State) (g c : Nat) (x : Chan) : (s.setChan g c x).twin = s.twin := rfl
@[simp] theorem State.setChan_journal (s : State) (g c : Nat) (x : Chan) : (s.setChan g c x).journal = s.journal := rfl
@[simp] theorem State.setChan_power (s : State) (g c : Nat) (x : Chan) : (s.setChan g c x).power = s.power := rfl
@[simp] theorem State.setChan_sec (s : State) (g c : Nat) (x : Chan) : (s.setChan g c x).sec = s.sec := rfl
@[simp] theorem State.setChan_jtag (s : State) (g c : Nat) (x : Chan) : (s.setChan g c x).jtag = s.jtag := rfl

/-! ## setBridge -/

@[simp] theorem State.setBridge_pending (s : State) (g : Nat) (b : Bridge) : (s.setBridge g b).pending = s.pending := rfl
@[simp] theorem State.setBridge_gathers (s : State) (g : Nat) (b : Bridge) : (s.setBridge g b).gathers = s.gathers := rfl
@[simp] theorem State.setBridge_bcTable (s : State) (g : Nat) (b : Bridge) : (s.setBridge g b).bcTable = s.bcTable := rfl
@[simp] theorem State.setBridge_ctxs (s : State) (g : Nat) (b : Bridge) : (s.setBridge g b).ctxs = s.ctxs := rfl
@[simp] theorem State.setBridge_progs (s : State) (g : Nat) (b : Bridge) : (s.setBridge g b).progs = s.progs := rfl
@[simp] theorem State.setBridge_patches (s : State) (g : Nat) (b : Bridge) : (s.setBridge g b).patches = s.patches := rfl
@[simp] theorem State.setBridge_canes (s : State) (g : Nat) (b : Bridge) : (s.setBridge g b).canes = s.canes := rfl
@[simp] theorem State.setBridge_mbx (s : State) (g : Nat) (b : Bridge) : (s.setBridge g b).mbx = s.mbx := rfl
@[simp] theorem State.setBridge_outbox (s : State) (g : Nat) (b : Bridge) : (s.setBridge g b).outbox = s.outbox := rfl
@[simp] theorem State.setBridge_chain (s : State) (g : Nat) (b : Bridge) : (s.setBridge g b).chain = s.chain := rfl
@[simp] theorem State.setBridge_hatch (s : State) (g : Nat) (b : Bridge) : (s.setBridge g b).hatch = s.hatch := rfl
@[simp] theorem State.setBridge_faults (s : State) (g : Nat) (b : Bridge) : (s.setBridge g b).faults = s.faults := rfl
@[simp] theorem State.setBridge_upNs (s : State) (g : Nat) (b : Bridge) : (s.setBridge g b).upNs = s.upNs := rfl
@[simp] theorem State.setBridge_freeCount (s : State) (g : Nat) (b : Bridge) : (s.setBridge g b).freeCount = s.freeCount := rfl
@[simp] theorem State.setBridge_dram (s : State) (g : Nat) (b : Bridge) : (s.setBridge g b).dram = s.dram := rfl
@[simp] theorem State.setBridge_clearLow (s : State) (g : Nat) (b : Bridge) : (s.setBridge g b).clearLow = s.clearLow := rfl
@[simp] theorem State.setBridge_tref (s : State) (g : Nat) (b : Bridge) : (s.setBridge g b).tref = s.tref := rfl
@[simp] theorem State.setBridge_time (s : State) (g : Nat) (b : Bridge) : (s.setBridge g b).time = s.time := rfl
@[simp] theorem State.setBridge_tcmps (s : State) (g : Nat) (b : Bridge) : (s.setBridge g b).tcmps = s.tcmps := rfl
@[simp] theorem State.setBridge_ports (s : State) (g : Nat) (b : Bridge) : (s.setBridge g b).ports = s.ports := rfl
@[simp] theorem State.setBridge_exporter (s : State) (g : Nat) (b : Bridge) : (s.setBridge g b).exporter = s.exporter := rfl
@[simp] theorem State.setBridge_cal (s : State) (g : Nat) (b : Bridge) : (s.setBridge g b).cal = s.cal := rfl
@[simp] theorem State.setBridge_twin (s : State) (g : Nat) (b : Bridge) : (s.setBridge g b).twin = s.twin := rfl
@[simp] theorem State.setBridge_journal (s : State) (g : Nat) (b : Bridge) : (s.setBridge g b).journal = s.journal := rfl
@[simp] theorem State.setBridge_power (s : State) (g : Nat) (b : Bridge) : (s.setBridge g b).power = s.power := rfl
@[simp] theorem State.setBridge_sec (s : State) (g : Nat) (b : Bridge) : (s.setBridge g b).sec = s.sec := rfl
@[simp] theorem State.setBridge_jtag (s : State) (g : Nat) (b : Bridge) : (s.setBridge g b).jtag = s.jtag := rfl

/-! ## Read-back -/

@[simp] theorem State.setFaults_faults (s : State) (f : Faults) : (s.setFaults f).faults = f := rfl
@[simp] theorem State.setHatch_hatch (s : State) (h : Hatch) : (s.setHatch h).hatch = h := rfl
@[simp] theorem State.setTwin_twin (s : State) (t : Twin) : (s.setTwin t).twin = t := rfl
@[simp] theorem State.setJournal_journal (s : State) (j : Journal) : (s.setJournal j).journal = j := rfl
@[simp] theorem State.setAmp_amp (s : State) (a : Amp) : (s.setAmp a).amp = a := rfl
@[simp] theorem State.setChain_chain (s : State) (c : Chain) : (s.setChain c).chain = c := rfl
@[simp] theorem State.setPstate_pstate (s : State) (p : Nat) : (s.setPstate p).power.pstate = p := rfl
@[simp] theorem State.modTime_time (s : State) (f : NetTime → NetTime) : (s.modTime f).time = f s.time := rfl
@[simp] theorem State.modExp_exporter (s : State) (f : Exporter → Exporter) : (s.modExp f).exporter = f s.exporter := rfl

/-- One gather is written, and every other stays (R11). -/
theorem State.gather_setG (s : State) (g h : Nat) (G : Gather) : (s.setG g G).gather h = if h = g then G else s.gather h := Tab.get_put _ _ _ _ _
theorem State.mailbox_setMbx (s : State) (m n : Nat) (x : Mailbox) : (s.setMbx m x).mailbox n = if n = m then x else s.mailbox n := Tab.get_put _ _ _ _ _
theorem State.prog_setProg (s : State) (p k : Nat) (x : Prog) : (s.setProg p x).prog k = if k = p then x else s.prog k := Tab.get_put _ _ _ _ _
theorem State.ctx_setCtx (s : State) (c k : Nat) (x : Ctx) : (s.setCtx c x).ctx k = if k = c then x else s.ctx k := Tab.get_put _ _ _ _ _
theorem State.port_setPort (s : State) (p k : Nat) (x : Port) : (s.setPort p x).port k = if k = p then x else s.port k := Tab.get_put _ _ _ _ _
theorem State.tcmp_setTcmp (s : State) (n k : Nat) (x : Tcmp) : (s.setTcmp n x).tcmp k = if k = n then x else s.tcmp k := Tab.get_put _ _ _ _ _
theorem State.line_setLine (s : State) (n k : Nat) (x : Line) : (s.setLine n x).line k = if k = n then x else s.line k := Tab.get_put _ _ _ _ _
theorem State.site_setSite (s : State) (n k : Nat) (x : SiteJrn) : (s.setSite n x).site k = if k = n then x else s.site k := Tab.get_put _ _ _ _ _

end Sys2Proof.Machine
end

