-- ==== Sys2Proof/WellFormed.lean ====
section
/-!
DEFINITION. Which commands are well formed: those that the interfaces can carry. A term that breaks a check here stands for nothing that the
outside can send or the hardware can see.
-/
namespace Sys2Proof

/-- The request that a firmware command carries; the other rows are events. -/
def Instr.request : Instr → Option Req
  | .sysPing r => some r
  | .sysInfo r => some r
  | .sysMbxInfo r => some r
  | .sysFence r => some r
  | .sysReset r => some r
  | .sysPower r => some r
  | .unitInfo r => some r
  | .caneDefine r => some r
  | .caneDelete r => some r
  | .caneQuery r => some r
  | .caneMask r => some r
  | .caneList r => some r
  | .strokeLoad r => some r
  | .tsetLoad r => some r
  | .strokeStart r => some r
  | .strokeHalt r => some r
  | .strokeStatus r => some r
  | .strokeRead r => some r
  | .seqConfig r => some r
  | .vmemWrite r => some r
  | .vmemRead r => some r
  | .vmemPin r => some r
  | .streamOpen r => some r
  | .streamClose r => some r
  | .streamWrite r => some r
  | .bcastLoad r => some r
  | .bcastStart r => some r
  | .bcastUnload r => some r
  | .stencilLoad r => some r
  | .stencilClear r => some r
  | .streamStatus r => some r
  | .ucodeLoad r => some r
  | .ucodeClear r => some r
  | .ucodeQuery r => some r
  | .ucodeRead r => some r
  | .pinConfig r => some r
  | .pinLevels r => some r
  | .pinLoad r => some r
  | .pinClearCodes r => some r
  | .pinComparator r => some r
  | .pinRelease r => some r
  | .pinStatus r => some r
  | .pinRead r => some r
  | .sentConfig r => some r
  | .sentStatus r => some r
  | .contactCheck r => some r
  | .smuConfig r => some r
  | .smuForce r => some r
  | .smuSafe r => some r
  | .smuTrip r => some r
  | .smuMeasure r => some r
  | .smuRelease r => some r
  | .smuStatus r => some r
  | .smuRead r => some r
  | .ampIdent r => some r
  | .ampConnect r => some r
  | .ampDisconnect r => some r
  | .ampConvert r => some r
  | .ampBridge r => some r
  | .ampBridgeStatus r => some r
  | .ampStatus r => some r
  | .ampSheetClose r => some r
  | .ampSheetRead r => some r
  | .ampAdjust r => some r
  | .ampCounter r => some r
  | .ampRefcheck r => some r
  | .tiuConfig r => some r
  | .tiuStart r => some r
  | .tiuAbort r => some r
  | .tiuStamps r => some r
  | .tiuStatus r => some r
  | .tiuSelftest r => some r
  | .tiuRead r => some r
  | .capConfig r => some r
  | .capLimits r => some r
  | .capArm r => some r
  | .capForce r => some r
  | .capAbort r => some r
  | .capStatus r => some r
  | .capHeader r => some r
  | .capRead r => some r
  | .capReadCfg r => some r
  | .hatchLineConfig r => some r
  | .hatchProducer r => some r
  | .hatchForward r => some r
  | .hatchTask r => some r
  | .hatchBind r => some r
  | .hatchGroup r => some r
  | .hatchRestore r => some r
  | .hatchPulse r => some r
  | .hatchStatus r => some r
  | .calConfig r => some r
  | .calPinmask r => some r
  | .calRun r => some r
  | .calStatus r => some r
  | .calQuality r => some r
  | .calStore r => some r
  | .calTemps r => some r
  | .netConfig r => some r
  | .netStatus r => some r
  | .ptpConfig r => some r
  | .timeStatus r => some r
  | .timeAdjust r => some r
  | .timeStep r => some r
  | .tcmpArm r => some r
  | .tcmpStatus r => some r
  | .exportOpen r => some r
  | .exportClose r => some r
  | .exportStatus r => some r
  | .exportResend r => some r
  | .twinConfig r => some r
  | .twinStatus r => some r
  | .twinHalf r => some r
  | .twinRelease r => some r
  | .jrnConfig r => some r
  | .jrnCheckpoint r => some r
  | .jrnMarkers r => some r
  | .jrnReport r => some r
  | .fltRead r => some r
  | .fltAck r => some r
  | .fltForce r => some r
  | .fltConfig r => some r
  | .fltLog r => some r
  | .fltRelease r => some r
  | .secCert r => some r
  | .secAttest r => some r
  | .imgWrite r => some r
  | .imgCommit r => some r
  | .imgActivate r => some r
  | .imgStatus r => some r
  | .lcChallenge r => some r
  | .lcCsr r => some r
  | .lcInstall r => some r
  | .lcTransition r => some r
  | _ => none

/-- A request fits its 4 KiB window: at most 4,076 payload bytes (R399). -/
def Req.wf (r : Req) : Bool := decide (r.payload.length ≤ 4076)

/-- An UNRESOLVED or resolved observation names at least one state of its window (Table 6-1). -/
def Obs.wf (o : Obs) : Bool := !o.states.isEmpty

/-- Link messages carry requests that are well formed, checkpoints of 128 bytes and markers of 16 (Tables 18-5, 18-6). -/
def LinkMsg.wf : LinkMsg → Bool
  | .forwarded _ r => r.wf
  | .report _ _ _ _ => true
  | .checkpoint b => b.length == 128
  | .marker b => b.length == 16
  | .shadow _ r => r.wf
  | .halfBack ws cs => ws.all (fun w => w.2.wf) && cs.all fun c => c.length == 128
  | .dormant => true

/-- The check: a request's payload fits its window; a burst transfer brings as many bits as it says (R378); a REQUEST datagram's body fits the window
(R426); an ACK names at most eight SEQ values (R443); a tile has four sensor readings (R343); a link message is well formed. -/
def Instr.wellFormed (i : Instr) : Bool :=
  match i.request with
  | some r => r.wf
  | none =>
    match i with
    | .chainBurstTransfer bits sdi _ _ _ => decide (bits ≤ 16384) && decide (sdi < 2 ^ bits)
    | .udpRequest _ _ _ _ b => decide (b.length ≤ 4096)
    | .exportAck _ _ _ ns => decide (ns.length ≤ 8)
    | .tempRead _ rs => rs.length == 4
    | .granuleBoundary _ obs => obs.all Obs.wf
    | .twinLinkFrame m => m.wf
    | _ => true

end Sys2Proof
end

