-- ==== Sys2Proof/Tests/Slice0.lean ====
section
/-!
SUPPORT. Tests: terms that are not well formed; for each statement, and for each command and clause of it, a small state and operands that
meet its hypotheses; and worked examples of the spec.
-/
namespace Sys2Proof.Tests
open Sys2Proof Sys2Proof.Machine
set_option Elab.async false
set_option linter.all false

/-! ## Small states -/

def zs (n : Nat) : List Byte := List.replicate n 0#8
/-- A request on mailbox 0 to a target with a payload; `q5` is its like on mailbox 5. -/
def q (tgt : Word) (p : List Byte) : Req := { mbx := 0, tag := 7, target := tgt, flags := 0, rsv := 0, payload := p }
def q5 (tgt : Word) (p : List Byte) : Req := { q tgt p with mbx := 5 }
/-- Started long ago: ACTIVE, the wipe over, the management image running. -/
def up : State := { State.reset with upNs := 10 ^ 13, power := { State.reset.power with pstate := 1, wipe := false, img := 0 } }
def ampUp : State := { up with amp := { up.amp with inReset := false } }
def inDormant : State := { up with power := { up.power with pstate := 3 } }
def withMbx (s : State) (x : Mailbox) : State := s.setMbx 0 x
/-- Mailbox 0 has a command that waits. -/
def heldBy (w : Wait) (tgt : Word) : Entry := { opcode := 0x0605, req := q tgt [], phase := .running w 0 }
def waitingIn (s : State) (w : Wait) (tgt : Word) : State := s.setMbx 0 { entries := [heldBy w tgt] }
def onPlay (f : Play → Play) : State := up.modPlay 0 f
def onSeq (f : Seq → Seq) : State := up.modSeq 0 f

def cane3 : Cane := { cls := 6, members := [0x6000] }
def caned : State := up.putCane 3 cane3
def strokeSt : State := up.modPlay 0 fun y => { y with table := [(4095, 0)], tsets := [(0, { period := 0x400000 })] }
def openCtx : State := caned.setCtx 3 { isOpen := true, length := 1 }
def progSt : State :=
  ({ openCtx with bcTable := [(4095, 0)] }.modPlay 0 fun y => { y with tsets := [(0, { period := 0x400000 })] }).setProg 3
    { loaded := true, cane := 3, ctx := 3, first := 4095, count := 1, members := [0] }
def ampSrc : State := ampUp.setChan 0 0 { source := 0xD }
def sheet1 : Sheet := { num := 1, prev := 0, prevState := 2, entries := [zs 128] }
def ampSheet : State := ampUp.setAmp { ampUp.amp with sheets := [sheet1] }
def closed1 : Sheet := { sheet1 with close := some 1 }
def ampClosing : State := ampUp.setAmp { ampUp.amp with sheets := [closed1] }
def indexed1 : Sheet := { closed1 with index := some 0 }
def ampIndexed : State := ampUp.setAmp { ampUp.amp with sheets := [indexed1] }
def ampAdj : State := ampUp.setAmp { ampUp.amp with legal := 1, candidate := (List.range 64).map fun g => (g, {}), lec := 0xFFFFFFFE }
def tiuSt : State := up.setTiu 0 0 { stamps := [0] }
def digOn : State := up.setDig 0 0 { parked := false }
def arm1 : CapArm := { base := 0, size := 0x10000, reserve := 0, group := [0], len := 64, pre := 0, records := 1, holdoff := 0, rate := 1 }
def armFull : CapArm := { arm1 with items := List.replicate 64 { first := 0, rate := 1, samples := [0], gap := false, held := 0 }, trig := some { time := 0, kind := 0, by_ := 0, net := 0 } }
def capSt : State := up.setDig 0 0 { arm := some { arm1 with stored := [64] } }
def netSt : State := up.setPort 1 { mtu := 4096, up := true, enable := true, mailbox := true }
def dg7 : Dgram := { seq := 7, records := [], firstNs := 0 }
def expSt : State := { netSt with exporter := { isOpen := true, port := 1, held := [dg7] } }
def doubleSt : State := up.setTwin { up.twin with st := 3, link := true, partner := 4 }
def ckptSt : State := up.setSite 127 { ring := [{ site := 127 }] }
def rec1 : Rec := { src := 0xA001, scope := 0x8000 }
def fltSt : State := up.setFaults { up.faults with recs := [rec1], nextSeq := 1, log := [rec1] }
def imgSt : State := up.setSession 0 (some 0)
def bareSt : State := { up with sec := { up.sec with life := 0, root := none, certs := [] } }

def frame0 : Frame := { cnt := 0, addr := 0, data := 0, seq := 0, flags := 0, rsv := 0, crc := 0, bits := 128, lead := 10, lag := 10, gap := 100, clash := false, overReset := false }
def part1 : Part := { opcode := 0x0101, tag := 7, status := 0, part := 0, late := false, elapsed := 0, payload := [] }
def formed1 : Entry := { opcode := 0x0101, req := q 0x8000 [], phase := .formed [part1] }
def ptpSt : State := { netSt with time := { netSt.time with ptpPort := 1 } }
def due1 : Due := { code := 1, mbx := 0, ns := 0 }
def parkedDue : State := { up with power := { up.power with parked := true, resetDue := [due1] } }
def delays0 : Delays := { lead := 100, lag := 100, gap := 1000 }
def smuCurrent : Word := 0x10
def smuOn2 : Word := 0x21
def tgt1000 : Tgt := { up.target (q 0x1000 []) with masked := [] }
def meas1 : SmuMeas := { mode := 0, source := 0, started := true, n := 1, lo := 0, hi := 0 }
def cont1 : Cont := { res := { idx := 0, out := .vec, cost := 1, loops := [], stack := [], w := 0, ckpts := 0, rdvNone := 0, setf := [] }, unresolved := true }
def etch1 : Etch := { idx := 0, bcast := false, phase := .writing, run := 0 }
def creq : AmpReq := { mbx := 0, pos := 0, range := 0, rate := 0, mode := 1, trig := 0, n := 1, timeout := 1, receipt := false, context := zs 32, opens := 0, half := 0 }
def conv0 : Wait := { kind := .convert, units := [0], headNs := some 0 }
def convSt : State := (waitingIn ampUp conv0 0x3000).setChan 0 0 { queue := [creq] }
def runSt : State := ampUp.setChan 0 0 { queue := [creq], run := some {} }
def tmeas1 : TiuMeas := { timeout := 1, window := 1, lo := 0, hi := 0 }
def tmeasDead : TiuMeas := { tmeas1 with deadStart := some (up.rawStamp 0) }
def digLevelTrig : Word := 0
def armSeen : CapArm := { arm1 with seen := some { time := 5, kind := 1, by_ := 0, net := 0 } }
def longUp : State := { up with upNs := 10 ^ 14 }
def servedLong : State :=
  (longUp.setTiu 0 0 { st := .service, meas := some tmeas1 }).setCalG 0 { running := [(elNum (.tiu 0), 0)] }
def calDue : State := up.setCalTile 0 { due := true }
def ckpt1 (mode : Nat) : Ckpt := { mode := mode, prog := if mode == 2 then 0xFF else 0 }
def replaySt (mode : Nat) : State := (up.setSite 0 { ring := [ckpt1 mode] }).modG 0 fun G => { G with safe := { G.safe with replayDue := true } }
def rep1 : Replay := { etch := some 9, vfyDone := some {} }
def turnSt : State := up.setTwin { doubleSt.twin with owner := true, turnWanted := true }
def jtagExtest : Byte := 0x02

/-! ## Hypotheses of the statements about the whole machine -/

/-- The queue: empty in DORMANT and outside it. -/
theorem test_empty_queue : up.pending = [] ∧ up.power.pstate ≠ 3 ∧ inDormant.pending = [] ∧ inDormant.power.pstate = 3 := by decide +kernel

/-- Commands that answer a next state, for the invariants and the frames. -/
theorem test_exec_next : exec .evqLostPost up = .next up ∧ (∃ t, exec (.vmemWrite (q 0x6000 [])) up = .next t)
    ∧ (∃ t, exec (.streamWrite (q 0x8000 [])) up = .next t) ∧ (∃ t, exec (.strokeStart (q 0x6000 [])) up = .next t)
    ∧ ∃ t, step up = .next t :=
  ⟨rfl, ⟨_, rfl⟩, ⟨_, rfl⟩, ⟨_, rfl⟩, ⟨_, rfl⟩⟩

/-- A state with a fault record, a notification and a command in a mailbox that is well formed. -/
theorem test_wf : fltSt.wf ∧ ∃ t, step fltSt = .next t := by
  refine ⟨⟨⟨by decide, by decide, by decide +kernel, by decide +kernel, by decide +kernel⟩, Nat.zero_le _, ⟨by decide, fun n => ?_⟩,
    ⟨by decide, by decide, by decide, by decide⟩, by decide, fun m => ?_⟩, _, rfl⟩
  · exact Nat.zero_le _
  · exact ⟨Nat.zero_le _, Nat.zero_le _, rfl⟩

/-- What a reset waits for: a parked device and one whose reset is due, 10 ms ago and more. -/
theorem test_reset_due : parkedDue.power.parked = true ∧ parkedDue.power.parkNs + 10000000 ≤ parkedDue.upNs
    ∧ ∃ d ∈ parkedDue.power.resetDue, d.ns + 10000000 ≤ parkedDue.upNs := by decide

def ping : Req := q 0x8000 []
def ent1 : Entry := { opcode := 0x0101, req := ping, phase := .running { kind := .checking } 0 }
def full16 : State := up.setMbx 0 { entries := List.replicate 16 ent1 }
def full17 : State := up.setMbx 0 { entries := List.replicate 16 ent1 ++ [refusalEntry 0x0101 ping none stMbxFull] }
def full2 : State := up.setMbx 0 { entries := [ent1, refusalEntry 0x0101 ping none stMbxFull] }

/-- A full mailbox: its refusal slot free, occupied, and occupied with commands acknowledged since. -/
theorem test_full_mailbox : requestOf (.sysPing ping) = some (0x0101, [8], ping) ∧ full16.atHead 0x0101 ping = false
    ∧ (full16.mailbox 0).full ∧ (full16.mailbox 0).entries.any (·.refusal) = false
    ∧ full17.atHead 0x0101 ping = false ∧ (full17.mailbox 0).full ∧ (full17.mailbox 0).entries.any (·.refusal) = true
    ∧ full2.atHead 0x0101 ping = false ∧ (full2.mailbox 0).full ∧ (full2.mailbox 0).outstanding < 16 := by unfold Mailbox.full; decide +kernel

/-- STARTING, with 15 commands outstanding. -/
theorem test_starting : State.reset.atHead 0x0101 ping = false ∧ State.reset.power.pstate = 0
    ∧ ((State.reset.setMbx 0 { entries := List.replicate 15 ent1 }).mailbox 0).takes = true := by decide +kernel

/-- A mailbox whose first command waits. -/
theorem test_later_waits : ((waitingIn up { kind := .fence } 0x8000).mailbox 0).head.isSome = true ∧ (waitingIn up { kind := .fence } 0x8000).taking ping = true
    ∧ (waitingIn up { kind := .fence } 0x8000).atHead 0x0101 ping = false ∧ ((waitingIn up { kind := .fence } 0x8000).mailbox 0).takes = true := by decide +kernel

def shown1 : State := up.setMbx 0 { entries := [formed1] }
def two1 : Entry := { formed1 with phase := .formed [part1, { part1 with part := 1 }] }
def shown2 : State := up.setMbx 0 { entries := [two1] }

/-- Nothing shown, the last part shown, and a part with another behind it; a word that is the TAG and one that is not. -/
theorem test_acknowledge : (up.mailbox 0).shown = none ∧ (shown1.mailbox 0).shown = some (formed1, part1) ∧ formed1.phase = .formed [part1]
    ∧ (shown2.mailbox 0).shown = some (two1, part1) ∧ two1.phase = .formed (part1 :: [{ part1 with part := 1 }]) ∧ up.power.pstate ≠ 3
    ∧ (0x10007 : Word) ≠ part1.tag.setWidth 32 := by decide +kernel

/-- A gather handle and a cane that is not defined to a command of the device, and a cane of gathers to a command of tiles. -/
theorem test_other_class : caned.reached 0x0106 [8] (q 0x6000 []) = true ∧ caned.loaderTakes 0x0106 (q 0x6000 []) = true
    ∧ headPasses 0x0106 (q 0x6000 []) = true ∧ handleOk 0x6000 = true ∧ hClass 0x6000 ≠ 0xC ∧ hClass 0x6000 ∉ [8]
    ∧ handleOk 0xC0FF = true ∧ hClass 0xC0FF ∉ [8] ∧ caned.cane 255 = none ∧ handleOk 0xC003 = true ∧ caned.cane 3 = some cane3 ∧ cane3.cls ∉ [7, 0xC] ∧ caned.reached 0x1003 [7, 0xC] (q 0xC003 []) = true := by decide +kernel

/-- A target with an upper half, an invalid class, an index past the last, the twin's device handle. -/
theorem test_target_field : up.reached 0x0101 [8] ping = true ∧ 65536 ≤ (q 0x18000 []).target.toNat ∧ handleOk 0xA000 = false ∧ handleOk 0x6080 = false
    ∧ handleOk 0x607F = true ∧ (q 0x8001 []).target = 0x8001 ∧ handleOk 0xC0FF = true ∧ hClass 0xC0FF ≠ 8 ∧ hClass 0x607F ≠ 8 := by decide +kernel

/-- The envelope's checks: a payload of 4,077 bytes, a group of another mailbox, reserved flags, a bad target, mailbox 5 with another group. -/
theorem test_envelope : 4076 < (q 0x8000 (zs 4077)).payload.length ∧ opcodePasses 0x0D01 = true ∧ groupAccepted 4 0x0101 = false
    ∧ up.reached 0x0101 [8] { ping with mbx := 4 } = true ∧ ({ ping with flags := 2 } : Req).flags.toNat / 2 ≠ 0
    ∧ up.targetStatus 0xA000 [8] ≠ stOK ∧ ampUp.reached 0x0101 [8] (q5 0x8000 []) = true ∧ headPasses 0x0101 (q5 0x8000 []) = true
    ∧ ampUp.targetStatus 0x8000 [8] = stOK ∧ groupOf 0x0101 ≠ 7 := by decide +kernel

/-- A LOST device and a command that names a gather. -/
def lostSt : State := up.setTwin { up.twin with st := 4 }
theorem test_lost : lostSt.reached 0x0305 [6, 0xC] (q 0x6000 []) = true ∧ headPasses 0x0305 (q 0x6000 []) = true ∧ lostSt.targetStatus 0x6000 [6, 0xC] = stOK
    ∧ lostSt.twin.st = 4 ∧ hClass 0x6000 ≠ 8 ∧ groupOf 0x0305 = 3 := by decide +kernel

/-- The recovery loader, and Anneal with the processor running. -/
theorem test_anneal : (up.setFaults { up.faults with anneal := true }).reached 0x0106 [8] ping = true ∧ (up.setFaults { up.faults with anneal := true }).loaderTakes 0x0106 ping = true
    ∧ (up.setFaults { up.faults with anneal := true }).envelope 0x0106 ping [8] = stOK ∧ (up.setFaults { up.faults with anneal := true }).annealTakes 0x0106 ping = false
    ∧ ({ up with power := { up.power with img := 2 } } : State).loaderTakes 0x0106 ping = false
    ∧ ({ up with power := { up.power with img := 2 } } : State).reached 0x0106 [8] ping = true := by decide +kernel

/-- TWIN_ABSENT: in PAIRING for more than 1 s, in PAIRING for less, and out of it. -/
theorem test_twin_absent : up.twin.st = 1 ∧ up.twin.absent = false ∧ up.power.resetNs + 1000000000 < up.upNs ∧ doubleSt.twin.st ≠ 1
    ∧ State.reset.upNs < State.reset.power.resetNs + 1000000000 := by decide

/-- The notification queue at 511 and at 512 entries, with a count of what was lost. -/
theorem test_queue_bounds : (up.setHatch { up.hatch with queue := List.replicate 511 [], evqLost := 1 }).hatch.queue.length < 512
    ∧ 512 ≤ (up.setHatch { up.hatch with queue := List.replicate 512 [] }).hatch.queue.length := by decide +kernel

/-- TIME_ADJUST: the least and the greatest increment within ±500 ppm, and the values next to them outside (R431). -/
theorem test_increment_bounds : up.ready 0x0C05 [8] (q 0x8000 (toLE 8 17171279250)) = true ∧ incrOk 17171279250 = true ∧ incrOk 17171279249 = false
    ∧ incrOk 17188459118 = true ∧ incrOk 17188459119 = false ∧ 3998 * 2 ^ 32 ≤ 1000 * 17171279250 ∧ ¬ (3998 * 2 ^ 32 ≤ 1000 * 17171279249)
    ∧ 1000 * 17188459118 ≤ 4002 * 2 ^ 32 ∧ ¬ (1000 * 17188459119 ≤ 4002 * 2 ^ 32) := by decide +kernel

def runningG : State := onSeq fun x => { x with st := .running }
/-- A running gather, with requests that pass every check before. -/
theorem test_running_gather : (∃ g ∈ (runningG.target (q 0x6000 [])).units, (runningG.gather g).idle = false)
    ∧ runningG.ready 0x0301 [6, 0xC] (q 0x6000 ([255, 15, 1] ++ zs 21)) = true ∧ zeros ([255, 15, 1] ++ zs 21) 4 4 = true
    ∧ firstBad (entriesOf ([255, 15, 1] ++ zs 21) 8 1) 4095 (fun b => (entOf b).loadStatus false) = none := by
  refine ⟨⟨0, ?_⟩, ?_⟩ <;> decide +kernel
theorem test_running_gather_tset : runningG.ready 0x0302 [6, 0xC] (q 0x6000 ([31] ++ zs 9 ++ [64] ++ zs 453)) = true
    ∧ u64 ([31] ++ zs 9 ++ [64] ++ zs 453) 8 = 64 * 65536
    ∧ (∀ i, i < 16 → (pinTimingOf ([31] ++ zs 9 ++ [64] ++ zs 453) (16 + 28 * i)).fmt ≤ 3 ∧ zeros ([31] ++ zs 9 ++ [64] ++ zs 453) (17 + 28 * i) 3 = true
      ∧ (pinTimingOf ([31] ++ zs 9 ++ [64] ++ zs 453) (16 + 28 * i)).bad (u64 ([31] ++ zs 9 ++ [64] ++ zs 453) 8) = false) := by decide +kernel
theorem test_running_gather_seq : runningG.ready 0x0307 [6, 0xC] (q 0x6000 (zs 8)) = true ∧ ∀ p, p < 16 → bits (w32 (zs 8) 4).toNat (2 * p + 1) (2 * p) ≠ 3 := by
  decide +kernel

/-- LC_TRANSITION: a state that is not the next one; the authorisation missing; PRODUCTION with a CONFIRM; and one that passes. -/
theorem test_transitions : up.ready 0x0F0A [8] (q 0x8000 ([3] ++ zs 7)) = true ∧ up.sec.mayGo 3 = false ∧ up.sec.mayGo 2 = true
    ∧ up.authorised 2 ([2] ++ zs 7) ≠ stOK ∧ up.authorised 2 ([2, 0, 0, 0] ++ toLE 4 0xA55A) = stOK ∧ up.lifeBusy = false ∧ up.sec.life ≠ 2 := by decide +kernel

/-- The collector: a source that has a record and one that has none; 255 and 256 records; all of class B, and one of class A among them. -/
theorem test_collector : fltSt.faults.recs.any (fun r => r.names 0xA001 0x8000) = true ∧ fltSt.faults.recs.any (fun r => r.names 0xB001 0x8000) = false
    ∧ (List.replicate 255 rec1).length < 256 ∧ 256 ≤ (List.replicate 256 { rec1 with src := 0xB002 }).length
    ∧ (∀ r ∈ List.replicate 256 { rec1 with src := 0xB002 }, srcClass r.src ≠ 0xA) ∧ srcClass rec1.src = 0xA := by decide +kernel

/-- The pair NETTIME of the front registers is available. -/
theorem test_pair : (up.pair 0x100).isSome = true ∧ up.notAvailable .front 0x100 = false ∧ up.notAvailable .front (0x104) = false := by decide +kernel

/-- An AMP_ADJUST COMMIT at the top of the counter. -/
theorem test_counter_full : ({ ampAdj with amp := { ampAdj.amp with lec := 0xFFFFFFFF } } : State).ready 0x070A [8] (q5 0x8000 (zs 4 ++ toLE 4 499000000 ++ zs 32)) = true
    ∧ ampAdj.amp.inReset = false ∧ ampAdj.amp.noImage = false ∧ ampAdj.ampOnline = stOK ∧ ampAdj.amp.legal = 1 ∧ ampAdj.candidateComplete = true
    ∧ ampAdj.amp.gathers.any (fun g => g.2.chans.any fun c => c.2.run.isSome || !c.2.queue.isEmpty) = false
    ∧ u32 (zs 4 ++ toLE 4 499000000 ++ zs 32) 4 = 499000000 := by decide +kernel

/-- STREAM_WRITE and VMEM_WRITE that execute, with a byte inside what they store. -/
theorem test_stores : Mem.wf openCtx.dram = true ∧ openCtx.ready 0x0406 [8] (q 0x8000 ([3] ++ zs 263)) = true
    ∧ 0 ∈ (up.target (q 0x6000 [])).units ∧ 1 ∉ (up.target (q 0x6000 [])).units := by decide +kernel

/-! ## Syntax: terms that are not well formed -/

theorem test_illformed_request : Instr.wellFormed (.sysPing (q 0x8000 (zs 4077))) = false ∧ Instr.wellFormed (.sysPing (q 0x8000 (zs 4076))) = true := by decide +kernel
theorem test_illformed_burst : Instr.wellFormed (.chainBurstTransfer 1 2 delays0 false false) = false
    ∧ Instr.wellFormed (.chainBurstTransfer 16385 0 delays0 false false) = false ∧ Instr.wellFormed (.chainBurstTransfer 1 1 delays0 false false) = true := by decide +kernel
theorem test_illformed_datagram : Instr.wellFormed (.udpRequest 0 {} 2 0 (zs 4097)) = false ∧ Instr.wellFormed (.udpRequest 0 {} 2 0 (zs 4096)) = true := by decide +kernel
theorem test_illformed_export_ack : Instr.wellFormed (.exportAck true true 0 (List.replicate 9 0)) = false ∧ Instr.wellFormed (.exportAck true true 0 (List.replicate 8 0)) = true := by decide +kernel
theorem test_illformed_temperatures : Instr.wellFormed (.tempRead 0 [0, 0, 0]) = false ∧ Instr.wellFormed (.tempRead 0 [0, 0, 0, 0]) = true := by decide +kernel
theorem test_illformed_observation : Instr.wellFormed (.granuleBoundary (.gather 0) [{ g := 0, vec := 0, p := 0, states := [] }]) = false
    ∧ Instr.wellFormed (.granuleBoundary (.gather 0) [{ g := 0, vec := 0, p := 0, states := [1] }]) = true := by decide +kernel
theorem test_illformed_link_message : Instr.wellFormed (.twinLinkFrame (.checkpoint (zs 127))) = false ∧ Instr.wellFormed (.twinLinkFrame (.marker (zs 15))) = false
    ∧ Instr.wellFormed (.twinLinkFrame (.halfBack [(0x0301, q 0x6000 (zs 4077))] [])) = false ∧ Instr.wellFormed (.twinLinkFrame (.checkpoint (zs 128))) = true := by decide +kernel

/-- No row of the table gives bits, so no word spells a command. -/
theorem test_no_word : decodeTableWord 32 0 = none ∧ State.withFetchWord State.reset 32 0 = State.reset := by decide +kernel

/-! ## Worked examples of the spec -/

/-- What exec answers, where it answers a next state. -/
def after (c : Instr) (s : State) : State := match exec c s with | .next t => t | _ => s

/-- Chapter 2: pin 5 of gather 37 is 0x0255, source/measure unit 2 of gather 37 is 0x1096 (R9). -/
theorem test_handles : hClass 0x0255 = 0 ∧ hIndex 0x0255 = 16 * 37 + 5 ∧ hClass 0x1096 = 1 ∧ hIndex 0x1096 = 4 * 37 + 2 := by decide

/-- Chapter 6: the codes of 5.0 V, 0 V, 3.5 V, 1.5 V and 2.5 V lie within half a step of 9.0 V / 65,536 (R147). -/
theorem test_level_codes : ∀ cv ∈ [((0xC71C : Nat), (5000000 : Int)), (0x38E4, 0), (0x9C72, 3500000), (0x638E, 1500000), (0x8000, 2500000)],
    2 * (levelUv cv.1 - cv.2 * 65536).natAbs ≤ 9000000 := by decide

/-- Chapter 6, PIN_LEVELS of the trim pins: VIH, VT and VOH latch at once and are held; VOL, above the VOH in force, waits for the second
latch (R149, R151); the answer awaits the settling. -/
def trimLevels : Req := q 0x00C0 (toLE 2 0x38E4 ++ toLE 2 0xC71C ++ toLE 2 0x638E ++ toLE 2 0x9C72 ++ toLE 2 0x8000 ++ zs 2)
theorem test_trim_levels : ((after (.pinLevels trimLevels) up).pin 12 0).vih.code = 0xC71C ∧ ((after (.pinLevels trimLevels) up).pin 12 0).vih.hold = true
    ∧ ((after (.pinLevels trimLevels) up).pin 12 0).voh.code = 0x9C72 ∧ ((after (.pinLevels trimLevels) up).pin 12 0).vol.code = 0x38E4
    ∧ ((after (.pinLevels trimLevels) up).pin 12 0).vol.next = some 0x638E := by decide +kernel

/-- Chapter 8: 0x3_1C72 is 5.000 008 V. -/
theorem test_smu_code : (v18 0x31C72 - 5000008 * 262144).natAbs ≤ 262144 := by decide

/-- Chapter 15: with 12 devices a burst of 32 words has 11 + 32 × 32 + 16 = 1,051 bits: one bit short, FRAME_LEN_ERR and the pointer stays;
at its length the pointer reaches 32 words. -/
def burstSt : State := { up with chain := { up.chain with devices := 12, front := { up.chain.front with ptrWin := true, mode := .burstRead 31 0x8C 0x10 (List.replicate 32 0) 0 } } }
theorem test_burst_short : (after (.chainBurstTransfer 1050 0 delays0 false false) burstSt).chain.front.ptrOff = 0
    ∧ (after (.chainBurstTransfer 1050 0 delays0 false false) burstSt).chain.front.resp.flags &&& cfLen = cfLen := by decide +kernel
theorem test_burst_whole : (after (.chainBurstTransfer 1051 0 delays0 false false) burstSt).chain.front.ptrOff = 128
    ∧ (after (.chainBurstTransfer 1051 0 delays0 false false) burstSt).chain.front.resp.data = 32
    ∧ (after (.chainBurstTransfer 1051 0 delays0 false false) burstSt).chain.front.resp.flags &&& cfLen = 0 := by decide +kernel

/-- Chapter 19: a forced SEQ_ZERO_SPIN of gather 20 in RECORD mode enters one record, INJECTED, and gather 20 stays out of the safe state (R500). -/
def forceSpin : Req := q 0x8000 (toLE 2 0xB001 ++ toLE 2 0x6014 ++ [1] ++ zs 7)
theorem test_forced_spin : ((after (.fltForce forceSpin) up).faults.recs.map fun r => (r.src, r.scope, r.injected, r.real)) = [(0xB001, 0x6014, true, false)]
    ∧ ((after (.fltForce forceSpin) up).gather 20).safe.on = false := by decide +kernel
/-- The real occurrence puts the gather in the safe state, REACT 1. -/
theorem test_real_spin : ((after (.faultOccurrence 0xB001 0x6014 0) up).faults.recs.map fun r => (r.src, r.real, r.react)) = [(0xB001, true, 1)]
    ∧ ((after (.faultOccurrence 0xB001 0x6014 0) up).gather 20).safe.on = true := by decide +kernel

/-- Chapter 5: UCODE_LOAD with VERSION 0x0000_0102 makes the tile's version read so. -/
def ucode102 : Req := q 0x7000 (toLE 4 0x102 ++ zs 260 ++ toLE 4 0x80000000 ++ zs 60)
theorem test_ucode_version : ((after (.ucodeLoad ucode102) up).patch 0).version = 0x102 := by decide +kernel

/-- Reset reads: network time 0, the tick's uptime 4 ns (R430). -/
theorem test_tick : up.netNs = 0 ∧ up.tick.netNs = 4 ∧ up.tick.upNs = up.upNs + 4 := by decide +kernel

/-! ## Hypotheses of the completion and refusal statements, command by command -/

theorem test_mbxDoorbell2 : When.mbxDoorbell 6 up := by
  unfold When.mbxDoorbell; (try dsimp only) <;> decide +kernel

theorem test_mbxDoorbell3 : When.mbxDoorbell2 7 up := by
  unfold When.mbxDoorbell2; (try dsimp only) <;> decide +kernel

theorem test_responseAck : When.responseAck 0 up := by
  unfold When.responseAck; (try dsimp only) <;> decide +kernel

theorem test_responseAck_idle : ¬ When.responseAck 0 inDormant := by
  unfold When.responseAck; (try dsimp only) <;> decide +kernel

theorem test_notifyBatchForm : When.notifyBatchForm { up with hatch := { up.hatch with queue := [zs 16] } } := by
  unfold When.notifyBatchForm; (try dsimp only) <;> decide +kernel

theorem test_notifyBatchForm_idle : ¬ When.notifyBatchForm up := by
  unfold When.notifyBatchForm; (try dsimp only) <;> decide +kernel

theorem test_notifyBatchAck : When.notifyBatchAck 0 up := by
  unfold When.notifyBatchAck; (try dsimp only) <;> decide +kernel

theorem test_notifyBatchAck_idle : ¬ When.notifyBatchAck 4 up := by
  unfold When.notifyBatchAck; (try dsimp only) <;> decide +kernel

theorem test_chainNop : When.chainNop 15 up := by
  unfold When.chainNop; (try dsimp only) <;> decide +kernel

theorem test_chainNop_idle : ¬ When.chainNop 1 up := by
  unfold When.chainNop; (try dsimp only) <;> decide +kernel

theorem test_chainBurstTransfer : When.chainBurstTransfer 1 false up := by
  unfold When.chainBurstTransfer; (try dsimp only) <;> decide +kernel

theorem test_chainBurstTransfer_idle : ¬ When.chainBurstTransfer 0 false up := by
  unfold When.chainBurstTransfer; (try dsimp only) <;> decide +kernel

theorem test_responseResendTimer : When.responseResendTimer { netSt with outbox := { shown := some ([], 0), sends := 2 } } := by
  unfold When.responseResendTimer; (try dsimp only) <;> decide +kernel

theorem test_responseResendTimer2 : When.responseResendTimer2 3 (up.setMbx 3 { entries := [formed1], sends := 2 }) := by
  unfold When.responseResendTimer2; (try dsimp only) <;> decide +kernel

theorem test_ethLinkUp : When.ethLinkUp 1 (up.setPort 1 { enable := true }) := by
  unfold When.ethLinkUp; (try dsimp only) <;> decide +kernel

theorem test_ethLinkUp_idle : ¬ When.ethLinkUp 1 up := by
  unfold When.ethLinkUp; (try dsimp only) <;> decide +kernel

theorem test_ethLinkLoss : When.ethLinkLoss 1 netSt := by
  unfold When.ethLinkLoss; (try dsimp only) <;> decide +kernel

theorem test_ethLinkLoss_idle : ¬ When.ethLinkLoss 1 up := by
  unfold When.ethLinkLoss; (try dsimp only) <;> decide +kernel

theorem test_ptpSync : When.ptpSync 1 ptpSt := by
  unfold When.ptpSync; (try dsimp only) <;> decide +kernel

theorem test_ptpSync_idle : ¬ When.ptpSync 1 up := by
  unfold When.ptpSync; (try dsimp only) <;> decide +kernel

theorem test_syncTimeout : When.syncTimeout { ptpSt with time := { ptpSt.time with synced := true } } := by
  unfold When.syncTimeout; (try dsimp only) <;> decide +kernel

theorem test_syncTimeout_idle : ¬ When.syncTimeout up := by
  unfold When.syncTimeout; (try dsimp only) <;> decide +kernel

theorem test_tcmpFire : When.tcmpFire 15 (up.setTcmp 15 { armed := true }) := by
  unfold When.tcmpFire; (try dsimp only) <;> decide +kernel

theorem test_tcmpFire_idle : ¬ When.tcmpFire 15 up := by
  unfold When.tcmpFire; (try dsimp only) <;> decide +kernel

theorem test_exportDatagramSend : When.exportDatagramSend expSt := by
  unfold When.exportDatagramSend; (try dsimp only) <;> decide +kernel

theorem test_exportDatagramSend_idle : ¬ When.exportDatagramSend up := by
  unfold When.exportDatagramSend; (try dsimp only) <;> decide +kernel

theorem test_exportAck : When.exportAck expSt := by
  unfold When.exportAck; (try dsimp only) <;> decide +kernel

theorem test_exportAck_idle : ¬ When.exportAck up := by
  unfold When.exportAck; (try dsimp only) <;> decide +kernel

theorem test_exportRto : When.exportRto 7 dg7 expSt := by
  unfold When.exportRto; (try dsimp only) <;> decide +kernel

theorem test_exportRto2 : When.exportRto2 7 { dg7 with sends := 3 } { expSt with exporter := { expSt.exporter with held := [{ dg7 with sends := 3 }] } } := by
  unfold When.exportRto2; (try dsimp only) <;> decide +kernel

theorem test_trigInEdge : When.trigInEdge .low up := by
  unfold When.trigInEdge; (try dsimp only) <;> decide +kernel

theorem test_trigInEdge_idle : (¬ When.trigInEdge .mid up) ∧ (¬ When.trigInEdge2 .mid up) := by
  refine ⟨?_, ?_⟩
  · unfold When.trigInEdge; (try dsimp only) <;> decide +kernel
  · unfold When.trigInEdge2; (try dsimp only) <;> decide +kernel

theorem test_trigInEdge2 : When.trigInEdge2 .high up := by
  unfold When.trigInEdge2; (try dsimp only) <;> decide +kernel

theorem test_relayPulse : When.relayPulse 15 (up.setHatch { up.hatch with relays := [(15, { pending := true })] }) := by
  unfold When.relayPulse; (try dsimp only) <;> decide +kernel

theorem test_relayPulse_idle : ¬ When.relayPulse 15 up := by
  unfold When.relayPulse; (try dsimp only) <;> decide +kernel

theorem test_stormLimit : When.stormLimit 0 0 (up.setLine 0 { recent := List.replicate 257 0 }) := by
  unfold When.stormLimit; (try dsimp only) <;> decide +kernel

theorem test_ringDetect : When.ringDetect 0 0 (up.setLine 0 { clk := false }) := by
  unfold When.ringDetect; (try dsimp only) <;> decide +kernel

theorem test_notifyCoalesceEnd : When.notifyCoalesceEnd 0 0 (up.setLine 0 { busyUs := true }) := by
  unfold When.notifyCoalesceEnd; (try dsimp only) <;> decide +kernel

theorem test_evqLostPost : When.evqLostPost (up.setHatch { up.hatch with evqLost := 1, queue := List.replicate 511 [] }) := by
  unfold When.evqLostPost; (try dsimp only) <;> decide +kernel

theorem test_evqLostPost_idle : ¬ When.evqLostPost up := by
  unfold When.evqLostPost; (try dsimp only) <;> decide +kernel

theorem test_comparatorChange : When.comparatorChange (.pin 63 15 5000000) up := by
  unfold When.comparatorChange; (try dsimp only) <;> decide +kernel

theorem test_comparatorChange_idle : ¬ When.comparatorChange (.pin 63 15 5000000) inDormant := by
  unfold When.comparatorChange; (try dsimp only) <;> decide +kernel

theorem test_modeChangeHoldEnd : When.modeChangeHoldEnd (.pin 63 15 5000000) (up.setPin 63 15 { modeHold := true }) := by
  unfold When.modeChangeHoldEnd; (try dsimp only) <;> decide +kernel

theorem test_modeChangeHoldEnd_idle : ¬ When.modeChangeHoldEnd (.pin 63 15 5000000) up := by
  unfold When.modeChangeHoldEnd; (try dsimp only) <;> decide +kernel

theorem test_sentinelDwellEnd : When.sentinelDwellEnd 63 1 (up.setSent 63 1 { cfg := 1, timing := true }) := by
  unfold When.sentinelDwellEnd; (try dsimp only) <;> decide +kernel

theorem test_sentinelDwellEnd_idle : ¬ When.sentinelDwellEnd 63 1 up := by
  unfold When.sentinelDwellEnd; (try dsimp only) <;> decide +kernel

theorem test_driverOvercurrent : When.driverOvercurrent 63 15 (up.setPin 63 15 { drive := .low }) := by
  unfold When.driverOvercurrent; (try dsimp only) <;> decide +kernel

theorem test_driverOvercurrent_idle : ¬ When.driverOvercurrent 63 15 up := by
  unfold When.driverOvercurrent; (try dsimp only) <;> decide +kernel

theorem test_deglitchRelease : When.deglitchRelease 0 0 (up.setPin 0 0 { vih := { hold := true } }) := by
  unfold When.deglitchRelease; (try dsimp only) <;> decide +kernel

theorem test_deglitchRelease_idle : ¬ When.deglitchRelease 0 0 up := by
  unfold When.deglitchRelease; (try dsimp only) <;> decide +kernel

theorem test_levelOrderedLatch : When.levelOrderedLatch 0 0 (up.setPin 0 0 { vih := { next := some 0 } }) := by
  unfold When.levelOrderedLatch; (try dsimp only) <;> decide +kernel

theorem test_levelOrderedLatch_idle : ¬ When.levelOrderedLatch 0 0 up := by
  unfold When.levelOrderedLatch; (try dsimp only) <;> decide +kernel

theorem test_dacSettled : When.dacSettled 0 (heldBy { kind := .dacSettle } 0) { kind := .dacSettle } (waitingIn up { kind := .dacSettle } 0) := by
  unfold When.dacSettled; (try dsimp only) <;> decide +kernel

theorem test_clearNAssert : When.clearNAssert 60 up := by
  unfold When.clearNAssert; (try dsimp only) <;> decide +kernel

theorem test_clearNAssert_idle : ¬ When.clearNAssert 60 { up with clearLow := true } := by
  unfold When.clearNAssert; (try dsimp only) <;> decide +kernel

theorem test_complianceSwitch : When.complianceSwitch 0 0 (up.setSmu 0 0 { cfg := smuCurrent, parked := false }) := by
  unfold When.complianceSwitch; (try dsimp only) <;> decide +kernel

theorem test_complianceSwitch_idle : ¬ When.complianceSwitch 0 0 up := by
  unfold When.complianceSwitch; (try dsimp only) <;> decide +kernel

theorem test_openLoopDetect : When.openLoopDetect 0 0 (up.setSmu 0 0 { cfg := smuOn2, parked := false }) := by
  unfold When.openLoopDetect; (try dsimp only) <;> decide +kernel

theorem test_openLoopDetect_idle : ¬ When.openLoopDetect 0 0 up := by
  unfold When.openLoopDetect; (try dsimp only) <;> decide +kernel

theorem test_rangeStepEnd : When.rangeStepEnd 0 0 { old := 0, new := 1 } (up.setSmu 0 0 { run := some { old := 0, new := 1 } }) := by
  unfold When.rangeStepEnd; (try dsimp only) <;> decide +kernel

theorem test_smuMeasureTrigger : When.smuMeasureTrigger 0 (heldBy { kind := .measure } 0x1000) { kind := .measure } (waitingIn up { kind := .measure } 0x1000) := by
  unfold When.smuMeasureTrigger; (try dsimp only) <;> decide +kernel

theorem test_smuConversion : When.smuConversion 0 0 meas1 (up.setSmu 0 0 { meas := some meas1 }) := by
  unfold When.smuConversion; (try dsimp only) <;> decide +kernel

theorem test_smuMeasureComplete : When.smuMeasureComplete 0 (heldBy { kind := .measure } 0x1000) { kind := .measure } {} (waitingIn up { kind := .measure } 0x1000) := by
  unfold When.smuMeasureComplete; (try dsimp only) <;> decide +kernel

theorem test_strokeStartTrigger : When.strokeStartTrigger (.gather 0) 2 15 ((onSeq fun x => { x with st := .running, start := some (2, 15) }).setTcmp 15 { fires := 1 }) := by
  unfold When.strokeStartTrigger; (try dsimp only) <;> decide +kernel

theorem test_checkpointEntryFree : When.checkpointEntryFree 0 (up.setSite 0 { queue := [{}] }) := by
  unfold When.checkpointEntryFree; (try dsimp only) <;> decide +kernel

theorem test_checkpointEntryFree_idle : ¬ When.checkpointEntryFree 0 up := by
  unfold When.checkpointEntryFree; (try dsimp only) <;> decide +kernel

theorem test_resolutionComplete : When.resolutionComplete (.gather 0) cont1 (onSeq fun x => { x with cont := some cont1 }) := by
  unfold When.resolutionComplete; (try dsimp only) <;> decide +kernel

theorem test_etchBeginMarkerDurable : When.etchBeginMarkerDurable 0 etch1 (onPlay fun y => { y with etches := [etch1] }) := by
  unfold When.etchBeginMarkerDurable; (try dsimp only) <;> decide +kernel

theorem test_etchEndMarkerWrite : When.etchEndMarkerWrite 0 { stroke := 0, last := 0, cseq := 0 } [] (onPlay fun y => { y with etchEnds := [{ stroke := 0, last := 0, cseq := 0 }] }) := by
  unfold When.etchEndMarkerWrite; (try dsimp only) <;> decide +kernel

theorem test_stallResume : When.stallResume (.gather 0) ((onSeq fun x => { x with st := .held, why := some .stall }).modPlay 0 fun y => { y with fill := 1 }) := by
  unfold When.stallResume; (try dsimp only) <;> decide +kernel

theorem test_stallResume_idle : ¬ When.stallResume (.gather 0) up := by
  unfold When.stallResume; (try dsimp only) <;> decide +kernel

theorem test_stallLimitExpiry : When.stallLimitExpiry (.gather 0) (onSeq fun x => { x with st := .held, why := some .stall }) := by
  unfold When.stallLimitExpiry; (try dsimp only) <;> decide +kernel

theorem test_stallLimitExpiry_idle : ¬ When.stallLimitExpiry (.gather 0) up := by
  unfold When.stallLimitExpiry; (try dsimp only) <;> decide +kernel

theorem test_haltHoldExpiry : When.haltHoldExpiry 0 ((onSeq fun x => { x with st := .halted }).modPlay 0 fun y => { y with holding := true }) := by
  unfold When.haltHoldExpiry; (try dsimp only) <;> decide +kernel

theorem test_haltHoldExpiry_idle : ¬ When.haltHoldExpiry 0 up := by
  unfold When.haltHoldExpiry; (try dsimp only) <;> decide +kernel

theorem test_bcastPrimeComplete : When.bcastPrimeComplete 3 (up.setProg 3 { priming := true }) := by
  unfold When.bcastPrimeComplete; (try dsimp only) <;> decide +kernel

theorem test_bcastPrimeComplete_idle : ¬ When.bcastPrimeComplete 3 up := by
  unfold When.bcastPrimeComplete; (try dsimp only) <;> decide +kernel

theorem test_ampTrigger : When.ampTrigger ampUp := by
  unfold When.ampTrigger; (try dsimp only) <;> decide +kernel

theorem test_ampTrigger_idle : ¬ When.ampTrigger up := by
  unfold When.ampTrigger; (try dsimp only) <;> decide +kernel

theorem test_ampTriggerTimeout : When.ampTriggerTimeout 0 0 creq [] (heldBy conv0 0x3000) conv0 convSt := by
  unfold When.ampTriggerTimeout; (try dsimp only) <;> decide +kernel

theorem test_ampConversionEnd : When.ampConversionEnd 0 0 (-1) {} creq [] runSt := by
  unfold When.ampConversionEnd; (try dsimp only) <;> decide +kernel

theorem test_claimGrant : When.claimGrant 0 0 1 0 0 (heldBy { kind := .ampClaim } 0x3000) { kind := .ampClaim } ((waitingIn ampUp { kind := .ampClaim } 0x3000).setChan 0 0 { asks := some (1, 0, 0) }) := by
  unfold When.claimGrant; (try dsimp only) <;> decide +kernel

theorem test_spanPhaseEnd : When.spanPhaseEnd 0 { kind := .go, phase := 4 } (ampUp.setBridge 0 { span := some { kind := .go, phase := 4 } }) := by
  unfold When.spanPhaseEnd; (try dsimp only) <;> decide +kernel

theorem test_excOutOfRange : When.excOutOfRange 0 (ampUp.setBridge 0 { mode := 1 }) := by
  unfold When.excOutOfRange; (try dsimp only) <;> decide +kernel

theorem test_excOutOfRange_idle : ¬ When.excOutOfRange 0 up := by
  unfold When.excOutOfRange; (try dsimp only) <;> decide +kernel

theorem test_modclkLockLoss : When.modclkLockLoss ampUp := by
  unfold When.modclkLockLoss; (try dsimp only) <;> decide +kernel

theorem test_modclkLockLoss_idle : ¬ When.modclkLockLoss up := by
  unfold When.modclkLockLoss; (try dsimp only) <;> decide +kernel

theorem test_modclkLockReturn : When.modclkLockReturn { ampUp with amp := { ampUp.amp with pllLost := true } } := by
  unfold When.modclkLockReturn; (try dsimp only) <;> decide +kernel

theorem test_modclkLockReturn_idle : ¬ When.modclkLockReturn up := by
  unfold When.modclkLockReturn; (try dsimp only) <;> decide +kernel

theorem test_ampouleStart : When.ampouleStart up := by
  unfold When.ampouleStart; (try dsimp only) <;> decide +kernel

theorem test_ampouleStart_idle : ¬ When.ampouleStart ampUp := by
  unfold When.ampouleStart; (try dsimp only) <;> decide +kernel

theorem test_refpCheckDue : When.refpCheckDue 0 0 ampUp := by
  unfold When.refpCheckDue; (try dsimp only) <;> decide +kernel

theorem test_refpCheckDue_idle : ¬ When.refpCheckDue 0 0 up := by
  unfold When.refpCheckDue; (try dsimp only) <;> decide +kernel

theorem test_refpCheckEnd : When.refpCheckEnd 0 0 (ampUp.setChan 0 0 { refRun := true }) := by
  unfold When.refpCheckEnd; (try dsimp only) <;> decide +kernel

theorem test_refpCheckEnd_idle : ¬ When.refpCheckEnd 0 0 up := by
  unfold When.refpCheckEnd; (try dsimp only) <;> decide +kernel

theorem test_selfTraffic : When.selfTraffic 0 0 1 ampUp := by
  unfold When.selfTraffic; (try dsimp only) <;> decide +kernel

theorem test_selfTraffic_idle : ¬ When.selfTraffic 0 0 1 up := by
  unfold When.selfTraffic; (try dsimp only) <;> decide +kernel

theorem test_codeDensityDue : When.codeDensityDue 0 ampUp := by
  unfold When.codeDensityDue; (try dsimp only) <;> decide +kernel

theorem test_codeDensityDue_idle : ¬ When.codeDensityDue 0 up := by
  unfold When.codeDensityDue; (try dsimp only) <;> decide +kernel

theorem test_codeDensityEnd : When.codeDensityEnd 0 (ampUp.setBridge 0 { density := true }) := by
  unfold When.codeDensityEnd; (try dsimp only) <;> decide +kernel

theorem test_codeDensityEnd_idle : ¬ When.codeDensityEnd 0 up := by
  unfold When.codeDensityEnd; (try dsimp only) <;> decide +kernel

theorem test_calBlockStale : When.calBlockStale 0 0 3 true up := by
  unfold When.calBlockStale; (try dsimp only) <;> decide +kernel

theorem test_calBlockStale_idle : ¬ When.calBlockStale 0 0 3 true State.reset := by
  unfold When.calBlockStale; (try dsimp only) <;> decide +kernel

theorem test_compensationUpdate : When.compensationUpdate 0 0 up := by
  unfold When.compensationUpdate; (try dsimp only) <;> decide +kernel

theorem test_compensationUpdate_idle : ¬ When.compensationUpdate 0 0 (up.setChan 0 0 { run := some {} }) := by
  unfold When.compensationUpdate; (try dsimp only) <;> decide +kernel

theorem test_adjustmentGatherDone : When.adjustmentGatherDone 63 (ampUp.setAmp { ampUp.amp with adjusting := true, candidate := [(0, {})] }) := by
  unfold When.adjustmentGatherDone; (try dsimp only) <;> decide +kernel

theorem test_adjustmentGatherDone_idle : ¬ When.adjustmentGatherDone 63 up := by
  unfold When.adjustmentGatherDone; (try dsimp only) <;> decide +kernel

theorem test_signingIndexReserved : When.signingIndexReserved closed1 ampClosing := by
  unfold When.signingIndexReserved; (try dsimp only) <;> decide +kernel

theorem test_sheetSealed : When.sheetSealed indexed1 ampIndexed := by
  unfold When.sheetSealed; (try dsimp only) <;> decide +kernel

theorem test_level1TreeDone : When.level1TreeDone (ampUp.setAmp { ampUp.amp with treeBusy := true }) := by
  unfold When.level1TreeDone; (try dsimp only) <;> decide +kernel

theorem test_level1TreeDone_idle : ¬ When.level1TreeDone up := by
  unfold When.level1TreeDone; (try dsimp only) <;> decide +kernel

theorem test_tiuGate : When.tiuGate 0 0 true ((up.setTiu 0 0 { st := .waitGate, meas := some tmeas1 }).setLine (gateKey 0 0) { level := true }) := by
  unfold When.tiuGate; (try dsimp only) <;> decide +kernel

theorem test_tiuGate_idle : (¬ When.tiuGate 0 0 true up) ∧ (¬ When.tiuGate2 0 0 true up) := by
  refine ⟨?_, ?_⟩
  · unfold When.tiuGate; (try dsimp only) <;> decide +kernel
  · unfold When.tiuGate2; (try dsimp only) <;> decide +kernel

theorem test_tiuGate2 : When.tiuGate2 0 0 false (up.setTiu 0 0 { st := .armed }) := by
  unfold When.tiuGate2; (try dsimp only) <;> decide +kernel

theorem test_tiuGateTimeout : When.tiuGateTimeout 0 0 (up.setTiu 0 0 { st := .waitGate, meas := some tmeas1 }) := by
  unfold When.tiuGateTimeout; (try dsimp only) <;> decide +kernel

theorem test_tiuGateTimeout_idle : ¬ When.tiuGateTimeout 0 0 up := by
  unfold When.tiuGateTimeout; (try dsimp only) <;> decide +kernel

theorem test_tiuWindowEnd : When.tiuWindowEnd 0 0 (up.setTiu 0 0 { st := .armed, meas := some tmeas1 }) := by
  unfold When.tiuWindowEnd; (try dsimp only) <;> decide +kernel

theorem test_tiuWindowEnd_idle : ¬ When.tiuWindowEnd 0 0 up := by
  unfold When.tiuWindowEnd; (try dsimp only) <;> decide +kernel

theorem test_tiuEdgeStamp : When.tiuEdgeStamp 0 0 false 0 true true tmeasDead (up.setTiu 0 0 { st := .armed, meas := some tmeasDead }) := by
  unfold When.tiuEdgeStamp; (try dsimp only) <;> decide +kernel

theorem test_tiuEdgeStamp2 : When.tiuEdgeStamp2 0 0 false 0 true true tmeas1 (up.setTiu 0 0 { st := .armed, meas := some tmeas1 }) := by
  unfold When.tiuEdgeStamp2; (try dsimp only) <;> decide +kernel

theorem test_tiuServiceOverflow : When.tiuServiceOverflow 0 0 servedLong := by
  unfold When.tiuServiceOverflow; (try dsimp only) <;> decide +kernel

theorem test_tiuServiceOverflow_idle : ¬ When.tiuServiceOverflow 0 0 up := by
  unfold When.tiuServiceOverflow; (try dsimp only) <;> decide +kernel

theorem test_trefReturn : When.trefReturn up := by
  unfold When.trefReturn; (try dsimp only) <;> decide +kernel

theorem test_trefReturn_idle : ¬ When.trefReturn { up with tref := { up.tref with present := true } } := by
  unfold When.trefReturn; (try dsimp only) <;> decide +kernel

theorem test_tuclkWrap : When.tuclkWrap longUp := by
  unfold When.tuclkWrap; (try dsimp only) <;> decide +kernel

theorem test_tuclkWrap_idle : ¬ When.tuclkWrap State.reset := by
  unfold When.tuclkWrap; (try dsimp only) <;> decide +kernel

theorem test_capTrigger : When.capTrigger 0 0 (.level (-10) 10 4000) 100 (interpolate 100 (-10) 10 0).toNat (up.setDig 0 0 { trig := digLevelTrig, st := .armed }) := by
  unfold When.capTrigger; (try dsimp only) <;> decide +kernel

theorem test_capTrigger_idle : (∀ time : Nat, ¬ When.capTrigger 0 0 .line 0 time up) := by
  intro time h; unfold When.capTrigger at h; rw [show up.fireTime (0 : GIx) (0 : Two) .line 0 = none by decide +kernel] at h; exact absurd h.1 (by simp)

theorem test_capArbitrationEnd : When.capArbitrationEnd 0 0 armSeen { time := 5, kind := 1, by_ := 0, net := 0 } (up.setDig 0 0 { st := .armed, arm := some armSeen }) := by
  unfold When.capArbitrationEnd; (try dsimp only) <;> decide +kernel

theorem test_capItemWrite : When.capItemWrite 0 0 armFull (up.setDig 0 0 { parked := false, st := .armed, arm := some armFull }) := by
  unfold When.capItemWrite; (try dsimp only) <;> decide +kernel

theorem test_capItemWrite_idle : (∀ a : CapArm, ¬ When.capItemWrite 0 0 a up) ∧ (∀ a : CapArm, ¬ When.capItemWrite2 0 0 [1] a up) ∧ (¬ When.capItemWrite3 0 0 up) := by
  refine ⟨?_, ?_, ?_⟩
  · intro a h; unfold When.capItemWrite at h; exact absurd h.1 (by decide +kernel)
  · intro a h; unfold When.capItemWrite2 at h; exact absurd h.1 (by decide +kernel)
  · unfold When.capItemWrite3; (try dsimp only) <;> decide +kernel

theorem test_capItemWrite2 : When.capItemWrite2 0 0 [1] arm1 (up.setDig 0 0 { parked := false, st := .armed, arm := some arm1 }) := by
  unfold When.capItemWrite2; (try dsimp only) <;> decide +kernel

theorem test_capItemWrite3 : When.capItemWrite3 0 0 digOn := by
  unfold When.capItemWrite3; (try dsimp only) <;> decide +kernel

theorem test_capRecordEnd : When.capRecordEnd 0 0 armFull (up.setDig 0 0 { st := .capturing, arm := some armFull }) := by
  unfold When.capRecordEnd; (try dsimp only) <;> decide +kernel

theorem test_capHoldoffEnd : When.capHoldoffEnd 0 0 (up.setDig 0 0 { st := .holdoff, arm := some arm1 }) := by
  unfold When.capHoldoffEnd; (try dsimp only) <;> decide +kernel

theorem test_capHoldoffEnd_idle : ¬ When.capHoldoffEnd 0 0 up := by
  unfold When.capHoldoffEnd; (try dsimp only) <;> decide +kernel

theorem test_capConverterReady : When.capConverterReady 0 0 (up.setDig 0 0 { warming := true }) := by
  unfold When.capConverterReady; (try dsimp only) <;> decide +kernel

theorem test_capConverterReady_idle : ¬ When.capConverterReady 0 0 up := by
  unfold When.capConverterReady; (try dsimp only) <;> decide +kernel

theorem test_tempRead : When.tempRead [2500, 2500, 2500, 2500] up := by
  unfold When.tempRead; (try dsimp only) <;> decide +kernel

theorem test_tempRead_idle : ¬ When.tempRead [] up := by
  unfold When.tempRead; (try dsimp only) <;> decide +kernel

theorem test_tjCrit : When.tjCrit 16501 up := by
  unfold When.tjCrit; (try dsimp only) <;> decide +kernel

theorem test_tjCrit_idle : ¬ When.tjCrit 16500 up := by
  unfold When.tjCrit; (try dsimp only) <;> decide +kernel

theorem test_calStepStart : When.calStepStart 0 (.tiu 0) calDue := by
  unfold When.calStepStart; (try dsimp only) <;> decide +kernel

theorem test_calStepStart_idle : ¬ When.calStepStart 0 (.tiu 0) up := by
  unfold When.calStepStart; (try dsimp only) <;> decide +kernel

theorem test_calStepEnd : When.calStepEnd 0 (.ball 15) 79 0 (up.setCalG 0 { running := [(79, 0)] }) := by
  unfold When.calStepEnd; (try dsimp only) <;> decide +kernel

theorem test_calStepEnd_idle : (∀ k : Nat, ∀ since : Nat, ¬ When.calStepEnd 0 (.ball 15) k since up) := by
  intro k since h; unfold When.calStepEnd at h; exact absurd h.1 (by rw [show List.find? (fun x => x.1 == elNum (.ball 15)) (up.calG (0 : GIx)).running = none by decide +kernel]; simp)

theorem test_calwinIsolationClose : When.calwinIsolationClose 0 (up.setPin 0 0 { iso := true }) := by
  unfold When.calwinIsolationClose; (try dsimp only) <;> decide +kernel

theorem test_calwinIsolationClose_idle : ¬ When.calwinIsolationClose 0 up := by
  unfold When.calwinIsolationClose; (try dsimp only) <;> decide +kernel

theorem test_calOverdueTimer : When.calOverdueTimer 3 (up.setCalTile 3 { due := true }) := by
  unfold When.calOverdueTimer; (try dsimp only) <;> decide +kernel

theorem test_calOverdueTimer_idle : ¬ When.calOverdueTimer 3 up := by
  unfold When.calOverdueTimer; (try dsimp only) <;> decide +kernel

theorem test_calStoreDataDone : When.calStoreDataDone { up with cal := { up.cal with storing := 1 } } := by
  unfold When.calStoreDataDone; (try dsimp only) <;> decide +kernel

theorem test_calStoreDataDone_idle : ¬ When.calStoreDataDone up := by
  unfold When.calStoreDataDone; (try dsimp only) <;> decide +kernel

theorem test_faultOccurrence : When.faultOccurrence 0xA001 0x8000 up := by
  unfold When.faultOccurrence; (try dsimp only) <;> decide +kernel

theorem test_faultOccurrence_idle : ¬ When.faultOccurrence 0 0x8000 up := by
  unfold When.faultOccurrence; (try dsimp only) <;> decide +kernel

theorem test_safeReleaseCheck : When.safeReleaseCheck up := by
  unfold When.safeReleaseCheck; (try dsimp only) <;> decide +kernel

theorem test_safeReleaseCheck_idle : ¬ When.safeReleaseCheck { up with power := { up.power with parked := true } } := by
  unfold When.safeReleaseCheck; (try dsimp only) <;> decide +kernel

theorem test_replayStart : When.replayStart 0 (ckpt1 2) (replaySt 2) := by
  unfold When.replayStart; (try dsimp only) <;> decide +kernel

theorem test_replayStart2 : When.replayStart2 0 (ckpt1 0) (replaySt 0) := by
  unfold When.replayStart2; (try dsimp only) <;> decide +kernel

theorem test_replayStart3 : When.replayStart3 0 (up.modG 0 fun G => { G with safe := { G.safe with replayDue := true } }) := by
  unfold When.replayStart3; (try dsimp only) <;> decide +kernel

theorem test_replayStart4 : When.replayStart4 63 up := by
  unfold When.replayStart4; (try dsimp only) <;> decide +kernel

theorem test_watchdogExpiry : When.watchdogExpiry up := by
  unfold When.watchdogExpiry; (try dsimp only) <;> decide +kernel

theorem test_watchdogExpiry_idle : ¬ When.watchdogExpiry State.reset := by
  unfold When.watchdogExpiry; (try dsimp only) <;> decide +kernel

theorem test_peRailArm : When.peRailArm up := by
  unfold When.peRailArm; (try dsimp only) <;> decide +kernel

theorem test_peRailArm_idle : ¬ When.peRailArm { up with power := { up.power with vphUv := 0 } } := by
  unfold When.peRailArm; (try dsimp only) <;> decide +kernel

theorem test_linkPaired : When.linkPaired false (up.setTwin { up.twin with link := true }) := by
  unfold When.linkPaired; (try dsimp only) <;> decide +kernel

theorem test_linkPaired_idle : (¬ When.linkPaired false up) ∧ (¬ When.linkPaired2 false true up) := by
  refine ⟨?_, ?_⟩
  · unfold When.linkPaired; (try dsimp only) <;> decide +kernel
  · unfold When.linkPaired2; (try dsimp only) <;> decide +kernel

theorem test_linkPaired2 : When.linkPaired2 true true (up.setTwin { up.twin with link := true }) := by
  unfold When.linkPaired2; (try dsimp only) <;> decide +kernel

theorem test_twinAbsentTimeout : When.twinAbsentTimeout up := by
  unfold When.twinAbsentTimeout; (try dsimp only) <;> decide +kernel

theorem test_twinAbsentTimeout_idle : ¬ When.twinAbsentTimeout doubleSt := by
  unfold When.twinAbsentTimeout; (try dsimp only) <;> decide +kernel

theorem test_heartbeatSend : When.heartbeatSend doubleSt := by
  unfold When.heartbeatSend; (try dsimp only) <;> decide +kernel

theorem test_heartbeatSend_idle : ¬ When.heartbeatSend up := by
  unfold When.heartbeatSend; (try dsimp only) <;> decide +kernel

theorem test_heartbeatTimeout : When.heartbeatTimeout up := by
  unfold When.heartbeatTimeout; (try dsimp only) <;> decide +kernel

theorem test_heartbeatTimeout_idle : ¬ When.heartbeatTimeout (up.setTwin { up.twin with dormantTold := true }) := by
  unfold When.heartbeatTimeout; (try dsimp only) <;> decide +kernel

theorem test_mirrorAckTimeout : When.mirrorAckTimeout (up.setTwin { up.twin with unacked := [(1, 0, .dormant)] }) := by
  unfold When.mirrorAckTimeout; (try dsimp only) <;> decide +kernel

theorem test_mirrorAckTimeout_idle : ¬ When.mirrorAckTimeout up := by
  unfold When.mirrorAckTimeout; (try dsimp only) <;> decide +kernel

theorem test_linkLoss : When.linkLoss (up.setTwin { up.twin with link := true }) := by
  unfold When.linkLoss; (try dsimp only) <;> decide +kernel

theorem test_linkLoss_idle : ¬ When.linkLoss up := by
  unfold When.linkLoss; (try dsimp only) <;> decide +kernel

theorem test_mirrorEntryAck : When.mirrorEntryAck (up.setTwin { up.twin with link := true }) := by
  unfold When.mirrorEntryAck; (try dsimp only) <;> decide +kernel

theorem test_mirrorEntryAck_idle : ¬ When.mirrorEntryAck up := by
  unfold When.mirrorEntryAck; (try dsimp only) <;> decide +kernel

theorem test_twinLinkFrame : When.twinLinkFrame (up.setTwin { up.twin with link := true }) := by
  unfold When.twinLinkFrame; (try dsimp only) <;> decide +kernel

theorem test_twinLinkFrame_idle : ¬ When.twinLinkFrame up := by
  unfold When.twinLinkFrame; (try dsimp only) <;> decide +kernel

theorem test_dormantFrame : When.dormantFrame (up.setTwin { up.twin with st := 2 }) := by
  unfold When.dormantFrame; (try dsimp only) <;> decide +kernel

theorem test_dormantFrame_idle : ¬ When.dormantFrame up := by
  unfold When.dormantFrame; (try dsimp only) <;> decide +kernel

theorem test_wakeLinkTimeout : When.wakeLinkTimeout (up.setTwin { up.twin with waking := true }) := by
  unfold When.wakeLinkTimeout; (try dsimp only) <;> decide +kernel

theorem test_wakeLinkTimeout_idle : ¬ When.wakeLinkTimeout up := by
  unfold When.wakeLinkTimeout; (try dsimp only) <;> decide +kernel

theorem test_hosOwnerWaitExpiry : When.hosOwnerWaitExpiry up := by
  unfold When.hosOwnerWaitExpiry; (try dsimp only) <;> decide +kernel

theorem test_hosOwnerWaitExpiry_idle : ¬ When.hosOwnerWaitExpiry State.reset := by
  unfold When.hosOwnerWaitExpiry; (try dsimp only) <;> decide +kernel

theorem test_hosSilenceExpiry : When.hosSilenceExpiry (up.setTwin { up.twin with watching := true }) := by
  unfold When.hosSilenceExpiry; (try dsimp only) <;> decide +kernel

theorem test_hosSilenceExpiry_idle : ¬ When.hosSilenceExpiry up := by
  unfold When.hosSilenceExpiry; (try dsimp only) <;> decide +kernel

theorem test_hosReadbackConflict : When.hosReadbackConflict (up.setTwin { up.twin with owner := true }) := by
  unfold When.hosReadbackConflict; (try dsimp only) <;> decide +kernel

theorem test_hosReadbackConflict_idle : ¬ When.hosReadbackConflict up := by
  unfold When.hosReadbackConflict; (try dsimp only) <;> decide +kernel

theorem test_hosRefresh : When.hosRefresh up := by
  unfold When.hosRefresh; (try dsimp only) <;> decide +kernel

theorem test_hosRefresh_idle : ¬ When.hosRefresh State.reset := by
  unfold When.hosRefresh; (try dsimp only) <;> decide +kernel

theorem test_hosBeacon : When.hosBeacon (up.setTwin { up.twin with owner := true }) := by
  unfold When.hosBeacon; (try dsimp only) <;> decide +kernel

theorem test_hosBeacon_idle : ¬ When.hosBeacon up := by
  unfold When.hosBeacon; (try dsimp only) <;> decide +kernel

theorem test_turnChange : When.turnChange (turnSt.setMbx 0 { entries := [heldBy { kind := .twinRelease } 0x8000] }) := by
  unfold When.turnChange; (try dsimp only) <;> decide +kernel

theorem test_turnChange_idle : (¬ When.turnChange up) ∧ (¬ When.turnChange2 up) := by
  refine ⟨?_, ?_⟩
  · unfold When.turnChange; (try dsimp only) <;> decide +kernel
  · unfold When.turnChange2; (try dsimp only) <;> decide +kernel

theorem test_turnChange2 : When.turnChange2 turnSt := by
  unfold When.turnChange2; (try dsimp only) <;> decide +kernel

theorem test_turnSwapDone : When.turnSwapDone (up.setTwin { up.twin with swapping := true }) := by
  unfold When.turnSwapDone; (try dsimp only) <;> decide +kernel

theorem test_turnSwapDone_idle : ¬ When.turnSwapDone up := by
  unfold When.turnSwapDone; (try dsimp only) <;> decide +kernel

theorem test_turnLimitExpiry : When.turnLimitExpiry (turnSt.modSeq 0 fun x => { x with st := .running }) := by
  unfold When.turnLimitExpiry; (try dsimp only) <;> decide +kernel

theorem test_turnLimitExpiry_idle : ¬ When.turnLimitExpiry up := by
  unfold When.turnLimitExpiry; (try dsimp only) <;> decide +kernel

theorem test_pfailAssert : When.pfailAssert up := by
  unfold When.pfailAssert; (try dsimp only) <;> decide +kernel

theorem test_pfailAssert_idle : ¬ When.pfailAssert { up with power := { up.power with pfail := true } } := by
  unfold When.pfailAssert; (try dsimp only) <;> decide +kernel

theorem test_pfailHighExpiry : When.pfailHighExpiry { up with power := { up.power with parked := true } } := by
  unfold When.pfailHighExpiry; (try dsimp only) <;> decide +kernel

theorem test_pfailHighExpiry_idle : ¬ When.pfailHighExpiry up := by
  unfold When.pfailHighExpiry; (try dsimp only) <;> decide +kernel

theorem test_resetTimer : When.resetTimer due1 parkedDue := by
  unfold When.resetTimer; (try dsimp only) <;> decide +kernel

theorem test_resetTimer_idle : (∀ d : Due, ¬ When.resetTimer d up) := by
  intro d h; unfold When.resetTimer at h; rw [show up.power.resetDue = [] from rfl] at h; cases h

theorem test_startup : When.startup State.reset := by
  unfold When.startup; (try dsimp only) <;> decide +kernel

theorem test_startup_idle : ¬ When.startup up := by
  unfold When.startup; (try dsimp only) <;> decide +kernel

theorem test_dormantEntryDone : When.dormantEntryDone { up with power := { up.power with entering := true } } := by
  unfold When.dormantEntryDone; (try dsimp only) <;> decide +kernel

theorem test_dormantEntryDone_idle : ¬ When.dormantEntryDone up := by
  unfold When.dormantEntryDone; (try dsimp only) <;> decide +kernel

theorem test_wakeNAssert : When.wakeNAssert inDormant := by
  unfold When.wakeNAssert; (try dsimp only) <;> decide +kernel

theorem test_wakeNAssert_idle : (¬ When.wakeNAssert up) ∧ (¬ When.wakeNAssert2 up) := by
  refine ⟨?_, ?_⟩
  · unfold When.wakeNAssert; (try dsimp only) <;> decide +kernel
  · unfold When.wakeNAssert2; (try dsimp only) <;> decide +kernel

theorem test_wakeNAssert2 : When.wakeNAssert2 { up with power := { up.power with entering := true } } := by
  unfold When.wakeNAssert2; (try dsimp only) <;> decide +kernel

theorem test_sysPing : State.ready up 0x0101 [8] (q 0x8000 []) = true := by decide +kernel

theorem test_sysInfo : State.ready up 0x0102 [8] (q 0x8000 []) = true ∧ When.sysInfo (State.begun up 0x0102 (q 0x8000 [])) (q 0x8000 []) := by
  refine ⟨by decide +kernel, ?_⟩; unfold When.sysInfo; (try dsimp only) <;> decide +kernel

theorem test_sysInfo_refused : State.ready up 0x0102 [8] (q 0x8000 ([0])) = true ∧ ¬ When.sysInfo (State.begun up 0x0102 (q 0x8000 ([0]))) (q 0x8000 ([0])) := by
  refine ⟨by decide +kernel, ?_⟩
  · unfold When.sysInfo; (try dsimp only) <;> decide +kernel

theorem test_sysMbxInfo : State.ready up 0x0103 [8] (q 0x8000 []) = true ∧ When.sysMbxInfo (State.begun up 0x0103 (q 0x8000 [])) (q 0x8000 []) := by
  refine ⟨by decide +kernel, ?_⟩; unfold When.sysMbxInfo; (try dsimp only) <;> decide +kernel

theorem test_sysMbxInfo_refused : State.ready up 0x0103 [8] (q 0x8000 ([0])) = true ∧ ¬ When.sysMbxInfo (State.begun up 0x0103 (q 0x8000 ([0]))) (q 0x8000 ([0])) := by
  refine ⟨by decide +kernel, ?_⟩
  · unfold When.sysMbxInfo; (try dsimp only) <;> decide +kernel

theorem test_sysFence : State.ready up 0x0104 [8] (q 0x8000 ([127, 0, 0, 0])) = true ∧ When.sysFence (State.begun up 0x0104 (q 0x8000 ([127, 0, 0, 0]))) (q 0x8000 ([127, 0, 0, 0])) := by
  refine ⟨by decide +kernel, ?_⟩; unfold When.sysFence; (try dsimp only) <;> decide +kernel

theorem test_sysFence_refused : State.ready up 0x0104 [8] (q 0x8000 ([0])) = true ∧ ¬ When.sysFence (State.begun up 0x0104 (q 0x8000 ([0]))) (q 0x8000 ([0])) := by
  refine ⟨by decide +kernel, ?_⟩
  · unfold When.sysFence; (try dsimp only) <;> decide +kernel

theorem test_sysReset : State.ready up 0x0105 [8] (q 0x8000 ([90, 165, 0, 0])) = true ∧ When.sysReset (State.begun up 0x0105 (q 0x8000 ([90, 165, 0, 0]))) (q 0x8000 ([90, 165, 0, 0])) := by
  refine ⟨by decide +kernel, ?_⟩; unfold When.sysReset; (try dsimp only) <;> decide +kernel

theorem test_sysReset_refused : State.ready up 0x0105 [8] (q 0x8000 ([0])) = true ∧ ¬ When.sysReset (State.begun up 0x0105 (q 0x8000 ([0]))) (q 0x8000 ([0])) := by
  refine ⟨by decide +kernel, ?_⟩
  · unfold When.sysReset; (try dsimp only) <;> decide +kernel

theorem test_sysPower : State.ready up 0x0106 [8] (q 0x8000 ([1, 0, 0, 0])) = true ∧ When.sysPower (State.begun up 0x0106 (q 0x8000 ([1, 0, 0, 0]))) (q 0x8000 ([1, 0, 0, 0])) := by
  refine ⟨by decide +kernel, ?_⟩; unfold When.sysPower; (try dsimp only) <;> decide +kernel

theorem test_sysPower2 : State.ready up 0x0106 [8] (q 0x8000 ([3, 0, 0, 0])) = true ∧ When.sysPower2 (State.begun up 0x0106 (q 0x8000 ([3, 0, 0, 0]))) (q 0x8000 ([3, 0, 0, 0])) := by
  refine ⟨by decide +kernel, ?_⟩; unfold When.sysPower2; (try dsimp only) <;> decide +kernel

theorem test_sysPower_refused : State.ready up 0x0106 [8] (q 0x8000 ([0])) = true ∧ (¬ When.sysPower (State.begun up 0x0106 (q 0x8000 ([0]))) (q 0x8000 ([0]))) ∧ (¬ When.sysPower2 (State.begun up 0x0106 (q 0x8000 ([0]))) (q 0x8000 ([0]))) := by
  refine ⟨by decide +kernel, ?_, ?_⟩
  · unfold When.sysPower; (try dsimp only) <;> decide +kernel
  · unfold When.sysPower2; (try dsimp only) <;> decide +kernel

theorem test_unitInfo : State.ready up 0x0201 [0, 1, 2, 3, 4, 5, 6, 7, 8, 9, 0xC] (q 0x603F []) = true ∧ When.unitInfo (State.begun up 0x0201 (q 0x603F [])) (q 0x603F []) := by
  refine ⟨by decide +kernel, ?_⟩; unfold When.unitInfo; (try dsimp only) <;> decide +kernel

theorem test_unitInfo_refused : State.ready up 0x0201 [0, 1, 2, 3, 4, 5, 6, 7, 8, 9, 0xC] (q 0x603F ([0])) = true ∧ ¬ When.unitInfo (State.begun up 0x0201 (q 0x603F ([0]))) (q 0x603F ([0])) := by
  refine ⟨by decide +kernel, ?_⟩
  · unfold When.unitInfo; (try dsimp only) <;> decide +kernel

theorem test_caneDefine : State.ready up 0x0202 [8] (q 0x8000 ([255, 192, 6, 0, 1] ++ zs 4 ++ [96])) = true ∧ When.caneDefine [0x6000] 1 (State.begun up 0x0202 (q 0x8000 ([255, 192, 6, 0, 1] ++ zs 4 ++ [96]))) (q 0x8000 ([255, 192, 6, 0, 1] ++ zs 4 ++ [96])) := by
  refine ⟨by decide +kernel, ?_⟩; unfold When.caneDefine; and_intros <;> first | decide +kernel | rfl

theorem test_caneDefine_refused : State.ready up 0x0202 [8] (q 0x8000 ([0])) = true ∧ (∀ hs : List Half, ∀ depth : Nat, ¬ When.caneDefine hs depth (State.begun up 0x0202 (q 0x8000 ([0]))) (q 0x8000 ([0]))) := by
  refine ⟨by decide +kernel, ?_⟩
  · intro hs depth h; unfold When.caneDefine at h; simp [q] at h

theorem test_caneDelete : State.ready caned 0x0203 [0, 1, 2, 3, 4, 5, 6, 7, 0xC] (q 0xC003 []) = true ∧ When.caneDelete (State.begun caned 0x0203 (q 0xC003 [])) (q 0xC003 []) := by
  refine ⟨by decide +kernel, ?_⟩; unfold When.caneDelete; (try dsimp only) <;> decide +kernel

theorem test_caneDelete_refused : State.ready caned 0x0203 [0, 1, 2, 3, 4, 5, 6, 7, 0xC] (q 0xC003 ([0])) = true ∧ ¬ When.caneDelete (State.begun caned 0x0203 (q 0xC003 ([0]))) (q 0xC003 ([0])) := by
  refine ⟨by decide +kernel, ?_⟩
  · unfold When.caneDelete; (try dsimp only) <;> decide +kernel

theorem test_caneQuery : State.ready caned 0x0204 [0, 1, 2, 3, 4, 5, 6, 7, 0xC] (q 0xC003 []) = true ∧ When.caneQuery cane3 (State.begun caned 0x0204 (q 0xC003 [])) (q 0xC003 []) := by
  refine ⟨by decide +kernel, ?_⟩; unfold When.caneQuery; (try dsimp only) <;> decide +kernel

theorem test_caneQuery_refused : State.ready caned 0x0204 [0, 1, 2, 3, 4, 5, 6, 7, 0xC] (q 0xC003 ([0])) = true ∧ (∀ c : Cane, ¬ When.caneQuery c (State.begun caned 0x0204 (q 0xC003 ([0]))) (q 0xC003 ([0]))) := by
  refine ⟨by decide +kernel, ?_⟩
  · intro c h; unfold When.caneQuery at h; simp [q] at h

theorem test_caneMask : State.ready caned 0x0205 [0, 1, 2, 3, 4, 5, 6, 7, 0xC] (q 0xC003 ([1])) = true ∧ When.caneMask cane3 (State.begun caned 0x0205 (q 0xC003 ([1]))) (q 0xC003 ([1])) := by
  refine ⟨by decide +kernel, ?_⟩; unfold When.caneMask; (try dsimp only) <;> decide +kernel

theorem test_caneMask_refused : State.ready caned 0x0205 [0, 1, 2, 3, 4, 5, 6, 7, 0xC] (q 0xC003 ([0, 0])) = true ∧ (∀ c : Cane, ¬ When.caneMask c (State.begun caned 0x0205 (q 0xC003 ([0, 0]))) (q 0xC003 ([0, 0]))) := by
  refine ⟨by decide +kernel, ?_⟩
  · intro c h; exact absurd h.2.2.1 (by decide +kernel)

theorem test_caneList : State.ready up 0x0206 [8] (q 0x8000 []) = true ∧ When.caneList (State.begun up 0x0206 (q 0x8000 [])) (q 0x8000 []) := by
  refine ⟨by decide +kernel, ?_⟩; unfold When.caneList; (try dsimp only) <;> decide +kernel

theorem test_caneList_refused : State.ready up 0x0206 [8] (q 0x8000 ([0])) = true ∧ ¬ When.caneList (State.begun up 0x0206 (q 0x8000 ([0]))) (q 0x8000 ([0])) := by
  refine ⟨by decide +kernel, ?_⟩
  · unfold When.caneList; (try dsimp only) <;> decide +kernel

theorem test_strokeLoad : State.ready up 0x0301 [6, 0xC] (q 0x603F ([255, 15, 1] ++ zs 21)) = true ∧ When.strokeLoad (State.begun up 0x0301 (q 0x603F ([255, 15, 1] ++ zs 21))) (q 0x603F ([255, 15, 1] ++ zs 21)) := by
  refine ⟨by decide +kernel, ?_⟩; unfold When.strokeLoad; (try dsimp only) <;> decide +kernel

theorem test_strokeLoad_refused : State.ready up 0x0301 [6, 0xC] (q 0x603F ([0])) = true ∧ ¬ When.strokeLoad (State.begun up 0x0301 (q 0x603F ([0]))) (q 0x603F ([0])) := by
  refine ⟨by decide +kernel, ?_⟩
  · unfold When.strokeLoad; (try dsimp only) <;> decide +kernel

theorem test_tsetLoad : State.ready up 0x0302 [6, 0xC] (q 0x6000 ([31] ++ zs 9 ++ [64] ++ zs 453)) = true ∧ When.tsetLoad (State.begun up 0x0302 (q 0x6000 ([31] ++ zs 9 ++ [64] ++ zs 453))) (q 0x6000 ([31] ++ zs 9 ++ [64] ++ zs 453)) := by
  refine ⟨by decide +kernel, ?_⟩; unfold When.tsetLoad; (try dsimp only) <;> decide +kernel

theorem test_tsetLoad_refused : State.ready up 0x0302 [6, 0xC] (q 0x6000 ([0])) = true ∧ ¬ When.tsetLoad (State.begun up 0x0302 (q 0x6000 ([0]))) (q 0x6000 ([0])) := by
  refine ⟨by decide +kernel, ?_⟩
  · unfold When.tsetLoad; (try dsimp only) <;> decide +kernel

theorem test_strokeStart : State.ready strokeSt 0x0303 [6, 0xC] (q 0x6000 ([255, 15] ++ zs 6)) = true ∧ When.strokeStart (State.begun strokeSt 0x0303 (q 0x6000 ([255, 15] ++ zs 6))) (q 0x6000 ([255, 15] ++ zs 6)) := by
  refine ⟨by decide +kernel, ?_⟩; unfold When.strokeStart; (try dsimp only) <;> decide +kernel

theorem test_strokeStart_refused : State.ready strokeSt 0x0303 [6, 0xC] (q 0x6000 ([0])) = true ∧ ¬ When.strokeStart (State.begun strokeSt 0x0303 (q 0x6000 ([0]))) (q 0x6000 ([0])) := by
  refine ⟨by decide +kernel, ?_⟩
  · unfold When.strokeStart; (try dsimp only) <;> decide +kernel

theorem test_strokeHalt : State.ready up 0x0304 [6, 0xC] (q 0x6000 []) = true ∧ When.strokeHalt (State.begun up 0x0304 (q 0x6000 [])) (q 0x6000 []) := by
  refine ⟨by decide +kernel, ?_⟩; unfold When.strokeHalt; (try dsimp only) <;> decide +kernel

theorem test_strokeHalt_refused : State.ready up 0x0304 [6, 0xC] (q 0x6000 ([0])) = true ∧ ¬ When.strokeHalt (State.begun up 0x0304 (q 0x6000 ([0]))) (q 0x6000 ([0])) := by
  refine ⟨by decide +kernel, ?_⟩
  · unfold When.strokeHalt; (try dsimp only) <;> decide +kernel

theorem test_strokeStatus : State.ready up 0x0305 [6, 0xC] (q 0x6000 []) = true ∧ When.strokeStatus (State.begun up 0x0305 (q 0x6000 [])) (q 0x6000 []) := by
  refine ⟨by decide +kernel, ?_⟩; unfold When.strokeStatus; (try dsimp only) <;> decide +kernel

theorem test_strokeStatus_refused : State.ready up 0x0305 [6, 0xC] (q 0x6000 ([0])) = true ∧ ¬ When.strokeStatus (State.begun up 0x0305 (q 0x6000 ([0]))) (q 0x6000 ([0])) := by
  refine ⟨by decide +kernel, ?_⟩
  · unfold When.strokeStatus; (try dsimp only) <;> decide +kernel

theorem test_strokeRead : State.ready up 0x0306 [6, 8, 0xC] (q 0x6000 ([2, 15, 254, 0])) = true ∧ When.strokeRead (State.begun up 0x0306 (q 0x6000 ([2, 15, 254, 0]))) (q 0x6000 ([2, 15, 254, 0])) := by
  refine ⟨by decide +kernel, ?_⟩; unfold When.strokeRead; (try dsimp only) <;> decide +kernel

theorem test_strokeRead_refused : State.ready up 0x0306 [6, 8, 0xC] (q 0x6000 ([0])) = true ∧ ¬ When.strokeRead (State.begun up 0x0306 (q 0x6000 ([0]))) (q 0x6000 ([0])) := by
  refine ⟨by decide +kernel, ?_⟩
  · unfold When.strokeRead; (try dsimp only) <;> decide +kernel

theorem test_seqConfig : State.ready up 0x0307 [6, 0xC] (q 0x6000 ([255, 255, 0, 0, 85, 85, 85, 85])) = true ∧ When.seqConfig (State.begun up 0x0307 (q 0x6000 ([255, 255, 0, 0, 85, 85, 85, 85]))) (q 0x6000 ([255, 255, 0, 0, 85, 85, 85, 85])) := by
  refine ⟨by decide +kernel, ?_⟩; unfold When.seqConfig; (try dsimp only) <;> decide +kernel

theorem test_seqConfig_refused : State.ready up 0x0307 [6, 0xC] (q 0x6000 ([0])) = true ∧ ¬ When.seqConfig (State.begun up 0x0307 (q 0x6000 ([0]))) (q 0x6000 ([0])) := by
  refine ⟨by decide +kernel, ?_⟩
  · unfold When.seqConfig; (try dsimp only) <;> decide +kernel

theorem test_vmemWrite : State.ready up 0x0401 [6, 0xC] (q 0x6000 ([255, 7, 1] ++ zs 261)) = true ∧ When.vmemWrite (State.begun up 0x0401 (q 0x6000 ([255, 7, 1] ++ zs 261))) (q 0x6000 ([255, 7, 1] ++ zs 261)) := by
  refine ⟨by decide +kernel, ?_⟩; unfold When.vmemWrite; (try dsimp only) <;> decide +kernel

theorem test_vmemWrite_refused : State.ready up 0x0401 [6, 0xC] (q 0x6000 ([0])) = true ∧ ¬ When.vmemWrite (State.begun up 0x0401 (q 0x6000 ([0]))) (q 0x6000 ([0])) := by
  refine ⟨by decide +kernel, ?_⟩
  · unfold When.vmemWrite; (try dsimp only) <;> decide +kernel

theorem test_vmemRead : State.ready up 0x0402 [6, 0xC] (q 0x6000 ([241, 7, 15] ++ zs 5)) = true ∧ When.vmemRead (State.begun up 0x0402 (q 0x6000 ([241, 7, 15] ++ zs 5))) (q 0x6000 ([241, 7, 15] ++ zs 5)) := by
  refine ⟨by decide +kernel, ?_⟩; unfold When.vmemRead; (try dsimp only) <;> decide +kernel

theorem test_vmemRead_refused : State.ready up 0x0402 [6, 0xC] (q 0x6000 ([0])) = true ∧ ¬ When.vmemRead (State.begun up 0x0402 (q 0x6000 ([0]))) (q 0x6000 ([0])) := by
  refine ⟨by decide +kernel, ?_⟩
  · unfold When.vmemRead; (try dsimp only) <;> decide +kernel

theorem test_vmemPin : State.ready up 0x0403 [6, 0xC] (q 0x6000 []) = true ∧ When.vmemPin (State.begun up 0x0403 (q 0x6000 [])) (q 0x6000 []) := by
  refine ⟨by decide +kernel, ?_⟩; unfold When.vmemPin; (try dsimp only) <;> decide +kernel

theorem test_vmemPin_refused : State.ready up 0x0403 [6, 0xC] (q 0x6000 ([0])) = true ∧ ¬ When.vmemPin (State.begun up 0x0403 (q 0x6000 ([0]))) (q 0x6000 ([0])) := by
  refine ⟨by decide +kernel, ?_⟩
  · unfold When.vmemPin; (try dsimp only) <;> decide +kernel

theorem test_streamOpen : State.ready up 0x0404 [8, 6, 0xC] (q 0x8000 ([3, 0, 1, 0, 1] ++ zs 4 ++ [1] ++ zs 6 ++ [1] ++ zs 15)) = true ∧ When.streamOpen (State.begun up 0x0404 (q 0x8000 ([3, 0, 1, 0, 1] ++ zs 4 ++ [1] ++ zs 6 ++ [1] ++ zs 15))) (q 0x8000 ([3, 0, 1, 0, 1] ++ zs 4 ++ [1] ++ zs 6 ++ [1] ++ zs 15)) := by
  refine ⟨by decide +kernel, ?_⟩; unfold When.streamOpen; (try dsimp only) <;> decide +kernel

theorem test_streamOpen_refused : State.ready up 0x0404 [8, 6, 0xC] (q 0x8000 ([0])) = true ∧ ¬ When.streamOpen (State.begun up 0x0404 (q 0x8000 ([0]))) (q 0x8000 ([0])) := by
  refine ⟨by decide +kernel, ?_⟩
  · unfold When.streamOpen; (try dsimp only) <;> decide +kernel

theorem test_streamClose : State.ready up 0x0405 [8] (q 0x8000 ([3] ++ zs 7)) = true ∧ When.streamClose (State.begun up 0x0405 (q 0x8000 ([3] ++ zs 7))) (q 0x8000 ([3] ++ zs 7)) := by
  refine ⟨by decide +kernel, ?_⟩; unfold When.streamClose; (try dsimp only) <;> decide +kernel

theorem test_streamClose_refused : State.ready up 0x0405 [8] (q 0x8000 ([0])) = true ∧ ¬ When.streamClose (State.begun up 0x0405 (q 0x8000 ([0]))) (q 0x8000 ([0])) := by
  refine ⟨by decide +kernel, ?_⟩
  · unfold When.streamClose; (try dsimp only) <;> decide +kernel

theorem test_streamWrite : State.ready openCtx 0x0406 [8] (q 0x8000 ([3] ++ zs 263)) = true ∧ When.streamWrite (State.begun openCtx 0x0406 (q 0x8000 ([3] ++ zs 263))) (q 0x8000 ([3] ++ zs 263)) := by
  refine ⟨by decide +kernel, ?_⟩; unfold When.streamWrite; (try dsimp only) <;> decide +kernel

theorem test_streamWrite_refused : State.ready openCtx 0x0406 [8] (q 0x8000 ([0])) = true ∧ ¬ When.streamWrite (State.begun openCtx 0x0406 (q 0x8000 ([0]))) (q 0x8000 ([0])) := by
  refine ⟨by decide +kernel, ?_⟩
  · unfold When.streamWrite; (try dsimp only) <;> decide +kernel

theorem test_bcastLoad : State.ready openCtx 0x0407 [6, 0xC] (q 0xC003 ([3, 3, 255, 15, 1] ++ zs 19)) = true ∧ When.bcastLoad (State.begun openCtx 0x0407 (q 0xC003 ([3, 3, 255, 15, 1] ++ zs 19))) (q 0xC003 ([3, 3, 255, 15, 1] ++ zs 19)) := by
  refine ⟨by decide +kernel, ?_⟩; unfold When.bcastLoad; (try dsimp only) <;> decide +kernel

theorem test_bcastLoad_refused : State.ready openCtx 0x0407 [6, 0xC] (q 0xC003 ([0])) = true ∧ ¬ When.bcastLoad (State.begun openCtx 0x0407 (q 0xC003 ([0]))) (q 0xC003 ([0])) := by
  refine ⟨by decide +kernel, ?_⟩
  · unfold When.bcastLoad; (try dsimp only) <;> decide +kernel

theorem test_bcastStart : State.ready progSt 0x0408 [6, 0xC] (q 0xC003 ([255, 15] ++ zs 6)) = true ∧ When.bcastStart 3 (State.begun progSt 0x0408 (q 0xC003 ([255, 15] ++ zs 6))) (q 0xC003 ([255, 15] ++ zs 6)) := by
  refine ⟨by decide +kernel, ?_⟩; unfold When.bcastStart; (try dsimp only) <;> decide +kernel

theorem test_bcastStart_refused : State.ready progSt 0x0408 [6, 0xC] (q 0xC003 ([0])) = true ∧ (∀ p : Nat, ¬ When.bcastStart p (State.begun progSt 0x0408 (q 0xC003 ([0]))) (q 0xC003 ([0]))) := by
  refine ⟨by decide +kernel, ?_⟩
  · intro p h; unfold When.bcastStart at h; simp [q] at h

theorem test_bcastUnload : State.ready progSt 0x0409 [6, 0xC] (q 0xC003 []) = true ∧ When.bcastUnload 3 (State.begun progSt 0x0409 (q 0xC003 [])) (q 0xC003 []) := by
  refine ⟨by decide +kernel, ?_⟩; unfold When.bcastUnload; (try dsimp only) <;> decide +kernel

theorem test_bcastUnload_refused : State.ready progSt 0x0409 [6, 0xC] (q 0xC003 ([0])) = true ∧ (∀ p : Nat, ¬ When.bcastUnload p (State.begun progSt 0x0409 (q 0xC003 ([0]))) (q 0xC003 ([0]))) := by
  refine ⟨by decide +kernel, ?_⟩
  · intro p h; unfold When.bcastUnload at h; simp [q] at h

theorem test_stencilLoad : State.ready up 0x040A [6, 0xC] (q 0x6000 ([255, 0, 1] ++ zs 39 ++ [8, 0])) = true ∧ When.stencilLoad (State.begun up 0x040A (q 0x6000 ([255, 0, 1] ++ zs 39 ++ [8, 0]))) (q 0x6000 ([255, 0, 1] ++ zs 39 ++ [8, 0])) := by
  refine ⟨by decide +kernel, ?_⟩; unfold When.stencilLoad; (try dsimp only) <;> decide +kernel

theorem test_stencilLoad_refused : State.ready up 0x040A [6, 0xC] (q 0x6000 ([0])) = true ∧ ¬ When.stencilLoad (State.begun up 0x040A (q 0x6000 ([0]))) (q 0x6000 ([0])) := by
  refine ⟨by decide +kernel, ?_⟩
  · unfold When.stencilLoad; (try dsimp only) <;> decide +kernel

theorem test_stencilClear : State.ready up 0x040B [6, 0xC] (q 0x6000 ([0, 0, 0, 1] ++ zs 4)) = true ∧ When.stencilClear (State.begun up 0x040B (q 0x6000 ([0, 0, 0, 1] ++ zs 4))) (q 0x6000 ([0, 0, 0, 1] ++ zs 4)) := by
  refine ⟨by decide +kernel, ?_⟩; unfold When.stencilClear; (try dsimp only) <;> decide +kernel

theorem test_stencilClear_refused : State.ready up 0x040B [6, 0xC] (q 0x6000 ([0])) = true ∧ ¬ When.stencilClear (State.begun up 0x040B (q 0x6000 ([0]))) (q 0x6000 ([0])) := by
  refine ⟨by decide +kernel, ?_⟩
  · unfold When.stencilClear; (try dsimp only) <;> decide +kernel

theorem test_streamStatus : State.ready up 0x040C [6, 8, 0xC] (q 0x8000 []) = true ∧ When.streamStatus (State.begun up 0x040C (q 0x8000 [])) (q 0x8000 []) := by
  refine ⟨by decide +kernel, ?_⟩; unfold When.streamStatus; (try dsimp only) <;> decide +kernel

theorem test_streamStatus_refused : State.ready up 0x040C [6, 8, 0xC] (q 0x8000 ([0])) = true ∧ ¬ When.streamStatus (State.begun up 0x040C (q 0x8000 ([0]))) (q 0x8000 ([0])) := by
  refine ⟨by decide +kernel, ?_⟩
  · unfold When.streamStatus; (try dsimp only) <;> decide +kernel

theorem test_ucodeLoad : State.ready up 0x1001 [7, 0xC] (q 0x7003 ([1] ++ zs 266 ++ [128] ++ zs 60)) = true ∧ When.ucodeLoad (State.begun up 0x1001 (q 0x7003 ([1] ++ zs 266 ++ [128] ++ zs 60))) (q 0x7003 ([1] ++ zs 266 ++ [128] ++ zs 60)) := by
  refine ⟨by decide +kernel, ?_⟩; unfold When.ucodeLoad; (try dsimp only) <;> decide +kernel

theorem test_ucodeLoad_refused : State.ready up 0x1001 [7, 0xC] (q 0x7003 ([0])) = true ∧ ¬ When.ucodeLoad (State.begun up 0x1001 (q 0x7003 ([0]))) (q 0x7003 ([0])) := by
  refine ⟨by decide +kernel, ?_⟩
  · unfold When.ucodeLoad; (try dsimp only) <;> decide +kernel

theorem test_ucodeClear : State.ready up 0x1002 [7, 0xC] (q 0x7003 []) = true ∧ When.ucodeClear (State.begun up 0x1002 (q 0x7003 [])) (q 0x7003 []) := by
  refine ⟨by decide +kernel, ?_⟩; unfold When.ucodeClear; (try dsimp only) <;> decide +kernel

theorem test_ucodeClear_refused : State.ready up 0x1002 [7, 0xC] (q 0x7003 ([0])) = true ∧ ¬ When.ucodeClear (State.begun up 0x1002 (q 0x7003 ([0]))) (q 0x7003 ([0])) := by
  refine ⟨by decide +kernel, ?_⟩
  · unfold When.ucodeClear; (try dsimp only) <;> decide +kernel

theorem test_ucodeQuery : State.ready up 0x1003 [7, 0xC] (q 0x7003 []) = true ∧ When.ucodeQuery (State.begun up 0x1003 (q 0x7003 [])) (q 0x7003 []) := by
  refine ⟨by decide +kernel, ?_⟩; unfold When.ucodeQuery; (try dsimp only) <;> decide +kernel

theorem test_ucodeQuery_refused : State.ready up 0x1003 [7, 0xC] (q 0x7003 ([0])) = true ∧ ¬ When.ucodeQuery (State.begun up 0x1003 (q 0x7003 ([0]))) (q 0x7003 ([0])) := by
  refine ⟨by decide +kernel, ?_⟩
  · unfold When.ucodeQuery; (try dsimp only) <;> decide +kernel

theorem test_ucodeRead : State.ready up 0x1004 [7, 0xC] (q 0x7003 []) = true ∧ When.ucodeRead (State.begun up 0x1004 (q 0x7003 [])) (q 0x7003 []) := by
  refine ⟨by decide +kernel, ?_⟩; unfold When.ucodeRead; (try dsimp only) <;> decide +kernel

theorem test_ucodeRead_refused : State.ready up 0x1004 [7, 0xC] (q 0x7003 ([0])) = true ∧ ¬ When.ucodeRead (State.begun up 0x1004 (q 0x7003 ([0]))) (q 0x7003 ([0])) := by
  refine ⟨by decide +kernel, ?_⟩
  · unfold When.ucodeRead; (try dsimp only) <;> decide +kernel

theorem test_pinConfig : State.ready up 0x0501 [0, 0xC] (q 0x03FF (zs 4)) = true ∧ When.pinConfig (State.begun up 0x0501 (q 0x03FF (zs 4))) (q 0x03FF (zs 4)) := by
  refine ⟨by decide +kernel, ?_⟩; unfold When.pinConfig; (try dsimp only) <;> decide +kernel

theorem test_pinConfig_refused : State.ready up 0x0501 [0, 0xC] (q 0x03FF ([0])) = true ∧ ¬ When.pinConfig (State.begun up 0x0501 (q 0x03FF ([0]))) (q 0x03FF ([0])) := by
  refine ⟨by decide +kernel, ?_⟩
  · unfold When.pinConfig; (try dsimp only) <;> decide +kernel

theorem test_pinLevels : State.ready up 0x0502 [0, 0xC] (q 0x0000 ([228, 56, 228, 56, 228, 56, 228, 56, 228, 56, 0, 0])) = true ∧ When.pinLevels (State.begun up 0x0502 (q 0x0000 ([228, 56, 228, 56, 228, 56, 228, 56, 228, 56, 0, 0]))) (q 0x0000 ([228, 56, 228, 56, 228, 56, 228, 56, 228, 56, 0, 0])) := by
  refine ⟨by decide +kernel, ?_⟩; unfold When.pinLevels; (try dsimp only) <;> decide +kernel

theorem test_pinLevels_refused : State.ready up 0x0502 [0, 0xC] (q 0x0000 ([0])) = true ∧ ¬ When.pinLevels (State.begun up 0x0502 (q 0x0000 ([0]))) (q 0x0000 ([0])) := by
  refine ⟨by decide +kernel, ?_⟩
  · unfold When.pinLevels; (try dsimp only) <;> decide +kernel

theorem test_pinLoad : State.ready up 0x0503 [0, 0xC] (q 0x0000 ([232, 3, 232, 3])) = true ∧ When.pinLoad (State.begun up 0x0503 (q 0x0000 ([232, 3, 232, 3]))) (q 0x0000 ([232, 3, 232, 3])) := by
  refine ⟨by decide +kernel, ?_⟩; unfold When.pinLoad; (try dsimp only) <;> decide +kernel

theorem test_pinLoad_refused : State.ready up 0x0503 [0, 0xC] (q 0x0000 ([0])) = true ∧ ¬ When.pinLoad (State.begun up 0x0503 (q 0x0000 ([0]))) (q 0x0000 ([0])) := by
  refine ⟨by decide +kernel, ?_⟩
  · unfold When.pinLoad; (try dsimp only) <;> decide +kernel

theorem test_pinClearCodes : State.ready up 0x0504 [0, 0xC] (q 0x0000 (zs 12)) = true ∧ When.pinClearCodes (State.begun up 0x0504 (q 0x0000 (zs 12))) (q 0x0000 (zs 12)) := by
  refine ⟨by decide +kernel, ?_⟩; unfold When.pinClearCodes; (try dsimp only) <;> decide +kernel

theorem test_pinClearCodes_refused : State.ready up 0x0504 [0, 0xC] (q 0x0000 ([0])) = true ∧ ¬ When.pinClearCodes (State.begun up 0x0504 (q 0x0000 ([0]))) (q 0x0000 ([0])) := by
  refine ⟨by decide +kernel, ?_⟩
  · unfold When.pinClearCodes; (try dsimp only) <;> decide +kernel

theorem test_pinComparator : State.ready up 0x0505 [0, 0xC] (q 0x0000 ([63, 0, 0, 0])) = true ∧ When.pinComparator (State.begun up 0x0505 (q 0x0000 ([63, 0, 0, 0]))) (q 0x0000 ([63, 0, 0, 0])) := by
  refine ⟨by decide +kernel, ?_⟩; unfold When.pinComparator; (try dsimp only) <;> decide +kernel

theorem test_pinComparator_refused : State.ready up 0x0505 [0, 0xC] (q 0x0000 ([0])) = true ∧ ¬ When.pinComparator (State.begun up 0x0505 (q 0x0000 ([0]))) (q 0x0000 ([0])) := by
  refine ⟨by decide +kernel, ?_⟩
  · unfold When.pinComparator; (try dsimp only) <;> decide +kernel

theorem test_pinRelease : State.ready up 0x0506 [0, 0xC] (q 0x0000 ([3, 0, 0, 0])) = true ∧ When.pinRelease (State.begun up 0x0506 (q 0x0000 ([3, 0, 0, 0]))) (q 0x0000 ([3, 0, 0, 0])) := by
  refine ⟨by decide +kernel, ?_⟩; unfold When.pinRelease; (try dsimp only) <;> decide +kernel

theorem test_pinRelease_refused : State.ready up 0x0506 [0, 0xC] (q 0x0000 ([0])) = true ∧ ¬ When.pinRelease (State.begun up 0x0506 (q 0x0000 ([0]))) (q 0x0000 ([0])) := by
  refine ⟨by decide +kernel, ?_⟩
  · unfold When.pinRelease; (try dsimp only) <;> decide +kernel

theorem test_pinStatus : State.ready up 0x0507 [0, 0xC] (q 0x0000 []) = true ∧ When.pinStatus (State.begun up 0x0507 (q 0x0000 [])) (q 0x0000 []) := by
  refine ⟨by decide +kernel, ?_⟩; unfold When.pinStatus; (try dsimp only) <;> decide +kernel

theorem test_pinStatus_refused : State.ready up 0x0507 [0, 0xC] (q 0x0000 ([0])) = true ∧ ¬ When.pinStatus (State.begun up 0x0507 (q 0x0000 ([0]))) (q 0x0000 ([0])) := by
  refine ⟨by decide +kernel, ?_⟩
  · unfold When.pinStatus; (try dsimp only) <;> decide +kernel

theorem test_pinRead : State.ready up 0x0508 [0, 0xC] (q 0x0000 []) = true ∧ When.pinRead (State.begun up 0x0508 (q 0x0000 [])) (q 0x0000 []) := by
  refine ⟨by decide +kernel, ?_⟩; unfold When.pinRead; (try dsimp only) <;> decide +kernel

theorem test_pinRead_refused : State.ready up 0x0508 [0, 0xC] (q 0x0000 ([0])) = true ∧ ¬ When.pinRead (State.begun up 0x0508 (q 0x0000 ([0]))) (q 0x0000 ([0])) := by
  refine ⟨by decide +kernel, ?_⟩
  · unfold When.pinRead; (try dsimp only) <;> decide +kernel

theorem test_sentConfig : State.ready up 0x0509 [6, 0xC] (q 0x6000 (zs 4 ++ [100] ++ zs 7 ++ [100, 0, 0, 0])) = true ∧ When.sentConfig (State.begun up 0x0509 (q 0x6000 (zs 4 ++ [100] ++ zs 7 ++ [100, 0, 0, 0]))) (q 0x6000 (zs 4 ++ [100] ++ zs 7 ++ [100, 0, 0, 0])) := by
  refine ⟨by decide +kernel, ?_⟩; unfold When.sentConfig; (try dsimp only) <;> decide +kernel

theorem test_sentConfig_refused : State.ready up 0x0509 [6, 0xC] (q 0x6000 ([0])) = true ∧ ¬ When.sentConfig (State.begun up 0x0509 (q 0x6000 ([0]))) (q 0x6000 ([0])) := by
  refine ⟨by decide +kernel, ?_⟩
  · unfold When.sentConfig; (try dsimp only) <;> decide +kernel

theorem test_sentStatus : State.ready up 0x050A [6, 0xC] (q 0x6000 []) = true ∧ When.sentStatus (State.begun up 0x050A (q 0x6000 [])) (q 0x6000 []) := by
  refine ⟨by decide +kernel, ?_⟩; unfold When.sentStatus; (try dsimp only) <;> decide +kernel

theorem test_sentStatus_refused : State.ready up 0x050A [6, 0xC] (q 0x6000 ([0])) = true ∧ ¬ When.sentStatus (State.begun up 0x050A (q 0x6000 ([0]))) (q 0x6000 ([0])) := by
  refine ⟨by decide +kernel, ?_⟩
  · unfold When.sentStatus; (try dsimp only) <;> decide +kernel

theorem test_contactCheck : State.ready up 0x050B [6, 0xC] (q 0x6000 []) = true ∧ When.contactCheck (State.begun up 0x050B (q 0x6000 [])) (q 0x6000 []) := by
  refine ⟨by decide +kernel, ?_⟩; unfold When.contactCheck; (try dsimp only) <;> decide +kernel

theorem test_contactCheck_refused : State.ready up 0x050B [6, 0xC] (q 0x6000 ([0])) = true ∧ ¬ When.contactCheck (State.begun up 0x050B (q 0x6000 ([0]))) (q 0x6000 ([0])) := by
  refine ⟨by decide +kernel, ?_⟩
  · unfold When.contactCheck; (try dsimp only) <;> decide +kernel

theorem test_smuConfig : State.ready up 0x0601 [1, 0xC] (q 0x10FF (zs 4)) = true ∧ When.smuConfig (State.begun up 0x0601 (q 0x10FF (zs 4))) (q 0x10FF (zs 4)) := by
  refine ⟨by decide +kernel, ?_⟩; unfold When.smuConfig; (try dsimp only) <;> decide +kernel

theorem test_smuConfig_refused : State.ready up 0x0601 [1, 0xC] (q 0x10FF ([0])) = true ∧ ¬ When.smuConfig (State.begun up 0x0601 (q 0x10FF ([0]))) (q 0x10FF ([0])) := by
  refine ⟨by decide +kernel, ?_⟩
  · unfold When.smuConfig; (try dsimp only) <;> decide +kernel

theorem test_smuForce : State.ready up 0x0602 [1, 0xC] (q 0x1000 ([142, 227] ++ zs 6 ++ [114, 28, 85, 85, 0, 16, 0, 16])) = true ∧ When.smuForce (State.begun up 0x0602 (q 0x1000 ([142, 227] ++ zs 6 ++ [114, 28, 85, 85, 0, 16, 0, 16]))) (q 0x1000 ([142, 227] ++ zs 6 ++ [114, 28, 85, 85, 0, 16, 0, 16])) := by
  refine ⟨by decide +kernel, ?_⟩; unfold When.smuForce; (try dsimp only) <;> decide +kernel

theorem test_smuForce_refused : State.ready up 0x0602 [1, 0xC] (q 0x1000 ([0])) = true ∧ ¬ When.smuForce (State.begun up 0x0602 (q 0x1000 ([0]))) (q 0x1000 ([0])) := by
  refine ⟨by decide +kernel, ?_⟩
  · unfold When.smuForce; (try dsimp only) <;> decide +kernel

theorem test_smuSafe : State.ready up 0x0603 [1, 0xC] (q 0x1000 ([142, 227, 0, 0, 142, 227] ++ zs 6 ++ [114, 28, 85, 85, 0, 16, 0, 16])) = true ∧ When.smuSafe (State.begun up 0x0603 (q 0x1000 ([142, 227, 0, 0, 142, 227] ++ zs 6 ++ [114, 28, 85, 85, 0, 16, 0, 16]))) (q 0x1000 ([142, 227, 0, 0, 142, 227] ++ zs 6 ++ [114, 28, 85, 85, 0, 16, 0, 16])) := by
  refine ⟨by decide +kernel, ?_⟩; unfold When.smuSafe; (try dsimp only) <;> decide +kernel

theorem test_smuSafe_refused : State.ready up 0x0603 [1, 0xC] (q 0x1000 ([0])) = true ∧ ¬ When.smuSafe (State.begun up 0x0603 (q 0x1000 ([0]))) (q 0x1000 ([0])) := by
  refine ⟨by decide +kernel, ?_⟩
  · unfold When.smuSafe; (try dsimp only) <;> decide +kernel

theorem test_smuTrip : State.ready up 0x0604 [1, 0xC] (q 0x1000 (zs 4)) = true ∧ When.smuTrip (State.begun up 0x0604 (q 0x1000 (zs 4))) (q 0x1000 (zs 4)) := by
  refine ⟨by decide +kernel, ?_⟩; unfold When.smuTrip; (try dsimp only) <;> decide +kernel

theorem test_smuTrip_refused : State.ready up 0x0604 [1, 0xC] (q 0x1000 ([0])) = true ∧ ¬ When.smuTrip (State.begun up 0x0604 (q 0x1000 ([0]))) (q 0x1000 ([0])) := by
  refine ⟨by decide +kernel, ?_⟩
  · unfold When.smuTrip; (try dsimp only) <;> decide +kernel

theorem test_smuMeasure : State.ready up 0x0605 [1, 0xC] (q 0x1000 (zs 6 ++ [1] ++ zs 9)) = true ∧ When.smuMeasure (State.begun up 0x0605 (q 0x1000 (zs 6 ++ [1] ++ zs 9))) (q 0x1000 (zs 6 ++ [1] ++ zs 9)) := by
  refine ⟨by decide +kernel, ?_⟩; unfold When.smuMeasure; (try dsimp only) <;> decide +kernel

theorem test_smuMeasure_refused : State.ready up 0x0605 [1, 0xC] (q 0x1000 ([0])) = true ∧ ¬ When.smuMeasure (State.begun up 0x0605 (q 0x1000 ([0]))) (q 0x1000 ([0])) := by
  refine ⟨by decide +kernel, ?_⟩
  · unfold When.smuMeasure; (try dsimp only) <;> decide +kernel

theorem test_smuRelease : State.ready up 0x0606 [1, 0xC] (q 0x1000 ([3, 0, 0, 0])) = true ∧ When.smuRelease (State.begun up 0x0606 (q 0x1000 ([3, 0, 0, 0]))) (q 0x1000 ([3, 0, 0, 0])) := by
  refine ⟨by decide +kernel, ?_⟩; unfold When.smuRelease; (try dsimp only) <;> decide +kernel

theorem test_smuRelease_refused : State.ready up 0x0606 [1, 0xC] (q 0x1000 ([0])) = true ∧ ¬ When.smuRelease (State.begun up 0x0606 (q 0x1000 ([0]))) (q 0x1000 ([0])) := by
  refine ⟨by decide +kernel, ?_⟩
  · unfold When.smuRelease; (try dsimp only) <;> decide +kernel

theorem test_smuStatus : State.ready up 0x0607 [1, 0xC] (q 0x1000 []) = true ∧ When.smuStatus (State.begun up 0x0607 (q 0x1000 [])) (q 0x1000 []) := by
  refine ⟨by decide +kernel, ?_⟩; unfold When.smuStatus; (try dsimp only) <;> decide +kernel

theorem test_smuStatus_refused : State.ready up 0x0607 [1, 0xC] (q 0x1000 ([0])) = true ∧ ¬ When.smuStatus (State.begun up 0x0607 (q 0x1000 ([0]))) (q 0x1000 ([0])) := by
  refine ⟨by decide +kernel, ?_⟩
  · unfold When.smuStatus; (try dsimp only) <;> decide +kernel

theorem test_smuRead : State.ready up 0x0608 [1, 0xC] (q 0x1000 []) = true ∧ When.smuRead (State.begun up 0x0608 (q 0x1000 [])) (q 0x1000 []) := by
  refine ⟨by decide +kernel, ?_⟩; unfold When.smuRead; (try dsimp only) <;> decide +kernel

theorem test_smuRead_refused : State.ready up 0x0608 [1, 0xC] (q 0x1000 ([0])) = true ∧ ¬ When.smuRead (State.begun up 0x0608 (q 0x1000 ([0]))) (q 0x1000 ([0])) := by
  refine ⟨by decide +kernel, ?_⟩
  · unfold When.smuRead; (try dsimp only) <;> decide +kernel

theorem test_ampIdent : State.ready ampUp 0x0701 [8] (q5 0x8000 []) = true ∧ When.ampIdent (State.begun ampUp 0x0701 (q5 0x8000 [])) (q5 0x8000 []) := by
  refine ⟨by decide +kernel, ?_⟩; unfold When.ampIdent; (try dsimp only) <;> decide +kernel

theorem test_ampIdent_refused : State.ready ampUp 0x0701 [8] (q5 0x8000 ([0])) = true ∧ ¬ When.ampIdent (State.begun ampUp 0x0701 (q5 0x8000 ([0]))) (q5 0x8000 ([0])) := by
  refine ⟨by decide +kernel, ?_⟩
  · unfold When.ampIdent; (try dsimp only) <;> decide +kernel

theorem test_ampConnect : State.ready ampUp 0x0702 [3, 0xC] (q5 0x307F ([13] ++ zs 7)) = true ∧ When.ampConnect (State.begun ampUp 0x0702 (q5 0x307F ([13] ++ zs 7))) (q5 0x307F ([13] ++ zs 7)) := by
  refine ⟨by decide +kernel, ?_⟩; unfold When.ampConnect; (try dsimp only) <;> decide +kernel

theorem test_ampConnect_refused : State.ready ampUp 0x0702 [3, 0xC] (q5 0x307F ([0])) = true ∧ ¬ When.ampConnect (State.begun ampUp 0x0702 (q5 0x307F ([0]))) (q5 0x307F ([0])) := by
  refine ⟨by decide +kernel, ?_⟩
  · unfold When.ampConnect; (try dsimp only) <;> decide +kernel

theorem test_ampDisconnect : State.ready ampUp 0x0703 [3, 0xC] (q5 0x3000 []) = true ∧ When.ampDisconnect (State.begun ampUp 0x0703 (q5 0x3000 [])) (q5 0x3000 []) := by
  refine ⟨by decide +kernel, ?_⟩; unfold When.ampDisconnect; (try dsimp only) <;> decide +kernel

theorem test_ampDisconnect_refused : State.ready ampUp 0x0703 [3, 0xC] (q5 0x3000 ([0])) = true ∧ ¬ When.ampDisconnect (State.begun ampUp 0x0703 (q5 0x3000 ([0]))) (q5 0x3000 ([0])) := by
  refine ⟨by decide +kernel, ?_⟩
  · unfold When.ampDisconnect; (try dsimp only) <;> decide +kernel

theorem test_ampConvert : State.ready ampSrc 0x0704 [3, 0xC] (q5 0x3000 ([3, 16] ++ zs 5 ++ [1] ++ zs 40)) = true ∧ When.ampConvert (State.begun ampSrc 0x0704 (q5 0x3000 ([3, 16] ++ zs 5 ++ [1] ++ zs 40))) (q5 0x3000 ([3, 16] ++ zs 5 ++ [1] ++ zs 40)) := by
  refine ⟨by decide +kernel, ?_⟩; unfold When.ampConvert; (try dsimp only) <;> decide +kernel

theorem test_ampConvert_refused : State.ready ampSrc 0x0704 [3, 0xC] (q5 0x3000 ([0])) = true ∧ ¬ When.ampConvert (State.begun ampSrc 0x0704 (q5 0x3000 ([0]))) (q5 0x3000 ([0])) := by
  refine ⟨by decide +kernel, ?_⟩
  · unfold When.ampConvert; (try dsimp only) <;> decide +kernel

theorem test_ampBridge : State.ready ampUp 0x0705 [2, 0xC] (q5 0x203F ([0, 3] ++ zs 4 ++ [128, 255])) = true ∧ When.ampBridge (State.begun ampUp 0x0705 (q5 0x203F ([0, 3] ++ zs 4 ++ [128, 255]))) (q5 0x203F ([0, 3] ++ zs 4 ++ [128, 255])) := by
  refine ⟨by decide +kernel, ?_⟩; unfold When.ampBridge; (try dsimp only) <;> decide +kernel

theorem test_ampBridge_refused : State.ready ampUp 0x0705 [2, 0xC] (q5 0x203F ([0])) = true ∧ ¬ When.ampBridge (State.begun ampUp 0x0705 (q5 0x203F ([0]))) (q5 0x203F ([0])) := by
  refine ⟨by decide +kernel, ?_⟩
  · unfold When.ampBridge; (try dsimp only) <;> decide +kernel

theorem test_ampBridgeStatus : State.ready ampUp 0x0706 [2, 0xC] (q5 0x2000 []) = true ∧ When.ampBridgeStatus (State.begun ampUp 0x0706 (q5 0x2000 [])) (q5 0x2000 []) := by
  refine ⟨by decide +kernel, ?_⟩; unfold When.ampBridgeStatus; (try dsimp only) <;> decide +kernel

theorem test_ampBridgeStatus_refused : State.ready ampUp 0x0706 [2, 0xC] (q5 0x2000 ([0])) = true ∧ ¬ When.ampBridgeStatus (State.begun ampUp 0x0706 (q5 0x2000 ([0]))) (q5 0x2000 ([0])) := by
  refine ⟨by decide +kernel, ?_⟩
  · unfold When.ampBridgeStatus; (try dsimp only) <;> decide +kernel

theorem test_ampStatus : State.ready ampUp 0x0707 [8] (q5 0x8000 []) = true ∧ When.ampStatus (State.begun ampUp 0x0707 (q5 0x8000 [])) (q5 0x8000 []) := by
  refine ⟨by decide +kernel, ?_⟩; unfold When.ampStatus; (try dsimp only) <;> decide +kernel

theorem test_ampStatus_refused : State.ready ampUp 0x0707 [8] (q5 0x8000 ([0])) = true ∧ ¬ When.ampStatus (State.begun ampUp 0x0707 (q5 0x8000 ([0]))) (q5 0x8000 ([0])) := by
  refine ⟨by decide +kernel, ?_⟩
  · unfold When.ampStatus; (try dsimp only) <;> decide +kernel

theorem test_ampSheetClose : State.ready ampSheet 0x0708 [8] (q5 0x8000 []) = true ∧ When.ampSheetClose (State.begun ampSheet 0x0708 (q5 0x8000 [])) (q5 0x8000 []) := by
  refine ⟨by decide +kernel, ?_⟩; unfold When.ampSheetClose; (try dsimp only) <;> decide +kernel

theorem test_ampSheetClose_refused : State.ready ampSheet 0x0708 [8] (q5 0x8000 ([0])) = true ∧ ¬ When.ampSheetClose (State.begun ampSheet 0x0708 (q5 0x8000 ([0]))) (q5 0x8000 ([0])) := by
  refine ⟨by decide +kernel, ?_⟩
  · unfold When.ampSheetClose; (try dsimp only) <;> decide +kernel

theorem test_ampSheetRead : State.ready ampSheet 0x0709 [8] (q5 0x8000 ([1, 0, 0, 0, 1, 0, 0, 0, 1] ++ zs 7)) = true ∧ When.ampSheetRead (State.begun ampSheet 0x0709 (q5 0x8000 ([1, 0, 0, 0, 1, 0, 0, 0, 1] ++ zs 7))) (q5 0x8000 ([1, 0, 0, 0, 1, 0, 0, 0, 1] ++ zs 7)) := by
  refine ⟨by decide +kernel, ?_⟩; unfold When.ampSheetRead; (try dsimp only) <;> decide +kernel

theorem test_ampSheetRead_refused : State.ready ampSheet 0x0709 [8] (q5 0x8000 ([0])) = true ∧ ¬ When.ampSheetRead (State.begun ampSheet 0x0709 (q5 0x8000 ([0]))) (q5 0x8000 ([0])) := by
  refine ⟨by decide +kernel, ?_⟩
  · unfold When.ampSheetRead; (try dsimp only) <;> decide +kernel

theorem test_ampAdjust : State.ready ampAdj 0x070A [8] (q5 0x8000 (zs 4 ++ [192, 34, 190, 29] ++ zs 32)) = true ∧ When.ampAdjust (State.begun ampAdj 0x070A (q5 0x8000 (zs 4 ++ [192, 34, 190, 29] ++ zs 32))) (q5 0x8000 (zs 4 ++ [192, 34, 190, 29] ++ zs 32)) := by
  refine ⟨by decide +kernel, ?_⟩; unfold When.ampAdjust; (try dsimp only) <;> decide +kernel

theorem test_ampAdjust_refused : State.ready ampAdj 0x070A [8] (q5 0x8000 ([0])) = true ∧ ¬ When.ampAdjust (State.begun ampAdj 0x070A (q5 0x8000 ([0]))) (q5 0x8000 ([0])) := by
  refine ⟨by decide +kernel, ?_⟩
  · unfold When.ampAdjust; (try dsimp only) <;> decide +kernel

theorem test_ampCounter : State.ready ampUp 0x070B [8] (q5 0x8000 []) = true ∧ When.ampCounter (State.begun ampUp 0x070B (q5 0x8000 [])) (q5 0x8000 []) := by
  refine ⟨by decide +kernel, ?_⟩; unfold When.ampCounter; (try dsimp only) <;> decide +kernel

theorem test_ampCounter_refused : State.ready ampUp 0x070B [8] (q5 0x8000 ([0])) = true ∧ ¬ When.ampCounter (State.begun ampUp 0x070B (q5 0x8000 ([0]))) (q5 0x8000 ([0])) := by
  refine ⟨by decide +kernel, ?_⟩
  · unfold When.ampCounter; (try dsimp only) <;> decide +kernel

theorem test_ampRefcheck : State.ready ampUp 0x070C [8] (q5 0x8000 []) = true ∧ When.ampRefcheck (State.begun ampUp 0x070C (q5 0x8000 [])) (q5 0x8000 []) := by
  refine ⟨by decide +kernel, ?_⟩; unfold When.ampRefcheck; (try dsimp only) <;> decide +kernel

theorem test_ampRefcheck_refused : State.ready ampUp 0x070C [8] (q5 0x8000 ([0])) = true ∧ ¬ When.ampRefcheck (State.begun ampUp 0x070C (q5 0x8000 ([0]))) (q5 0x8000 ([0])) := by
  refine ⟨by decide +kernel, ?_⟩
  · unfold When.ampRefcheck; (try dsimp only) <;> decide +kernel

theorem test_tiuConfig : State.ready up 0x0801 [5, 0xC] (q 0x50FF (zs 8 ++ [1, 0, 0, 0])) = true ∧ When.tiuConfig (State.begun up 0x0801 (q 0x50FF (zs 8 ++ [1, 0, 0, 0]))) (q 0x50FF (zs 8 ++ [1, 0, 0, 0])) := by
  refine ⟨by decide +kernel, ?_⟩; unfold When.tiuConfig; (try dsimp only) <;> decide +kernel

theorem test_tiuConfig_refused : State.ready up 0x0801 [5, 0xC] (q 0x50FF ([0])) = true ∧ ¬ When.tiuConfig (State.begun up 0x0801 (q 0x50FF ([0]))) (q 0x50FF ([0])) := by
  refine ⟨by decide +kernel, ?_⟩
  · unfold When.tiuConfig; (try dsimp only) <;> decide +kernel

theorem test_tiuStart : State.ready up 0x0802 [5, 0xC] (q 0x5000 ([1, 0, 0, 0, 1] ++ zs 19)) = true ∧ When.tiuStart (State.begun up 0x0802 (q 0x5000 ([1, 0, 0, 0, 1] ++ zs 19))) (q 0x5000 ([1, 0, 0, 0, 1] ++ zs 19)) := by
  refine ⟨by decide +kernel, ?_⟩; unfold When.tiuStart; (try dsimp only) <;> decide +kernel

theorem test_tiuStart_refused : State.ready up 0x0802 [5, 0xC] (q 0x5000 ([0])) = true ∧ ¬ When.tiuStart (State.begun up 0x0802 (q 0x5000 ([0]))) (q 0x5000 ([0])) := by
  refine ⟨by decide +kernel, ?_⟩
  · unfold When.tiuStart; (try dsimp only) <;> decide +kernel

theorem test_tiuAbort : State.ready up 0x0803 [5, 0xC] (q 0x5000 []) = true ∧ When.tiuAbort (State.begun up 0x0803 (q 0x5000 [])) (q 0x5000 []) := by
  refine ⟨by decide +kernel, ?_⟩; unfold When.tiuAbort; (try dsimp only) <;> decide +kernel

theorem test_tiuAbort_refused : State.ready up 0x0803 [5, 0xC] (q 0x5000 ([0])) = true ∧ ¬ When.tiuAbort (State.begun up 0x0803 (q 0x5000 ([0]))) (q 0x5000 ([0])) := by
  refine ⟨by decide +kernel, ?_⟩
  · unfold When.tiuAbort; (try dsimp only) <;> decide +kernel

theorem test_tiuStamps : State.ready tiuSt 0x0804 [5, 0xC] (q 0x5000 ([0, 0, 1] ++ zs 5)) = true ∧ When.tiuStamps (State.begun tiuSt 0x0804 (q 0x5000 ([0, 0, 1] ++ zs 5))) (q 0x5000 ([0, 0, 1] ++ zs 5)) := by
  refine ⟨by decide +kernel, ?_⟩; unfold When.tiuStamps; (try dsimp only) <;> decide +kernel

theorem test_tiuStamps_refused : State.ready tiuSt 0x0804 [5, 0xC] (q 0x5000 ([0])) = true ∧ ¬ When.tiuStamps (State.begun tiuSt 0x0804 (q 0x5000 ([0]))) (q 0x5000 ([0])) := by
  refine ⟨by decide +kernel, ?_⟩
  · unfold When.tiuStamps; (try dsimp only) <;> decide +kernel

theorem test_tiuStatus : State.ready up 0x0805 [5, 8, 0xC] (q 0x8000 []) = true ∧ When.tiuStatus (State.begun up 0x0805 (q 0x8000 [])) (q 0x8000 []) := by
  refine ⟨by decide +kernel, ?_⟩; unfold When.tiuStatus; (try dsimp only) <;> decide +kernel

theorem test_tiuStatus_refused : State.ready up 0x0805 [5, 8, 0xC] (q 0x8000 ([0])) = true ∧ ¬ When.tiuStatus (State.begun up 0x0805 (q 0x8000 ([0]))) (q 0x8000 ([0])) := by
  refine ⟨by decide +kernel, ?_⟩
  · unfold When.tiuStatus; (try dsimp only) <;> decide +kernel

theorem test_tiuSelftest : State.ready up 0x0806 [6, 8, 0xC] (q 0x8000 []) = true ∧ When.tiuSelftest (State.begun up 0x0806 (q 0x8000 [])) (q 0x8000 []) := by
  refine ⟨by decide +kernel, ?_⟩; unfold When.tiuSelftest; (try dsimp only) <;> decide +kernel

theorem test_tiuSelftest_refused : State.ready up 0x0806 [6, 8, 0xC] (q 0x8000 ([0])) = true ∧ ¬ When.tiuSelftest (State.begun up 0x0806 (q 0x8000 ([0]))) (q 0x8000 ([0])) := by
  refine ⟨by decide +kernel, ?_⟩
  · unfold When.tiuSelftest; (try dsimp only) <;> decide +kernel

theorem test_tiuRead : State.ready up 0x0807 [5, 0xC] (q 0x5000 []) = true ∧ When.tiuRead (State.begun up 0x0807 (q 0x5000 [])) (q 0x5000 []) := by
  refine ⟨by decide +kernel, ?_⟩; unfold When.tiuRead; (try dsimp only) <;> decide +kernel

theorem test_tiuRead_refused : State.ready up 0x0807 [5, 0xC] (q 0x5000 ([0])) = true ∧ ¬ When.tiuRead (State.begun up 0x0807 (q 0x5000 ([0]))) (q 0x5000 ([0])) := by
  refine ⟨by decide +kernel, ?_⟩
  · unfold When.tiuRead; (try dsimp only) <;> decide +kernel

theorem test_capConfig : State.ready up 0x0901 [4, 0xC] (q 0x407F (zs 28)) = true ∧ When.capConfig (State.begun up 0x0901 (q 0x407F (zs 28))) (q 0x407F (zs 28)) := by
  refine ⟨by decide +kernel, ?_⟩; unfold When.capConfig; (try dsimp only) <;> decide +kernel

theorem test_capConfig_refused : State.ready up 0x0901 [4, 0xC] (q 0x407F ([0])) = true ∧ ¬ When.capConfig (State.begun up 0x0901 (q 0x407F ([0]))) (q 0x407F ([0])) := by
  refine ⟨by decide +kernel, ?_⟩
  · unfold When.capConfig; (try dsimp only) <;> decide +kernel

theorem test_capLimits : State.ready up 0x0902 [4, 0xC] (q 0x4000 ([255, 3] ++ zs 166)) = true ∧ When.capLimits (State.begun up 0x0902 (q 0x4000 ([255, 3] ++ zs 166))) (q 0x4000 ([255, 3] ++ zs 166)) := by
  refine ⟨by decide +kernel, ?_⟩; unfold When.capLimits; (try dsimp only) <;> decide +kernel

theorem test_capLimits_refused : State.ready up 0x0902 [4, 0xC] (q 0x4000 ([0])) = true ∧ ¬ When.capLimits (State.begun up 0x0902 (q 0x4000 ([0]))) (q 0x4000 ([0])) := by
  refine ⟨by decide +kernel, ?_⟩
  · unfold When.capLimits; (try dsimp only) <;> decide +kernel

theorem test_capArm : State.ready digOn 0x0903 [4, 0xC] (q 0x4000 (zs 10 ++ [1] ++ zs 5 ++ [64] ++ zs 7 ++ [1] ++ zs 15)) = true ∧ When.capArm (State.begun digOn 0x0903 (q 0x4000 (zs 10 ++ [1] ++ zs 5 ++ [64] ++ zs 7 ++ [1] ++ zs 15))) (q 0x4000 (zs 10 ++ [1] ++ zs 5 ++ [64] ++ zs 7 ++ [1] ++ zs 15)) := by
  refine ⟨by decide +kernel, ?_⟩; unfold When.capArm; (try dsimp only) <;> decide +kernel

theorem test_capArm_refused : State.ready digOn 0x0903 [4, 0xC] (q 0x4000 ([0])) = true ∧ ¬ When.capArm (State.begun digOn 0x0903 (q 0x4000 ([0]))) (q 0x4000 ([0])) := by
  refine ⟨by decide +kernel, ?_⟩
  · unfold When.capArm; (try dsimp only) <;> decide +kernel

theorem test_capForce : State.ready up 0x0904 [4, 0xC] (q 0x4000 []) = true ∧ When.capForce (State.begun up 0x0904 (q 0x4000 [])) (q 0x4000 []) := by
  refine ⟨by decide +kernel, ?_⟩; unfold When.capForce; (try dsimp only) <;> decide +kernel

theorem test_capForce_refused : State.ready up 0x0904 [4, 0xC] (q 0x4000 ([0])) = true ∧ ¬ When.capForce (State.begun up 0x0904 (q 0x4000 ([0]))) (q 0x4000 ([0])) := by
  refine ⟨by decide +kernel, ?_⟩
  · unfold When.capForce; (try dsimp only) <;> decide +kernel

theorem test_capAbort : State.ready up 0x0905 [4, 0xC] (q 0x4000 []) = true ∧ When.capAbort (State.begun up 0x0905 (q 0x4000 [])) (q 0x4000 []) := by
  refine ⟨by decide +kernel, ?_⟩; unfold When.capAbort; (try dsimp only) <;> decide +kernel

theorem test_capAbort_refused : State.ready up 0x0905 [4, 0xC] (q 0x4000 ([0])) = true ∧ ¬ When.capAbort (State.begun up 0x0905 (q 0x4000 ([0]))) (q 0x4000 ([0])) := by
  refine ⟨by decide +kernel, ?_⟩
  · unfold When.capAbort; (try dsimp only) <;> decide +kernel

theorem test_capStatus : State.ready up 0x0906 [4, 0xC] (q 0x4000 []) = true ∧ When.capStatus (State.begun up 0x0906 (q 0x4000 [])) (q 0x4000 []) := by
  refine ⟨by decide +kernel, ?_⟩; unfold When.capStatus; (try dsimp only) <;> decide +kernel

theorem test_capStatus_refused : State.ready up 0x0906 [4, 0xC] (q 0x4000 ([0])) = true ∧ ¬ When.capStatus (State.begun up 0x0906 (q 0x4000 ([0]))) (q 0x4000 ([0])) := by
  refine ⟨by decide +kernel, ?_⟩
  · unfold When.capStatus; (try dsimp only) <;> decide +kernel

theorem test_capHeader : State.ready capSt 0x0907 [4, 0xC] (q 0x4000 (zs 4)) = true ∧ When.capHeader (State.begun capSt 0x0907 (q 0x4000 (zs 4))) (q 0x4000 (zs 4)) := by
  refine ⟨by decide +kernel, ?_⟩; unfold When.capHeader; (try dsimp only) <;> decide +kernel

theorem test_capHeader_refused : State.ready capSt 0x0907 [4, 0xC] (q 0x4000 ([0])) = true ∧ ¬ When.capHeader (State.begun capSt 0x0907 (q 0x4000 ([0]))) (q 0x4000 ([0])) := by
  refine ⟨by decide +kernel, ?_⟩
  · unfold When.capHeader; (try dsimp only) <;> decide +kernel

theorem test_capRead : State.ready capSt 0x0908 [4, 0xC] (q 0x4000 (zs 8 ++ [4, 0, 0, 0])) = true ∧ When.capRead (State.begun capSt 0x0908 (q 0x4000 (zs 8 ++ [4, 0, 0, 0]))) (q 0x4000 (zs 8 ++ [4, 0, 0, 0])) := by
  refine ⟨by decide +kernel, ?_⟩; unfold When.capRead; (try dsimp only) <;> decide +kernel

theorem test_capRead_refused : State.ready capSt 0x0908 [4, 0xC] (q 0x4000 ([0])) = true ∧ ¬ When.capRead (State.begun capSt 0x0908 (q 0x4000 ([0]))) (q 0x4000 ([0])) := by
  refine ⟨by decide +kernel, ?_⟩
  · unfold When.capRead; (try dsimp only) <;> decide +kernel

theorem test_capReadCfg : State.ready up 0x0909 [4, 0xC] (q 0x4000 []) = true ∧ When.capReadCfg (State.begun up 0x0909 (q 0x4000 [])) (q 0x4000 []) := by
  refine ⟨by decide +kernel, ?_⟩; unfold When.capReadCfg; (try dsimp only) <;> decide +kernel

theorem test_capReadCfg_refused : State.ready up 0x0909 [4, 0xC] (q 0x4000 ([0])) = true ∧ ¬ When.capReadCfg (State.begun up 0x0909 (q 0x4000 ([0]))) (q 0x4000 ([0])) := by
  refine ⟨by decide +kernel, ?_⟩
  · unfold When.capReadCfg; (try dsimp only) <;> decide +kernel

theorem test_hatchLineConfig : State.ready up 0x0A01 [6, 8, 0xC] (q 0x6000 (zs 10 ++ [1, 0])) = true ∧ When.hatchLineConfig [0] (State.begun up 0x0A01 (q 0x6000 (zs 10 ++ [1, 0]))) (q 0x6000 (zs 10 ++ [1, 0])) := by
  refine ⟨by decide +kernel, ?_⟩; unfold When.hatchLineConfig; (try dsimp only) <;> decide +kernel

theorem test_hatchLineConfig_refused : State.ready up 0x0A01 [6, 8, 0xC] (q 0x6000 ([0])) = true ∧ (∀ keys : List Nat, ¬ When.hatchLineConfig keys (State.begun up 0x0A01 (q 0x6000 ([0]))) (q 0x6000 ([0]))) := by
  refine ⟨by decide +kernel, ?_⟩
  · intro keys h; unfold When.hatchLineConfig at h; simp [q] at h

theorem test_hatchProducer : State.ready up 0x0A02 [6, 8, 0xC] (q 0x6000 ([42, 0, 0, 0, 255, 127] ++ zs 6)) = true ∧ When.hatchProducer (State.begun up 0x0A02 (q 0x6000 ([42, 0, 0, 0, 255, 127] ++ zs 6))) (q 0x6000 ([42, 0, 0, 0, 255, 127] ++ zs 6)) := by
  refine ⟨by decide +kernel, ?_⟩; unfold When.hatchProducer; (try dsimp only) <;> decide +kernel

theorem test_hatchProducer2 : State.ready up 0x0A02 [6, 8, 0xC] (q 0x8000 ([20] ++ zs 11)) = true ∧ When.hatchProducer2 (State.begun up 0x0A02 (q 0x8000 ([20] ++ zs 11))) (q 0x8000 ([20] ++ zs 11)) := by
  refine ⟨by decide +kernel, ?_⟩; unfold When.hatchProducer2; (try dsimp only) <;> decide +kernel

theorem test_hatchProducer_refused : State.ready up 0x0A02 [6, 8, 0xC] (q 0x6000 ([0])) = true ∧ (¬ When.hatchProducer (State.begun up 0x0A02 (q 0x6000 ([0]))) (q 0x6000 ([0]))) ∧ (¬ When.hatchProducer2 (State.begun up 0x0A02 (q 0x6000 ([0]))) (q 0x6000 ([0]))) := by
  refine ⟨by decide +kernel, ?_, ?_⟩
  · unfold When.hatchProducer; (try dsimp only) <;> decide +kernel
  · unfold When.hatchProducer2; (try dsimp only) <;> decide +kernel

theorem test_hatchForward : State.ready up 0x0A03 [6, 7, 8, 0xC] (q 0x6000 ([255, 255, 255, 127] ++ zs 12)) = true ∧ When.hatchForward (State.begun up 0x0A03 (q 0x6000 ([255, 255, 255, 127] ++ zs 12))) (q 0x6000 ([255, 255, 255, 127] ++ zs 12)) := by
  refine ⟨by decide +kernel, ?_⟩; unfold When.hatchForward; (try dsimp only) <;> decide +kernel

theorem test_hatchForward2 : State.ready up 0x0A03 [6, 7, 8, 0xC] (q 0x7000 ([255, 255, 255, 255, 255, 127] ++ zs 10)) = true ∧ When.hatchForward2 (State.begun up 0x0A03 (q 0x7000 ([255, 255, 255, 255, 255, 127] ++ zs 10))) (q 0x7000 ([255, 255, 255, 255, 255, 127] ++ zs 10)) := by
  refine ⟨by decide +kernel, ?_⟩; unfold When.hatchForward2; (try dsimp only) <;> decide +kernel

theorem test_hatchForward3 : State.ready up 0x0A03 [6, 7, 8, 0xC] (q 0x8000 (zs 16)) = true ∧ When.hatchForward3 (State.begun up 0x0A03 (q 0x8000 (zs 16))) (q 0x8000 (zs 16)) := by
  refine ⟨by decide +kernel, ?_⟩; unfold When.hatchForward3; (try dsimp only) <;> decide +kernel

theorem test_hatchForward_refused : State.ready up 0x0A03 [6, 7, 8, 0xC] (q 0x6000 ([0])) = true ∧ (¬ When.hatchForward (State.begun up 0x0A03 (q 0x6000 ([0]))) (q 0x6000 ([0]))) ∧ (¬ When.hatchForward2 (State.begun up 0x0A03 (q 0x6000 ([0]))) (q 0x6000 ([0]))) ∧ (¬ When.hatchForward3 (State.begun up 0x0A03 (q 0x6000 ([0]))) (q 0x6000 ([0]))) := by
  refine ⟨by decide +kernel, ?_, ?_, ?_⟩
  · unfold When.hatchForward; (try dsimp only) <;> decide +kernel
  · unfold When.hatchForward2; (try dsimp only) <;> decide +kernel
  · unfold When.hatchForward3; (try dsimp only) <;> decide +kernel

theorem test_hatchTask : State.ready up 0x0A04 [8] (q 0x8000 (zs 16)) = true ∧ When.hatchTask (State.begun up 0x0A04 (q 0x8000 (zs 16))) (q 0x8000 (zs 16)) := by
  refine ⟨by decide +kernel, ?_⟩; unfold When.hatchTask; (try dsimp only) <;> decide +kernel

theorem test_hatchTask_refused : State.ready up 0x0A04 [8] (q 0x8000 ([0])) = true ∧ ¬ When.hatchTask (State.begun up 0x0A04 (q 0x8000 ([0]))) (q 0x8000 ([0])) := by
  refine ⟨by decide +kernel, ?_⟩
  · unfold When.hatchTask; (try dsimp only) <;> decide +kernel

theorem test_hatchBind : State.ready up 0x0A05 [6, 8, 0xC] (q 0x6000 (zs 16 ++ [7, 0, 0, 0])) = true ∧ When.hatchBind (State.begun up 0x0A05 (q 0x6000 (zs 16 ++ [7, 0, 0, 0]))) (q 0x6000 (zs 16 ++ [7, 0, 0, 0])) := by
  refine ⟨by decide +kernel, ?_⟩; unfold When.hatchBind; (try dsimp only) <;> decide +kernel

theorem test_hatchBind2 : State.ready up 0x0A05 [6, 8, 0xC] (q 0x8000 (zs 16 ++ [3, 0, 0, 0])) = true ∧ When.hatchBind2 (State.begun up 0x0A05 (q 0x8000 (zs 16 ++ [3, 0, 0, 0]))) (q 0x8000 (zs 16 ++ [3, 0, 0, 0])) := by
  refine ⟨by decide +kernel, ?_⟩; unfold When.hatchBind2; (try dsimp only) <;> decide +kernel

theorem test_hatchBind_refused : State.ready up 0x0A05 [6, 8, 0xC] (q 0x6000 ([0])) = true ∧ (¬ When.hatchBind (State.begun up 0x0A05 (q 0x6000 ([0]))) (q 0x6000 ([0]))) ∧ (¬ When.hatchBind2 (State.begun up 0x0A05 (q 0x6000 ([0]))) (q 0x6000 ([0]))) := by
  refine ⟨by decide +kernel, ?_, ?_⟩
  · unfold When.hatchBind; (try dsimp only) <;> decide +kernel
  · unfold When.hatchBind2; (try dsimp only) <;> decide +kernel

theorem test_hatchGroup : State.ready up 0x0A06 [8] (q 0x8000 ([255, 255, 255, 255] ++ zs 4)) = true ∧ When.hatchGroup (State.begun up 0x0A06 (q 0x8000 ([255, 255, 255, 255] ++ zs 4))) (q 0x8000 ([255, 255, 255, 255] ++ zs 4)) := by
  refine ⟨by decide +kernel, ?_⟩; unfold When.hatchGroup; (try dsimp only) <;> decide +kernel

theorem test_hatchGroup_refused : State.ready up 0x0A06 [8] (q 0x8000 ([0])) = true ∧ ¬ When.hatchGroup (State.begun up 0x0A06 (q 0x8000 ([0]))) (q 0x8000 ([0])) := by
  refine ⟨by decide +kernel, ?_⟩
  · unfold When.hatchGroup; (try dsimp only) <;> decide +kernel

theorem test_hatchRestore : State.ready up 0x0A07 [6, 8, 0xC] (q 0x6000 (zs 4)) = true ∧ When.hatchRestore [0] (State.begun up 0x0A07 (q 0x6000 (zs 4))) (q 0x6000 (zs 4)) := by
  refine ⟨by decide +kernel, ?_⟩; unfold When.hatchRestore; (try dsimp only) <;> decide +kernel

theorem test_hatchRestore_refused : State.ready up 0x0A07 [6, 8, 0xC] (q 0x6000 ([0])) = true ∧ (∀ keys : List Nat, ¬ When.hatchRestore keys (State.begun up 0x0A07 (q 0x6000 ([0]))) (q 0x6000 ([0]))) := by
  refine ⟨by decide +kernel, ?_⟩
  · intro keys h; unfold When.hatchRestore at h; simp [q] at h

theorem test_hatchPulse : State.ready up 0x0A08 [8] (q 0x8000 ([63, 0, 0, 0])) = true ∧ When.hatchPulse (State.begun up 0x0A08 (q 0x8000 ([63, 0, 0, 0]))) (q 0x8000 ([63, 0, 0, 0])) := by
  refine ⟨by decide +kernel, ?_⟩; unfold When.hatchPulse; (try dsimp only) <;> decide +kernel

theorem test_hatchPulse_refused : State.ready up 0x0A08 [8] (q 0x8000 ([0])) = true ∧ ¬ When.hatchPulse (State.begun up 0x0A08 (q 0x8000 ([0]))) (q 0x8000 ([0])) := by
  refine ⟨by decide +kernel, ?_⟩
  · unfold When.hatchPulse; (try dsimp only) <;> decide +kernel

theorem test_hatchStatus : State.ready up 0x0A09 [6, 7, 8, 0xC] (q 0x6000 ([1, 0, 0, 0])) = true ∧ When.hatchStatus (State.begun up 0x0A09 (q 0x6000 ([1, 0, 0, 0]))) (q 0x6000 ([1, 0, 0, 0])) := by
  refine ⟨by decide +kernel, ?_⟩; unfold When.hatchStatus; (try dsimp only) <;> decide +kernel

theorem test_hatchStatus_refused : State.ready up 0x0A09 [6, 7, 8, 0xC] (q 0x6000 ([0])) = true ∧ ¬ When.hatchStatus (State.begun up 0x0A09 (q 0x6000 ([0]))) (q 0x6000 ([0])) := by
  refine ⟨by decide +kernel, ?_⟩
  · unfold When.hatchStatus; (try dsimp only) <;> decide +kernel

theorem test_calConfig : State.ready up 0x0B01 [8] (q 0x8000 ([17, 60, 0, 0])) = true ∧ When.calConfig (State.begun up 0x0B01 (q 0x8000 ([17, 60, 0, 0]))) (q 0x8000 ([17, 60, 0, 0])) := by
  refine ⟨by decide +kernel, ?_⟩; unfold When.calConfig; (try dsimp only) <;> decide +kernel

theorem test_calConfig_refused : State.ready up 0x0B01 [8] (q 0x8000 ([0])) = true ∧ ¬ When.calConfig (State.begun up 0x0B01 (q 0x8000 ([0]))) (q 0x8000 ([0])) := by
  refine ⟨by decide +kernel, ?_⟩
  · unfold When.calConfig; (try dsimp only) <;> decide +kernel

theorem test_calPinmask : State.ready up 0x0B02 [6, 0xC] (q 0x6000 ([255, 255, 0, 0])) = true ∧ When.calPinmask (State.begun up 0x0B02 (q 0x6000 ([255, 255, 0, 0]))) (q 0x6000 ([255, 255, 0, 0])) := by
  refine ⟨by decide +kernel, ?_⟩; unfold When.calPinmask; (try dsimp only) <;> decide +kernel

theorem test_calPinmask_refused : State.ready up 0x0B02 [6, 0xC] (q 0x6000 ([0])) = true ∧ ¬ When.calPinmask (State.begun up 0x0B02 (q 0x6000 ([0]))) (q 0x6000 ([0])) := by
  refine ⟨by decide +kernel, ?_⟩
  · unfold When.calPinmask; (try dsimp only) <;> decide +kernel

theorem test_calRun : State.ready up 0x0B03 [7, 0xC] (q 0x7000 ([1, 0, 0, 0])) = true ∧ When.calRun (State.begun up 0x0B03 (q 0x7000 ([1, 0, 0, 0]))) (q 0x7000 ([1, 0, 0, 0])) := by
  refine ⟨by decide +kernel, ?_⟩; unfold When.calRun; (try dsimp only) <;> decide +kernel

theorem test_calRun_refused : State.ready up 0x0B03 [7, 0xC] (q 0x7000 ([0])) = true ∧ ¬ When.calRun (State.begun up 0x0B03 (q 0x7000 ([0]))) (q 0x7000 ([0])) := by
  refine ⟨by decide +kernel, ?_⟩
  · unfold When.calRun; (try dsimp only) <;> decide +kernel

theorem test_calStatus : State.ready up 0x0B04 [7, 8, 0xC] (q 0x8000 []) = true ∧ When.calStatus (State.begun up 0x0B04 (q 0x8000 [])) (q 0x8000 []) := by
  refine ⟨by decide +kernel, ?_⟩; unfold When.calStatus; (try dsimp only) <;> decide +kernel

theorem test_calStatus_refused : State.ready up 0x0B04 [7, 8, 0xC] (q 0x8000 ([0])) = true ∧ ¬ When.calStatus (State.begun up 0x0B04 (q 0x8000 ([0]))) (q 0x8000 ([0])) := by
  refine ⟨by decide +kernel, ?_⟩
  · unfold When.calStatus; (try dsimp only) <;> decide +kernel

theorem test_calQuality : State.ready up 0x0B05 [0, 1, 3, 4, 5, 0xC] (q 0x0000 []) = true ∧ When.calQuality (State.begun up 0x0B05 (q 0x0000 [])) (q 0x0000 []) := by
  refine ⟨by decide +kernel, ?_⟩; unfold When.calQuality; (try dsimp only) <;> decide +kernel

theorem test_calQuality_refused : State.ready up 0x0B05 [0, 1, 3, 4, 5, 0xC] (q 0x0000 ([0])) = true ∧ ¬ When.calQuality (State.begun up 0x0B05 (q 0x0000 ([0]))) (q 0x0000 ([0])) := by
  refine ⟨by decide +kernel, ?_⟩
  · unfold When.calQuality; (try dsimp only) <;> decide +kernel

theorem test_calStore : State.ready up 0x0B06 [8] (q 0x8000 []) = true ∧ When.calStore (State.begun up 0x0B06 (q 0x8000 [])) (q 0x8000 []) := by
  refine ⟨by decide +kernel, ?_⟩; unfold When.calStore; (try dsimp only) <;> decide +kernel

theorem test_calStore_refused : State.ready up 0x0B06 [8] (q 0x8000 ([0])) = true ∧ ¬ When.calStore (State.begun up 0x0B06 (q 0x8000 ([0]))) (q 0x8000 ([0])) := by
  refine ⟨by decide +kernel, ?_⟩
  · unfold When.calStore; (try dsimp only) <;> decide +kernel

theorem test_calTemps : State.ready up 0x0B07 [8] (q 0x8000 []) = true ∧ When.calTemps (State.begun up 0x0B07 (q 0x8000 [])) (q 0x8000 []) := by
  refine ⟨by decide +kernel, ?_⟩; unfold When.calTemps; (try dsimp only) <;> decide +kernel

theorem test_calTemps_refused : State.ready up 0x0B07 [8] (q 0x8000 ([0])) = true ∧ ¬ When.calTemps (State.begun up 0x0B07 (q 0x8000 ([0]))) (q 0x8000 ([0])) := by
  refine ⟨by decide +kernel, ?_⟩
  · unfold When.calTemps; (try dsimp only) <;> decide +kernel

theorem test_netConfig : State.ready up 0x0C01 [8] (q 0x8000 ([1, 4, 64, 16] ++ zs 4 ++ [30] ++ zs 39 ++ [232, 3, 232, 3])) = true ∧ When.netConfig (State.begun up 0x0C01 (q 0x8000 ([1, 4, 64, 16] ++ zs 4 ++ [30] ++ zs 39 ++ [232, 3, 232, 3]))) (q 0x8000 ([1, 4, 64, 16] ++ zs 4 ++ [30] ++ zs 39 ++ [232, 3, 232, 3])) := by
  refine ⟨by decide +kernel, ?_⟩; unfold When.netConfig; (try dsimp only) <;> decide +kernel

theorem test_netConfig_refused : State.ready up 0x0C01 [8] (q 0x8000 ([0])) = true ∧ ¬ When.netConfig (State.begun up 0x0C01 (q 0x8000 ([0]))) (q 0x8000 ([0])) := by
  refine ⟨by decide +kernel, ?_⟩
  · unfold When.netConfig; (try dsimp only) <;> decide +kernel

theorem test_netStatus : State.ready up 0x0C02 [8] (q 0x8000 []) = true ∧ When.netStatus (State.begun up 0x0C02 (q 0x8000 [])) (q 0x8000 []) := by
  refine ⟨by decide +kernel, ?_⟩; unfold When.netStatus; (try dsimp only) <;> decide +kernel

theorem test_netStatus_refused : State.ready up 0x0C02 [8] (q 0x8000 ([0])) = true ∧ ¬ When.netStatus (State.begun up 0x0C02 (q 0x8000 ([0]))) (q 0x8000 ([0])) := by
  refine ⟨by decide +kernel, ?_⟩
  · unfold When.netStatus; (try dsimp only) <;> decide +kernel

theorem test_ptpConfig : State.ready up 0x0C03 [8] (q 0x8000 ([3, 127, 3, 2] ++ zs 5 ++ [202, 154, 59])) = true ∧ When.ptpConfig (State.begun up 0x0C03 (q 0x8000 ([3, 127, 3, 2] ++ zs 5 ++ [202, 154, 59]))) (q 0x8000 ([3, 127, 3, 2] ++ zs 5 ++ [202, 154, 59])) := by
  refine ⟨by decide +kernel, ?_⟩; unfold When.ptpConfig; (try dsimp only) <;> decide +kernel

theorem test_ptpConfig_refused : State.ready up 0x0C03 [8] (q 0x8000 ([0])) = true ∧ ¬ When.ptpConfig (State.begun up 0x0C03 (q 0x8000 ([0]))) (q 0x8000 ([0])) := by
  refine ⟨by decide +kernel, ?_⟩
  · unfold When.ptpConfig; (try dsimp only) <;> decide +kernel

theorem test_timeStatus : State.ready up 0x0C04 [8] (q 0x8000 []) = true ∧ When.timeStatus (State.begun up 0x0C04 (q 0x8000 [])) (q 0x8000 []) := by
  refine ⟨by decide +kernel, ?_⟩; unfold When.timeStatus; (try dsimp only) <;> decide +kernel

theorem test_timeStatus_refused : State.ready up 0x0C04 [8] (q 0x8000 ([0])) = true ∧ ¬ When.timeStatus (State.begun up 0x0C04 (q 0x8000 ([0]))) (q 0x8000 ([0])) := by
  refine ⟨by decide +kernel, ?_⟩
  · unfold When.timeStatus; (try dsimp only) <;> decide +kernel

theorem test_timeAdjust : State.ready up 0x0C05 [8] (q 0x8000 (zs 4 ++ [4, 0, 0, 0])) = true ∧ When.timeAdjust (State.begun up 0x0C05 (q 0x8000 (zs 4 ++ [4, 0, 0, 0]))) (q 0x8000 (zs 4 ++ [4, 0, 0, 0])) := by
  refine ⟨by decide +kernel, ?_⟩; unfold When.timeAdjust; (try dsimp only) <;> decide +kernel

theorem test_timeAdjust_refused : State.ready up 0x0C05 [8] (q 0x8000 ([0])) = true ∧ ¬ When.timeAdjust (State.begun up 0x0C05 (q 0x8000 ([0]))) (q 0x8000 ([0])) := by
  refine ⟨by decide +kernel, ?_⟩
  · unfold When.timeAdjust; (try dsimp only) <;> decide +kernel

theorem test_timeStep : State.ready up 0x0C06 [8] (q 0x8000 ([233, 3] ++ zs 10)) = true ∧ When.timeStep (State.begun up 0x0C06 (q 0x8000 ([233, 3] ++ zs 10))) (q 0x8000 ([233, 3] ++ zs 10)) := by
  refine ⟨by decide +kernel, ?_⟩; unfold When.timeStep; (try dsimp only) <;> decide +kernel

theorem test_timeStep2 : State.ready up 0x0C06 [8] (q 0x8000 ([24, 252, 255, 255, 255, 255, 255, 255] ++ zs 4)) = true ∧ When.timeStep2 (State.begun up 0x0C06 (q 0x8000 ([24, 252, 255, 255, 255, 255, 255, 255] ++ zs 4))) (q 0x8000 ([24, 252, 255, 255, 255, 255, 255, 255] ++ zs 4)) := by
  refine ⟨by decide +kernel, ?_⟩; unfold When.timeStep2; (try dsimp only) <;> decide +kernel

theorem test_timeStep_refused : State.ready up 0x0C06 [8] (q 0x8000 ([0])) = true ∧ (¬ When.timeStep (State.begun up 0x0C06 (q 0x8000 ([0]))) (q 0x8000 ([0]))) ∧ (¬ When.timeStep2 (State.begun up 0x0C06 (q 0x8000 ([0]))) (q 0x8000 ([0]))) := by
  refine ⟨by decide +kernel, ?_, ?_⟩
  · unfold When.timeStep; (try dsimp only) <;> decide +kernel
  · unfold When.timeStep2; (try dsimp only) <;> decide +kernel

theorem test_tcmpArm : State.ready up 0x0C07 [8] (q 0x8000 ([15, 2, 0, 0, 232, 3] ++ zs 10)) = true ∧ When.tcmpArm (State.begun up 0x0C07 (q 0x8000 ([15, 2, 0, 0, 232, 3] ++ zs 10))) (q 0x8000 ([15, 2, 0, 0, 232, 3] ++ zs 10)) := by
  refine ⟨by decide +kernel, ?_⟩; unfold When.tcmpArm; (try dsimp only) <;> decide +kernel

theorem test_tcmpArm_refused : State.ready up 0x0C07 [8] (q 0x8000 ([0])) = true ∧ ¬ When.tcmpArm (State.begun up 0x0C07 (q 0x8000 ([0]))) (q 0x8000 ([0])) := by
  refine ⟨by decide +kernel, ?_⟩
  · unfold When.tcmpArm; (try dsimp only) <;> decide +kernel

theorem test_tcmpStatus : State.ready up 0x0C08 [8] (q 0x8000 []) = true ∧ When.tcmpStatus (State.begun up 0x0C08 (q 0x8000 [])) (q 0x8000 []) := by
  refine ⟨by decide +kernel, ?_⟩; unfold When.tcmpStatus; (try dsimp only) <;> decide +kernel

theorem test_tcmpStatus_refused : State.ready up 0x0C08 [8] (q 0x8000 ([0])) = true ∧ ¬ When.tcmpStatus (State.begun up 0x0C08 (q 0x8000 ([0]))) (q 0x8000 ([0])) := by
  refine ⟨by decide +kernel, ?_⟩
  · unfold When.tcmpStatus; (try dsimp only) <;> decide +kernel

theorem test_exportOpen : State.ready netSt 0x0C09 [8] (q 0x8000 ([1, 0, 127, 0, 0, 16, 1, 0, 1, 0, 0, 0, 100] ++ zs 23)) = true ∧ When.exportOpen (State.begun netSt 0x0C09 (q 0x8000 ([1, 0, 127, 0, 0, 16, 1, 0, 1, 0, 0, 0, 100] ++ zs 23))) (q 0x8000 ([1, 0, 127, 0, 0, 16, 1, 0, 1, 0, 0, 0, 100] ++ zs 23)) := by
  refine ⟨by decide +kernel, ?_⟩; unfold When.exportOpen; (try dsimp only) <;> decide +kernel

theorem test_exportOpen_refused : State.ready netSt 0x0C09 [8] (q 0x8000 ([0])) = true ∧ ¬ When.exportOpen (State.begun netSt 0x0C09 (q 0x8000 ([0]))) (q 0x8000 ([0])) := by
  refine ⟨by decide +kernel, ?_⟩
  · unfold When.exportOpen; (try dsimp only) <;> decide +kernel

theorem test_exportClose : State.ready up 0x0C0A [8] (q 0x8000 []) = true ∧ When.exportClose (State.begun up 0x0C0A (q 0x8000 [])) (q 0x8000 []) := by
  refine ⟨by decide +kernel, ?_⟩; unfold When.exportClose; (try dsimp only) <;> decide +kernel

theorem test_exportClose_refused : State.ready up 0x0C0A [8] (q 0x8000 ([0])) = true ∧ ¬ When.exportClose (State.begun up 0x0C0A (q 0x8000 ([0]))) (q 0x8000 ([0])) := by
  refine ⟨by decide +kernel, ?_⟩
  · unfold When.exportClose; (try dsimp only) <;> decide +kernel

theorem test_exportStatus : State.ready up 0x0C0B [8] (q 0x8000 []) = true ∧ When.exportStatus (State.begun up 0x0C0B (q 0x8000 [])) (q 0x8000 []) := by
  refine ⟨by decide +kernel, ?_⟩; unfold When.exportStatus; (try dsimp only) <;> decide +kernel

theorem test_exportStatus_refused : State.ready up 0x0C0B [8] (q 0x8000 ([0])) = true ∧ ¬ When.exportStatus (State.begun up 0x0C0B (q 0x8000 ([0]))) (q 0x8000 ([0])) := by
  refine ⟨by decide +kernel, ?_⟩
  · unfold When.exportStatus; (try dsimp only) <;> decide +kernel

theorem test_exportResend : State.ready expSt 0x0C0C [8] (q 0x8000 ([7, 0, 0, 0, 1, 0, 0, 0])) = true ∧ When.exportResend (State.begun expSt 0x0C0C (q 0x8000 ([7, 0, 0, 0, 1, 0, 0, 0]))) (q 0x8000 ([7, 0, 0, 0, 1, 0, 0, 0])) := by
  refine ⟨by decide +kernel, ?_⟩; unfold When.exportResend; (try dsimp only) <;> decide +kernel

theorem test_exportResend_refused : State.ready expSt 0x0C0C [8] (q 0x8000 ([0])) = true ∧ ¬ When.exportResend (State.begun expSt 0x0C0C (q 0x8000 ([0]))) (q 0x8000 ([0])) := by
  refine ⟨by decide +kernel, ?_⟩
  · unfold When.exportResend; (try dsimp only) <;> decide +kernel

theorem test_twinConfig : State.ready up 0x0D01 [8] (q 0x8000 ([1, 0, 208, 7, 16, 39, 0, 0])) = true ∧ When.twinConfig (State.begun up 0x0D01 (q 0x8000 ([1, 0, 208, 7, 16, 39, 0, 0]))) (q 0x8000 ([1, 0, 208, 7, 16, 39, 0, 0])) := by
  refine ⟨by decide +kernel, ?_⟩; unfold When.twinConfig; (try dsimp only) <;> decide +kernel

theorem test_twinConfig_refused : State.ready up 0x0D01 [8] (q 0x8000 ([0])) = true ∧ ¬ When.twinConfig (State.begun up 0x0D01 (q 0x8000 ([0]))) (q 0x8000 ([0])) := by
  refine ⟨by decide +kernel, ?_⟩
  · unfold When.twinConfig; (try dsimp only) <;> decide +kernel

theorem test_twinStatus : State.ready up 0x0D02 [8] (q 0x8000 []) = true ∧ When.twinStatus (State.begun up 0x0D02 (q 0x8000 [])) (q 0x8000 []) := by
  refine ⟨by decide +kernel, ?_⟩; unfold When.twinStatus; (try dsimp only) <;> decide +kernel

theorem test_twinStatus_refused : State.ready up 0x0D02 [8] (q 0x8000 ([0])) = true ∧ ¬ When.twinStatus (State.begun up 0x0D02 (q 0x8000 ([0]))) (q 0x8000 ([0])) := by
  refine ⟨by decide +kernel, ?_⟩
  · unfold When.twinStatus; (try dsimp only) <;> decide +kernel

theorem test_twinHalf : State.ready up 0x0D03 [8] (q 0x8000 ([1, 0, 0, 0])) = true ∧ When.twinHalf (State.begun up 0x0D03 (q 0x8000 ([1, 0, 0, 0]))) (q 0x8000 ([1, 0, 0, 0])) := by
  refine ⟨by decide +kernel, ?_⟩; unfold When.twinHalf; (try dsimp only) <;> decide +kernel

theorem test_twinHalf_refused : State.ready up 0x0D03 [8] (q 0x8000 ([0])) = true ∧ ¬ When.twinHalf (State.begun up 0x0D03 (q 0x8000 ([0]))) (q 0x8000 ([0])) := by
  refine ⟨by decide +kernel, ?_⟩
  · unfold When.twinHalf; (try dsimp only) <;> decide +kernel

theorem test_twinRelease : State.ready doubleSt 0x0D04 [8] (q 0x8000 []) = true ∧ When.twinRelease (State.begun doubleSt 0x0D04 (q 0x8000 [])) (q 0x8000 []) := by
  refine ⟨by decide +kernel, ?_⟩; unfold When.twinRelease; (try dsimp only) <;> decide +kernel

theorem test_twinRelease_refused : State.ready doubleSt 0x0D04 [8] (q 0x8000 ([0])) = true ∧ ¬ When.twinRelease (State.begun doubleSt 0x0D04 (q 0x8000 ([0]))) (q 0x8000 ([0])) := by
  refine ⟨by decide +kernel, ?_⟩
  · unfold When.twinRelease; (try dsimp only) <;> decide +kernel

theorem test_jrnConfig : State.ready up 0x0D05 [6, 0xC] (q 0x6000 ([1, 0, 0, 0])) = true ∧ When.jrnConfig (State.begun up 0x0D05 (q 0x6000 ([1, 0, 0, 0]))) (q 0x6000 ([1, 0, 0, 0])) := by
  refine ⟨by decide +kernel, ?_⟩; unfold When.jrnConfig; (try dsimp only) <;> decide +kernel

theorem test_jrnConfig_refused : State.ready up 0x0D05 [6, 0xC] (q 0x6000 ([0])) = true ∧ ¬ When.jrnConfig (State.begun up 0x0D05 (q 0x6000 ([0]))) (q 0x6000 ([0])) := by
  refine ⟨by decide +kernel, ?_⟩
  · unfold When.jrnConfig; (try dsimp only) <;> decide +kernel

theorem test_jrnCheckpoint : State.ready ckptSt 0x0D06 [8] (q 0x8000 ([127, 0, 0, 0])) = true ∧ When.jrnCheckpoint { site := 127 } (State.begun ckptSt 0x0D06 (q 0x8000 ([127, 0, 0, 0]))) (q 0x8000 ([127, 0, 0, 0])) := by
  refine ⟨by decide +kernel, ?_⟩; unfold When.jrnCheckpoint; (try dsimp only) <;> decide +kernel

theorem test_jrnCheckpoint_refused : State.ready ckptSt 0x0D06 [8] (q 0x8000 ([0])) = true ∧ (∀ c : Ckpt, ¬ When.jrnCheckpoint c (State.begun ckptSt 0x0D06 (q 0x8000 ([0]))) (q 0x8000 ([0]))) := by
  refine ⟨by decide +kernel, ?_⟩
  · intro c h; unfold When.jrnCheckpoint at h; simp [q] at h

theorem test_jrnMarkers : State.ready up 0x0D07 [8] (q 0x8000 ([0, 0, 254, 0])) = true ∧ When.jrnMarkers (State.begun up 0x0D07 (q 0x8000 ([0, 0, 254, 0]))) (q 0x8000 ([0, 0, 254, 0])) := by
  refine ⟨by decide +kernel, ?_⟩; unfold When.jrnMarkers; (try dsimp only) <;> decide +kernel

theorem test_jrnMarkers_refused : State.ready up 0x0D07 [8] (q 0x8000 ([0])) = true ∧ ¬ When.jrnMarkers (State.begun up 0x0D07 (q 0x8000 ([0]))) (q 0x8000 ([0])) := by
  refine ⟨by decide +kernel, ?_⟩
  · unfold When.jrnMarkers; (try dsimp only) <;> decide +kernel

theorem test_jrnReport : State.ready up 0x0D08 [8] (q 0x8000 []) = true ∧ When.jrnReport (State.begun up 0x0D08 (q 0x8000 [])) (q 0x8000 []) := by
  refine ⟨by decide +kernel, ?_⟩; unfold When.jrnReport; (try dsimp only) <;> decide +kernel

theorem test_jrnReport_refused : State.ready up 0x0D08 [8] (q 0x8000 ([0])) = true ∧ ¬ When.jrnReport (State.begun up 0x0D08 (q 0x8000 ([0]))) (q 0x8000 ([0])) := by
  refine ⟨by decide +kernel, ?_⟩
  · unfold When.jrnReport; (try dsimp only) <;> decide +kernel

theorem test_fltRead : State.ready fltSt 0x0E01 [8] (q 0x8000 (zs 4 ++ [127, 0, 0, 0])) = true ∧ When.fltRead (State.begun fltSt 0x0E01 (q 0x8000 (zs 4 ++ [127, 0, 0, 0]))) (q 0x8000 (zs 4 ++ [127, 0, 0, 0])) := by
  refine ⟨by decide +kernel, ?_⟩; unfold When.fltRead; (try dsimp only) <;> decide +kernel

theorem test_fltRead_refused : State.ready fltSt 0x0E01 [8] (q 0x8000 ([0])) = true ∧ ¬ When.fltRead (State.begun fltSt 0x0E01 (q 0x8000 ([0]))) (q 0x8000 ([0])) := by
  refine ⟨by decide +kernel, ?_⟩
  · unfold When.fltRead; (try dsimp only) <;> decide +kernel

theorem test_fltAck : State.ready fltSt 0x0E02 [8] (q 0x8000 (zs 8)) = true ∧ When.fltAck (State.begun fltSt 0x0E02 (q 0x8000 (zs 8))) (q 0x8000 (zs 8)) := by
  refine ⟨by decide +kernel, ?_⟩; unfold When.fltAck; (try dsimp only) <;> decide +kernel

theorem test_fltAck_refused : State.ready fltSt 0x0E02 [8] (q 0x8000 ([0])) = true ∧ ¬ When.fltAck (State.begun fltSt 0x0E02 (q 0x8000 ([0]))) (q 0x8000 ([0])) := by
  refine ⟨by decide +kernel, ?_⟩
  · unfold When.fltAck; (try dsimp only) <;> decide +kernel

theorem test_fltForce : State.ready up 0x0E03 [8] (q 0x8000 ([1, 160, 0, 128, 1] ++ zs 7)) = true ∧ When.fltForce (State.begun up 0x0E03 (q 0x8000 ([1, 160, 0, 128, 1] ++ zs 7))) (q 0x8000 ([1, 160, 0, 128, 1] ++ zs 7)) := by
  refine ⟨by decide +kernel, ?_⟩; unfold When.fltForce; (try dsimp only) <;> decide +kernel

theorem test_fltForce_refused : State.ready up 0x0E03 [8] (q 0x8000 ([0])) = true ∧ ¬ When.fltForce (State.begun up 0x0E03 (q 0x8000 ([0]))) (q 0x8000 ([0])) := by
  refine ⟨by decide +kernel, ?_⟩
  · unfold When.fltForce; (try dsimp only) <;> decide +kernel

theorem test_fltConfig : State.ready up 0x0E04 [8] (q 0x8000 ([144, 1, 0, 0])) = true ∧ When.fltConfig (State.begun up 0x0E04 (q 0x8000 ([144, 1, 0, 0]))) (q 0x8000 ([144, 1, 0, 0])) := by
  refine ⟨by decide +kernel, ?_⟩; unfold When.fltConfig; (try dsimp only) <;> decide +kernel

theorem test_fltConfig_refused : State.ready up 0x0E04 [8] (q 0x8000 ([0])) = true ∧ ¬ When.fltConfig (State.begun up 0x0E04 (q 0x8000 ([0]))) (q 0x8000 ([0])) := by
  refine ⟨by decide +kernel, ?_⟩
  · unfold When.fltConfig; (try dsimp only) <;> decide +kernel

theorem test_fltLog : State.ready fltSt 0x0E05 [8] (q 0x8000 (zs 4 ++ [1, 0, 0, 0])) = true ∧ When.fltLog (State.begun fltSt 0x0E05 (q 0x8000 (zs 4 ++ [1, 0, 0, 0]))) (q 0x8000 (zs 4 ++ [1, 0, 0, 0])) := by
  refine ⟨by decide +kernel, ?_⟩; unfold When.fltLog; (try dsimp only) <;> decide +kernel

theorem test_fltLog_refused : State.ready fltSt 0x0E05 [8] (q 0x8000 ([0])) = true ∧ ¬ When.fltLog (State.begun fltSt 0x0E05 (q 0x8000 ([0]))) (q 0x8000 ([0])) := by
  refine ⟨by decide +kernel, ?_⟩
  · unfold When.fltLog; (try dsimp only) <;> decide +kernel

theorem test_fltRelease : State.ready up 0x0E06 [6, 0xC] (q 0x6000 []) = true ∧ When.fltRelease (State.begun up 0x0E06 (q 0x6000 [])) (q 0x6000 []) := by
  refine ⟨by decide +kernel, ?_⟩; unfold When.fltRelease; (try dsimp only) <;> decide +kernel

theorem test_fltRelease_refused : State.ready up 0x0E06 [6, 0xC] (q 0x6000 ([0])) = true ∧ ¬ When.fltRelease (State.begun up 0x0E06 (q 0x6000 ([0]))) (q 0x6000 ([0])) := by
  refine ⟨by decide +kernel, ?_⟩
  · unfold When.fltRelease; (try dsimp only) <;> decide +kernel

theorem test_secCert : State.ready up 0x0F01 [8] (q 0x8000 ([2, 0, 0, 0])) = true ∧ When.secCert (State.begun up 0x0F01 (q 0x8000 ([2, 0, 0, 0]))) (q 0x8000 ([2, 0, 0, 0])) := by
  refine ⟨by decide +kernel, ?_⟩; unfold When.secCert; (try dsimp only) <;> decide +kernel

theorem test_secCert_refused : State.ready up 0x0F01 [8] (q 0x8000 ([0])) = true ∧ ¬ When.secCert (State.begun up 0x0F01 (q 0x8000 ([0]))) (q 0x8000 ([0])) := by
  refine ⟨by decide +kernel, ?_⟩
  · unfold When.secCert; (try dsimp only) <;> decide +kernel

theorem test_secAttest : State.ready up 0x0F02 [8] (q 0x8000 (zs 32)) = true ∧ When.secAttest (State.begun up 0x0F02 (q 0x8000 (zs 32))) (q 0x8000 (zs 32)) := by
  refine ⟨by decide +kernel, ?_⟩; unfold When.secAttest; (try dsimp only) <;> decide +kernel

theorem test_secAttest_refused : State.ready up 0x0F02 [8] (q 0x8000 ([0])) = true ∧ ¬ When.secAttest (State.begun up 0x0F02 (q 0x8000 ([0]))) (q 0x8000 ([0])) := by
  refine ⟨by decide +kernel, ?_⟩
  · unfold When.secAttest; (try dsimp only) <;> decide +kernel

theorem test_imgWrite : State.ready up 0x0F03 [8] (q 0x8000 (zs 8 ++ [1, 0, 0, 0])) = true ∧ When.imgWrite (State.begun up 0x0F03 (q 0x8000 (zs 8 ++ [1, 0, 0, 0]))) (q 0x8000 (zs 8 ++ [1, 0, 0, 0])) := by
  refine ⟨by decide +kernel, ?_⟩; unfold When.imgWrite; (try dsimp only) <;> decide +kernel

theorem test_imgWrite_refused : State.ready up 0x0F03 [8] (q 0x8000 ([0])) = true ∧ ¬ When.imgWrite (State.begun up 0x0F03 (q 0x8000 ([0]))) (q 0x8000 ([0])) := by
  refine ⟨by decide +kernel, ?_⟩
  · unfold When.imgWrite; (try dsimp only) <;> decide +kernel

theorem test_imgCommit : State.ready imgSt 0x0F04 [8] (q 0x8000 (zs 4)) = true ∧ When.imgCommit (State.begun imgSt 0x0F04 (q 0x8000 (zs 4))) (q 0x8000 (zs 4)) := by
  refine ⟨by decide +kernel, ?_⟩; unfold When.imgCommit; (try dsimp only) <;> decide +kernel

theorem test_imgCommit_refused : State.ready imgSt 0x0F04 [8] (q 0x8000 ([0])) = true ∧ ¬ When.imgCommit (State.begun imgSt 0x0F04 (q 0x8000 ([0]))) (q 0x8000 ([0])) := by
  refine ⟨by decide +kernel, ?_⟩
  · unfold When.imgCommit; (try dsimp only) <;> decide +kernel

theorem test_imgActivate : State.ready up 0x0F05 [8] (q 0x8000 ([0, 0, 1, 0])) = true ∧ When.imgActivate (State.begun up 0x0F05 (q 0x8000 ([0, 0, 1, 0]))) (q 0x8000 ([0, 0, 1, 0])) := by
  refine ⟨by decide +kernel, ?_⟩; unfold When.imgActivate; (try dsimp only) <;> decide +kernel

theorem test_imgActivate_refused : State.ready up 0x0F05 [8] (q 0x8000 ([0])) = true ∧ ¬ When.imgActivate (State.begun up 0x0F05 (q 0x8000 ([0]))) (q 0x8000 ([0])) := by
  refine ⟨by decide +kernel, ?_⟩
  · unfold When.imgActivate; (try dsimp only) <;> decide +kernel

theorem test_imgStatus : State.ready up 0x0F06 [8] (q 0x8000 []) = true ∧ When.imgStatus (State.begun up 0x0F06 (q 0x8000 [])) (q 0x8000 []) := by
  refine ⟨by decide +kernel, ?_⟩; unfold When.imgStatus; (try dsimp only) <;> decide +kernel

theorem test_imgStatus_refused : State.ready up 0x0F06 [8] (q 0x8000 ([0])) = true ∧ ¬ When.imgStatus (State.begun up 0x0F06 (q 0x8000 ([0]))) (q 0x8000 ([0])) := by
  refine ⟨by decide +kernel, ?_⟩
  · unfold When.imgStatus; (try dsimp only) <;> decide +kernel

theorem test_lcChallenge : State.ready up 0x0F07 [8] (q 0x8000 []) = true ∧ When.lcChallenge (State.begun up 0x0F07 (q 0x8000 [])) (q 0x8000 []) := by
  refine ⟨by decide +kernel, ?_⟩; unfold When.lcChallenge; (try dsimp only) <;> decide +kernel

theorem test_lcChallenge_refused : State.ready up 0x0F07 [8] (q 0x8000 ([0])) = true ∧ ¬ When.lcChallenge (State.begun up 0x0F07 (q 0x8000 ([0]))) (q 0x8000 ([0])) := by
  refine ⟨by decide +kernel, ?_⟩
  · unfold When.lcChallenge; (try dsimp only) <;> decide +kernel

theorem test_lcCsr : State.ready bareSt 0x0F08 [8] (q 0x8000 ([1, 0, 0, 0])) = true ∧ When.lcCsr (State.begun bareSt 0x0F08 (q 0x8000 ([1, 0, 0, 0]))) (q 0x8000 ([1, 0, 0, 0])) := by
  refine ⟨by decide +kernel, ?_⟩; unfold When.lcCsr; (try dsimp only) <;> decide +kernel

theorem test_lcCsr_refused : State.ready bareSt 0x0F08 [8] (q 0x8000 ([0])) = true ∧ ¬ When.lcCsr (State.begun bareSt 0x0F08 (q 0x8000 ([0]))) (q 0x8000 ([0])) := by
  refine ⟨by decide +kernel, ?_⟩
  · unfold When.lcCsr; (try dsimp only) <;> decide +kernel

theorem test_lcInstall : State.ready bareSt 0x0F09 [8] (q 0x8000 (zs 161)) = true ∧ When.lcInstall (State.begun bareSt 0x0F09 (q 0x8000 (zs 161))) (q 0x8000 (zs 161)) := by
  refine ⟨by decide +kernel, ?_⟩; unfold When.lcInstall; (try dsimp only) <;> decide +kernel

theorem test_lcInstall_refused : State.ready bareSt 0x0F09 [8] (q 0x8000 ([0])) = true ∧ ¬ When.lcInstall (State.begun bareSt 0x0F09 (q 0x8000 ([0]))) (q 0x8000 ([0])) := by
  refine ⟨by decide +kernel, ?_⟩
  · unfold When.lcInstall; (try dsimp only) <;> decide +kernel

theorem test_lcTransition : State.ready up 0x0F0A [8] (q 0x8000 ([4] ++ zs 7)) = true ∧ When.lcTransition (State.begun up 0x0F0A (q 0x8000 ([4] ++ zs 7))) (q 0x8000 ([4] ++ zs 7)) := by
  refine ⟨by decide +kernel, ?_⟩; unfold When.lcTransition; (try dsimp only) <;> decide +kernel

theorem test_lcTransition2 : State.ready up 0x0F0A [8] (q 0x8000 ([2, 0, 0, 0, 90, 165, 0, 0])) = true ∧ When.lcTransition2 (State.begun up 0x0F0A (q 0x8000 ([2, 0, 0, 0, 90, 165, 0, 0]))) (q 0x8000 ([2, 0, 0, 0, 90, 165, 0, 0])) := by
  refine ⟨by decide +kernel, ?_⟩; unfold When.lcTransition2; (try dsimp only) <;> decide +kernel

theorem test_lcTransition_refused : State.ready up 0x0F0A [8] (q 0x8000 ([0])) = true ∧ (¬ When.lcTransition (State.begun up 0x0F0A (q 0x8000 ([0]))) (q 0x8000 ([0]))) ∧ (¬ When.lcTransition2 (State.begun up 0x0F0A (q 0x8000 ([0]))) (q 0x8000 ([0]))) := by
  refine ⟨by decide +kernel, ?_, ?_⟩
  · unfold When.lcTransition; (try dsimp only) <;> decide +kernel
  · unfold When.lcTransition2; (try dsimp only) <;> decide +kernel

theorem test_heartbeatReceive : When.heartbeatReceive (up.setTwin { up.twin with link := true }) := by
  unfold When.heartbeatReceive; (try dsimp only) <;> decide +kernel

theorem test_heartbeatReceive_idle : ¬ When.heartbeatReceive up := by
  unfold When.heartbeatReceive; (try dsimp only) <;> decide +kernel

theorem test_counterproofLinkUp : When.counterproofLinkUp up := by
  unfold When.counterproofLinkUp; (try dsimp only) <;> decide +kernel

theorem test_counterproofLinkUp_idle : ¬ When.counterproofLinkUp inDormant := by
  unfold When.counterproofLinkUp; (try dsimp only) <;> decide +kernel

theorem test_ptpMessage : When.ptpMessage 1 ptpSt := by
  unfold When.ptpMessage; (try dsimp only) <;> decide +kernel

theorem test_ptpMessage_idle : ¬ When.ptpMessage 1 up := by
  unfold When.ptpMessage; (try dsimp only) <;> decide +kernel

theorem test_mpTick : When.mpTick up := by
  unfold When.mpTick; (try dsimp only) <;> decide +kernel

theorem test_mpTick_idle : ¬ When.mpTick State.reset := by
  unfold When.mpTick; (try dsimp only) <;> decide +kernel

theorem test_jtagUpdateDr : When.jtagUpdateDr { up with jtag := { up.jtag with ir := jtagExtest } } := by
  unfold When.jtagUpdateDr; (try dsimp only) <;> decide +kernel

theorem test_jtagUpdateDr_idle : ¬ When.jtagUpdateDr up := by
  unfold When.jtagUpdateDr; (try dsimp only) <;> decide +kernel

theorem test_clip : When.clip 0 (ampUp.setBridge 0 { mode := 2 }) := by
  unfold When.clip; (try dsimp only) <;> decide +kernel

theorem test_clip_idle : ¬ When.clip 0 up := by
  unfold When.clip; (try dsimp only) <;> decide +kernel

theorem test_smuOutputSettled : When.smuOutputSettled 0 (heldBy { kind := .smuSettle } 0x1000) { kind := .smuSettle } {} (waitingIn up { kind := .smuSettle } 0x1000) := by
  unfold When.smuOutputSettled; (try dsimp only) <;> decide +kernel

theorem test_exportCloseTimeout : When.exportCloseTimeout { up with exporter := { closing := true } } := by
  unfold When.exportCloseTimeout; (try dsimp only) <;> decide +kernel

theorem test_exportCloseTimeout_idle : ¬ When.exportCloseTimeout up := by
  unfold When.exportCloseTimeout; (try dsimp only) <;> decide +kernel

end Sys2Proof.Tests
end

section
/-!
The event notification queue of Hatch (R19, R339): where an entry goes in, what a post does with space and without, and the LOST entry that
carries the count of what was lost.
-/
namespace Sys2Proof.Machine

/-! ## Where an entry goes in -/

/-- The entry `x` stands behind `e` although it was queued before: it has the same time and a higher SOURCE (R339). -/
def staysBehind (e x : List Byte) : Bool := x.drop 8 == e.drop 8 && u16 e 2 < u16 x 2

theorem staysBehind_iff (e x : List Byte) : staysBehind e x = true ↔ x.drop 8 = e.drop 8 ∧ u16 e 2 < u16 x 2 := by
  simp only [staysBehind, Bool.and_eq_true, beq_iff_eq, decide_eq_true_eq]

/-- The entries at the end of the queue that stay behind `e`. -/
def queuedBehind (e : List Byte) (q : List (List Byte)) : List (List Byte) := (q.reverse.takeWhile (staysBehind e)).reverse

/-- The entries of the queue up to the last that does not stay behind `e`. -/
def queuedBefore (e : List Byte) (q : List (List Byte)) : List (List Byte) := (q.reverse.dropWhile (staysBehind e)).reverse

theorem queuedBefore_append_queuedBehind (e : List Byte) (q : List (List Byte)) : queuedBefore e q ++ queuedBehind e q = q := by
  rw [queuedBefore, queuedBehind, ← List.reverse_append, List.takeWhile_append_dropWhile, List.reverse_reverse]

theorem length_queuedBehind (e : List Byte) (q : List (List Byte)) :
    (queuedBehind e q).length = (q.reverse.takeWhile (staysBehind e)).length := List.length_reverse

theorem staysBehind_of_mem_queuedBehind {e x : List Byte} {q : List (List Byte)} (hx : x ∈ queuedBehind e q) : staysBehind e x = true :=
  List.all_eq_true.mp List.all_takeWhile x (List.mem_reverse.mp hx)

/-- An entry goes in right before the last entries that stay behind it. -/
theorem queueNote_eq_append_cons (e : List Byte) (q : List (List Byte)) : queueNote e q = queuedBefore e q ++ e :: queuedBehind e q := by
  have hq := queuedBefore_append_queuedBehind e q
  have hle : (queuedBefore e q).length + (queuedBehind e q).length = q.length := by rw [← List.length_append, hq]
  obtain ⟨htake, hdrop⟩ := List.append_inj'
    ((List.take_append_drop (q.length - (q.reverse.takeWhile (staysBehind e)).length) q).trans hq.symm)
    (by rw [List.length_drop, ← length_queuedBehind]; omega)
  calc queueNote e q
      = q.take (q.length - (q.reverse.takeWhile (staysBehind e)).length)
          ++ e :: q.drop (q.length - (q.reverse.takeWhile (staysBehind e)).length) := rfl
    _ = queuedBefore e q ++ e :: queuedBehind e q := by rw [htake, hdrop]

theorem queueNote_splits (e : List Byte) (q : List (List Byte)) :
    ∃ before after, q = before ++ after ∧ queueNote e q = before ++ e :: after ∧ ∀ x ∈ after, x.drop 8 = e.drop 8 ∧ u16 e 2 < u16 x 2 :=
  ⟨queuedBefore e q, queuedBehind e q, (queuedBefore_append_queuedBehind e q).symm, queueNote_eq_append_cons e q,
    fun x hx => (staysBehind_iff e x).mp (staysBehind_of_mem_queuedBehind hx)⟩

/-! ## A post with space and without -/

theorem State.note_of_space {s : State} (h : s.hatch.queue.length < 512) (e : List Byte) :
    s.note e = { s with hatch := { s.hatch with queue := queueNote e s.hatch.queue } } := if_pos h

theorem State.note_of_full {s : State} (h : 512 ≤ s.hatch.queue.length) (e : List Byte) :
    s.note e = { s with hatch := { s.hatch with evqLost := sat16 s.hatch.evqLost } } := if_neg (Nat.not_lt.mpr h)

/-! ## EVQ_LOST_POST -/

theorem exec_evqLostPost_posts {s : State} (hlost : s.hatch.evqLost ≠ 0) (hspace : s.hatch.queue.length < 512) :
    exec .evqLostPost s = .next { s with
      hatch := { s.hatch with evqLost := 0, queue := queueNote (noteEntry 5 0 0 false s.hatch.evqLost s.netNs) s.hatch.queue } } := by
  have hpost : exec .evqLostPost s =
      .next ((s.setHatch { s.hatch with evqLost := 0 }).note (noteEntry 5 0 0 false s.hatch.evqLost s.netNs)) :=
    if_neg (by simp only [Bool.or_eq_true, beq_iff_eq, decide_eq_true_eq]; omega)
  exact hpost.trans (congrArg _ (State.note_of_space (s := s.setHatch { s.hatch with evqLost := 0 }) hspace _))

theorem exec_evqLostPost_idle {s : State} (h : s.hatch.evqLost = 0 ∨ 512 ≤ s.hatch.queue.length) : exec .evqLostPost s = .next s :=
  if_pos (by simpa only [Bool.or_eq_true, beq_iff_eq, decide_eq_true_eq] using h)

/-- Settles O20: the two branches of a post (R19, R339), and EVQ_LOST_POST with its condition and without (R19; log 3 for the latter). -/
theorem aFullQueueCountsWhatItLoses : Obligations.AFullQueueCountsWhatItLoses := by
  intro s e
  refine ⟨fun hfull => State.note_of_full hfull e, fun hspace => ⟨State.note_of_space hspace e, ?_⟩,
    exec_evqLostPost_posts, exec_evqLostPost_idle⟩
  exact queueNote_splits e s.hatch.queue

end Sys2Proof.Machine
end

section
/-!
Step 7 of R402, the target (R33, R35, R36, R37): the status for each way in which a target is refused, and what a refused target makes of a
command whose header is sound.
-/
namespace Sys2Proof.Machine

/-! ## The status of a target -/

section TargetStatus

variable {s : State} {target : Word} {accept : List Nat}

theorem targetStatus_of_upperHalf (h : 65536 ≤ target.toNat) : s.targetStatus target accept = stBadHandle := if_pos h

theorem targetStatus_of_not_handleOk (h : handleOk (target.setWidth 16) = false) : s.targetStatus target accept = stBadHandle := by
  by_cases hup : 65536 ≤ target.toNat
  · exact targetStatus_of_upperHalf hup
  · exact (if_neg hup).trans (if_pos (by rw [h]; rfl))

theorem targetStatus_twinDevice : s.targetStatus 0x8001 accept = stNotLocal := rfl

/-- The class is judged alike for a cane's handle and a unit's (R37). -/
theorem targetStatus_of_class_not_mem (hup : target.toNat < 65536) (hok : handleOk (target.setWidth 16) = true)
    (htwin : target.setWidth 16 ≠ 0x8001#16) (hcls : hClass (target.setWidth 16) ∉ accept) : s.targetStatus target accept = stWrongClass := by
  unfold State.targetStatus
  dsimp only
  rw [if_neg (Nat.not_le.mpr hup), if_neg (by simp [hok]), if_neg (by simpa using htwin)]
  by_cases hcane : hClass (target.setWidth 16) = 0xC
  · rw [if_pos (beq_iff_eq.mpr hcane), if_pos (by simpa [hcane] using hcls)]
  · rw [if_neg (by simpa using hcane), if_pos (by simpa using hcls)]

/-- A cane of a member class that the command does not take; the cane's own class may be one that it takes (R37). -/
theorem targetStatus_of_cane_class_not_mem {c : Cane} (hup : target.toNat < 65536) (hok : handleOk (target.setWidth 16) = true)
    (hcane : hClass (target.setWidth 16) = 0xC) (hdef : s.cane (hIndex (target.setWidth 16)) = some c) (hcls : c.cls ∉ accept) :
    s.targetStatus target accept = stWrongClass := by
  have htwin : target.setWidth 16 ≠ 0x8001#16 := fun h => absurd (h ▸ hcane) (by decide)
  by_cases htaken : 0xC ∈ accept
  · unfold State.targetStatus
    dsimp only
    rw [if_neg (Nat.not_le.mpr hup), if_neg (by simp [hok]), if_neg (by simpa using htwin), if_pos (beq_iff_eq.mpr hcane),
      if_neg (by simpa using htaken), hdef]
    exact if_neg (by simpa using hcls)
  · exact targetStatus_of_class_not_mem hup hok htwin (hcane ▸ htaken)

end TargetStatus

/-! ## A command with a refused target -/

/-- Behind a sound header a refused target turns the command away with its status (R402). -/
theorem exec_turnedAway_of_targetStatus {c : Instr} {op : Half} {accept : List Nat} {r : Req} {s : State} {st : Half}
    (hc : requestOf c = some (op, accept, r)) (hreached : s.reached op accept r = true) (hloader : s.loaderTakes op r = true)
    (hhead : headPasses op r = true) (hst : s.targetStatus r.target accept = st) (hbad : st ≠ stOK) :
    ∃ bound, exec c s = .next (s.turnedAway op r bound st) := by
  obtain ⟨bound, body, hexec⟩ := request_firmware hc s
  have henv : s.envelope op r accept = st := (envelope_target hhead (hst ▸ hbad)).trans hst
  exact ⟨bound, by rw [hexec, firmware_refused hreached hloader (henv ▸ hbad), henv]⟩

/-- Settles O15 (R37): neither a unit's class nor a cane's member class outside the command's list is accepted. -/
theorem otherClassesAreRefused : Obligations.OtherClassesAreRefused := by
  intro c op accept r s hc hreached hloader hhead hup hother
  refine exec_turnedAway_of_targetStatus hc hreached hloader hhead ?_ (show stWrongClass ≠ stOK by decide)
  obtain ⟨hok, htwin, hcls⟩ | ⟨k, hcane, hdef, hcls, hok⟩ := hother
  · exact targetStatus_of_class_not_mem hup hok (fun h => htwin (by bv_omega)) hcls
  · exact targetStatus_of_cane_class_not_mem hup hok hcane hdef hcls

/-- Settles O16 (R33, R35, R36): the handle itself, the twin's device handle, and the class where a command takes 0x8000 alone. -/
theorem theTargetFieldIsChecked : Obligations.TheTargetFieldIsChecked := by
  intro c op accept r s hc hreached hloader hhead
  have turned {st : Half} (hst : s.targetStatus r.target accept = st) (hbad : st ≠ stOK) :=
    exec_turnedAway_of_targetStatus hc hreached hloader hhead hst hbad
  refine ⟨fun hbad => turned (st := stBadHandle) ?_ (by decide), fun _ htwin => turned (st := stNotLocal) ?_ (by decide),
    fun haccept hup hok hcls => turned (st := stWrongClass) ?_ (by decide)⟩
  · exact hbad.elim targetStatus_of_upperHalf targetStatus_of_not_handleOk
  · rw [htwin]; exact targetStatus_twinDevice
  · have htwin : r.target.setWidth 16 ≠ 0x8001#16 := fun h => hcls (h ▸ by decide)
    exact targetStatus_of_class_not_mem hup hok htwin (by simpa [haccept] using hcls)

end Sys2Proof.Machine
end

section
/-!
What a firmware command changes beyond its own part: the doorbell, the checks of R402, the forming of the response (R411), the shadow (R458), the
twin (R45) and the return from IDLE (R543) touch few parts of the device. `AnswerFrame s t` names them; one lemma for each operation, and at the
end one for every way a firmware command can run.
-/
namespace Sys2Proof.Machine

/-! ## The frame -/

/-- `s` with the parts of `t` by which commands are taken, checked and answered. -/
def State.withAnswer (s t : State) : State :=
  { s with amp := { s.amp with refusals := t.amp.refusals }, faults := t.faults, freeCount := t.freeCount, mbx := t.mbx, ports := t.ports
           power := { s.power with pstate := t.power.pstate }, twin := t.twin }

/-- `t` differs from `s` at most in those parts. -/
def AnswerFrame (s t : State) : Prop := t = s.withAnswer t

theorem AnswerFrame.refl (s : State) : AnswerFrame s s := rfl

theorem AnswerFrame.of_mbx (s : State) (mbx : Tab Mailbox) : AnswerFrame s { s with mbx := mbx } := rfl

theorem AnswerFrame.trans {s t u : State} (h : AnswerFrame s t) (k : AnswerFrame t u) : AnswerFrame s u :=
  Eq.trans k (congrArg (·.withAnswer u) h)

theorem AnswerFrame.gather {s t : State} (h : AnswerFrame s t) (g : Nat) : t.gather g = s.gather g := congrArg (·.gather g) h

section Operations

variable {s0 s : State}

theorem AnswerFrame.ite {c : Prop} [Decidable c] {a b : State} (ha : AnswerFrame s0 a) (hb : AnswerFrame s0 b) :
    AnswerFrame s0 (if c then a else b) := by
  split
  · exact ha
  · exact hb

theorem AnswerFrame.foldl {α : Type} {f : State → α → State} (hf : ∀ u x, AnswerFrame s0 u → AnswerFrame s0 (f u x)) (xs : List α) :
    ∀ {s}, AnswerFrame s0 s → AnswerFrame s0 (xs.foldl f s) := by
  induction xs with
  | nil => exact id
  | cons x xs ih => exact fun h => ih (hf _ x h)

theorem State.setMbx_answers (h : AnswerFrame s0 s) (m : Nat) (x : Mailbox) : AnswerFrame s0 (s.setMbx m x) := h.trans rfl
theorem State.setTwin_answers (h : AnswerFrame s0 s) (t : Twin) : AnswerFrame s0 (s.setTwin t) := h.trans rfl
theorem State.setPstate_answers (h : AnswerFrame s0 s) (p : Nat) : AnswerFrame s0 (s.setPstate p) := h.trans rfl
theorem State.send_answers (h : AnswerFrame s0 s) (p : Nat) (x : Sent1) : AnswerFrame s0 (s.send p x) := h.trans rfl
theorem State.advise_answers (h : AnswerFrame s0 s) (src scope : Half) (detail : Word) : AnswerFrame s0 (s.advise src scope detail) := h.trans rfl
theorem State.linkSend_answers (h : AnswerFrame s0 s) (m : LinkMsg) : AnswerFrame s0 (s.linkSend m) := h.trans rfl
theorem State.mirrorSend_answers (h : AnswerFrame s0 s) (m : LinkMsg) : AnswerFrame s0 (s.mirrorSend m) := h.trans rfl
theorem State.startHead_answers (h : AnswerFrame s0 s) (m : Nat) : AnswerFrame s0 (s.startHead m) := h.trans rfl
theorem State.await_answers (h : AnswerFrame s0 s) (m : Nat) (w : Wait) : AnswerFrame s0 (s.await m w) := h.trans rfl
theorem State.boundBy_answers (h : AnswerFrame s0 s) (m bound : Nat) : AnswerFrame s0 (s.boundBy m bound) := h.trans rfl

theorem State.requestTurn_answers (h : AnswerFrame s0 s) : AnswerFrame s0 s.requestTurn :=
  AnswerFrame.ite h (State.setTwin_answers h _)

theorem State.countRefused_answers (h : AnswerFrame s0 s) (m : Nat) (st : Half) : AnswerFrame s0 (s.countRefused m st) :=
  AnswerFrame.ite (h.trans rfl) h

theorem State.otherWrite_answers (h : AnswerFrame s0 s) (op : Half) (r : Req) : AnswerFrame s0 (s.otherWrite op r) :=
  AnswerFrame.ite (State.setTwin_answers h _) (State.setTwin_answers h _)

theorem State.wakeFor_answers (h : AnswerFrame s0 s) (op : Half) (m : Nat) : AnswerFrame s0 (s.wakeFor op m) := by
  have hwake : AnswerFrame s0 (s.wakeIdle op) := AnswerFrame.ite (State.setPstate_answers h 1) h
  exact State.setMbx_answers hwake _ _

theorem State.shadowWrite_answers (h : AnswerFrame s0 s) (op : Half) (r : Req) : AnswerFrame s0 (s.shadowWrite op r) :=
  AnswerFrame.ite h (AnswerFrame.ite (State.mirrorSend_answers h _) (AnswerFrame.ite (State.setTwin_answers h _) (State.setTwin_answers h _)))

/-! ## Responses -/

theorem State.pumpMbx_answers (h : AnswerFrame s0 s) (m : Nat) : AnswerFrame s0 (s.pumpMbx m) := by
  unfold State.pumpMbx
  refine AnswerFrame.ite ?_ h
  extract_lets x
  split
  · exact AnswerFrame.ite (State.send_answers (State.setMbx_answers h _ _) _ _) h
  · exact h

theorem State.respondOne_answers (h : AnswerFrame s0 s) (m bound : Nat) (rep : Reply) : AnswerFrame s0 (s.respondOne m bound rep) := by
  unfold State.respondOne
  extract_lets x
  split
  · exact h
  · split
    · extract_lets b late y formed posted
      have hformed : AnswerFrame s0 formed := State.setMbx_answers h m y
      exact State.pumpMbx_answers (AnswerFrame.ite (State.advise_answers hformed _ _ _) hformed) m
    · exact h

theorem State.fenceTry_answers (h : AnswerFrame s0 s) (m : Nat) : AnswerFrame s0 (s.fenceTry m) := by
  unfold State.fenceTry
  split
  · exact AnswerFrame.ite (State.respondOne_answers h _ _ _) h
  · exact h

theorem State.fencesDone_answers (h : AnswerFrame s0 s) : AnswerFrame s0 s.fencesDone :=
  AnswerFrame.ite h (AnswerFrame.foldl (fun _ _ k => AnswerFrame.foldl (fun _ m k => State.fenceTry_answers k m) _ k) _ h)

theorem State.respond_answers (h : AnswerFrame s0 s) (m bound : Nat) (rep : Reply) : AnswerFrame s0 (s.respond m bound rep) :=
  State.fencesDone_answers (State.respondOne_answers h m bound rep)

theorem State.refuseLast_answers (h : AnswerFrame s0 s) (m : Nat) (rep : Reply) : AnswerFrame s0 (s.refuseLast m rep) := by
  unfold State.refuseLast
  extract_lets x
  split
  · exact h
  · exact State.pumpMbx_answers (State.setMbx_answers h _ _) m

/-- What follows a command's own part in its own half (R404, R411, R458, R467, R543). -/
theorem State.finish_answers (h : AnswerFrame s0 s) (op : Half) (bound : Nat) (r : Req) (t : Tgt) (span : Option Tgt) (a : Act) :
    AnswerFrame s0 (s.finish op bound r t span a) := by
  unfold State.finish
  extract_lets m written ok sent bounded
  have hwritten : AnswerFrame s0 written := AnswerFrame.ite (State.shadowWrite_answers (State.wakeFor_answers h op m) op r) h
  have hsent : AnswerFrame s0 sent :=
    AnswerFrame.ite (State.linkSend_answers hwritten _) (AnswerFrame.ite (State.requestTurn_answers hwritten) hwritten)
  have hbounded : AnswerFrame s0 bounded := State.boundBy_answers hsent m bound
  split
  · exact State.await_answers hbounded _ _
  · split
    · exact State.await_answers hbounded _ _
    · exact State.respond_answers hbounded _ _ _
  · exact AnswerFrame.ite (State.respond_answers hbounded _ _ _)
      (AnswerFrame.ite (State.await_answers hbounded _ _) (State.await_answers hbounded _ _))

/-- What follows a command's own part, which has left `u`: from there, or, where a change of a descriptor waits for the twin (R44), from before it. -/
theorem State.conclude_answers (op : Half) (bound : Nat) (r : Req) (s u : State) (a : Act) :
    AnswerFrame s (s.conclude op bound r u a) ∨ AnswerFrame u (s.conclude op bound r u a) := by
  unfold State.conclude
  extract_lets span
  split
  · exact .inl (State.await_answers (State.linkSend_answers (.refl s) _) _ _)
  · refine .inr (AnswerFrame.ite ?_ (State.finish_answers (.refl u) _ _ _ _ _ _))
    exact State.finish_answers (State.otherWrite_answers (.refl u) op r) _ _ _ _ _ _

end Operations

/-! ## Doorbells -/

/-- What a doorbell comes to, with whether the request was taken: no more than an answer changes, and, taken, only mailboxes. -/
def RingFrame (s : State) (p : State × Bool) : Prop := AnswerFrame s p.1 ∧ (p.2 = true → ∃ mbx, p.1 = { s with mbx := mbx })

theorem RingFrame.not_taken {s t : State} (h : AnswerFrame s t) : RingFrame s (t, false) := ⟨h, nofun⟩

theorem RingFrame.taken (s : State) (mbx : Tab Mailbox) : RingFrame s ({ s with mbx := mbx }, true) := ⟨rfl, fun _ => ⟨mbx, rfl⟩⟩

theorem RingFrame.ite {s : State} {c : Prop} [Decidable c] {a b : State × Bool} (ha : RingFrame s a) (hb : RingFrame s b) :
    RingFrame s (if c then a else b) := by
  split
  · exact ha
  · exact hb

theorem State.ring_frame (s : State) (op : Half) (r : Req) (x : Option Word) : RingFrame s (s.ring op r x) := by
  have away : RingFrame s (s, false) := .not_taken (.refl s)
  unfold State.ring
  refine .ite away (.ite (.not_taken (State.setMbx_answers (.refl s) _ _)) (.ite ?_ (.ite ?_ (.ite ?_ (.taken s _)))))
  · exact .not_taken (State.pumpMbx_answers (State.setMbx_answers (.refl s) _ _) _)
  · exact .ite (.taken s _) away
  · exact .ite (.taken s _) away

/-! ## How a firmware command runs -/

/-- What a request of a command with the part `body` of its own comes to in `s`: no more than an answer changes, of `s` or of what that part
left; and that part found nothing changed but mailboxes. -/
def RunFrame (body : State → Req → State × Act) (r : Req) (s t : State) : Prop :=
  AnswerFrame s t ∨ ∃ mbx, AnswerFrame (body { s with mbx := mbx } r).1 t

section Run

variable {r : Req} {body : State → Req → State × Act}

theorem RunFrame.ran {s t : State} (h : AnswerFrame (body s r).1 t) : RunFrame body r s t := .inr ⟨s.mbx, h⟩

theorem RunFrame.ite {s : State} {c : Prop} [Decidable c] {a b : State} (ha : RunFrame body r s a) (hb : RunFrame body r s b) :
    RunFrame body r s (if c then a else b) := by
  split
  · exact ha
  · exact hb

/-- A request runs as well from a state with other mailboxes. -/
theorem RunFrame.of_mbx {s t : State} {mbx : Tab Mailbox} (h : RunFrame body r { s with mbx := mbx } t) : RunFrame body r s t :=
  h.imp_left (AnswerFrame.of_mbx s mbx).trans

theorem State.runBody_frame (s : State) (op : Half) (bound : Nat) (r : Req) (body : State → Req → State × Act) :
    RunFrame body r s (s.runBody op bound r body) :=
  (State.conclude_answers op bound r s (body s r).1 (body s r).2).elim .inl .ran

/-- The checks change no more than an answer does, unless the command's own part has run (R402). -/
theorem State.verdict_answers (s : State) (op : Half) (accept : List Nat) (r : Req) (body : State → Req → State × Act) :
    AnswerFrame s (s.verdict op accept r body).1 ∨ (s.verdict op accept r body).1 = (body s r).1 := by
  unfold State.verdict
  extract_lets m st
  split
  · exact .inl (.refl s)
  · split
    · exact .inl (State.countRefused_answers (.refl s) m st)
    · split
      · exact .inl (.refl s)
      · dsimp only
        split
        · exact .inr rfl
        · exact .inl (.refl s)

theorem State.bellCheck_frame (s : State) (op : Half) (bound : Nat) (accept : List Nat) (r : Req) (body : State → Req → State × Act) :
    RunFrame body r s (s.bellCheck op bound accept r body) := by
  unfold State.bellCheck
  extract_lets m x
  split
  · exact .inl (.refl s)
  · refine .ite (.inl (.refl s)) ?_
    split
    next u rep hverdict =>
      have hrefused : AnswerFrame u (State.refuseLast { u with mbx := s.mbx } m rep) := State.refuseLast_answers (.of_mbx u _) m rep
      obtain hchecked | hran : AnswerFrame s u ∨ u = (body s r).1 := by
        simpa only [hverdict] using State.verdict_answers s op accept r body
      · exact .inl (hchecked.trans hrefused)
      · exact .ran (hran ▸ hrefused)
    next => exact .inl (State.setMbx_answers (.refl s) m _)

/-- How every firmware command runs (R402 to R404), for what it may change. -/
theorem State.firmware_frame (s : State) (op : Half) (bound : Nat) (accept : List Nat) (r : Req) (body : State → Req → State × Act) :
    RunFrame body r s (s.firmware op bound accept r body) := by
  unfold State.firmware
  extract_lets m matchHead free
  split
  rename_i rung taken hrung
  have hring : RingFrame s (rung, taken) := hrung ▸ RingFrame.ite (.taken s s.mbx) (State.ring_frame s op r none)
  obtain ⟨hanswer, htaken⟩ := hring
  cases taken with
  | false => exact .inl hanswer
  | true =>
    obtain ⟨mbx, rfl⟩ := htaken rfl
    refine .of_mbx (mbx := mbx) ?_
    have stays := AnswerFrame.refl { s with mbx := mbx }
    have hbell := State.bellCheck_frame { s with mbx := mbx } op bound accept r body
    extract_lets atHead started st
    have hstarted : AnswerFrame _ started := State.startHead_answers stays m
    refine .ite (.inl stays) (.ite hbell (.ite (.inl ?_) (.ite (.ite (.inl stays) hbell) ?_)))
    · exact .ite stays (State.requestTurn_answers stays)
    · refine .ite (.inl (State.respond_answers hstarted _ _ _)) (.ite (.inl ?_) (.ite (.inl (State.respond_answers hstarted _ _ _)) ?_))
      · exact State.respond_answers (State.countRefused_answers hstarted _ _) _ _ _
      · exact (State.runBody_frame started op bound r body).of_mbx

end Run

end Sys2Proof.Machine
end

section
/-!
The commands that load tables, vector memory and stencils (R43, R59, R97, R116): their own parts write the gathers of their target and no other.
-/
namespace Sys2Proof.Machine

/-! ## Writes of several gathers -/

section Writes

variable {s : State} {g : Nat}

theorem State.gather_modPlay_of_ne {k : Nat} (h : g ≠ k) (f : Play → Play) : (s.modPlay k f).gather g = s.gather g :=
  (State.gather_setG _ _ _ _).trans (if_neg h)

theorem gather_forAll_modPlay {us : List Nat} (h : g ∉ us) (f : Play → Play) :
    (forAll us (fun s k => s.modPlay k f) s).gather g = s.gather g :=
  List.foldlRecOn (motive := fun u : State => u.gather g = s.gather g) us _ rfl fun _ hu _ hk =>
    (State.gather_modPlay_of_ne (ne_of_mem_of_not_mem hk h).symm f).trans hu

theorem gather_pinBodies_of_ne {k : Nat} (h : g ≠ k) (bcast : Bool) (tbl : Nat → Ent) (ix : List Nat) :
    (s.pinBodies k bcast tbl ix).1.gather g = s.gather g :=
  State.gather_modPlay_of_ne h _

theorem gather_pinAll {t : Tgt} (h : g ∉ t.units) (bcast : Bool) (tbl : State → Nat → Nat → Ent) (ix : List Nat) :
    (s.pinAll t bcast tbl ix).1.gather g = s.gather g := by
  unfold State.pinAll
  refine List.foldlRecOn (motive := fun acc : State × List (Nat × MemRec) => acc.1.gather g = s.gather g) _ _ rfl ?_
  intro acc hacc pu hpu
  have hne : g ≠ pu.2 := (ne_of_mem_of_not_mem (List.mem_map_of_mem hpu) h).symm
  exact (gather_pinBodies_of_ne hne bcast _ ix).trans hacc

theorem gather_guarded {st : Half} {go : Unit → State × Act} (h : (go ()).1.gather g = s.gather g) :
    (guarded s st go).1.gather g = s.gather g := by
  unfold guarded
  split
  · rfl
  · exact h

end Writes

/-! ## The commands' own parts -/

section Bodies

variable {s : State} {r : Req} {g : Nat} (h : g ∉ (s.target r).units)
include h

theorem gather_strokeLoadBody : (strokeLoadBody s r).1.gather g = s.gather g := by
  unfold strokeLoadBody
  refine gather_guarded ?_
  dsimp only
  split
  · rfl
  · exact gather_guarded (gather_forAll_modPlay h _)

theorem gather_tsetLoadBody : (tsetLoadBody s r).1.gather g = s.gather g := gather_guarded (gather_forAll_modPlay h _)

theorem gather_seqConfigBody : (seqConfigBody s r).1.gather g = s.gather g := gather_guarded (gather_forAll_modPlay h _)

theorem gather_vmemWriteBody : (vmemWriteBody s r).1.gather g = s.gather g := gather_guarded (gather_forAll_modPlay h _)

theorem gather_vmemPinBody : (vmemPinBody s r).1.gather g = s.gather g :=
  gather_guarded ((gather_pinAll h _ _ _).trans (gather_forAll_modPlay h _))

theorem gather_stencilLoadBody : (stencilLoadBody s r).1.gather g = s.gather g := gather_guarded (gather_forAll_modPlay h _)

theorem gather_stencilClearBody : (stencilClearBody s r).1.gather g = s.gather g := gather_guarded (gather_forAll_modPlay h _)

end Bodies

/-! ## The commands -/

/-- Where a command's own part leaves a gather outside its target alone, so does the command, whatever becomes of its request. -/
theorem gather_firmware {s t : State} {r : Req} {g bound : Nat} {op : Half} {accept : List Nat} {body : State → Req → State × Act}
    (hbody : ∀ {u : State}, g ∉ (u.target r).units → (body u r).1.gather g = u.gather g) (hg : g ∉ (s.target r).units)
    (ht : (.next (s.firmware op bound accept r body) : Host.Outcome State Fault Refusal) = .next t) : t.gather g = s.gather g := by
  cases ht
  obtain h | ⟨mbx, h⟩ := State.firmware_frame s op bound accept r body
  · exact h.gather g
  · exact (h.gather g).trans (hbody (u := { s with mbx := mbx }) hg)

/-- Settles O34: the frame of every firmware command, with the part of its own that each of the seven has. -/
theorem aGatherOutsideTheTargetIsUntouched : Obligations.AGatherOutsideTheTargetIsUntouched := by
  intro command hcommand r s t ht g hg
  simp only [List.mem_cons, List.not_mem_nil, or_false] at hcommand
  obtain rfl | rfl | rfl | rfl | rfl | rfl | rfl := hcommand
  · exact gather_firmware gather_strokeLoadBody hg ht
  · exact gather_firmware gather_tsetLoadBody hg ht
  · exact gather_firmware gather_seqConfigBody hg ht
  · exact gather_firmware gather_vmemWriteBody hg ht
  · exact gather_firmware gather_vmemPinBody hg ht
  · exact gather_firmware gather_stencilLoadBody hg ht
  · exact gather_firmware gather_stencilClearBody hg ht

end Sys2Proof.Machine
end

section
/-!
What reset leaves (R55, R76, R97, R114, R392, R430, R454, R455, R477, R516): `State.reset` holds every part at its default, and a table without an entry
reads as its default.
-/
namespace Sys2Proof.Machine

/-- Settles O8: part by part, the default that the state declares. -/
theorem theStateAfterReset : Obligations.TheStateAfterReset :=
  ⟨rfl, rfl, rfl, fun _ => ⟨rfl, rfl, rfl, rfl⟩, rfl, rfl, rfl, fun _ => rfl, rfl, rfl, rfl, rfl, rfl, rfl, rfl⟩

end Sys2Proof.Machine
end

section
/-!
The events at the sequencers and the streams (R20, R62, R63, R67, R83, R86, R87, R90, R105 to R107, R111): where the condition of an event holds, its
`exec` takes the branch that has its effect.
-/
namespace Sys2Proof.Machine

/-- Settles O50: each event's condition decides its tests, and the branch they leave is the effect. -/
theorem strokeEventsComplete : Obligations.StrokeEventsComplete := by
  refine ⟨fun q mode src => ?strokeStartTrigger, fun q cause cycle s _ => rfl, fun q obs s _ => rfl, fun g => ?checkpointEntryFree,
    fun q c => ?resolutionComplete, fun g e => ?etchBeginMarkerDurable, fun g e l => ?etchEndMarkerWrite, fun g s _ => rfl, fun q => ?stallResume,
    fun q => ?stallLimitExpiry, fun g => ?haltHoldExpiry, fun p => ?bcastPrimeComplete⟩
  case strokeStartTrigger =>
    rintro s ⟨hstart, hlive, hmode, hpresented⟩
    simp only [exec, execStrokeStartTrigger, hstart]
    exact if_neg (by simp [hlive, hmode, hpresented])
  case checkpointEntryFree =>
    intro s hfree
    exact if_neg (Bool.eq_false_iff.mp hfree)
  case resolutionComplete =>
    rintro s ⟨hcont, hunresolved⟩
    simp only [exec, execResolutionComplete, hcont]
    exact if_neg (by simp [hunresolved])
  case etchBeginMarkerDurable =>
    intro s hfirst
    simp only [exec, execEtchBeginMarkerDurable, show _ = some e from hfirst]
  case etchEndMarkerWrite =>
    rintro s ⟨hends, hpasses⟩
    simp only [exec, execEtchEndMarkerWrite, hends]
    exact if_pos hpasses
  case stallResume =>
    rintro s ⟨hheld, hstall, hpresent⟩
    exact (if_neg (by simp [hheld, hstall, hpresent])).trans (apply_ite Host.Outcome.next _ _ _).symm
  case stallLimitExpiry =>
    rintro s ⟨hheld, hstall, hlimit⟩
    exact if_neg (by simp [hheld, hstall, hlimit])
  case haltHoldExpiry =>
    rintro s ⟨hhalted, hholding, hover⟩
    exact if_pos (by simp [hhalted, hholding, hover])
  case bcastPrimeComplete =>
    intro s hpriming
    exact if_neg (by simp [show (s.prog p).priming = true from hpriming])

end Sys2Proof.Machine
end

section
/-!
A response keeps the completion bounds that the entries of the mailboxes carry (R411, R419), while a command whose own part has run carries its own: where
the two meet, STROKE_LOAD, TSET_LOAD and SEQ_CONFIG on a running gather (R59).
-/
namespace Sys2Proof.Machine

/-! ## The bounds that entries carry -/

/-- The completion bounds that the entries of a mailbox carry. -/
def State.entryBounds (s : State) (m : Nat) : List Nat := (s.mailbox m).entries.map (·.bound)

/-- `t` carries in every mailbox the bounds that `s` does. -/
def SameBounds (s t : State) : Prop := ∀ m, t.entryBounds m = s.entryBounds m

theorem SameBounds.refl (s : State) : SameBounds s s := fun _ => rfl

theorem SameBounds.trans {s t u : State} (h : SameBounds s t) (k : SameBounds t u) : SameBounds s u := fun m => (k m).trans (h m)

theorem SameBounds.ite {s a b : State} {c : Prop} [Decidable c] (ha : SameBounds s a) (hb : SameBounds s b) : SameBounds s (if c then a else b) := by
  split
  · exact ha
  · exact hb

theorem SameBounds.foldl {α : Type} {f : State → α → State} (hf : ∀ u x, SameBounds u (f u x)) (s : State) (xs : List α) :
    SameBounds s (xs.foldl f s) :=
  List.foldlRecOn (motive := SameBounds s) xs f (.refl s) fun u hu x _ => hu.trans (hf u x)

theorem SameBounds.setMbx {s : State} {m : Nat} {x : Mailbox} (hx : x.entries.map (·.bound) = s.entryBounds m) : SameBounds s (s.setMbx m x) := by
  intro k
  by_cases hk : k = m
  · rw [hk, State.entryBounds, mailbox_setMbx, hx]
  · exact congrArg (fun y : Mailbox => y.entries.map (·.bound)) (Tab.get_put_other _ _ _ _ _ hk)

theorem map_bound_updFirst {t : Entry → Bool} {f : Entry → Entry} (hf : ∀ e, (f e).bound = e.bound) (es : List Entry) :
    (updFirst t f es).map (·.bound) = es.map (·.bound) := by
  induction es with
  | nil => rfl
  | cons e es ih =>
    unfold updFirst
    split
    · simp [hf]
    · simp [ih]

/-! ## Responses keep them -/

theorem State.pumpMbx_sameBounds (s : State) (m : Nat) : SameBounds s (s.pumpMbx m) := by
  unfold State.pumpMbx
  refine .ite ?_ (.refl s)
  dsimp only
  split
  · exact .ite (.setMbx (s := s) rfl) (.refl s)
  · exact .refl s

theorem State.respondOne_sameBounds (s : State) (m bound : Nat) (rep : Reply) : SameBounds s (s.respondOne m bound rep) := by
  unfold State.respondOne
  extract_lets x
  split
  · exact .refl s
  · split
    · extract_lets b late y formed posted
      have hentries : y.entries.map (·.bound) = s.entryBounds m := map_bound_updFirst (by exact fun _ => rfl) x.entries
      have hformed : SameBounds s formed := .setMbx hentries
      have hposted : SameBounds s posted := .ite (hformed.trans (.refl formed)) hformed
      exact hposted.trans (State.pumpMbx_sameBounds posted m)
    · exact .refl s

theorem State.fenceTry_sameBounds (s : State) (m : Nat) : SameBounds s (s.fenceTry m) := by
  unfold State.fenceTry
  split
  · exact .ite (State.respondOne_sameBounds s _ _ _) (.refl s)
  · exact .refl s

theorem State.respond_sameBounds (s : State) (m bound : Nat) (rep : Reply) : SameBounds s (s.respond m bound rep) :=
  (State.respondOne_sameBounds s m bound rep).trans
    (.ite (.refl _) (.foldl (fun u _ => .foldl State.fenceTry_sameBounds u _) _ _))

/-! ## A SEQ_CONFIG on a running gather -/

/-- ACTIVE since long, with gather 0 running. -/
def runningGather : State :=
  { State.reset with upNs := 10 ^ 13, power := { State.reset.power with pstate := 1, wipe := false, img := 0 }, gathers := [(0, { seq := { st := .running } })] }

/-- A whole SEQ_CONFIG of that gather, with HALT_HOLD 0 and every HALT_STATE as it was. -/
def seqConfigRequest : Req := { mbx := 0, tag := 7, target := 0x6000, flags := 0, rsv := 0, payload := List.replicate 8 0#8 }

/-- Refutes O22: by the counterexample SEQ_CONFIG. It is refused with SEQ_BUSY, as R59 has it; but `State.finish` has noted its completion bound of 20 µs in
its entry (R411, `State.boundBy`) before the response, where the statement's response leaves there the 0 of a request just rung, whatever bound it is formed
with. -/
theorem not_aRunningGatherKeepsItsTables : ¬ Obligations.ARunningGatherKeepsItsTables := by
  intro h
  have hready : runningGather.ready 0x0307 [6, 0xC] seqConfigRequest = true := by decide +kernel
  obtain ⟨-, -, hseq⟩ := h runningGather seqConfigRequest ⟨0, by decide +kernel⟩
  obtain ⟨bound, hnext⟩ := hseq hready rfl (by decide +kernel) (by decide +kernel)
  have hran : (runningGather.firmware 0x0307 20000 [6, 0xC] seqConfigRequest seqConfigBody).entryBounds 0 = [20000] := by decide +kernel
  have hbegun : (runningGather.begun 0x0307 seqConfigRequest).entryBounds 0 = [0] := by decide +kernel
  injection hnext with hnext
  have hformed := State.respond_sameBounds (runningGather.begun 0x0307 seqConfigRequest) 0 bound
    (.err (if (runningGather.target seqConfigRequest).cane.isSome then 0x0203 else 0x0202)) 0
  exact absurd (hran.symm.trans ((congrArg (·.entryBounds 0) hnext).trans (hformed.trans hbegun))) (by decide)

end Sys2Proof.Machine
end

section
/-!
The parts of the device that commands which start, halt, bind and release leave as they are (R63, R334, R402, R494): tables, memory, chain port and security.
Every operation that such a command can set going is made of writes of other parts: for each operation one equation, its standing parts are those it was given.
As `simp` lemmas they carry the next operation's, branch by branch and, by `standing_forAll`, through its loops.
-/
namespace Sys2Proof.Machine

/-! ## The standing parts -/

/-- The parts that a command which starts, halts, binds or releases never writes: the broadcast table, stream contexts, patches, canes, mailbox 7, the chain
port, the uptime, the DRAM, CLEAR_N's level, the reference input, the security state and the TAP. -/
def State.standing (s : State) : Tab (BitVec 128) × Tab Ctx × Tab Patch × Tab Cane × Outbox × Chain × Nat × Mem × Bool × TiuRef × Sec × Jtag :=
  (s.bcTable, s.ctxs, s.patches, s.canes, s.outbox, s.chain, s.upNs, s.dram, s.clearLow, s.tref, s.sec, s.jtag)

/-- A write of any of the other parts. -/
@[simp] theorem State.standing_update (s : State) {pe g pr m h f fc ti tc po ex am ca tw j pw} :
    State.standing ⟨pe, g, s.bcTable, s.ctxs, pr, s.patches, s.canes, m, s.outbox, s.chain, h, f, s.upNs, fc, s.dram, s.clearLow, s.tref, ti, tc, po, ex,
      am, ca, tw, j, pw, s.sec, s.jtag⟩ = s.standing := by
  simp only [State.standing]

@[simp] theorem State.standing_ite {c : Prop} [Decidable c] (a b : State) :
    (if c then a else b).standing = if c then a.standing else b.standing :=
  apply_ite State.standing _ _ _

@[simp] theorem State.standing_ite_fst {α : Type} {c : Prop} [Decidable c] (a b : State × α) :
    (if c then a else b).1.standing = if c then a.1.standing else b.1.standing :=
  apply_ite (fun p : State × α => p.1.standing) _ _ _

@[simp] theorem standing_foldl {α : Type} {f : State → α → State} (hf : ∀ u x, (f u x).standing = u.standing) (s : State) (xs : List α) :
    (xs.foldl f s).standing = s.standing :=
  List.foldlRecOn (motive := fun u : State => u.standing = s.standing) xs f rfl fun u hu x _ => (hf u x).trans hu

@[simp] theorem standing_foldl_fst {α β : Type} {f : State × β → α → State × β}
    (hf : ∀ acc x, (f acc x).1.standing = acc.1.standing) (acc : State × β) (xs : List α) :
    (xs.foldl f acc).1.standing = acc.1.standing :=
  List.foldlRecOn (motive := fun u : State × β => u.1.standing = acc.1.standing) xs f rfl fun u hu x _ => (hf u x).trans hu

@[simp] theorem standing_forAll {α : Type} {f : State → α → State} (hf : ∀ u x, (f u x).standing = u.standing) (s : State) (xs : List α) :
    (forAll xs f s).standing = s.standing :=
  standing_foldl hf s xs

section Operations

variable (s : State)

/-! ## Writes of one part -/

@[simp] theorem State.standing_setG (g : Nat) (G : Gather) : (s.setG g G).standing = s.standing := by simp [State.setG]
@[simp] theorem State.standing_modG (g : Nat) (f : Gather → Gather) : (s.modG g f).standing = s.standing := by simp [State.modG]
@[simp] theorem State.standing_modPlay (g : Nat) (f : Play → Play) : (s.modPlay g f).standing = s.standing := by simp [State.modPlay]
@[simp] theorem State.standing_modSeq (g : Nat) (f : Seq → Seq) : (s.modSeq g f).standing = s.standing := by simp [State.modSeq]
@[simp] theorem State.standing_setSent (g n : Nat) (x : Sent) : (s.setSent g n x).standing = s.standing := by simp [State.setSent]
@[simp] theorem State.standing_setDig (g d : Nat) (x : Dig) : (s.setDig g d x).standing = s.standing := by simp [State.setDig]
@[simp] theorem State.standing_setPin (g p : Nat) (x : Pin) : (s.setPin g p x).standing = s.standing := by simp [State.setPin]
@[simp] theorem State.standing_setTiu (g u : Nat) (x : Tiu) : (s.setTiu g u x).standing = s.standing := by simp [State.setTiu]
@[simp] theorem State.standing_setSmu (g u : Nat) (x : Smu) : (s.setSmu g u x).standing = s.standing := by simp [State.setSmu]
@[simp] theorem State.standing_setProg (p : Nat) (x : Prog) : (s.setProg p x).standing = s.standing := by simp [State.setProg]
@[simp] theorem State.standing_setHatch (h : Hatch) : (s.setHatch h).standing = s.standing := by simp [State.setHatch]
@[simp] theorem State.standing_setLine (key : Nat) (l : Line) : (s.setLine key l).standing = s.standing := by simp [State.setLine]
@[simp] theorem State.standing_setGroup (g : Nat) (on : Bool) : (s.setGroup g on).standing = s.standing := by simp [State.setGroup]
@[simp] theorem State.standing_setFaults (f : Faults) : (s.setFaults f).standing = s.standing := by simp [State.setFaults]
@[simp] theorem State.standing_setJournal (j : Journal) : (s.setJournal j).standing = s.standing := by simp [State.setJournal]
@[simp] theorem State.standing_setSite (n : Nat) (x : SiteJrn) : (s.setSite n x).standing = s.standing := by simp [State.setSite]
@[simp] theorem State.standing_setCalTile (t : Nat) (x : CalTile) : (s.setCalTile t x).standing = s.standing := by simp [State.setCalTile]
@[simp] theorem State.standing_setCalG (g : Nat) (x : CalG) : (s.setCalG g x).standing = s.standing := by simp [State.setCalG]
@[simp] theorem State.standing_setPort (p : Nat) (x : Port) : (s.setPort p x).standing = s.standing := by simp [State.setPort]
@[simp] theorem State.standing_setTwin (t : Twin) : (s.setTwin t).standing = s.standing := by simp [State.setTwin]
@[simp] theorem State.standing_setMbx (m : Nat) (x : Mailbox) : (s.setMbx m x).standing = s.standing := by simp [State.setMbx]
@[simp] theorem State.standing_setAmp (a : Amp) : (s.setAmp a).standing = s.standing := by simp [State.setAmp]
@[simp] theorem State.standing_setAmpG (g : Nat) (x : AmpG) : (s.setAmpG g x).standing = s.standing := by simp [State.setAmpG]
@[simp] theorem State.standing_setChan (g c : Nat) (x : Chan) : (s.setChan g c x).standing = s.standing := by simp [State.setChan]
@[simp] theorem State.standing_setBridge (g : Nat) (b : Bridge) : (s.setBridge g b).standing = s.standing := by simp [State.setBridge]
@[simp] theorem State.standing_modTime (f : NetTime → NetTime) : (s.modTime f).standing = s.standing := by simp [State.modTime]
@[simp] theorem State.standing_setTcmp (n : Nat) (x : Tcmp) : (s.setTcmp n x).standing = s.standing := by simp [State.setTcmp]
@[simp] theorem State.standing_setPstate (p : Nat) : (s.setPstate p).standing = s.standing := by simp [State.setPstate]
@[simp] theorem State.standing_choose : s.choose.2.standing = s.standing := by simp [State.choose]
@[simp] theorem State.standing_fresh : s.fresh.2.standing = s.standing := by simp [State.fresh]

/-! ## Records, reports and messages -/

@[simp] theorem State.standing_record (src scope : Half) (detail : Word) (real react : Bool) :
    (s.record src scope detail real react).standing = s.standing := by
  simp [State.record]

@[simp] theorem State.standing_advise (src scope : Half) (detail : Word) : (s.advise src scope detail).standing = s.standing := by simp [State.advise]
@[simp] theorem State.standing_pruneRecs : s.pruneRecs.standing = s.standing := by simp [State.pruneRecs]
@[simp] theorem State.standing_report (r : Report) : (s.report r).standing = s.standing := by simp [State.report]
@[simp] theorem State.standing_note (e : List Byte) : (s.note e).standing = s.standing := by simp [State.note]
@[simp] theorem State.standing_linkSend (m : LinkMsg) : (s.linkSend m).standing = s.standing := by simp [State.linkSend]
@[simp] theorem State.standing_mirrorSend (m : LinkMsg) : (s.mirrorSend m).standing = s.standing := by simp [State.mirrorSend]
@[simp] theorem State.standing_send (p : Nat) (x : Sent1) : (s.send p x).standing = s.standing := by simp [State.send]
@[simp] theorem State.standing_sendDgram : s.sendDgram.standing = s.standing := by simp [State.sendDgram]
@[simp] theorem State.standing_ringRecord (r : List Byte) : (s.ringRecord r).standing = s.standing := by simp [State.ringRecord]

@[simp] theorem State.standing_emitRec (type site : Nat) (body : List Byte) : (s.emitRec type site body).standing = s.standing := by
  simp [State.emitRec]

/-! ## Responses -/

@[simp] theorem State.standing_pumpMbx (m : Nat) : (s.pumpMbx m).standing = s.standing := by
  simp only [State.pumpMbx]
  split
  · split <;> simp
  · rfl

@[simp] theorem State.standing_respondOne (m bound : Nat) (r : Reply) : (s.respondOne m bound r).standing = s.standing := by
  simp only [State.respondOne]
  split
  · rfl
  · split <;> simp

@[simp] theorem State.standing_fenceTry (m : Nat) : (s.fenceTry m).standing = s.standing := by
  simp only [State.fenceTry]
  split <;> simp

@[simp] theorem State.standing_fencesDone : s.fencesDone.standing = s.standing := by simp [State.fencesDone]
@[simp] theorem State.standing_respond (m bound : Nat) (r : Reply) : (s.respond m bound r).standing = s.standing := by simp [State.respond]

@[simp] theorem State.standing_respondFrom (m start bound : Nat) (r : Reply) : (s.respondFrom m start bound r).standing = s.standing := by
  unfold State.respondFrom
  split
  · split <;> simp
  · rfl

@[simp] theorem State.standing_await (m : Nat) (w : Wait) : (s.await m w).standing = s.standing := by simp [State.await]

@[simp] theorem State.standing_rangesDone : s.rangesDone.standing = s.standing := by
  refine standing_forAll (fun u m => ?_) s _
  split <;> simp

@[simp] theorem State.standing_tiusDone : s.tiusDone.standing = s.standing := by
  refine standing_forAll (fun u m => ?_) s _
  split <;> simp

/-! ## Sentinels -/

@[simp] theorem State.standing_sentWakes (g n : Nat) : (s.sentWakes g n).standing = s.standing := by simp [State.sentWakes]
@[simp] theorem State.standing_setDwelled (g n : Nat) (act : Bool) : (s.setDwelled g n act).standing = s.standing := by simp [State.setDwelled]
@[simp] theorem State.standing_startDwell (g n : Nat) : (s.startDwell g n).standing = s.standing := by simp [State.startDwell]
@[simp] theorem State.standing_probe (g n : Nat) : (s.probe g n).standing = s.standing := by simp [State.probe]
@[simp] theorem State.standing_probes (g : Nat) : (s.probes g).standing = s.standing := by simp [State.probes]

/-! ## The Marver -/

@[simp] theorem State.standing_startStore : s.startStore.standing = s.standing := by simp [State.startStore]
@[simp] theorem State.standing_runComplete (t : Nat) : (s.runComplete t).standing = s.standing := by simp [State.runComplete]
@[simp] theorem State.standing_endStep (g n : Nat) (out : CalOut) : (s.endStep g n out).standing = s.standing := by simp [State.endStep]
@[simp] theorem State.standing_freeService (g : Nat) (us : List Nat) : (s.freeService g us).standing = s.standing := by simp [State.freeService]
@[simp] theorem State.standing_preempt (g : Nat) (hits : Nat → Bool) : (s.preempt g hits).standing = s.standing := by simp [State.preempt]
@[simp] theorem State.standing_calStrokeEnd (g : Nat) : (s.calStrokeEnd g).standing = s.standing := by simp [State.calStrokeEnd]

end Operations

end Sys2Proof.Machine
end

section
/-!
The waves of Hatch and the halts that they can bring (R319, R334, R336) leave the standing parts as they are.
-/
namespace Sys2Proof.Machine

section Operations

variable (s : State)

/-! ## Lines and waves of Hatch -/

@[simp] theorem State.standing_collect (acc : State × Tab Nat) (g : Nat) (pulses : List Nat) :
    (State.collect acc g pulses).1.standing = acc.1.standing := by
  simp [State.collect]

@[simp] theorem State.standing_mergesEvent (key : Nat) (l : Line) (rises : Bool) : (s.mergesEvent key l rises).1.standing = s.standing := by
  simp [State.mergesEvent]

@[simp] theorem State.standing_noteLine (key : Nat) (assert : Bool) : (s.noteLine key assert).standing = s.standing := by simp [State.noteLine]
@[simp] theorem State.standing_settleLine (key n : Nat) : (s.settleLine key n).1.standing = s.standing := by simp [State.settleLine]

@[simp] theorem standing_relayStep (fired changed : List Nat) (acc : State × Tab Nat) (ir : Nat × Relay) :
    (relayStep fired changed acc ir).1.standing = acc.1.standing := by
  simp [relayStep]

@[simp] theorem standing_counterStep (fired : List Nat) (acc : State × Tab Nat) (ic : Nat × Counter) :
    (counterStep fired acc ic).1.standing = acc.1.standing := by
  simp [counterStep]

@[simp] theorem standing_switchStep (fired : List Nat) (acc : State × Tab Nat) (g : Nat) : (switchStep fired acc g).1.standing = acc.1.standing := by
  simp [switchStep]

@[simp] theorem State.standing_wave (w : Tab Nat) : (s.wave w).1.standing = s.standing := by simp [State.wave]

@[simp] theorem State.standing_waves (n : Nat) (w : Tab Nat) : (s.waves n w).standing = s.standing := by
  induction n generalizing s w with
  | zero => rfl
  | succ n ih => simp [State.waves, ih]

@[simp] theorem State.standing_propagate (w : Tab Nat) : (s.propagate w).standing = s.standing := by simp [State.propagate]
@[simp] theorem State.standing_follow (w : Tab Nat) : (s.follow w).standing = s.standing := by simp [State.follow]
@[simp] theorem State.standing_presentAt (gs : List Nat) (edge : Nat) : (State.presentAt gs s edge).standing = s.standing := by simp [State.presentAt]
@[simp] theorem State.standing_present (gs : List Nat) : (s.present gs).standing = s.standing := by simp [State.present]
@[simp] theorem State.standing_syncDevice (pulses : List Nat) : (s.syncDevice pulses).standing = s.standing := by simp [State.syncDevice]
@[simp] theorem State.standing_syncProducers (gs : List Nat) : (s.syncProducers gs).standing = s.standing := by simp [State.syncProducers]

/-! ## Halts -/

@[simp] theorem State.standing_closeResult (g flags : Nat) : (s.closeResult g flags).standing = s.standing := by simp [State.closeResult]
@[simp] theorem State.standing_cutFree (g : Nat) : (s.cutFree g).standing = s.standing := by simp [State.cutFree]
@[simp] theorem State.standing_smuReselect (before : State) (g : Nat) : (s.smuReselect before g).standing = s.standing := by simp [State.smuReselect]

@[simp] theorem State.standing_haltG (g src reason : Nat) (flags : Nat) : (s.haltG g src reason flags).standing = s.standing := by
  unfold State.haltG
  extract_lets closed reported live halted
  have hreported : reported.standing = s.standing := by
    simp only [reported]
    split
    · split <;> simp [closed]
    · simp [closed]
  simp [halted, hreported]

@[simp] theorem State.standing_keepPosition (p g : Nat) : (s.keepPosition p g).standing = s.standing := by simp [State.keepPosition]

@[simp] theorem State.standing_haltProgram (p src reason : Nat) (flags : Nat) : (s.haltProgram p src reason flags).standing = s.standing := by
  simp [State.haltProgram]

@[simp] theorem State.standing_leaveProgram (g src reason : Nat) : (s.leaveProgram g src reason).standing = s.standing := by
  simp only [State.leaveProgram]
  split <;> simp

@[simp] theorem State.standing_checkHalts : s.checkHalts.standing = s.standing := by simp [State.checkHalts]

/-! ## What follows a change -/

@[simp] theorem State.standing_syncAfter : s.syncAfter.standing = s.standing := by simp [State.syncAfter]
@[simp] theorem State.standing_sync (g : Nat) (pulses : List Nat) : (s.sync g pulses).standing = s.standing := by simp [State.sync]
@[simp] theorem State.standing_syncMany (gs : List Nat) : (s.syncMany gs).standing = s.standing := by simp [State.syncMany]
@[simp] theorem State.standing_syncAll (w : Tab Nat) (pulses : List Nat) : (s.syncAll w pulses).standing = s.standing := by simp [State.syncAll]

@[simp] theorem State.standing_haltWho (w : Who) (src reason flags : Nat) : (s.haltWho w src reason flags).standing = s.standing :=
  by cases w <;> simp [State.haltWho]

@[simp] theorem State.standing_haltTarget (t : Tgt) : (s.haltTarget t).standing = s.standing := by
  unfold State.haltTarget
  extract_lets halted
  have hhalted : halted.standing = s.standing := by
    simp only [halted]
    split <;> simp
  simp [hhalted]

end Operations

end Sys2Proof.Machine
end

section
/-!
Pins, starts, releases, the Ampoule's requests and network time leave the standing parts as they are.
-/
namespace Sys2Proof.Machine

section Operations

variable (s : State)

/-! ## Pins and source/measure units -/

@[simp] theorem State.standing_patternsDrop (g : Nat) : (s.patternsDrop g).standing = s.standing := by simp [State.patternsDrop]
@[simp] theorem State.standing_checkTrips (g : Nat) : (s.checkTrips g).standing = s.standing := by simp [State.checkTrips]

@[simp] theorem State.standing_flagRun (g c flags : Nat) : (s.flagRun g c flags).standing = s.standing := by
  simp only [State.flagRun]
  split <;> simp

@[simp] theorem State.standing_flagRuns (g : Nat) (flags : Nat) : (s.flagRuns g flags).standing = s.standing := by simp [State.flagRuns]
@[simp] theorem State.standing_disturb (g u : Nat) : (s.disturb g u).standing = s.standing := by simp [State.disturb]
@[simp] theorem State.standing_putCompl (g u : Nat) (a : Bool) : (s.putCompl g u a).standing = s.standing := by simp [State.putCompl]
@[simp] theorem State.standing_smuTrips (g : Nat) : (s.smuTrips g).standing = s.standing := by simp [State.smuTrips]
@[simp] theorem State.standing_comparatorsChanged (g : Nat) : (s.comparatorsChanged g).standing = s.standing := by simp [State.comparatorsChanged]
@[simp] theorem State.standing_pinsChanged (g : Nat) : (s.pinsChanged g).standing = s.standing := by simp [State.pinsChanged]
@[simp] theorem State.standing_preemptPins (us : List Nat) : (s.preemptPins us).standing = s.standing := by simp [State.preemptPins]

@[simp] theorem State.standing_gangPlaces (t : Tgt) (all : Bool) : (s.gangPlaces t all).standing = s.standing := by
  unfold State.gangPlaces
  split
  · rfl
  · refine standing_forAll (fun u x => ?_) s _
    split <;> simp

@[simp] theorem State.standing_smuConfigured (t : Tgt) (cfg : Word) : (s.smuConfigured t cfg).standing = s.standing := by simp [State.smuConfigured]
@[simp] theorem standing_preemptSmus (us : List Nat) : (preemptSmus s us).standing = s.standing := by simp [preemptSmus]

/-! ## Markers and checkpoints -/

@[simp] theorem State.standing_writeMarker (m : Marker) : (s.writeMarker m).standing = s.standing := by simp [State.writeMarker]

@[simp] theorem State.standing_writeEtchEnd (g : Nat) : (s.writeEtchEnd g).standing = s.standing := by
  simp only [State.writeEtchEnd]
  split <;> simp

@[simp] theorem State.standing_flushEtchEnds (g : Nat) : (s.flushEtchEnds g).standing = s.standing := by simp [State.flushEtchEnds]
@[simp] theorem State.standing_postStart (g succ : Nat) (bcast : Bool) : (s.postStart g succ bcast).standing = s.standing := by simp [State.postStart]

@[simp] theorem State.standing_releaseMarkers (site run cseq : Nat) : (s.releaseMarkers site run cseq).standing = s.standing := by
  simp [State.releaseMarkers]

@[simp] theorem State.standing_takeCkpt (g : Nat) : (s.takeCkpt g).standing = s.standing := by
  simp only [State.takeCkpt]
  split <;> simp

@[simp] theorem State.standing_startCkpt (g idx : Nat) (bcast : Bool) : (s.startCkpt g idx bcast).standing = s.standing := by simp [State.startCkpt]

/-! ## Releases and starts -/

@[simp] theorem State.standing_releaseSafe (g : Nat) (replays : Bool) : (s.releaseSafe g replays).standing = s.standing := by simp [State.releaseSafe]

theorem State.standing_startRelease {gs : List Nat} {t : State} (h : s.startRelease gs = some t) : t.standing = s.standing := by
  simp only [State.startRelease] at h
  split at h
  · cases h
    simp
  · cases h

@[simp] theorem State.standing_armGather (g idx mode src : Nat) (prog : Option Nat) : (s.armGather g idx mode src prog).standing = s.standing := by
  simp [State.armGather]

@[simp] theorem State.standing_startOwn (g idx mode src : Nat) : (s.startOwn g idx mode src).standing = s.standing := by simp [State.startOwn]
@[simp] theorem State.standing_beginProg (p : Nat) (q : Seq) : (s.beginProg p q).standing = s.standing := by simp [State.beginProg]

@[simp] theorem State.standing_startProg (p start mode src : Nat) (gs : List Nat) : (s.startProg p start mode src gs).standing = s.standing := by
  simp [State.startProg]

/-! ## The Ampoule -/

@[simp] theorem State.standing_countRefusal : s.countRefusal.standing = s.standing := by simp [State.countRefusal]
@[simp] theorem State.standing_leaveDensity (u : Nat) : (s.leaveDensity u).standing = s.standing := by simp [State.leaveDensity]

@[simp] theorem State.standing_enqueueSelect (r : Req) (t : Tgt) (src : Nat) : (s.enqueueSelect r t src).1.standing = s.standing := by
  simp [State.enqueueSelect]

@[simp] theorem State.standing_ampChecks : s.ampChecks.standing = s.standing := by simp [State.ampChecks]

@[simp] theorem State.standing_startConversions (m : Nat) (us : List Nat) : (s.startConversions m us).standing = s.standing := by
  unfold State.startConversions
  extract_lets started
  have hstarted : started.standing = s.standing := by
    simp only [started]
    split <;> simp
  refine (standing_forAll (fun u x => ?_) started us).trans hstarted
  dsimp only
  split <;> simp

@[simp] theorem State.standing_tryConvert (m : Nat) : (s.tryConvert m).standing = s.standing := by
  simp only [State.tryConvert]
  split <;> simp

@[simp] theorem State.standing_holdDigs (g : Nat) : (s.holdDigs g).standing = s.standing := by simp [State.holdDigs]
@[simp] theorem State.standing_syncClaims (g : Nat) : (s.syncClaims g).standing = s.standing := by simp [State.syncClaims]
@[simp] theorem State.standing_select (g c src : Nat) : (s.select g c src).standing = s.standing := by simp [State.select]
@[simp] theorem State.standing_dequeue (m : Nat) (us : List Nat) : (s.dequeue m us).standing = s.standing := by simp [State.dequeue]

@[simp] theorem State.standing_trySelect (m : Nat) : (s.trySelect m).standing = s.standing := by
  simp only [State.trySelect]
  split <;> simp

@[simp] theorem State.standing_ampTry : s.ampTry.standing = s.standing := by simp [State.ampTry]
@[simp] theorem State.standing_ampNext : s.ampNext.standing = s.standing := by simp [State.ampNext]

@[simp] theorem State.standing_convertsDone : s.convertsDone.standing = s.standing := by
  refine standing_forAll (fun u m => ?_) s _
  split
  · dsimp only
    split
    · rfl
    · split <;> simp
  · rfl

/-! ## Time-interval units and network time -/

@[simp] theorem State.standing_closeTiu (g u early : Nat) : (s.closeTiu g u early).standing = s.standing := by
  simp only [State.closeTiu]
  split <;> simp

@[simp] theorem State.standing_refuseStep : s.refuseStep.standing = s.standing := by simp [State.refuseStep]

@[simp] theorem State.standing_fireTcmp (n : Nat) (late stepped : Bool) : (s.fireTcmp n late stepped).standing = s.standing := by
  simp [State.fireTcmp]

@[simp] theorem State.standing_stepTime (adj : Int) (forced : Bool) : (s.stepTime adj forced).standing = s.standing := by simp [State.stepTime]

end Operations

end Sys2Proof.Machine
end

section
/-!
Commands that start, halt, bind and release (R63, R334, R402, R494) leave the standing parts as they are: the own part of each, and the frame of every firmware
command around it.
-/
namespace Sys2Proof.Machine

/-! ## Checks before a part of its own -/

theorem standing_guarded {s : State} {st : Half} {go : Unit → State × Act} (h : (go ()).1.standing = s.standing) :
    (guarded s st go).1.standing = s.standing := by
  unfold guarded
  split
  · rfl
  · exact h

@[simp] theorem standing_ampGuard {s : State} {st : Half} {go : Unit → State × Act} (h : (go ()).1.standing = s.standing) :
    (ampGuard s st go).1.standing = s.standing := by
  unfold ampGuard
  split
  · rfl
  · exact h

theorem standing_ampEnter {s : State} {r : Req} {len : Nat} {legalOnly : Bool} {go : Unit → State × Act} (h : (go ()).1.standing = s.standing) :
    (ampEnter s r len legalOnly go).1.standing = s.standing := by
  simp [ampEnter, h]

/-! ## The commands' own parts -/

section Bodies

variable (s : State) (r : Req)

theorem standing_strokeStartBody : (strokeStartBody s r).1.standing = s.standing := by
  refine standing_guarded ?_
  dsimp only
  split
  · rfl
  next u hu => simp [State.standing_startRelease s hu]

theorem standing_strokeHaltBody : (strokeHaltBody s r).1.standing = s.standing := standing_guarded (by simp)

theorem standing_bcastStartBody : (bcastStartBody s r).1.standing = s.standing := by
  unfold bcastStartBody
  dsimp only
  split
  · rfl
  · refine standing_guarded ?_
    split
    · rfl
    next u hu => simp [State.standing_startRelease s hu]

theorem standing_bcastUnloadBody : (bcastUnloadBody s r).1.standing = s.standing := by
  unfold bcastUnloadBody
  dsimp only
  split
  · rfl
  · exact standing_guarded (by simp)

theorem standing_pinConfigBody : (pinConfigBody s r).1.standing = s.standing := standing_guarded (by simp)
theorem standing_pinReleaseBody : (pinReleaseBody s r).1.standing = s.standing := standing_guarded (by simp)
theorem standing_sentConfigBody : (sentConfigBody s r).1.standing = s.standing := standing_guarded (by simp)
theorem standing_smuConfigBody : (smuConfigBody s r).1.standing = s.standing := standing_guarded (by simp)
theorem standing_smuTripBody : (smuTripBody s r).1.standing = s.standing := standing_guarded (by simp)
theorem standing_smuReleaseBody : (smuReleaseBody s r).1.standing = s.standing := standing_guarded (by simp)
theorem standing_ampConnectBody : (ampConnectBody s r).1.standing = s.standing := standing_ampEnter (standing_ampGuard (by simp))
theorem standing_ampDisconnectBody : (ampDisconnectBody s r).1.standing = s.standing := standing_ampEnter (standing_ampGuard (by simp))
theorem standing_ampBridgeBody : (ampBridgeBody s r).1.standing = s.standing := standing_ampEnter (standing_ampGuard (by simp))
theorem standing_ampConvertBody : (ampConvertBody s r).1.standing = s.standing := standing_ampEnter (standing_ampGuard (by simp))
theorem standing_tiuAbortBody : (tiuAbortBody s r).1.standing = s.standing := standing_guarded (by simp)

theorem standing_hatchLineBody : (hatchLineBody s r).1.standing = s.standing := by
  refine standing_guarded ?_
  dsimp only
  split
  · rfl
  · exact standing_guarded (by simp)

theorem standing_hatchProducerBody : (hatchProducerBody s r).1.standing = s.standing := by
  unfold hatchProducerBody
  dsimp only
  split
  · exact standing_guarded (by simp)
  · exact standing_guarded (by simp)

theorem standing_hatchForwardBody : (hatchForwardBody s r).1.standing = s.standing := by
  refine standing_guarded ?_
  dsimp only
  split
  · exact standing_guarded (by simp)
  · split
    · exact standing_guarded (by simp)
    · exact standing_guarded (by simp)

theorem standing_hatchTaskBody : (hatchTaskBody s r).1.standing = s.standing := standing_guarded (by simp)

theorem standing_hatchBindBody : (hatchBindBody s r).1.standing = s.standing := by
  unfold hatchBindBody
  dsimp only
  split
  · exact standing_guarded (by simp)
  · exact standing_guarded (by simp)

theorem standing_hatchGroupBody : (hatchGroupBody s r).1.standing = s.standing := standing_guarded (by simp)

theorem standing_hatchRestoreBody : (hatchRestoreBody s r).1.standing = s.standing := by
  refine standing_guarded ?_
  dsimp only
  split
  · rfl
  · exact standing_guarded (by simp)

theorem standing_hatchPulseBody : (hatchPulseBody s r).1.standing = s.standing := standing_guarded (by simp)

theorem standing_timeStepBody : (timeStepBody s r).1.standing = s.standing := by
  unfold timeStepBody
  exact standing_guarded (by simp)

theorem standing_tcmpArmBody : (tcmpArmBody s r).1.standing = s.standing := standing_guarded (by simp)
theorem standing_fltReleaseBody : (fltReleaseBody s r).1.standing = s.standing := standing_guarded (by simp)

end Bodies

/-! ## The commands -/

theorem AnswerFrame.standing {s t : State} (h : AnswerFrame s t) : t.standing = s.standing := congrArg (·.standing) h

/-- Where a command's own part leaves the standing parts alone, so does the command, whatever becomes of its request. -/
theorem standing_firmware {body : State → Req → State × Act} (hbody : ∀ s r, (body s r).1.standing = s.standing) (s : State) (r : Req) (op : Half)
    (bound : Nat) (accept : List Nat) : (s.firmware op bound accept r body).standing = s.standing := by
  obtain h | ⟨mbx, h⟩ := State.firmware_frame s op bound accept r body
  · exact h.standing
  · exact h.standing.trans (hbody { s with mbx := mbx } r)

/-- Every next state that a command answers has the standing parts of the state before. -/
def KeepsStanding (command : Req → Instr) : Prop := ∀ r s t, exec (command r) s = .next t → t.standing = s.standing

theorem KeepsStanding.of_next {command : Req → Instr} {f : State → Req → State} (he : ∀ r s, exec (command r) s = .next (f s r))
    (hf : ∀ s r, (f s r).standing = s.standing) : KeepsStanding command := by
  intro r s t ht
  obtain rfl : f s r = t := by simpa [he] using ht
  exact hf s r

theorem KeepsStanding.of_body {command : Req → Instr} {op : Half} {bound : Nat} {accept : List Nat} {body : State → Req → State × Act}
    (hbody : ∀ s r, (body s r).1.standing = s.standing) (he : ∀ r s, exec (command r) s = .next (s.firmware op bound accept r body)) :
    KeepsStanding command :=
  .of_next he fun s r => standing_firmware hbody s r op bound accept

/-- The same for a command after which the Ampoule takes up what it can. -/
theorem KeepsStanding.of_ampBody {command : Req → Instr} {op : Half} {bound : Nat} {accept : List Nat} {body : State → Req → State × Act}
    (hbody : ∀ s r, (body s r).1.standing = s.standing) (he : ∀ r s, exec (command r) s = .next (s.firmware op bound accept r body).ampNext) :
    KeepsStanding command :=
  .of_next he fun s r => (State.standing_ampNext _).trans (standing_firmware hbody s r op bound accept)

theorem keepsStanding_ampConvert : KeepsStanding .ampConvert :=
  .of_next (fun _ _ => rfl) fun s r =>
    (State.standing_convertsDone _).trans ((State.standing_ampNext _).trans (standing_firmware standing_ampConvertBody s r _ _ _))

/-- Settles O31: the frame of every firmware command, with the part of its own that each of the twenty-six has. -/
theorem commandsThatRunThingsKeepTheTables : Obligations.CommandsThatRunThingsKeepTheTables := by
  intro command hcommand
  change KeepsStanding command
  simp only [List.mem_cons, List.not_mem_nil, or_false] at hcommand
  obtain rfl | rfl | rfl | rfl | rfl | rfl | rfl | rfl | rfl | rfl | rfl | rfl | rfl | rfl | rfl | rfl | rfl | rfl | rfl | rfl | rfl | rfl | rfl | rfl | rfl
    | rfl := hcommand
  · exact .of_body standing_strokeStartBody fun _ _ => rfl
  · exact .of_body standing_strokeHaltBody fun _ _ => rfl
  · exact .of_body standing_bcastStartBody fun _ _ => rfl
  · exact .of_body standing_bcastUnloadBody fun _ _ => rfl
  · exact .of_body standing_pinConfigBody fun _ _ => rfl
  · exact .of_body standing_pinReleaseBody fun _ _ => rfl
  · exact .of_body standing_sentConfigBody fun _ _ => rfl
  · exact .of_body standing_smuConfigBody fun _ _ => rfl
  · exact .of_body standing_smuTripBody fun _ _ => rfl
  · exact .of_body standing_smuReleaseBody fun _ _ => rfl
  · exact .of_ampBody standing_ampConnectBody fun _ _ => rfl
  · exact .of_ampBody standing_ampDisconnectBody fun _ _ => rfl
  · exact .of_ampBody standing_ampBridgeBody fun _ _ => rfl
  · exact keepsStanding_ampConvert
  · exact .of_body standing_tiuAbortBody fun _ _ => rfl
  · exact .of_body standing_hatchLineBody fun _ _ => rfl
  · exact .of_body standing_hatchProducerBody fun _ _ => rfl
  · exact .of_body standing_hatchForwardBody fun _ _ => rfl
  · exact .of_body standing_hatchTaskBody fun _ _ => rfl
  · exact .of_body standing_hatchBindBody fun _ _ => rfl
  · exact .of_body standing_hatchGroupBody fun _ _ => rfl
  · exact .of_body standing_hatchRestoreBody fun _ _ => rfl
  · exact .of_body standing_hatchPulseBody fun _ _ => rfl
  · exact .of_body standing_timeStepBody fun _ _ => rfl
  · exact .of_body standing_tcmpArmBody fun _ _ => rfl
  · exact .of_body standing_fltReleaseBody fun _ _ => rfl

end Sys2Proof.Machine
end

section
/-!
What a store writes and what it leaves: consecutive values of a table, and the resources of several gathers.
-/
namespace Sys2Proof

/-- An index outside a written range reads as before; one inside it reads the value written there. -/
theorem Tab.get_putAll {α : Type} (d : α) (vs : List α) (t : Tab α) (k j : Nat) :
    Tab.get d (Tab.putAll t k vs) j = if k ≤ j ∧ j < k + vs.length then vs.getD (j - k) d else Tab.get d t j := by
  induction vs generalizing t k with
  | nil => exact (if_neg (by simp)).symm
  | cons v vs ih =>
    rw [Tab.putAll, ih, Tab.get_put, List.length_cons]
    obtain hlt | rfl | hgt := Nat.lt_trichotomy j k
    · rw [if_neg (by omega), if_neg (by omega), if_neg (by omega)]
    · rw [if_neg (by omega), if_pos rfl, if_pos (by omega), Nat.sub_self, List.getD_cons_zero]
    · have hnext : j - k = j - (k + 1) + 1 := by omega
      have hrange : (k + 1 ≤ j ∧ j < k + 1 + vs.length) ↔ k ≤ j ∧ j < k + (vs.length + 1) := by omega
      rw [if_neg (Nat.ne_of_gt hgt), hnext, List.getD_cons_succ]
      simp only [hrange]

namespace Machine

theorem State.play_modPlay_self (s : State) (g : Nat) (f : Play → Play) : ((s.modPlay g f).gather g).play = f (s.gather g).play := by
  rw [State.modPlay, State.modG, State.gather_setG, if_pos rfl]

section Writes

variable {P : Play → Prop} {f : Play → Play}

/-- What an update of a gather's resources keeps, it keeps on every gather, however many are updated. -/
theorem play_forAll_modPlay_keeps (hf : ∀ y, P y → P (f y)) (us : List Nat) {s : State} {g : Nat} (h : P (s.gather g).play) :
    P ((forAll us (fun s k => s.modPlay k f) s).gather g).play := by
  refine List.foldlRecOn (motive := fun u : State => P (u.gather g).play) us _ h fun u hu k _ => ?_
  by_cases hgk : g = k
  · subst hgk
    exact (State.play_modPlay_self u g f).symm ▸ hf _ hu
  · exact (State.gather_modPlay_of_ne hgk f).symm ▸ hu

/-- What an update always brings about holds on each of the gathers updated. -/
theorem play_forAll_modPlay_of_mem (hf : ∀ y, P (f y)) {us : List Nat} {g : Nat} (hg : g ∈ us) (s : State) :
    P ((forAll us (fun s k => s.modPlay k f) s).gather g).play := by
  induction us generalizing s with
  | nil => nomatch hg
  | cons k us ih =>
    obtain rfl | hrest := List.mem_cons.mp hg
    · exact play_forAll_modPlay_keeps (fun y _ => hf y) us ((State.play_modPlay_self s g f).symm ▸ hf _)
    · exact ih hrest (s.modPlay k f)

end Writes

end Machine
end Sys2Proof
end

section
/-!
VMEM_WRITE and STREAM_WRITE (R93, R97, R101, R126): the bytes that their own parts store, and the frame of every firmware command around them.
-/
namespace Sys2Proof.Machine

/-! ## A firmware command and its own part -/

theorem State.begun_is (s : State) (op : Half) (r : Req) : ∃ mbx, s.begun op r = { s with mbx := mbx } := by
  obtain ⟨rung, hrung⟩ := rung_is s op r
  rw [begun_eq, hrung]
  exact startHead_is _ _

theorem guarded_fst (s : State) (st : Half) (go : Unit → State × Act) : (guarded s st go).1 = s ∨ (guarded s st go).1 = (go ()).1 := by
  unfold guarded
  split
  · exact .inl rfl
  · exact .inr rfl

section Run

variable {s : State} {r : Req} {op : Half} {bound : Nat} {accept : List Nat} {body : State → Req → State × Act}

/-- What neither answers nor the command's own part change, the command leaves, whatever becomes of its request. -/
theorem firmware_leaves {β : Type} {f : State → β} (hanswer : ∀ {u v}, AnswerFrame u v → f v = f u)
    (hbody : ∀ mbx, f (body { s with mbx := mbx } r).1 = f s) : f (s.firmware op bound accept r body) = f s := by
  obtain h | ⟨mbx, h⟩ := State.firmware_frame s op bound accept r body
  · exact hanswer h
  · exact (hanswer h).trans (hbody mbx)

/-- A ready command that changes no descriptor (R44) leaves what its own part leaves, but for the answer. -/
theorem firmware_answers_of_ready (h : s.ready op accept r = true) (hgroup : groupOf op ≠ 2) :
    AnswerFrame (body (s.begun op r) r).1 (s.firmware op bound accept r body) := by
  have hfinish := State.finish_answers (.refl (body (s.begun op r) r).1) op bound r ((s.begun op r).target r) ((s.begun op r).spans op r)
    (body (s.begun op r) r).2
  simpa [firmware_runs h, State.conclude, hgroup] using hfinish

end Run

/-! ## STREAM_WRITE -/

theorem AnswerFrame.dram {s t : State} (h : AnswerFrame s t) : t.dram = s.dram := congrArg (·.dram) h

/-- The address at which STREAM_WRITE stores (R101). -/
def State.streamBase (s : State) (r : Req) : Nat := (s.ctx (u8 r.payload 0)).base + u32 r.payload 4 * 256

theorem dram_streamWriteBody (s : State) (r : Req) :
    (streamWriteBody s r).1.dram = s.dram ∨ (streamWriteBody s r).1.dram = Mem.writeAll s.dram (s.streamBase r) (r.payload.drop 8) :=
  (guarded_fst s _ _).imp (congrArg State.dram) (congrArg State.dram)

theorem dram_streamWriteBody_of_when {s : State} {r : Req} (h : When.streamWrite s r) :
    (streamWriteBody s r).1.dram = Mem.writeAll s.dram (s.streamBase r) (r.payload.drop 8) := by
  obtain ⟨hlen, hmin, hmax, hctx, hspan, hzeros, hfree⟩ := h
  refine congrArg (fun p : State × Act => p.1.dram) (guarded_ok ((checks_ok _).mpr ?_) _)
  simp only [List.forall_mem_cons, List.not_mem_nil, false_imp_iff, implies_true, and_true]
  refine ⟨unless_true ?_, unless_true ?_, unless_true hzeros, unless_true ?_⟩
  · simp [hlen.symm, hmin, hmax]
  · simp [hctx, hspan]
  · simp [hfree]

theorem read_streamWrite_outside {s t : State} {r : Req} {a : Nat} (hwf : Mem.wf s.dram = true) (ht : exec (.streamWrite r) s = .next t)
    (ha : a < s.streamBase r ∨ s.streamBase r + (r.payload.length - 8) ≤ a) : Mem.read t.dram a = Mem.read s.dram a := by
  cases ht
  refine firmware_leaves (f := fun u => Mem.read u.dram a) (fun h => congrArg (Mem.read · a) h.dram) fun mbx => ?_
  obtain h | h := dram_streamWriteBody { s with mbx := mbx } r
  · exact congrArg (Mem.read · a) h
  · have hout : ¬ (s.streamBase r ≤ a ∧ a < s.streamBase r + (r.payload.drop 8).length) := by rw [List.length_drop]; omega
    exact (congrArg (Mem.read · a) h).trans ((Mem.read_writeAll _ _ _ _ hwf).trans (if_neg hout))

theorem read_streamWrite_inside {s t : State} {r : Req} {a : Nat} (hwf : Mem.wf s.dram = true) (ht : exec (.streamWrite r) s = .next t)
    (hready : s.ready 0x0406 [8] r = true) (hwhen : When.streamWrite (s.begun 0x0406 r) r) (hlo : s.streamBase r ≤ a)
    (hhi : a < s.streamBase r + (r.payload.length - 8)) : Mem.read t.dram a = (r.payload.drop 8).getD (a - s.streamBase r) 0 := by
  cases ht
  have hran : (s.firmware 0x0406 (us 100) [8] r streamWriteBody).dram = Mem.writeAll s.dram (s.streamBase r) (r.payload.drop 8) := by
    have hbody := dram_streamWriteBody_of_when hwhen
    obtain ⟨mbx, hbegun⟩ := s.begun_is 0x0406 r
    exact (firmware_answers_of_ready hready (by decide)).dram.trans (hbody.trans (by rw [hbegun]; rfl))
  have hin : s.streamBase r ≤ a ∧ a < s.streamBase r + (r.payload.drop 8).length := by rw [List.length_drop]; omega
  exact (congrArg (Mem.read · a) hran).trans ((Mem.read_writeAll _ _ _ _ hwf).trans (if_pos hin))

/-! ## VMEM_WRITE -/

/-- What VMEM_WRITE makes of the resources of a gather: the bodies that hold a named granule are unpinned (R100), and the granules stored. -/
def Play.store (r : Req) (y : Play) : Play :=
  { (y.unpin fun a => decide (u16 r.payload 0 ≤ a ∧ a < u16 r.payload 0 + u16 r.payload 2)).1 with
    vmem := Tab.putAll y.vmem (u16 r.payload 0) (granulesOf r.payload 8 (u16 r.payload 2)) }

/-- The granules of a gather's vector memory after VMEM_WRITE. -/
theorem Play.get_vmem_store (r : Req) (y : Play) (k : Nat) :
    Tab.get [] (y.store r).vmem k =
      if u16 r.payload 0 ≤ k ∧ k < u16 r.payload 0 + u16 r.payload 2 then slice r.payload (8 + 256 * (k - u16 r.payload 0)) 256
      else Tab.get [] y.vmem k := by
  have hlength : (granulesOf r.payload 8 (u16 r.payload 2)).length = u16 r.payload 2 := by simp [granulesOf]
  rw [Play.store, Tab.get_putAll, hlength]
  refine ite_congr rfl (fun hk => ?_) fun _ => rfl
  have hix : k - u16 r.payload 0 < u16 r.payload 2 := by omega
  simp [granulesOf, hix]

theorem vmemWriteBody_fst (s : State) (r : Req) :
    (vmemWriteBody s r).1 = s ∨ (vmemWriteBody s r).1 = forAll (s.target r).units (fun s g => s.modPlay g (·.store r)) s :=
  guarded_fst s _ _

theorem vmemWriteBody_fst_of_when {s : State} {r : Req} (h : When.vmemWrite s r) :
    (vmemWriteBody s r).1 = forAll (s.target r).units (fun s g => s.modPlay g (·.store r)) s := by
  obtain ⟨hlen, hmin, hmax, hrange, hzeros, hsymbols, hidle⟩ := h
  refine congrArg Prod.fst (guarded_ok ((checks_ok _).mpr ?_) _)
  simp only [List.forall_mem_cons, List.not_mem_nil, false_imp_iff, implies_true, and_true]
  exact ⟨(needLen_ok _ _).mpr hlen, (rangeOk_ok _ _ _ _).mpr ⟨hmin, hmax, hrange⟩, unless_true hzeros, unless_true (by simp [hsymbols]),
    gathersIdle_ok hidle⟩

theorem vmem_vmemWrite_outside {s t : State} {r : Req} {g k : Nat} (ht : exec (.vmemWrite r) s = .next t)
    (hk : k < u16 r.payload 0 ∨ u16 r.payload 0 + u16 r.payload 2 ≤ k) :
    Tab.get [] (t.gather g).play.vmem k = Tab.get [] (s.gather g).play.vmem k := by
  cases ht
  refine firmware_leaves (f := fun u => Tab.get [] (u.gather g).play.vmem k)
    (fun h => congrArg (fun G : Gather => Tab.get [] G.play.vmem k) (h.gather g)) fun mbx => ?_
  obtain h | h := vmemWriteBody_fst { s with mbx := mbx } r
  · rw [h]
    rfl
  · rw [h]
    refine play_forAll_modPlay_keeps (P := fun y => Tab.get [] y.vmem k = Tab.get [] (s.gather g).play.vmem k) (fun y hy => ?_) _ rfl
    exact (y.get_vmem_store r k).trans ((if_neg (by omega)).trans hy)

theorem vmem_vmemWrite_inside {s t : State} {r : Req} {g k : Nat} (ht : exec (.vmemWrite r) s = .next t)
    (hready : s.ready 0x0401 [6, 0xC] r = true) (hwhen : When.vmemWrite (s.begun 0x0401 r) r) (hg : g ∈ (s.target r).units)
    (hlo : u16 r.payload 0 ≤ k) (hhi : k < u16 r.payload 0 + u16 r.payload 2) :
    Tab.get [] (t.gather g).play.vmem k = slice r.payload (8 + 256 * (k - u16 r.payload 0)) 256 := by
  cases ht
  obtain ⟨mbx, hbegun⟩ := s.begun_is 0x0401 r
  have htarget : (s.begun 0x0401 r).target r = s.target r := by rw [hbegun]; rfl
  have hanswer := (firmware_answers_of_ready (body := vmemWriteBody) (bound := us 100) hready (by decide)).gather g
  rw [vmemWriteBody_fst_of_when hwhen, htarget] at hanswer
  rw [hanswer]
  exact play_forAll_modPlay_of_mem (P := fun y => Tab.get [] y.vmem k = slice r.payload (8 + 256 * (k - u16 r.payload 0)) 256)
    (fun y => (y.get_vmem_store r k).trans (if_pos ⟨hlo, hhi⟩)) hg _

/-! ## The obligation -/

/-- Settles O33: for each command, what lies outside its range by the frame of firmware commands, what lies inside by its own part; a gather
outside the target of VMEM_WRITE is left alone altogether. -/
theorem aStoreTouchesOnlyItsBytes : Obligations.AStoreTouchesOnlyItsBytes := by
  refine ⟨fun s t r hwf ht a => ⟨read_streamWrite_outside hwf ht, read_streamWrite_inside hwf ht⟩, fun s t r ht g k => ⟨?_, vmem_vmemWrite_inside ht⟩⟩
  rintro (hg | hk)
  · exact congrArg (fun G : Gather => Tab.get [] G.play.vmem k) (gather_firmware gather_vmemWriteBody hg ht)
  · exact vmem_vmemWrite_outside ht hk

end Sys2Proof.Machine
end

section
/-!
The events at the comparators, the pins, CLEAR_N and the source/measure units (R144, R146, R149 to R151, R153, R172, R177, R192 to R194, R203, R204,
R208, R529, R532): where the condition of an event holds, its `exec` takes the branch that has its effect.
-/
namespace Sys2Proof.Machine

/-- Settles O49: each event's condition decides its tests, and the branch they leave is the effect; CLEAR_N's release and the rails' readings have no
condition. -/
theorem pinAndSmuEventsComplete : Obligations.PinAndSmuEventsComplete := by
  refine ⟨fun e => ?comparatorChange, fun e => ?modeChangeHoldEnd, fun g n => ?sentinelDwellEnd, fun g p => ?driverOvercurrent,
    fun g p => ?deglitchRelease, fun g p => ?levelOrderedLatch, fun m e w => ?dacSettled, fun pulseNs => ?clearNAssert,
    fun vphUv vplUv s _ => (apply_ite Host.Outcome.next _ _ _).symm, fun g u value => ?complianceSwitch, fun g u => ?openLoopDetect,
    fun g u r => ?rangeStepEnd, fun m e w => ?smuMeasureTrigger, fun g u code q => ?smuConversion, fun m e w t => ?smuMeasureComplete,
    ?peRailArm, fun s _ => rfl, fun m e w t => ?smuOutputSettled⟩
  case comparatorChange =>
    rintro s ⟨hpowered, hheld⟩
    exact congrArg _ (if_neg (by simp [hpowered, hheld]))
  case modeChangeHoldEnd =>
    rintro s ⟨hpowered, hheld⟩
    exact congrArg _ (if_pos (by simp [hpowered, hheld]))
  case sentinelDwellEnd =>
    rintro s ⟨htiming, hfrozen, hasleep, hen, hpassed⟩
    exact if_neg (by simp [htiming, hfrozen, hasleep, hen, hpassed])
  case driverOvercurrent =>
    intro s hdrive
    exact if_neg (by simpa [When.driverOvercurrent] using hdrive)
  case deglitchRelease =>
    intro s hholding
    exact if_neg (by simp [show (s.pin g p).holding = true from hholding])
  case levelOrderedLatch =>
    intro s hlatch
    exact if_neg (by simpa [When.levelOrderedLatch] using hlatch)
  case dacSettled =>
    rintro s ⟨hwaiting, hkind, hstill⟩
    simp only [exec, execDacSettled, hwaiting]
    exact if_pos (Bool.and_eq_true_iff.mpr ⟨beq_iff_eq.mpr hkind, congrArg not hstill⟩)
  case clearNAssert =>
    rintro s ⟨hhigh, hlong⟩
    exact (if_neg (Bool.eq_false_iff.mp hhigh)).trans (congrArg _ (if_neg hlong))
  case complianceSwitch =>
    intro s hpowered
    refine (if_neg (by simp [show s.complPowered g u = true from hpowered])).trans ?_
    exact (apply_ite Host.Outcome.next _ _ _).symm
  case openLoopDetect =>
    intro s hseen
    exact if_neg (by simp [show s.openLoopSeen g u = true from hseen])
  case rangeStepEnd =>
    intro s hrun
    simp only [exec, execRangeStepEnd, show (s.smu g u).run = some r from hrun]
    exact (apply_ite Host.Outcome.next _ _ _).symm
  case smuMeasureTrigger =>
    rintro s ⟨hwaiting, hkind⟩
    simp only [exec, execSmuMeasureTrigger, hwaiting]
    exact if_pos (beq_iff_eq.mpr hkind)
  case smuConversion =>
    rintro s ⟨hmeas, hstarted, hcount⟩
    simp only [exec, execSmuConversion, hmeas]
    exact if_pos (by simp [hstarted, hcount])
  case smuMeasureComplete =>
    rintro s ⟨htarget, hkind, hdone⟩
    simp only [exec, execSmuMeasureComplete, htarget]
    exact if_neg (Bool.eq_false_iff.mp (Bool.or_eq_false_iff.mpr ⟨bne_eq_false_iff_eq.mpr hkind, congrArg not hdone⟩))
  case peRailArm =>
    intro s hrails
    exact congrArg _ (if_pos hrails)
  case smuOutputSettled =>
    rintro s ⟨htarget, hkind⟩
    simp only [exec, execSmuOutputSettled, htarget]
    exact if_pos (beq_iff_eq.mpr hkind)

end Sys2Proof.Machine
end

section
/-!
The events at the Ampoule's channels, bridges and clock, with its start (R210, R211, R215, R223, R226, R227, R230 to R232, R236, R255, R258, R355 to R359):
where the condition of an event holds, its `exec` takes the branch that has its effect.
-/
namespace Sys2Proof.Machine

/-- Settles O51: each event's condition decides its tests, and the branch they leave is the effect; the posting of an answer and the loss of a rail have no
condition. -/
theorem ampouleEventsComplete : Obligations.AmpouleEventsComplete := by
  refine ⟨fun t => ?ampTrigger, fun g c q l e w => ?ampTriggerTimeout, fun g c code inj r q l => ?ampConversionEnd, fun g c s _ => rfl,
    fun g c src m p e w => ?claimGrant, fun g p => ?spanPhaseEnd, fun g uv => ?excOutOfRange, ?modclkLockLoss, ?modclkLockReturn, fun s _ => rfl,
    fun romOk => ?ampouleStart, fun g c => ?refpCheckDue, fun g c uv residuals => ?refpCheckEnd, fun g c code inj => ?selfTraffic,
    fun g => ?codeDensityDue, fun g inlPpb => ?codeDensityEnd, fun g c range offset => ?calBlockStale, fun g c range => ?compensationUpdate,
    fun g uv => ?clip⟩
  case ampTrigger =>
    rintro s ⟨hstarted, hlocked⟩
    exact if_neg (by simp [hstarted, hlocked])
  case ampTriggerTimeout =>
    rintro s ⟨hqueue, hwaiting, hmode, hkind, hheads, hover⟩
    simp only [exec, execAmpTriggerTimeout, hqueue, hwaiting]
    exact if_neg (by simp [hmode, hkind, hheads, hover])
  case ampConversionEnd =>
    rintro s ⟨hrun, hqueue, hinj⟩
    simp only [exec, execAmpConversionEnd, hrun, hqueue]
    exact (if_neg (by simp [hinj])).trans (apply_ite Host.Outcome.next _ _ _).symm
  case claimGrant =>
    rintro s ⟨hasks, hwaiting⟩
    simp only [exec, execClaimGrant, hasks, hwaiting]
    exact (apply_ite Host.Outcome.next _ _ _).symm
  case spanPhaseEnd =>
    intro s hspan
    simp only [exec, execSpanPhaseEnd, show (s.bridge g).span = some p from hspan]
    exact (apply_ite Host.Outcome.next _ _ _).symm
  case excOutOfRange =>
    intro s hclosed
    exact if_neg (Bool.eq_false_iff.mp hclosed)
  case modclkLockLoss =>
    rintro s ⟨hlocked, hstarted⟩
    exact if_neg (by simp [hlocked, hstarted])
  case modclkLockReturn =>
    intro s hlost
    exact if_pos hlost
  case ampouleStart =>
    rintro s ⟨hreset, hawake⟩
    exact if_neg (by simp [hreset, hawake])
  case refpCheckDue =>
    rintro s ⟨hstarted, himage, hdue⟩
    exact if_neg (by simp [hstarted, himage, hdue])
  case refpCheckEnd =>
    intro s hrunning
    exact if_neg (by simp [show (s.chan g c).refRun = true from hrunning])
  case selfTraffic =>
    rintro s ⟨hstarted, himage, hlocked, hanneal, hidle, hdensity, hinj⟩
    exact if_neg (by simp [hstarted, himage, hlocked, hanneal, hidle, hdensity, hinj])
  case codeDensityDue =>
    rintro s ⟨hstarted, himage, hlocked, hanneal, hopen, hidle, hdue⟩
    exact if_neg (by simpa [hstarted, himage, hlocked, hanneal, hopen, hidle] using hdue)
  case codeDensityEnd =>
    intro s hrunning
    exact if_neg (by simp [show (s.bridge g).density = true from hrunning])
  case calBlockStale =>
    intro s hstale
    exact if_neg (Bool.eq_false_iff.mp (congrArg not hstale))
  case compensationUpdate =>
    intro s hidle
    exact if_neg (Bool.eq_false_iff.mp hidle)
  case clip =>
    intro s htracking
    exact if_neg (by simp [show (s.bridge g).mode = 2 from htracking])

end Sys2Proof.Machine
end

section
/-!
What no step lowers (R252, R266, R508, R512, R523): a step is one command on the queue's rest or one edge of the timestamp clock, and both keep the
parts that `Keeps` speaks of.
-/
namespace Sys2Proof.Machine

/-- A step takes one command off the queue, or none, and keeps the rest of what `Keeps` speaks of. -/
theorem keeps_of_step {s t : State} (h : step s = .next t) : ∃ rest, Keeps { s with pending := rest } t := by
  unfold step at h
  split at h
  · cases h
    exact ⟨s.pending, State.idle_keeps (.refl s)⟩
  · next c rest _ => exact ⟨rest, (exec_keeps (.refl { s with pending := rest }) c).keeps h⟩

theorem ringOrdered_nil : ringOrdered [] := fun _ he => absurd he List.not_mem_nil

/-- Settles O7: every step keeps what `Keeps` speaks of, and the rings after reset hold no word. -/
theorem nothingFallsThatMustNot : Obligations.NothingFallsThatMustNot := by
  refine ⟨fun s t hstep => ?_, ringOrdered_nil, ringOrdered_nil⟩
  obtain ⟨rest, hkeeps⟩ := keeps_of_step hstep
  exact hkeeps.up

end Sys2Proof.Machine
end

section
/-!
An AMP_ADJUST COMMIT with the legal event counter at its top (R252): the refusal with COUNTER_FULL leaves in the command's entry the completion bound that was
noted for it before the response.
-/
namespace Sys2Proof.Machine

/-- ACTIVE since long, the seal open, a complete candidate, and the legal event counter at 0xFFFFFFFF. -/
def counterAtTop : State :=
  { State.reset with
    upNs := 10 ^ 13, power := { State.reset.power with pstate := 1, wipe := false, img := 0 }
    amp := { State.reset.amp with inReset := false, legal := 1, candidate := (List.range 64).map fun g => (g, {}), lec := 0xFFFF_FFFF } }

/-- A whole COMMIT on the legal path, with a certified REFP of 499,000,000. -/
def commitRequest : Req :=
  { mbx := 5, tag := 7, target := 0x8000, flags := 0, rsv := 0, payload := List.replicate 4 0#8 ++ toLE 4 499000000 ++ List.replicate 32 0#8 }

theorem counterAtTop_ready : counterAtTop.ready 0x070A [8] commitRequest = true := by decide +kernel

/-- Refutes O26: by the counterexample `counterAtTop`. The COMMIT is refused with COUNTER_FULL, as R252 has it; but `State.finish` has noted its completion
bound of 1 ms in its entry (R411, `State.boundBy`) before the response, where the statement's response leaves there the 0 of a request just rung, whatever
bound it is formed with. -/
theorem not_commitAtTheTopIsRefused : ¬ Obligations.CommitAtTheTopIsRefused := by
  intro h
  obtain ⟨bound, count, hnext⟩ := h counterAtTop commitRequest counterAtTop_ready rfl rfl rfl (by decide +kernel) (by decide +kernel) (by decide +kernel)
    (by decide +kernel) (by decide +kernel) (by decide +kernel) rfl (by decide +kernel) (by decide +kernel) rfl
  have hran : (counterAtTop.firmware 0x070A (us 1000) [8] commitRequest ampAdjustBody).entryBounds 5 = [us 1000] := by decide +kernel
  have hbegun : (counterAtTop.begun 0x070A commitRequest).entryBounds 5 = [0] := by decide +kernel
  injection hnext with hnext
  have hformed := State.respond_sameBounds
    { counterAtTop.begun 0x070A commitRequest with amp := { counterAtTop.amp with refusals := count } } 5 bound (.err 0x0407) 5
  exact absurd (hran.symm.trans ((congrArg (·.entryBounds 5) hnext).trans (hformed.trans hbegun))) (by decide)

end Sys2Proof.Machine
end

section
/-!
The events at the time-interval units, the capture engine, the Marver, the collector, the twin, power, time and JTAG whose condition does not hold (log 3):
`exec` takes the branch that leaves the state. The four ways in which an `exec` tests a condition each have a lemma; an event that is tested in several steps
has a lemma of its own.
-/
namespace Sys2Proof.Machine

section Branches
variable {s t : State} {w c : Prop} [Decidable c] {go : Host.Outcome State Fault Refusal}

theorem stays_unless_neg (h : ¬ w) (hc : ¬ c → w) : (if c then .next s else go) = .next s := if_pos (Decidable.byContradiction fun hn => h (hc hn))

theorem stays_unless_pos (h : ¬ w) (hc : c → w) : (if c then go else .next s) = .next s := if_neg (mt hc h)

theorem next_stays_unless_neg (h : ¬ w) (hc : ¬ c → w) :
    (.next (if c then s else t) : Host.Outcome State Fault Refusal) = .next s := congrArg _ (if_pos (Decidable.byContradiction fun hn => h (hc hn)))

theorem next_stays_unless_pos (h : ¬ w) (hc : c → w) :
    (.next (if c then t else s) : Host.Outcome State Fault Refusal) = .next s := congrArg _ (if_neg (mt hc h))

end Branches

theorem sheetSealed_idle : IdleUnless .sheetSealed fun s => ∃ x : Sheet, When.sheetSealed x s := by
  intro s h
  cases hsealing : s.sealing with
  | none => simp only [exec, execSheetSealed, hsealing]
  | some x =>
    simp only [exec, execSheetSealed, hsealing]
    exact stays_unless_neg h fun hgo => ⟨x, hsealing, by simpa [Option.isSome_iff_ne_none] using hgo⟩

theorem tiuGate_idle (g : GIx) (u : UIx) (asserted : Bool) :
    IdleUnless (.tiuGate g u asserted) fun s => When.tiuGate g u asserted s ∨ When.tiuGate2 g u asserted s := by
  intro s h
  simp only [exec, execTiuGate]
  split
  · exact next_stays_unless_pos h fun hcame => .inl ⟨‹_›, rfl, hcame⟩
  · exact next_stays_unless_neg h fun hends => .inr ⟨‹_›, rfl, by simpa using hends⟩
  · rfl

theorem tiuEdgeStamp_idle (g : GIx) (u : UIx) (stop : Bool) (place : Fin 768) (rising inWindow : Bool) :
    IdleUnless (.tiuEdgeStamp g u stop place rising inWindow) fun s =>
      (∃ m, When.tiuEdgeStamp g u stop place rising inWindow m s) ∨ ∃ m, When.tiuEdgeStamp2 g u stop place rising inWindow m s := by
  intro s h
  cases hmeas : (s.tiu g u).meas with
  | none => simp only [exec, execTiuEdgeStamp, hmeas]
  | some m =>
    simp only [exec, execTiuEdgeStamp, hmeas]
    split
    · rfl
    next hreads =>
    obtain ⟨⟨⟨harmed, hsource⟩, hqualifies⟩, hchannel⟩ : (((s.tiu g u).st = .armed
        ∧ s.tiuSource g (tiuKind stop (s.tiu g u).src) (tiuSrc stop (s.tiu g u).src) = true)
        ∧ (s.tiu g u).qualifies stop rising inWindow = true)
        ∧ (stop && (tiuMode (s.tiu g u).cfg == 2 || tiuMode (s.tiu g u).cfg == 3)) = false := by
      simpa only [Bool.or_eq_true, not_or, bne_iff_ne, ne_eq, Classical.not_not, Bool.not_eq_true', Bool.not_eq_false, Bool.not_eq_true] using hreads
    by_cases hdead : inDead (if stop then m.deadStop else m.deadStart) (s.rawStamp place) = true
    · exact absurd (.inl ⟨m, hmeas, harmed, hsource, hqualifies, hchannel, hdead⟩) h
    · rw [if_neg hdead]
      exact stays_unless_neg h fun htakes =>
        .inr ⟨m, hmeas, harmed, hsource, hqualifies, hchannel, Bool.eq_false_iff.mpr hdead, by simpa using htakes⟩

theorem capTrigger_idle (g : GIx) (d : Two) (fire : CapFire) (place : Nat) :
    IdleUnless (.capTrigger g d fire place) fun s => ∃ time : Nat, When.capTrigger g d fire place time s := by
  intro s h
  cases htime : s.fireTime g d fire place with
  | none => simp only [exec, execCapTrigger, htime]
  | some time =>
    simp only [exec, execCapTrigger, htime]
    exact stays_unless_neg h fun hgo => ⟨time, htime, by simpa using hgo⟩

theorem capArbitrationEnd_idle (g : GIx) (d : Two) :
    IdleUnless (.capArbitrationEnd g d) fun s => ∃ a : CapArm, ∃ t : CapTrig, When.capArbitrationEnd g d a t s := by
  intro s h
  cases harm : (s.dig g d).arm with
  | none => simp only [exec, execCapArbitrationEnd, harm]
  | some a =>
    simp only [exec, execCapArbitrationEnd, harm]
    split
    · rfl
    next t hfirst => exact absurd ⟨a, t, harm, hfirst⟩ h

theorem capItemWrite_idle (g : GIx) (d : Two) (samples : List Int) (drained : Nat) :
    IdleUnless (.capItemWrite g d samples drained) fun s =>
      (∃ a : CapArm, When.capItemWrite g d a s) ∨ (∃ a : CapArm, When.capItemWrite2 g d samples a s) ∨ When.capItemWrite3 g d s := by
  intro s h
  simp only [exec, execCapItemWrite]
  split
  · rfl
  next hparked =>
  have hparked : (s.dig g d).parked = false := Bool.eq_false_iff.mpr hparked
  split
  next a harm hrecording =>
    split
    next hfull => exact absurd (.inl ⟨a, hparked, harm, hrecording, hfull⟩) h
    next hfull =>
    exact stays_unless_neg h fun hlength =>
      .inr (.inl ⟨a, hparked, harm, hrecording, Bool.eq_false_iff.mpr hfull, by simpa using hlength⟩)
  next hother =>
    refine absurd (.inr (.inr ⟨hparked, ?_⟩)) h
    cases harm : (s.dig g d).arm with
    | none => exact .inl rfl
    | some a => exact .inr (by simpa [harm] using hother a)

theorem capRecordEnd_idle (g : GIx) (d : Two) : IdleUnless (.capRecordEnd g d) fun s => ∃ a : CapArm, When.capRecordEnd g d a s := by
  intro s h
  simp only [exec, execCapRecordEnd]
  split
  next a hcapturing harm => exact next_stays_unless_pos h fun hfull => ⟨a, hcapturing, harm, hfull⟩
  · rfl

theorem calStepEnd_idle (g : GIx) (e : CalEl) (figure : Int) (more : List Int) :
    IdleUnless (.calStepEnd g e figure more) fun s => ∃ k since : Nat, When.calStepEnd g e k since s := by
  intro s h
  simp only [exec, execCalStepEnd]
  split
  · rfl
  next k since hrunning => exact stays_unless_neg h fun hpassed => ⟨k, since, hrunning, by simpa using hpassed⟩

theorem replayStart_idle (site : Fin 128) :
    IdleUnless (.replayStart site) fun s =>
      (∃ c : Ckpt, When.replayStart site c s) ∨ (∃ c : Ckpt, When.replayStart2 site c s) ∨ When.replayStart3 site s ∨ When.replayStart4 site s := by
  intro s h
  simp only [exec, execReplayStart]
  split
  · rfl
  next hhalf =>
  have hhalf : site.val / 64 = s.halfIx := by simpa using hhalf
  split
  next hready =>
    obtain ⟨hkind, hfree⟩ := Bool.and_eq_true_iff.mp hready
    split
    next c hckpt =>
      split
      next hmode => exact absurd (.inl ⟨c, hhalf, hkind, hfree, hckpt, by simpa using hmode⟩) h
      next hmode =>
      exact stays_unless_neg h fun hlive => .inr (.inl ⟨c, hhalf, hkind, hfree, hckpt, by simpa using hmode, Bool.eq_false_iff.mpr hlive⟩)
    next hckpt => exact absurd (.inr (.inr (.inl ⟨hhalf, hkind, hfree, hckpt⟩))) h
  next hready =>
  exact next_stays_unless_neg h fun hgo => .inr (.inr (.inr ⟨hhalf, Bool.eq_false_iff.mpr hready, by simpa using hgo⟩))

theorem linkPaired_idle (matching shadows : Bool) :
    IdleUnless (.linkPaired matching shadows) fun s => When.linkPaired matching s ∨ When.linkPaired2 matching shadows s := by
  intro s h
  simp only [exec, execLinkPaired]
  split
  · rfl
  next hlinked =>
  obtain ⟨⟨hstate, hlink⟩, hanneal⟩ : (s.twin.st = 1 ∧ s.twin.link = true) ∧ s.faults.anneal = false := by simpa using hlinked
  split
  next hmatching => exact absurd (.inl ⟨hstate, hlink, hanneal, by simpa using hmatching⟩) h
  next hmatching =>
  exact stays_unless_neg h fun hshadows => .inr ⟨hstate, hlink, hanneal, by simpa using hmatching, by simpa using hshadows⟩

theorem turnChange_idle : IdleUnless .turnChange fun s => When.turnChange s ∨ When.turnChange2 s := by
  intro s h
  simp only [exec, execTurnChange]
  split
  · rfl
  next hturn =>
  obtain ⟨⟨⟨⟨hdouble, hswapping⟩, howner⟩, hfrozen⟩, hready⟩ : (((s.twin.st = 3 ∧ s.twin.swapping = false) ∧ s.twin.owner = true) ∧ s.frozen = false)
      ∧ s.turnReady = true := by simpa using hturn
  split
  next hrelease => exact absurd (.inl ⟨hdouble, hswapping, howner, hfrozen, hready, by simpa using hrelease⟩) h
  next hrelease =>
  exact stays_unless_neg h fun hwanted =>
    .inr ⟨hdouble, hswapping, howner, hfrozen, hready, by simpa using hrelease, by simpa only [Bool.not_eq_true', Bool.not_eq_false] using hwanted⟩

theorem resetTimer_idle : IdleUnless .resetTimer fun s => ∃ d : Due, When.resetTimer d s := by
  intro s h
  simp only [exec, execResetTimer]
  split
  next d hdue => exact absurd ⟨d, hdue⟩ h
  · rfl

theorem wakeNAssert_idle (restored : Bool) (dormantNs : Nat) :
    IdleUnless (.wakeNAssert restored dormantNs) fun s => When.wakeNAssert s ∨ When.wakeNAssert2 s := by
  intro s h
  simp only [exec, execWakeNAssert]
  split
  next hdormant => exact absurd (.inl (by simpa [When.wakeNAssert] using hdormant)) h
  next hawake => exact next_stays_unless_pos h fun hentering => .inr ⟨by simpa using hawake, hentering⟩

theorem smuOutputSettled_idle (m : Fin 7) :
    IdleUnless (.smuOutputSettled m) fun s => ∃ e : Entry, ∃ w : Wait, ∃ t : Tgt, When.smuOutputSettled m e w t s := by
  intro s h
  simp only [exec, execSmuOutputSettled]
  split
  next e w t htarget => exact stays_unless_pos h fun hkind => ⟨e, w, t, htarget, by simpa using hkind⟩
  · rfl

/-- Settles O60: for each event, where none of its conditions holds, its test falls to the branch that leaves the state. -/
theorem laterEventsWithoutTheirConditionDoNothing : Obligations.LaterEventsWithoutTheirConditionDoNothing := by
  refine ⟨sheetSealed_idle, ?level1TreeDone, tiuGate_idle, fun g u => ?tiuGateTimeout, fun g u => ?tiuWindowEnd, tiuEdgeStamp_idle,
    fun g u => ?tiuServiceOverflow, fun mhz100 => ?trefReturn, ?tuclkWrap, capTrigger_idle, capArbitrationEnd_idle, capItemWrite_idle,
    capRecordEnd_idle, fun g d => ?capHoldoffEnd, fun g d => ?capConverterReady, fun t readings => ?tempRead, fun sensor reading => ?tjCrit,
    fun g e => ?calStepStart, calStepEnd_idle, fun g => ?calwinIsolationClose, fun t => ?calOverdueTimer, ?calStoreDataDone,
    fun src scope detail => ?faultOccurrence, ?safeReleaseCheck, replayStart_idle, ?watchdogExpiry, ?peRailArm, linkPaired_idle, ?twinAbsentTimeout,
    ?heartbeatSend, ?heartbeatTimeout, ?mirrorAckTimeout, ?linkLoss, fun seq => ?mirrorEntryAck, fun m => ?twinLinkFrame, ?dormantFrame,
    ?wakeLinkTimeout, ?hosOwnerWaitExpiry, ?hosSilenceExpiry, ?hosReadbackConflict, ?hosRefresh, ?hosBeacon, turnChange_idle, ?turnSwapDone,
    ?turnLimitExpiry, fun pulseNs => ?pfailAssert, ?pfailHighExpiry, resetTimer_idle,
    fun chainPos chainLast twinId slotA slotB calNewer calOlder clocks => ?startup, ?dormantEntryDone, wakeNAssert_idle,
    fun state mirrorSeq ownsBus => ?heartbeatReceive, ?counterproofLinkUp, fun port m => ?ptpMessage, ?mpTick, fun cells => ?jtagUpdateDr,
    fun g uv => ?clip, smuOutputSettled_idle, ?exportCloseTimeout⟩
  -- What `exec` tests is the condition itself.
  case level1TreeDone | tiuServiceOverflow => exact fun _ h => stays_unless_pos h id
  case watchdogExpiry | peRailArm | mirrorAckTimeout | mirrorEntryAck | hosReadbackConflict | mpTick =>
    exact fun _ h => next_stays_unless_pos h id
  case tjCrit => exact fun _ h => next_stays_unless_neg h id
  -- What `exec` tests is the condition, or its negation, written as one Boolean.
  case capHoldoffEnd =>
    refine fun _ h => stays_unless_pos h fun hc => ?_
    obtain ⟨hholdoff, hpast⟩ := Bool.and_eq_true_iff.mp hc
    exact ⟨beq_iff_eq.mp hholdoff, hpast⟩
  case heartbeatSend =>
    refine fun _ h => next_stays_unless_pos h fun hc => ?_
    simp only [Bool.and_eq_true] at hc
    obtain ⟨⟨⟨hpaired, hlink⟩, hawake⟩, hdue⟩ := hc
    exact ⟨hpaired, hlink, bne_iff_ne.mp hawake, hdue⟩
  case tiuWindowEnd | calStoreDataDone =>
    exact fun _ h => stays_unless_pos h fun hc => by simpa [When.tiuWindowEnd, When.calStoreDataDone] using hc
  case tiuGateTimeout | trefReturn | tuclkWrap | capConverterReady | tempRead | calStepStart | calwinIsolationClose | calOverdueTimer | linkLoss |
      twinLinkFrame | turnSwapDone | turnLimitExpiry | pfailAssert | startup | dormantEntryDone | heartbeatReceive | ptpMessage | clip =>
    exact fun _ h => stays_unless_neg h fun hc => by
      simpa [When.tiuGateTimeout, When.trefReturn, When.tuclkWrap, When.capConverterReady, When.tempRead, When.calStepStart,
        When.calwinIsolationClose, When.calOverdueTimer, When.linkLoss, When.twinLinkFrame, When.turnSwapDone, When.turnLimitExpiry,
        When.pfailAssert, When.startup, When.dormantEntryDone, When.heartbeatReceive, When.ptpMessage, When.clip, and_assoc] using hc
  case twinAbsentTimeout | dormantFrame | wakeLinkTimeout | hosOwnerWaitExpiry | hosSilenceExpiry | hosRefresh | hosBeacon |
      pfailHighExpiry | jtagUpdateDr | exportCloseTimeout =>
    exact fun _ h => next_stays_unless_pos h fun hc => by
      simpa [When.twinAbsentTimeout, When.dormantFrame, When.wakeLinkTimeout, When.hosOwnerWaitExpiry, When.hosSilenceExpiry,
        When.hosRefresh, When.hosBeacon, When.pfailHighExpiry, When.jtagUpdateDr, When.exportCloseTimeout, and_assoc] using hc
  case faultOccurrence | safeReleaseCheck | heartbeatTimeout | counterproofLinkUp =>
    exact fun _ h => next_stays_unless_neg h fun hc => by
      simpa [When.faultOccurrence, When.safeReleaseCheck, When.heartbeatTimeout, When.counterproofLinkUp, and_assoc] using hc

end Sys2Proof.Machine
end

section
/-!
The events at the seal and at the time-interval units (R245, R250, R262, R266, R268, R271, R272, R278, R279, R281, R360): where the condition of an event
holds, its `exec` takes the branch that has its effect.
-/
namespace Sys2Proof.Machine

/-- Settles O52: each event's condition decides its tests, and the branch they leave is the effect; the seal's changes, a durable commit and the loss of
TREF have no condition. -/
theorem sealAndTiuEventsComplete : Obligations.SealAndTiuEventsComplete := by
  refine ⟨?sealOpen, fun g => ?adjustmentGatherDone, fun s _ => rfl, fun ok x => ?signingIndexReserved, fun x => ?sheetSealed,
    fun s hbusy => if_pos hbusy, fun s _ => rfl, fun g u asserted => ?tiuGate, fun g u asserted => ?tiuGate2, fun g u => ?tiuGateTimeout,
    fun g u => ?tiuWindowEnd, fun g u stop place rising inWindow m => ?tiuEdgeStamp,
    fun g u stop place rising inWindow m => ?tiuEdgeStamp2, fun g u s hover => if_pos hover, fun s _ => rfl, fun mhz100 => ?trefReturn, ?tuclkWrap⟩
  case sealOpen =>
    intro s _
    by_cases hopen : (s.amp.legal == 1) = true
    · exact (if_pos hopen).trans (congrArg _ (if_pos hopen).symm)
    · exact (if_neg hopen).trans ((apply_ite Host.Outcome.next _ _ _).symm.trans (congrArg _ (if_neg hopen).symm))
  case adjustmentGatherDone =>
    rintro s ⟨hadjusting, hreset, hmode, hspan, hclaim, hidle0, hidle1, hcandidate⟩
    exact if_neg (by simpa [hadjusting, hreset, hmode, hspan, hidle0, hidle1, hcandidate] using hclaim)
  case signingIndexReserved =>
    rintro s ⟨hsealing, hindex, hstop⟩
    simp only [exec, execSigningIndexReserved, hsealing]
    exact (if_neg (by simp [hindex, hstop])).trans (apply_ite Host.Outcome.next _ _ _).symm
  case sheetSealed =>
    rintro s ⟨hsealing, hindex, hparked⟩
    simp only [exec, execSheetSealed, hsealing]
    exact if_neg (by simp [hindex, hparked])
  case tiuGate =>
    rintro s ⟨hwaiting, hasserted, hcame⟩
    simp only [exec, execTiuGate, hwaiting, hasserted]
    exact congrArg _ (if_pos hcame)
  case tiuGate2 =>
    rintro s ⟨harmed, hasserted, hlevel, hlow⟩
    simp only [exec, execTiuGate, harmed, hasserted]
    exact congrArg _ (if_neg (by simp [hlevel, hlow]))
  case tiuGateTimeout =>
    rintro s ⟨hwaiting, hover⟩
    exact if_neg (by simp [hwaiting, hover])
  case tiuWindowEnd =>
    rintro s ⟨harmed, hover⟩
    exact if_pos (by simp [harmed, hover])
  case tiuEdgeStamp =>
    rintro s ⟨hmeas, harmed, hsource, hqualifies, hchannel, hdead⟩
    simp only [exec, execTiuEdgeStamp, hmeas]
    exact (if_neg (by simp [harmed, hsource, hqualifies, hchannel])).trans (if_pos hdead)
  case tiuEdgeStamp2 =>
    rintro s ⟨hmeas, harmed, hsource, hqualifies, hchannel, hdead, htakes⟩
    simp only [exec, execTiuEdgeStamp, hmeas]
    exact (if_neg (by simp [harmed, hsource, hqualifies, hchannel])).trans
      ((if_neg (Bool.eq_false_iff.mp hdead)).trans (if_neg (by simp [htakes])))
  case trefReturn =>
    rintro s ⟨habsent, hpassed⟩
    exact if_neg (by simp [habsent, hpassed])
  case tuclkWrap =>
    intro s hpassed
    exact if_neg (by simp [show s.passed s.tref.zeroNs coarseSpan = true from hpassed])

end Sys2Proof.Machine
end

section
/-!
The events at the capture engine and the Marver (R297, R300, R304 to R306, R311, R343, R345, R348, R350, R351, R362): where the condition of an event holds,
its `exec` takes the branch that has its effect.
-/
namespace Sys2Proof.Machine

/-- Settles O53: each event's condition decides its tests, and the branch they leave is the effect; a durable commit of the calibration store has no
condition. The start and the end of a calibration step each choose among several next states. -/
theorem captureAndCalEventsComplete : Obligations.CaptureAndCalEventsComplete := by
  refine ⟨fun g d fire place time => ?capTrigger, fun g d a t => ?capArbitrationEnd, fun g d samples drained a => ?capItemWrite,
    fun g d samples drained a => ?capItemWrite2, fun g d samples drained => ?capItemWrite3, fun g d a => ?capRecordEnd,
    fun g d => ?capHoldoffEnd, fun g d => ?capConverterReady, fun t readings => ?tempRead, fun g e => ?calStepStart,
    fun g e figure more k since => ?calStepEnd, fun g s hopen => if_neg (Bool.eq_false_iff.mp hopen), fun t => ?calOverdueTimer,
    ?calStoreDataDone, fun s _ => rfl⟩
  case capTrigger =>
    rintro s ⟨htime, hrunning⟩
    simp only [exec, execCapTrigger, htime]
    exact if_neg (by simpa using hrunning)
  case capArbitrationEnd =>
    rintro s ⟨harm, hfirst⟩
    simp only [exec, execCapArbitrationEnd, harm, hfirst]
  case capItemWrite =>
    rintro s ⟨hparked, harm, hrecording, hfull⟩
    simp only [exec, execCapItemWrite, harm, hrecording]
    exact (if_neg (Bool.eq_false_iff.mp hparked)).trans (if_pos hfull)
  case capItemWrite2 =>
    rintro s ⟨hparked, harm, hrecording, hfull, hlength⟩
    simp only [exec, execCapItemWrite, harm, hrecording]
    exact (if_neg (Bool.eq_false_iff.mp hparked)).trans ((if_neg (Bool.eq_false_iff.mp hfull)).trans (if_neg (by simp [hlength])))
  case capItemWrite3 =>
    rintro s ⟨hparked, hother⟩
    refine (if_neg (Bool.eq_false_iff.mp hparked)).trans ?_
    rcases hother with hnone | ⟨harmed, hcapturing⟩
    · simp only [Option.isNone_iff_eq_none.mp hnone]
    · simp only [beq_eq_false_iff_ne.mpr harmed, beq_eq_false_iff_ne.mpr hcapturing, Bool.or_self]
      cases (s.dig g d).arm with
      | none => rfl
      | some a => rfl
  case capRecordEnd =>
    rintro s ⟨hcapturing, harm, hfull⟩
    simp only [exec, execCapRecordEnd, hcapturing, harm]
    exact congrArg _ (if_pos hfull)
  case capHoldoffEnd =>
    rintro s ⟨hholdoff, hpast⟩
    exact if_pos (Bool.and_eq_true_iff.mpr ⟨beq_iff_eq.mpr hholdoff, hpast⟩)
  case capConverterReady =>
    intro s hwarming
    exact if_neg (by simp [show (s.dig g d).warming = true from hwarming])
  case tempRead =>
    intro s hfour
    exact if_neg (by simp [show readings.length = 4 from hfour])
  case calStepStart =>
    rintro s ⟨htodo, husable, hturn⟩
    exact (if_neg (by simp [htodo, husable, hturn])).trans (apply_ite Host.Outcome.next _ _ _).symm
  case calStepEnd =>
    rintro s ⟨hrunning, hpassed⟩
    simp only [exec, execCalStepEnd, hrunning]
    refine (if_neg (by simp [hpassed])).trans (Eq.trans ?_ (apply_ite Host.Outcome.next _ _ _).symm)
    exact ite_congr rfl (fun _ => rfl) fun _ => (apply_ite Host.Outcome.next _ _ _).symm
  case calOverdueTimer =>
    rintro s ⟨hdue, hfresh, hlimit, hpassed⟩
    exact if_neg (by simpa [hdue, hfresh, hlimit] using hpassed)
  case calStoreDataDone =>
    rintro s ⟨hstoring, hpfail⟩
    exact if_pos (by simp [hstoring, hpfail])

end Sys2Proof.Machine
end

section
/-!
Reads of the 64-bit pairs of the front registers (R389): a read of LO holds HI, and a read of HI gives the holding word.
-/
namespace Sys2Proof.Machine

/-! ## The pairs -/

/-- The addresses of the LO words of the front registers' pairs (Table 15-5). -/
def pairAddrs : List Nat := [0x044, 0x100, 0x184, 0x190, 0x19C, 0x1A8]

theorem State.pair_isSome_iff (s : State) (a : Nat) : (s.pair a).isSome = true ↔ a ∈ pairAddrs := by
  simp only [State.pair, apply_ite Option.isSome, Option.isSome_some, Option.isSome_none, Bool.if_true_left, Bool.or_eq_true, decide_eq_true_eq,
    Bool.false_eq_true, beq_iff_eq, pairAddrs, List.mem_cons, List.not_mem_nil]

theorem State.pair_eq_none {s : State} {a : Nat} (h : a ∉ pairAddrs) : s.pair a = none :=
  Option.not_isSome_iff_eq_none.mp fun hsome => h ((s.pair_isSome_iff a).mp hsome)

/-- LO and HI are aligned addresses of the register space outside the mailbox registers, and HI is not the LO of another pair. -/
theorem pairAddrs_words : ∀ a ∈ pairAddrs, a % 4 = 0 ∧ a + 4 < 0x1000 ∧ isMbxReg a = false ∧ isMbxReg (a + 4) = false ∧ a + 4 ∉ pairAddrs := by
  decide

/-! ## The two reads -/

theorem State.readWord_front_lo {s : State} {a v : Nat} (hpair : s.pair a = some v) (havail : s.notAvailable .front a = false) :
    s.readWord .front a =
      (s.modPath .front fun x => { x with holding := Tab.put x.holding (a + 4) (wordOf (v / 2 ^ 32)) }, { value := wordOf v }) := by
  have hmem : a ∈ pairAddrs := (s.pair_isSome_iff a).mp (Option.isSome_of_eq_some hpair)
  obtain ⟨-, hspace, hmbx, -, -⟩ := pairAddrs_words a hmem
  simp only [State.readWord, ge_iff_le, show ¬ 0x1000 ≤ a by omega, havail, hmbx, hpair, Bool.false_eq_true, if_false]

theorem State.readWord_front_hi {s : State} {a : Nat} (hmem : a ∈ pairAddrs) (havail : s.notAvailable .front (a + 4) = false) :
    s.readWord .front (a + 4) = (s, { value := Tab.get 0 s.chain.front.holding (a + 4) }) := by
  obtain ⟨-, hspace, -, hmbx, hnext⟩ := pairAddrs_words a hmem
  have hlo : (s.pair a).isSome = true := (s.pair_isSome_iff a).mpr hmem
  simp only [State.readWord, ge_iff_le, Nat.not_le.mpr hspace, havail, hmbx, State.pair_eq_none hnext, Nat.le_add_left, Nat.add_sub_cancel, hlo,
    decide_true, Bool.and_true, Bool.false_eq_true, if_false, if_true]
  rfl

/-! ## A read taken alone -/

theorem exec_holdingWordRead_of_aligned {p : Path} {addr : BitVec 12} (h : addr.toNat % 4 = 0) (s : State) :
    exec (.holdingWordRead p addr) s = .next (s.single (s.readWord p addr.toNat)) :=
  congrArg (fun r => Host.Outcome.next (s.single r)) (if_neg (by simp [h]))

theorem State.single_readData (s t : State) {x : Access} (h : x.bad = false) : (s.single (t, x)).chain.readData = x.value := by
  simp [State.single, h, State.setSticky]

theorem State.single_front (s t : State) {x : Access} (h : x.bad = false) : (s.single (t, x)).chain.front = t.chain.front := by
  simp [State.single, h, State.setSticky]

theorem State.single_readWord_front_lo {s : State} {a v : Nat} (hpair : s.pair a = some v) (havail : s.notAvailable .front a = false) :
    (s.single (s.readWord .front a)).chain.readData = wordOf v
      ∧ Tab.get 0 (s.single (s.readWord .front a)).chain.front.holding (a + 4) = wordOf (v / 2 ^ 32) := by
  rw [State.readWord_front_lo hpair havail, State.single_front s _ rfl]
  exact ⟨State.single_readData s _ rfl, Tab.get_put_same _ _ _ _⟩

theorem State.single_readWord_front_hi {s : State} {a : Nat} (hmem : a ∈ pairAddrs) (havail : s.notAvailable .front (a + 4) = false) :
    (s.single (s.readWord .front (a + 4))).chain.readData = Tab.get 0 s.chain.front.holding (a + 4) := by
  rw [State.readWord_front_hi hmem havail]
  exact State.single_readData s s rfl

theorem toNat_add_four {a : BitVec 12} (h : a.toNat + 4 < 0x1000) : (a + 4).toNat = a.toNat + 4 := by
  rw [BitVec.toNat_add]; exact Nat.mod_eq_of_lt h

/-! ## The obligation -/

/-- Settles O25: the read of LO, then the read of HI in any state that still has its holding word (R389; read alone by log 106, the value in `readData` by
log 31, FLT_SAFE a pair by log 65). -/
theorem aPairIsReadWhole : Obligations.APairIsReadWhole := by
  intro s a v hpair havail
  refine ⟨?_, rfl⟩
  have hmem : a.toNat ∈ pairAddrs := (s.pair_isSome_iff a.toNat).mp (Option.isSome_of_eq_some hpair)
  obtain ⟨haligned, hspace, -⟩ := pairAddrs_words a.toNat hmem
  have hhi : (a + 4).toNat = a.toNat + 4 := toNat_add_four hspace
  obtain ⟨hvalue, hholds⟩ := State.single_readWord_front_lo hpair havail
  refine ⟨_, exec_holdingWordRead_of_aligned haligned s, hvalue, hholds, fun u hheld huavail =>
    ⟨_, exec_holdingWordRead_of_aligned (by omega) u, ?_⟩⟩
  rw [hhi, State.single_readWord_front_hi hmem huavail, hheld, hholds]

end Sys2Proof.Machine
end

section
/-!
The accesses and transfers at the chain port and the test access port (R7, R374, R375, R377 to R379, R381, R383, R386, R389, R392, R566): where the condition
of an event holds, its `exec` takes the branch that has its effect.
-/
namespace Sys2Proof.Machine

/-- Settles O47: a single access, a frame with an operation of its own, the stall and two of the test access port's events have no condition and answer their
effect as it stands; of the others each condition decides the test. -/
theorem chainAndJtagAccessesComplete : Obligations.ChainAndJtagAccessesComplete := by
  refine ⟨fun path write s _ => rfl, fun value s _ => rfl, fun path addr s _ => rfl, fun path s _ => rfl, fun path addr value s _ => rfl,
    fun path op f s hop => congrArg _ (if_pos hop), fun path f s _ => rfl, fun path f s _ => rfl, fun path f s _ => rfl, fun path f s _ => rfl,
    fun path f s _ => rfl, fun bits sdi delays clash overReset => ?chainBurstTransfer, fun s _ => rfl, fun s hruns => congrArg _ (if_pos hruns),
    fun ir s _ => rfl, fun cells => ?jtagUpdateDr, fun s _ => rfl⟩
  case chainBurstTransfer =>
    rintro s ⟨hbits, hreset⟩
    exact (if_neg (by simp [hbits, hreset])).trans (apply_ite Host.Outcome.next _ _ _).symm
  case jtagUpdateDr =>
    rintro s ⟨hpreload, hclamp⟩
    exact congrArg _ (if_pos (by simp [hpreload, hclamp]))

end Sys2Proof.Machine
end

section
/-!
A command whose own checks refuse it (R402) executes nothing; but `State.finish` has noted its completion bound in its entry (R411, R419) before the
response is formed.
-/
namespace Sys2Proof.Machine

/-- ACTIVE since long. -/
def activeDevice : State := { State.reset with upNs := 10 ^ 13, power := { State.reset.power with pstate := 1, wipe := false, img := 0 } }

/-- A request to the device on mailbox 0, whose payload is one byte. -/
def oneByteRequest : Req := { mbx := 0, tag := 7, target := 0x8000, flags := 0, rsv := 0, payload := [0] }

/-- A response to the request as it began leaves the bound in its entry as it was; an outcome that has noted another is none of that form. -/
theorem next_ne_respond_begun {op : Half} {r : Req} {s t u : State} (hsettled : ∀ v : State, v.settled op = v)
    (hu : u.mbx = (s.begun op r).mbx) {m : Nat} (hbounds : t.entryBounds m ≠ (s.begun op r).entryBounds m) (k bound : Nat) (rep : Reply) :
    (.next t : Host.Outcome State Fault Refusal) ≠ .next ((u.respond k bound rep).settled op) := by
  intro h
  injection h with h
  rw [hsettled] at h
  refine hbounds (h ▸ (State.respond_sameBounds u k bound rep m).trans ?_)
  simp only [State.entryBounds, State.mailbox, hu]

/-- Refutes O56: by the counterexample SYS_INFO with a payload. It is refused with BAD_LENGTH, as R401 and R402 have it; but its entry has carried its
completion bound of 20 µs since the refusal (`State.boundBy`), where the statement's response leaves there the 0 of a request just rung. -/
theorem not_refusedControlCommandsExecuteNothing : ¬ Obligations.RefusedControlCommandsExecuteNothing := by
  rintro ⟨hsysInfo, -⟩
  have hready : activeDevice.ready 0x0102 [8] oneByteRequest = true := by decide +kernel
  have hwhen : ¬ When.sysInfo (activeDevice.begun 0x0102 oneByteRequest) oneByteRequest := List.cons_ne_nil _ _
  obtain ⟨bound, rep, -, hnext⟩ := hsysInfo activeDevice oneByteRequest hready hwhen
  have hran : (activeDevice.firmware 0x0102 (us 20) [8] oneByteRequest sysInfoBody).entryBounds 0 = [us 20] := by decide +kernel
  have hbegun : (activeDevice.begun 0x0102 oneByteRequest).entryBounds 0 = [0] := by decide +kernel
  refine next_ne_respond_begun (fun _ => rfl) ?_ (hran.trans_ne (by rw [hbegun]; decide)) _ _ _ hnext
  rfl

/-- Refutes O57: by the counterexample AMP_IDENT with a payload, while the Ampoule is in reset. It is refused, as R210 has it; but its entry has carried its
completion bound of 50 µs since the refusal (`State.boundBy`), where the statement's response leaves there the 0 of a request just rung. -/
theorem not_refusedInstrumentCommandsExecuteNothing : ¬ Obligations.RefusedInstrumentCommandsExecuteNothing := by
  rintro ⟨hampIdent, -⟩
  have hready : activeDevice.ready 0x0701 [8] oneByteRequest = true := by decide +kernel
  have hwhen : ¬ When.ampIdent (activeDevice.begun 0x0701 oneByteRequest) oneByteRequest := fun h => nomatch h.2.2.1
  obtain ⟨bound, rep, count, -, hnext⟩ := hampIdent activeDevice oneByteRequest hready hwhen
  have hran : (activeDevice.firmware 0x0701 (us 50) [8] oneByteRequest ampIdentBody).entryBounds 0 = [us 50] := by decide +kernel
  have hbegun : (activeDevice.begun 0x0701 oneByteRequest).entryBounds 0 = [0] := by decide +kernel
  refine next_ne_respond_begun (fun _ => rfl) ?_ (hran.trans_ne (by rw [hbegun]; decide)) _ _ _ hnext
  rfl

/-- Refutes O58: by the counterexample TWIN_CONFIG with a payload of one byte. It is refused with BAD_LENGTH, as R401 and R402 have it; but its entry has
carried its completion bound of 1 ms since the refusal (`State.boundBy`), where the statement's response leaves there the 0 of a request just rung. -/
theorem not_refusedManagementCommandsExecuteNothing : ¬ Obligations.RefusedManagementCommandsExecuteNothing := by
  rintro ⟨htwinConfig, -⟩
  have hready : activeDevice.ready 0x0D01 [8] oneByteRequest = true := by decide +kernel
  have hwhen : ¬ When.twinConfig (activeDevice.begun 0x0D01 oneByteRequest) oneByteRequest := fun h => nomatch h.1
  obtain ⟨bound, rep, -, hnext⟩ := htwinConfig activeDevice oneByteRequest hready hwhen
  have hran : (activeDevice.firmware 0x0D01 (us 1000) [8] oneByteRequest twinConfigBody).entryBounds 0 = [us 1000] := by decide +kernel
  have hbegun : (activeDevice.begun 0x0D01 oneByteRequest).entryBounds 0 = [0] := by decide +kernel
  refine next_ne_respond_begun (fun _ => rfl) ?_ (hran.trans_ne (by rw [hbegun]; decide)) _ _ _ hnext
  rfl

end Sys2Proof.Machine
end

section
/-!
The events at the mailboxes, the Ethernet ports and the export context (R402, R408, R416, R417, R422, R423, R425 to R428, R442, R443, R445): where the
condition of an event holds, its `exec` takes the branch that has its effect.
-/
namespace Sys2Proof.Machine

/-- Settles O46: the frames that a port receives answer their effect as it stands; of the other events each condition decides the test. -/
theorem mailboxAndNetEventsComplete : Obligations.MailboxAndNetEventsComplete := by
  refine ⟨fun s _ => rfl, fun m => ?mbxDoorbell, fun m => ?mbxDoorbell2, fun m offset word => ?responseAck, ?notifyBatchForm,
    fun offset word => ?notifyBatchAck, fun port frame mbx xseq body s _ => rfl, fun port frame mbx word s _ => rfl, fun port frame mbx s _ => rfl,
    ?responseResendTimer, fun m => ?responseResendTimer2, fun port frame kind s _ => rfl, fun port => ?ethLinkUp, fun port => ?ethLinkLoss,
    ?exportDatagramSend, fun fromDest crcOk ackSeq naks => ?exportAck, fun seq d => ?exportRto, fun seq d => ?exportRto2, ?exportCloseTimeout⟩
  case mbxDoorbell =>
    rintro s ⟨hanswers, hm⟩
    obtain rfl | rfl | rfl : m = 0 ∨ m = 1 ∨ m = 6 := hm.imp Fin.ext (Or.imp Fin.ext Fin.ext)
    all_goals exact congrArg _ ((if_neg (by decide)).trans (if_neg (by simp [hanswers])))
  case mbxDoorbell2 =>
    rintro s ⟨hanswers, hm⟩
    obtain rfl | rfl | rfl | rfl : m = 2 ∨ m = 3 ∨ m = 4 ∨ m = 7 := hm.imp Fin.ext (Or.imp Fin.ext (Or.imp Fin.ext Fin.ext))
    all_goals exact congrArg _ ((if_neg (by decide)).trans (if_neg (by simp [hanswers])))
  case responseAck | notifyBatchAck =>
    rintro s ⟨hoffset, hanswers⟩
    exact congrArg _ (if_neg (by simp [hoffset, hanswers]))
  case notifyBatchForm =>
    rintro s ⟨hqueue, hshown, hawake⟩
    exact if_neg (by simp [hqueue, hshown, hawake])
  case responseResendTimer =>
    rintro s ⟨hshown, hsends, hports, hpassed⟩
    exact congrArg _ (if_pos (by simp [hshown, hsends, hports, hpassed]))
  case responseResendTimer2 =>
    rintro s ⟨hm, hshown, hsends, hpassed⟩
    obtain rfl | rfl : m = 2 ∨ m = 3 := hm.imp Fin.ext Fin.ext
    all_goals exact congrArg _ (if_pos (Bool.and_eq_true_iff.mpr ⟨Bool.and_eq_true_iff.mpr ⟨hshown, decide_eq_true hsends⟩, hpassed⟩))
  case ethLinkUp =>
    rintro s ⟨hon, hdown, hawake⟩
    exact congrArg _ (if_neg (by simp [hon, hdown, hawake]))
  case ethLinkLoss =>
    intro s hup
    exact congrArg _ (if_neg (by simp [show (s.port port.val).up = true from hup]))
  case exportDatagramSend =>
    rintro s ⟨hopen, hpassed⟩
    exact congrArg _ (if_pos (by simp [hopen, hpassed]))
  case exportAck =>
    rintro s ⟨hopen, hup⟩
    exact congrArg _ (if_neg (by simp [hopen, hup]))
  case exportRto =>
    rintro s ⟨hheld, hpassed, hsends⟩
    simp only [exec, execExportRto, hheld]
    exact congrArg _ ((if_neg (by simp [hpassed])).trans (if_pos hsends))
  case exportRto2 =>
    rintro s ⟨hheld, hpassed, hsends, hstale⟩
    simp only [exec, execExportRto, hheld]
    exact congrArg _ ((if_neg (by simp [hpassed])).trans ((if_neg hsends).trans (if_neg (by simp [hstale]))))
  case exportCloseTimeout =>
    rintro s ⟨hclosing, hpassed⟩
    exact congrArg _ (if_pos (by simp [hclosing, hpassed]))

end Sys2Proof.Machine
end

section
/-!
The events of the links, lines, pins, source/measure units, sequencers and the Ampoule whose condition does not hold (log 3): `exec` takes the branch that
leaves the state. An event that looks something up before it tests has a lemma of its own.
-/
namespace Sys2Proof.Machine

theorem exportRto_idle (seq : Word) :
    IdleUnless (.exportRto seq) fun s => (∃ d : Dgram, When.exportRto seq d s) ∨ ∃ d : Dgram, When.exportRto2 seq d s := by
  intro s h
  simp only [exec, execExportRto]
  split
  · rfl
  next d hheld =>
  split
  · rfl
  next hpassed =>
  have hpassed : s.passed d.sendNs (us s.exporter.rto) = true := by simpa using hpassed
  split
  next hsends => exact absurd (.inl ⟨d, hheld, hpassed, hsends⟩) h
  next hsends => exact next_stays_unless_neg h fun hstale => .inr ⟨d, hheld, hpassed, hsends, Bool.eq_false_iff.mpr hstale⟩

theorem trigInEdge_idle (j : Fin 4) (level : Lvl) :
    IdleUnless (.trigInEdge j level) fun s => When.trigInEdge level s ∨ When.trigInEdge2 level s := by
  intro s h
  cases level with
  | mid => rfl
  | low => exact absurd (.inl rfl) h
  | high => exact absurd (.inr rfl) h

/-! ## Lines of Hatch -/

theorem stormLimit_idle (line : Half) : IdleUnless (.stormLimit line) fun s => ∃ k : Nat, When.stormLimit line k s := by
  intro s h
  simp only [exec, execStormLimit]
  split
  next k hkey => exact stays_unless_neg h fun hgo => ⟨k, hkey, by simpa [and_assoc] using hgo⟩
  · rfl

theorem ringDetect_idle (line : Half) : IdleUnless (.ringDetect line) fun s => ∃ k : Nat, When.ringDetect line k s := by
  intro s h
  simp only [exec, execRingDetect]
  split
  next k hkey =>
    refine stays_unless_neg h fun hgo => ⟨k, hkey, ?_⟩
    exact Bool.or_eq_false_iff.mp (Bool.eq_false_iff.mpr hgo)
  · rfl

theorem notifyCoalesceEnd_idle (line : Half) : IdleUnless (.notifyCoalesceEnd line) fun s => ∃ k : Nat, When.notifyCoalesceEnd line k s := by
  intro s h
  simp only [exec, execNotifyCoalesceEnd]
  split
  next k hkey => exact stays_unless_neg h fun hgo => ⟨k, hkey, by simpa using hgo⟩
  · rfl

/-! ## Pins and source/measure units -/

theorem dacSettled_idle (m : Fin 7) : IdleUnless (.dacSettled m) fun s => ∃ e : Entry, ∃ w : Wait, When.dacSettled m e w s := by
  intro s h
  simp only [exec, execDacSettled]
  split
  next e w hwaiting =>
    refine stays_unless_pos h fun hgo => ?_
    obtain ⟨hkind, hstill⟩ := Bool.and_eq_true_iff.mp hgo
    exact ⟨e, w, hwaiting, beq_iff_eq.mp hkind, (Bool.not_eq_true' _).mp hstill⟩
  · rfl

theorem rangeStepEnd_idle (g : GIx) (u : UIx) : IdleUnless (.rangeStepEnd g u) fun s => ∃ r : RangeRun, When.rangeStepEnd g u r s := by
  intro s h
  simp only [exec, execRangeStepEnd]
  split
  · rfl
  next r hrun => exact absurd ⟨r, hrun⟩ h

theorem smuMeasureTrigger_idle (m : Fin 7) :
    IdleUnless (.smuMeasureTrigger m) fun s => ∃ e : Entry, ∃ w : Wait, When.smuMeasureTrigger m e w s := by
  intro s h
  simp only [exec, execSmuMeasureTrigger]
  split
  next e w hwaiting => exact stays_unless_pos h fun hkind => ⟨e, w, hwaiting, beq_iff_eq.mp hkind⟩
  · rfl

theorem smuConversion_idle (g : GIx) (u : UIx) (code : Int) :
    IdleUnless (.smuConversion g u code) fun s => ∃ q : SmuMeas, When.smuConversion g u q s := by
  intro s h
  simp only [exec, execSmuConversion]
  split
  next q hmeas => exact stays_unless_pos h fun hgo => ⟨q, hmeas, by simpa using hgo⟩
  · rfl

theorem smuMeasureComplete_idle (m : Fin 7) :
    IdleUnless (.smuMeasureComplete m) fun s => ∃ e : Entry, ∃ w : Wait, ∃ t : Tgt, When.smuMeasureComplete m e w t s := by
  intro s h
  simp only [exec, execSmuMeasureComplete]
  split
  next e w t htarget =>
    refine stays_unless_neg h fun hgo => ⟨e, w, t, htarget, ?_⟩
    obtain ⟨hkind, hdone⟩ := Bool.or_eq_false_iff.mp (Bool.eq_false_iff.mpr hgo)
    exact ⟨bne_eq_false_iff_eq.mp hkind, (Bool.not_eq_false' _).mp hdone⟩
  · rfl

/-! ## Sequencers -/

theorem strokeStartTrigger_idle (q : Seqr) :
    IdleUnless (.strokeStartTrigger q) fun s => ∃ mode : Nat, ∃ src : Nat, When.strokeStartTrigger q mode src s := by
  intro s h
  simp only [exec, execStrokeStartTrigger]
  split
  next mode src hstart => exact stays_unless_neg h fun hgo => ⟨mode, src, hstart, by simpa [and_assoc] using hgo⟩
  · rfl

theorem resolutionComplete_idle (q : Seqr) : IdleUnless (.resolutionComplete q) fun s => ∃ c : Cont, When.resolutionComplete q c s := by
  intro s h
  simp only [exec, execResolutionComplete]
  split
  next c hcont => exact stays_unless_neg h fun hgo => ⟨c, hcont, by simpa using hgo⟩
  · rfl

theorem etchBeginMarkerDurable_idle (g : GIx) : IdleUnless (.etchBeginMarkerDurable g) fun s => ∃ e : Etch, When.etchBeginMarkerDurable g e s := by
  intro s h
  simp only [exec, execEtchBeginMarkerDurable]
  split
  next e hfirst => exact absurd ⟨e, hfirst⟩ h
  · rfl

theorem etchEndMarkerWrite_idle (g : GIx) :
    IdleUnless (.etchEndMarkerWrite g) fun s => ∃ e : EtchEnd, ∃ l : List EtchEnd, When.etchEndMarkerWrite g e l s := by
  intro s h
  simp only [exec, execEtchEndMarkerWrite]
  split
  next e l hends => exact stays_unless_pos h fun hpasses => ⟨e, l, hends, hpasses⟩
  · rfl

/-! ## The Ampoule -/

theorem ampTriggerTimeout_idle (g : GIx) (c : Two) :
    IdleUnless (.ampTriggerTimeout g c) fun s =>
      ∃ q : AmpReq, ∃ l : List AmpReq, ∃ e : Entry, ∃ w : Wait, When.ampTriggerTimeout g c q l e w s := by
  intro s h
  simp only [exec, execAmpTriggerTimeout]
  split
  next q l hqueue =>
    split
    next e w hwaiting => exact stays_unless_neg h fun hgo => ⟨q, l, e, w, hqueue, hwaiting, by simpa [and_assoc] using hgo⟩
    · rfl
  · rfl

theorem ampConversionEnd_idle (g : GIx) (c : Two) (code inj : Int) :
    IdleUnless (.ampConversionEnd g c code inj) fun s =>
      ∃ r : AmpRun, ∃ q : AmpReq, ∃ l : List AmpReq, When.ampConversionEnd g c inj r q l s := by
  intro s h
  simp only [exec, execAmpConversionEnd]
  split
  next r q l hrun hqueue => exact stays_unless_neg h fun hinj => ⟨r, q, l, hrun, hqueue, by simpa using hinj⟩
  · rfl

theorem claimGrant_idle (g : GIx) (c : Two) :
    IdleUnless (.claimGrant g c) fun s =>
      ∃ src : Nat, ∃ m : Nat, ∃ p : Nat, ∃ e : Entry, ∃ w : Wait, When.claimGrant g c src m p e w s := by
  intro s h
  simp only [exec, execClaimGrant]
  split
  · rfl
  next src m p hasks =>
  split
  · rfl
  next e w hwaiting => exact absurd ⟨src, m, p, e, w, hasks, hwaiting⟩ h

theorem spanPhaseEnd_idle (g : GIx) : IdleUnless (.spanPhaseEnd g) fun s => ∃ p : Span, When.spanPhaseEnd g p s := by
  intro s h
  simp only [exec, execSpanPhaseEnd]
  split
  · rfl
  next p hspan => exact absurd ⟨p, hspan⟩ h

theorem signingIndexReserved_idle (ok : Bool) : IdleUnless (.signingIndexReserved ok) fun s => ∃ x : Sheet, When.signingIndexReserved x s := by
  intro s h
  simp only [exec, execSigningIndexReserved]
  split
  · rfl
  next x hsealing => exact stays_unless_neg h fun hgo => ⟨x, hsealing, Bool.or_eq_false_iff.mp (Bool.eq_false_iff.mpr hgo)⟩

/-- Settles O59: for each event, where none of its conditions holds, its test falls to the branch that leaves the state. -/
theorem eventsWithoutTheirConditionDoNothing : Obligations.EventsWithoutTheirConditionDoNothing := by
  refine ⟨fun m offset word => ?responseAck, ?notifyBatchForm, fun offset word => ?notifyBatchAck, fun path op f => ?chainNop,
    fun bits sdi delays clash overReset => ?chainBurstTransfer, fun port => ?ethLinkUp, fun port => ?ethLinkLoss, fun port m => ?ptpSync, ?syncTimeout,
    fun n => ?tcmpFire, ?exportDatagramSend, fun fromDest crcOk ackSeq naks => ?exportAck, exportRto_idle, trigInEdge_idle, fun r => ?relayPulse,
    stormLimit_idle, ringDetect_idle, notifyCoalesceEnd_idle, ?evqLostPost, fun e => ?comparatorChange, fun e => ?modeChangeHoldEnd,
    fun g n => ?sentinelDwellEnd, fun g p => ?driverOvercurrent, fun g p => ?deglitchRelease, fun g p => ?levelOrderedLatch, dacSettled_idle,
    fun pulseNs => ?clearNAssert, fun g u value => ?complianceSwitch, fun g u => ?openLoopDetect, rangeStepEnd_idle, smuMeasureTrigger_idle,
    smuConversion_idle, smuMeasureComplete_idle, strokeStartTrigger_idle, fun g => ?checkpointEntryFree, resolutionComplete_idle,
    etchBeginMarkerDurable_idle, etchEndMarkerWrite_idle, fun q => ?stallResume, fun q => ?stallLimitExpiry, fun g => ?haltHoldExpiry,
    fun p => ?bcastPrimeComplete, fun t => ?ampTrigger, ampTriggerTimeout_idle, ampConversionEnd_idle, claimGrant_idle, spanPhaseEnd_idle,
    fun g uv => ?excOutOfRange, ?modclkLockLoss, ?modclkLockReturn, fun romOk => ?ampouleStart, fun g c => ?refpCheckDue,
    fun g c uv residuals => ?refpCheckEnd, fun g c code inj => ?selfTraffic, fun g => ?codeDensityDue, fun g inlPpb => ?codeDensityEnd,
    fun g c range offset => ?calBlockStale, fun g c range => ?compensationUpdate, fun g => ?adjustmentGatherDone, signingIndexReserved_idle⟩
  -- What `exec` tests is the condition itself.
  case chainNop => exact fun _ h => next_stays_unless_pos h id
  case modclkLockReturn => exact fun _ h => stays_unless_pos h id
  -- What `exec` tests is the condition, or its negation, written as one Boolean.
  case haltHoldExpiry =>
    refine fun _ h => stays_unless_pos h fun hc => ?_
    simpa [When.haltHoldExpiry, and_assoc] using hc
  case tcmpFire | exportDatagramSend | modeChangeHoldEnd =>
    exact fun _ h => next_stays_unless_pos h fun hc => by
      simpa [When.tcmpFire, When.exportDatagramSend, When.modeChangeHoldEnd, and_assoc] using hc
  case responseAck | notifyBatchAck | ethLinkUp | ethLinkLoss | syncTimeout | exportAck | comparatorChange =>
    exact fun _ h => next_stays_unless_neg h fun hc => by
      simpa [When.responseAck, When.notifyBatchAck, When.ethLinkUp, When.ethLinkLoss, When.syncTimeout, When.exportAck, When.comparatorChange,
        and_assoc] using hc
  case checkpointEntryFree | excOutOfRange | compensationUpdate => exact fun _ h => stays_unless_neg h fun hc => Bool.eq_false_iff.mpr hc
  case notifyBatchForm | chainBurstTransfer | ptpSync | relayPulse | evqLostPost | sentinelDwellEnd | driverOvercurrent | deglitchRelease |
      levelOrderedLatch | complianceSwitch | openLoopDetect | stallResume | stallLimitExpiry | bcastPrimeComplete | ampTrigger | modclkLockLoss |
      ampouleStart | refpCheckDue | refpCheckEnd | selfTraffic | codeDensityDue | codeDensityEnd | calBlockStale =>
    exact fun _ h => stays_unless_neg h fun hc => by
      simpa [When.notifyBatchForm, When.chainBurstTransfer, When.ptpSync, When.relayPulse, When.evqLostPost, When.sentinelDwellEnd,
        When.driverOvercurrent, When.deglitchRelease, When.levelOrderedLatch, When.complianceSwitch, When.openLoopDetect, When.stallResume,
        When.stallLimitExpiry, When.bcastPrimeComplete, When.ampTrigger, When.modclkLockLoss, When.ampouleStart, When.refpCheckDue, When.refpCheckEnd,
        When.selfTraffic, When.codeDensityDue, When.codeDensityEnd, When.calBlockStale, and_assoc] using hc
  case adjustmentGatherDone =>
    exact fun _ h => stays_unless_neg h fun hc => by
      simpa only [When.adjustmentGatherDone, Bool.not_eq_true, Bool.or_eq_false_iff, Bool.not_eq_false', bne_eq_false_iff_eq, and_assoc] using hc
  case clearNAssert =>
    intro s h
    by_cases hlow : s.clearLow = true
    · exact if_pos hlow
    · exact (if_neg hlow).trans (next_stays_unless_neg h fun hlong => ⟨Bool.eq_false_iff.mpr hlow, hlong⟩)

end Sys2Proof.Machine
end

section
/-!
No command ends in a fault or a refusal (R402, R549): every branch of every arm of `exec` answers a next state.
-/
namespace Sys2Proof.Machine

/-- An outcome that is a next state. -/
def IsNext (o : Host.Outcome State Fault Refusal) : Prop := ∃ t, o = .next t

theorem IsNext.next (s : State) : IsNext (.next s) := ⟨s, rfl⟩

theorem IsNext.ite {c : Prop} [Decidable c] {a b : Host.Outcome State Fault Refusal} (ha : IsNext a) (hb : IsNext b) : IsNext (if c then a else b) := by
  split
  · exact ha
  · exact hb

/-- Settles O4: most commands answer `.next` as they stand, the others after one test or two, or after looking up what they are about. -/
theorem noCommandStops : Obligations.NoCommandStops := by
  intro c s
  change IsNext (exec c s)
  cases c
  -- Events that look something up before they test.
  case exportRto | trigInEdge | stormLimit | ringDetect | notifyCoalesceEnd | dacSettled | rangeStepEnd | smuMeasureTrigger | smuConversion |
      smuMeasureComplete | strokeStartTrigger | resolutionComplete | etchBeginMarkerDurable | etchEndMarkerWrite | ampTriggerTimeout |
      ampConversionEnd | claimGrant | spanPhaseEnd | signingIndexReserved | sheetSealed | tiuGate | tiuEdgeStamp | capTrigger | capArbitrationEnd |
      capItemWrite | capRecordEnd | calStepEnd | replayStart | vfyOutcomeWrite | linkPaired | turnChange | smuOutputSettled =>
    simp only [exec, execExportRto, execTrigInEdge, execStormLimit, execRingDetect, execNotifyCoalesceEnd, execDacSettled, execRangeStepEnd,
      execSmuMeasureTrigger, execSmuConversion, execSmuMeasureComplete, execStrokeStartTrigger, execResolutionComplete, execEtchBeginMarkerDurable,
      execEtchEndMarkerWrite, execAmpTriggerTimeout, execAmpConversionEnd, execClaimGrant, execSpanPhaseEnd, execSigningIndexReserved,
      execSheetSealed, execTiuGate, execTiuEdgeStamp, execCapTrigger, execCapArbitrationEnd, execCapItemWrite, execCapRecordEnd, execCalStepEnd,
      execReplayStart, execVfyOutcomeWrite, execLinkPaired, execTurnChange, execSmuOutputSettled]
    repeat' split
    all_goals exact .next _
  -- Events with two tests.
  case chainBurstTransfer | responseResendTimer | complianceSwitch | stallResume | sealOpen | calStepStart =>
    exact .ite (.next _) (.ite (.next _) (.next _))
  -- Events with one test.
  case adjustmentGatherDone | ampTrigger | ampouleStart | bcastPrimeComplete | calBlockStale | calOverdueTimer | calwinIsolationClose |
      capConverterReady | capHoldoffEnd | checkpointEntryFree | clearNAssert | clip | codeDensityDue | codeDensityEnd | compensationUpdate |
      deglitchRelease | driverOvercurrent | excOutOfRange | haltHoldExpiry | headroomClamp | heartbeatReceive | levelOrderedLatch |
      openLoopDetect | pfailAssert | ptpMessage | ptpSync | refpCheckDue | refpCheckEnd | relayPulse | selfTraffic | sentinelDwellEnd |
      stallLimitExpiry | startup | tempRead | tiuGateTimeout | tiuServiceOverflow | tiuWindowEnd | trefReturn | twinLinkFrame | calStoreDataDone |
      dormantEntryDone | evqLostPost | level1TreeDone | linkLoss | modclkLockLoss | modclkLockReturn | notifyBatchForm | tuclkWrap |
      turnLimitExpiry | turnSwapDone =>
    exact .ite (.next _) (.next _)
  all_goals exact .next _

end Sys2Proof.Machine
end

section
/-!
What a device reset leaves of the mailboxes (R414), and the four ways in which an event brings one about (R530, R535, R537, R538).
-/
namespace Sys2Proof.Machine

theorem State.deviceReset_mailboxesEmpty (s : State) (cause : Nat) : (s.deviceReset cause).mailboxesEmpty :=
  ⟨fun _ => rfl, rfl, rfl, fun _ => ⟨rfl, rfl⟩, rfl, rfl⟩

theorem State.orderlyReset_mailboxesEmpty (s : State) (cause : Nat) : (s.orderlyReset cause).mailboxesEmpty :=
  State.deviceReset_mailboxesEmpty s.finishStarted cause

/-- The loss of VDDAO takes what the always-on domain holds, and nothing of a mailbox. -/
theorem State.powerOnReset_mailboxesEmpty (s : State) (vddaoLost : Bool) : (s.powerOnReset vddaoLost).mailboxesEmpty := by
  cases vddaoLost with
  | false => exact State.deviceReset_mailboxesEmpty s 0
  | true => exact State.deviceReset_mailboxesEmpty s 0

theorem State.pulseActs_of_certain (s : State) {ns lo hi : Nat} (hns : hi ≤ ns) (hlo : lo ≤ hi) : s.pulseActs ns lo hi = (true, s) := by
  rw [State.pulseActs, if_neg (by omega), if_pos hns]

/-- A RESET_N pulse of 1 µs always acts (R537). -/
theorem exec_resetNAssert_of_long {pulseNs : Nat} (h : 1000 ≤ pulseNs) (s : State) : exec (.resetNAssert pulseNs) s = .next (s.orderlyReset 1) := by
  simp only [exec, execResetNAssert, State.pulseActs_of_certain s h (by decide : 100 ≤ 1000), if_true]

/-- Settles O9 (R414): every reset ends in `State.deviceReset`. -/
theorem aResetDiscardsTheMailboxes : Obligations.AResetDiscardsTheMailboxes := by
  refine fun s => ⟨fun pulseNs hlong => ?_, fun vddaoLost => ⟨_, rfl, State.powerOnReset_mailboxesEmpty s vddaoLost⟩, fun hparked hhigh => ?_, ?_,
    State.deviceReset_mailboxesEmpty s⟩
  · exact ⟨_, exec_resetNAssert_of_long hlong s, State.orderlyReset_mailboxesEmpty s 1⟩
  · have hexpired : s.passed s.power.parkNs (us 10000) = true := decide_eq_true hhigh
    have hexec : exec .pfailHighExpiry s = .next (s.orderlyReset 4) := congrArg _ (if_pos (by simp [hparked, hexpired]))
    exact ⟨_, hexec, State.orderlyReset_mailboxesEmpty s 4⟩
  · rintro ⟨d, hdue, hpassed⟩
    have hfound : (s.power.resetDue.find? fun d => s.passed d.ns (us 10000)).isSome = true :=
      List.find?_isSome.mpr ⟨d, hdue, decide_eq_true hpassed⟩
    obtain ⟨x, hx⟩ := Option.isSome_iff_exists.mp hfound
    refine ⟨_, ?_, State.orderlyReset_mailboxesEmpty s x.code⟩
    simp only [exec, execResetTimer, hx]

end Sys2Proof.Machine
end

section
/-!
The refusals of the envelope in their order (R402, R412, R421, R455), and those of the recovery loader and of Anneal (R415, R498, R520).
-/
namespace Sys2Proof.Machine

section Envelope

variable {s : State} {op : Half} {r : Req} {accept : List Nat}

/-! ## The status of the envelope -/

theorem envelope_of_long (h : 4076 < r.payload.length) : s.envelope op r accept = stBadEnvelope := if_pos h

theorem envelope_of_group (hlen : r.payload.length ≤ 4076) (hop : opcodePasses op = true) (hmbx : r.mbx.val ≠ 5)
    (hgroup : groupAccepted r.mbx.val op = false) : s.envelope op r accept = stWrongMailbox := by
  unfold State.envelope
  rw [if_neg (Nat.not_lt.mpr hlen), if_neg (by simp [hop]), if_pos (by simp [hmbx, hgroup])]

theorem envelope_of_reserved (hlen : r.payload.length ≤ 4076) (hop : opcodePasses op = true)
    (hgroup : r.mbx.val = 5 ∨ groupAccepted r.mbx.val op = true) (hreserved : r.flags.toNat / 2 ≠ 0 ∨ r.rsv ≠ 0) :
    s.envelope op r accept = stBadField := by
  have hmailbox : ¬ (r.mbx.val != 5 && !groupAccepted r.mbx.val op) = true := by rcases hgroup with h | h <;> simp [h]
  unfold State.envelope
  rw [if_neg (Nat.not_lt.mpr hlen), if_neg (by simp [hop]), if_neg hmailbox, if_pos (by simpa using hreserved)]

/-- Behind a sound header and an accepted target two checks are left: the path of mailbox 5 (R412) and the commands of a LOST device (R455). -/
theorem envelope_of_accepted (hhead : headPasses op r = true) (htarget : s.targetStatus r.target accept = stOK) :
    s.envelope op r accept =
      if r.mbx.val == 5 && groupOf op != 0x07 then stPathRefused else if s.lostRefuses op r then stNotLocal else stOK := by
  simp only [headPasses, Bool.and_eq_true, Bool.or_eq_true, decide_eq_true_eq, beq_iff_eq] at hhead
  obtain ⟨⟨⟨⟨hlen, hop⟩, hgroup⟩, hflags⟩, hrsv⟩ := hhead
  have hmailbox : ¬ (r.mbx.val != 5 && !groupAccepted r.mbx.val op) = true := by
    rcases hgroup with h | h <;> simp [h]
  unfold State.envelope
  rw [if_neg (Nat.not_lt.mpr hlen), if_neg (by simp [hop]), if_neg hmailbox, if_neg (by simp [hflags, hrsv])]
  simp [htarget]

theorem lostRefuses_of_lost (hlost : s.twin.st = 4) (hclass : hClass (r.target.setWidth 16) ≠ 8) (h1 : groupOf op ≠ 1) (hD : groupOf op ≠ 0xD)
    (hE : groupOf op ≠ 0xE) (hF : groupOf op ≠ 0xF) : s.lostRefuses op r = true := by
  simp [State.lostRefuses, hlost, cDevice, hclass, h1, hD, hE, hF]

/-! ## A command turned away -/

/-- On another mailbox than 5 a status is answered and nothing is counted. -/
theorem turnedAway_of_other_mailbox (hmbx : r.mbx.val ≠ 5) (bound : Nat) (st : Half) :
    s.turnedAway op r bound st = ((s.begun op r).respond r.mbx.val bound (Reply.err st)).settled op := by
  unfold State.turnedAway State.countRefused
  rw [if_neg (by simp [hmbx])]
  rfl

variable {c : Instr} (hc : requestOf c = some (op, accept, r)) (hreached : s.reached op accept r = true)
include hc hreached

/-- A command whose envelope gives a status other than OK is turned away with it. -/
theorem exec_turnedAway_of_envelope {st : Half} (hloader : s.loaderTakes op r = true) (henvelope : s.envelope op r accept = st) (hst : st ≠ stOK) :
    ∃ bound, exec c s = .next (s.turnedAway op r bound st) := by
  obtain ⟨bound, body, hexec⟩ := request_firmware hc s
  refine ⟨bound, hexec.trans (congrArg _ ?_)⟩
  rw [← henvelope]
  exact firmware_refused hreached hloader (henvelope.trans_ne hst)

/-- The recovery loader answers a command that it does not accept. -/
theorem exec_turnedAway_of_loader (hmbx : r.mbx.val ≠ 5) (hloader : s.loaderTakes op r = false) :
    ∃ bound, exec c s = .next (s.turnedAway op r bound stStarting) := by
  obtain ⟨bound, body, hexec⟩ := request_firmware hc s
  refine ⟨bound, hexec.trans (congrArg _ ?_)⟩
  rw [firmware_reached hreached, turnedAway_of_other_mailbox hmbx]
  exact congrArg (State.settled · op) (if_pos hloader)

/-- Anneal answers a command that passes the envelope and is not allowed. -/
theorem exec_turnedAway_of_anneal (hmbx : r.mbx.val ≠ 5) (hloader : s.loaderTakes op r = true) (henvelope : s.envelope op r accept = stOK)
    (hanneal : s.annealTakes op r = false) : ∃ bound, exec c s = .next (s.turnedAway op r bound stInAnneal) := by
  obtain ⟨bound, body, hexec⟩ := request_firmware hc s
  refine ⟨bound, hexec.trans (congrArg _ ?_)⟩
  rw [firmware_reached hreached, turnedAway_of_other_mailbox hmbx]
  refine congrArg (State.settled · op) ((if_neg ?_).trans ((if_neg ?_).trans (if_pos hanneal)))
  · simp [hloader]
  · simp [henvelope]

end Envelope

/-- Settles O17: each check is reached where those before it find nothing (the order of the checks by log 6; what a LOST device refuses by log 80, the
Ampoule's count on mailbox 5 by log 108). -/
theorem theEnvelopeRefusesInOrder : Obligations.TheEnvelopeRefusesInOrder := by
  intro c op accept r s hc hreached hloader
  have turned {st : Half} := exec_turnedAway_of_envelope (st := st) hc hreached hloader
  refine ⟨fun hlong => ?_, fun hlen hop hmbx hgroup => ?_, fun hlen hop hgroup hreserved => ?_, fun hhead htarget => ?_,
    fun hhead htarget hmbx hgroup => ?_, fun hhead htarget hpath hlost hclass h1 hD hE hF => ?_⟩
  · exact turned (envelope_of_long hlong) (by decide)
  · exact turned (envelope_of_group hlen hop hmbx hgroup) (by decide)
  · exact turned (envelope_of_reserved hlen hop hgroup hreserved) (by decide)
  · exact turned (envelope_target hhead htarget) htarget
  · refine turned ((envelope_of_accepted hhead htarget).trans (if_pos ?_)) (by decide)
    simp [hmbx, hgroup]
  · refine turned ((envelope_of_accepted hhead htarget).trans ((if_neg ?_).trans (if_pos (lostRefuses_of_lost hlost hclass h1 hD hE hF)))) (by decide)
    simpa using hpath

/-- Settles O18: the recovery loader is asked before the envelope, Anneal after it (what each accepts by logs 69 and 109). -/
theorem annealAndTheLoaderRefuse : Obligations.AnnealAndTheLoaderRefuse := fun _ _ _ _ _ hc hreached hmbx =>
  ⟨exec_turnedAway_of_loader hc hreached hmbx, exec_turnedAway_of_anneal hc hreached hmbx⟩

end Sys2Proof.Machine
end

section
/-!
Doorbells on a full mailbox (R397, R420) and while the device starts (R413): as the row of a command, and with the bytes of a request window.
-/
namespace Sys2Proof.Machine

/-! ## MBX_DOORBELL -/

/-- MBX_DOORBELL on one of the mailboxes of SEL_N, outside DORMANT. -/
theorem exec_mbxDoorbell_front {s : State} {m : Fin 7} (hm : m.val = 0 ∨ m.val = 1 ∨ m.val = 6) (hawake : s.power.pstate ≠ 3) :
    exec (.mbxDoorbell ⟨m.val, by omega⟩) s = .next (s.doorbell m) := by
  have hanswers : ¬ (!s.mbxAnswers) = true := by simpa [State.mbxAnswers] using hawake
  have h5 : ¬ (m.val == 5) = true := by rcases hm with h | h | h <;> simp [h]
  have hfront : (m.val == 0 || m.val == 1 || m.val == 6) = true := by rcases hm with h | h | h <;> simp [h]
  simp only [exec, execMbxDoorbell]
  rw [if_neg h5, if_neg hanswers, dif_pos m.isLt, if_pos hfront]

section Doorbell

variable {s t : State} {m : Fin 7} {op st : Half} {r : Req}
  (hparse : parseReq m (Mem.readAll (s.mailbox m.val).window 0 windowBytes) = (op, r, st))
include hparse

theorem parseReq_mbx : r.mbx = m := (congrArg (·.2.1.mbx) hparse).symm

theorem doorbell_of_not_taken (hring : s.ring op r none = (t, false)) : s.doorbell m = t := by
  simp only [State.doorbell, hparse, hring, Bool.not_false, if_true]

/-- A request that is answered at its doorbell: its buffer is taken, and no check follows. -/
theorem doorbell_of_answered {e : Entry} (hring : s.ring op r none = (t, true)) (hlast : (t.mailbox m.val).entries.getLast? = some e)
    (hanswered : e.isQueued = false) : s.doorbell m = t.setMbx m.val { t.mailbox m.val with window := [] } := by
  simp only [State.doorbell, hparse, hring, Bool.not_true, Bool.false_eq_true, if_false, mailbox_setMbx, hlast, hanswered, Bool.not_false, if_true]

end Doorbell

theorem Tab.put_put {γ : Type} (t : Tab γ) (k : Nat) (v w : γ) : Tab.put (Tab.put t k v) k w = Tab.put t k w := by
  induction t with
  | nil => simp [Tab.put]
  | cons p t ih =>
    obtain ⟨i, u⟩ := p
    by_cases hi : i = k
    · simp [Tab.put, hi]
    · by_cases hk : k < i <;> simp [Tab.put, hi, hk, ih]

theorem setMbx_setMbx (s : State) (m : Nat) (x y : Mailbox) : (s.setMbx m x).setMbx m y = s.setMbx m y :=
  congrArg (fun t => { s with mbx := t }) (Tab.put_put _ _ _ _)

/-! ## A full mailbox -/

/-- A request whose mailbox takes no more is refused at its doorbell. -/
theorem exec_of_full {c : Instr} {op : Half} {accept : List Nat} {r : Req} {s : State} (hc : requestOf c = some (op, accept, r))
    (hhead : s.atHead op r = false) (hfull : (s.mailbox r.mbx.val).full) (h5 : r.mbx.val = 5 → s.amp.inReset = false) :
    exec c s = .next ((s.doorbellRefused r.mbx.val (refusalEntry op r none stMbxFull)).settled op) := by
  obtain ⟨bound, body, hexec⟩ := request_firmware hc s
  have hring := ring_full (op := op) (x := none) hfull h5
  rw [hexec, stop_at_ring hhead (congrArg Prod.snd hring), hring]

/-- A doorbell of the chain port on a mailbox that takes no more is refused with the opcode and the TAG of the window. -/
theorem doorbell_of_full {s : State} {m : Fin 7} (hm : m.val ≠ 5) (hfull : (s.mailbox m.val).full) :
    ∃ (op : Half) (r : Req), s.doorbell m = s.doorbellRefused m.val (refusalEntry op r none stMbxFull) := by
  generalize hparse : parseReq m (Mem.readAll (s.mailbox m.val).window 0 windowBytes) = p
  obtain ⟨op, r, st⟩ := p
  obtain rfl := parseReq_mbx hparse
  exact ⟨op, r, doorbell_of_not_taken hparse (ring_full hfull fun h => absurd h hm)⟩

/-- IGNORED stands at offset 12 of a mailbox's counters, behind three of four bytes (log 8). -/
theorem slice_mbxInfo_ignored {s : State} {i : Nat} (hi : i ≠ 7) : slice (s.mbxInfo i) 12 4 = toLE 4 (s.mailbox i).ignored.toNat := by
  simp only [State.mbxInfo, beq_iff_eq, if_neg hi]
  rfl

/-- Settles O11: the doorbell finds the mailbox full before it looks at anything else (the offset of IGNORED by R420 and log 8). -/
theorem aFullMailboxRefuses : Obligations.AFullMailboxRefuses := by
  refine ⟨fun c op accept r s hc => exec_of_full hc, fun m s hm hawake hfull => ?_, fun s i hi => slice_mbxInfo_ignored (Nat.ne_of_lt hi)⟩
  have h5 : m.val ≠ 5 := by omega
  obtain ⟨op, r, hdoorbell⟩ := doorbell_of_full h5 hfull
  exact ⟨op, r, (exec_mbxDoorbell_front hm hawake).trans (congrArg _ hdoorbell)⟩

/-! ## The device starts -/

section Starting

variable {s : State} {op : Half} {r : Req}

/-- A mailbox with one more command, which has been answered at its doorbell. -/
def Mailbox.answeredAtBell (x : Mailbox) (e : Entry) : Mailbox := { x with accepted := x.accepted + 1, entries := x.entries ++ [e] }

/-- The front executor answers a request on mailbox 0, 1 or 6 while the device starts. -/
theorem ring_starting (hm : r.mbx.val = 0 ∨ r.mbx.val = 1 ∨ r.mbx.val = 6) (hstart : s.power.pstate = 0)
    (htakes : (s.mailbox r.mbx.val).takes = true) :
    s.ring op r none = (s.setMbx r.mbx.val ((s.mailbox r.mbx.val).answeredAtBell (formedEntry op r none stStarting)), true) := by
  obtain ⟨hslot, hcredit⟩ : (s.mailbox r.mbx.val).entries.any (·.refusal) = false ∧ (s.mailbox r.mbx.val).outstanding < 16 := by
    simpa [Mailbox.takes] using htakes
  have h5 : r.mbx.val ≠ 5 := by omega
  have hfront : (r.mbx.val == 0 || r.mbx.val == 1 || r.mbx.val == 6) = true := by rcases hm with h | h | h <;> simp [h]
  unfold State.ring
  dsimp only
  rw [if_neg (by simp [h5]), if_neg (by simp [hslot]), if_neg (Nat.not_le.mpr hcredit), if_pos (by simp [h5, hstart]), if_pos hfront]
  rfl

/-- A response formed at the doorbell leaves the mailbox's head as it was. -/
theorem head_answeredAtBell (x : Mailbox) {e : Entry} (he : e.isFormed = true) : (x.answeredAtBell e).head = x.head := by
  simp [Mailbox.head, Mailbox.answeredAtBell, List.find?_append, he]

theorem getLast?_answeredAtBell (x : Mailbox) (e : Entry) : (x.answeredAtBell e).entries.getLast? = some e := List.getLast?_concat

theorem bellCheck_of_answered {bound : Nat} {accept : List Nat} {body : State → Req → State × Act} {e : Entry}
    (hlast : (s.mailbox r.mbx.val).entries.getLast? = some e) (hanswered : e.isQueued = false) : s.bellCheck op bound accept r body = s := by
  simp only [State.bellCheck, hlast, hanswered, Bool.not_false, Bool.true_or, if_true]

/-- A command that is answered at its doorbell does not execute. -/
theorem firmware_of_answered {bound : Nat} {accept : List Nat} {body : State → Req → State × Act} {e : Entry} (hhead : s.atHead op r = false)
    (he : e.isFormed = true) (hring : s.ring op r = (s.setMbx r.mbx.val ((s.mailbox r.mbx.val).answeredAtBell e), true)) :
    s.firmware op bound accept r body = s.setMbx r.mbx.val ((s.mailbox r.mbx.val).answeredAtBell e) := by
  generalize ht : s.setMbx r.mbx.val ((s.mailbox r.mbx.val).answeredAtBell e) = t at hring
  have hmailbox : t.mailbox r.mbx.val = (s.mailbox r.mbx.val).answeredAtBell e := ht ▸ mailbox_setMbx _ _ _
  have hbehind : t.atHead op r = false := by rw [State.atHead, hmailbox, head_answeredAtBell _ he]; exact hhead
  have hlast : (t.mailbox r.mbx.val).entries.getLast? = some e := by rw [hmailbox]; exact getLast?_answeredAtBell _ _
  have hanswered : e.isQueued = false := by
    unfold Entry.isFormed at he
    split at he
    next ps hphase => simp [Entry.isQueued, hphase]
    · cases he
  have hrings : (if s.atHead op r then (s, true) else s.ring op r) = (t, true) := by rw [hhead]; exact hring
  unfold State.firmware
  extract_lets m matchHead free
  rw [show (if matchHead = true then (s, true) else s.ring op r) = (t, true) from hrings]
  dsimp only
  split
  · rfl
  · exact (if_pos (Bool.or_eq_true_iff.mpr (.inr (congrArg not hbehind)))).trans (bellCheck_of_answered hlast hanswered)

/-- A request as a row while the device starts. -/
theorem exec_of_starting {c : Instr} {accept : List Nat} (hc : requestOf c = some (op, accept, r)) (hhead : s.atHead op r = false)
    (hm : r.mbx.val = 0 ∨ r.mbx.val = 1 ∨ r.mbx.val = 6) (hstart : s.power.pstate = 0) (htakes : (s.mailbox r.mbx.val).takes = true) :
    exec c s = .next ((s.setMbx r.mbx.val ((s.mailbox r.mbx.val).answeredAtBell (formedEntry op r none stStarting))).settled op) := by
  obtain ⟨bound, body, hexec⟩ := request_firmware hc s
  exact hexec.trans (congrArg (Host.Outcome.next <| State.settled · op) (firmware_of_answered hhead rfl (ring_starting hm hstart htakes)))

/-- MBX_DOORBELL while the device starts: the window's buffer is taken with its request. -/
theorem doorbell_of_starting {m : Fin 7} (hm : m.val = 0 ∨ m.val = 1 ∨ m.val = 6) (hstart : s.power.pstate = 0)
    (htakes : (s.mailbox m.val).takes = true) : ∃ (op : Half) (r : Req),
      s.doorbell m = s.setMbx m.val { (s.mailbox m.val).answeredAtBell (formedEntry op r none stStarting) with window := [] } := by
  generalize hparse : parseReq m (Mem.readAll (s.mailbox m.val).window 0 windowBytes) = p
  obtain ⟨op, r, st⟩ := p
  obtain rfl := parseReq_mbx hparse
  refine ⟨op, r, ?_⟩
  have hlast : ((s.setMbx r.mbx.val ((s.mailbox r.mbx.val).answeredAtBell (formedEntry op r none stStarting))).mailbox r.mbx.val).entries.getLast?
      = some (formedEntry op r none stStarting) := by
    rw [mailbox_setMbx]; exact getLast?_answeredAtBell _ _
  rw [doorbell_of_answered hparse (ring_starting hm hstart htakes) hlast rfl, mailbox_setMbx]
  exact setMbx_setMbx _ _ _ _

end Starting

/-- Settles O12: the front executor's answer is formed at the doorbell, so that nothing more is done with the request. -/
theorem startingAnswers : Obligations.StartingAnswers := by
  refine ⟨fun c op accept r s hc => exec_of_starting hc, fun m s hm hstart htakes => ?_⟩
  obtain ⟨op, r, hdoorbell⟩ := doorbell_of_starting hm hstart htakes
  have hexec := exec_mbxDoorbell_front hm (by rw [hstart]; decide)
  refine ⟨formedEntry op r none stStarting, _, hexec, rfl, ?_⟩
  rw [hdoorbell, mailbox_setMbx]
  exact ⟨rfl, rfl, rfl⟩

end Sys2Proof.Machine
end

section
/-!
The acknowledgement of a response's part (R408, with R407 and R409 for the part after it).
-/
namespace Sys2Proof.Machine

section Acknowledge

variable {m : Fin 8} {offset : BitVec 12} {word : Word} {s : State} (hm : m.val < 7)

theorem exec_responseAck_of_offset (hoffset : offset ≠ 0) : exec (.responseAck m offset word) s = .next s :=
  congrArg Host.Outcome.next (if_pos (Bool.or_eq_true_iff.mpr (.inl (bne_iff_ne.mpr hoffset))))

include hm

/-- On the mailboxes 0 to 6 the word acknowledges a part, or nothing where the mailboxes do not answer. -/
theorem exec_responseAck (hoffset : offset = 0) :
    exec (.responseAck m offset word) s = .next (if s.mbxAnswers then s.ackPart m.val word else s) := by
  have h7 : ¬ (m.val == 7) = true := by simp; omega
  simp only [exec, execResponseAck, hoffset, if_neg h7]
  cases s.mbxAnswers <;> rfl

/-- An acknowledgement that the part shown does not take changes nothing, at any offset. -/
theorem exec_responseAck_ignored (hack : s.ackPart m.val word = s) : exec (.responseAck m offset word) s = .next s := by
  by_cases hoffset : offset = 0
  · rw [exec_responseAck hm hoffset, hack, ite_self]
  · exact exec_responseAck_of_offset hoffset

theorem exec_responseAck_taken (hawake : s.power.pstate ≠ 3) : exec (.responseAck m 0 word) s = .next (s.ackPart m.val word) := by
  rw [exec_responseAck hm rfl, if_pos (by simpa [State.mbxAnswers] using hawake)]

end Acknowledge

section AckPart

variable {s : State} {m : Nat}

theorem ackPart_of_empty {word : Word} (hshown : (s.mailbox m).shown = none) : s.ackPart m word = s := by
  simp only [State.ackPart, hshown]

variable {e : Entry} {p : Part} (hshown : (s.mailbox m).shown = some (e, p))
include hshown

theorem ackPart_of_other_tag {word : Word} (hword : word ≠ p.tag.setWidth 32) : s.ackPart m word = s := by
  simp only [State.ackPart, hshown, bne_iff_ne, ne_eq, hword, not_false_eq_true, if_true]

theorem ackPart_of_next_part {q : Part} {ps : List Part} (hphase : e.phase = .formed (p :: q :: ps)) :
    s.ackPart m (p.tag.setWidth 32) = (s.setMbx m { s.mailbox m with
      entries := { e with phase := .formed (q :: ps) } :: (s.mailbox m).entries.tail, sends := 0 }).pumpMbx m := by
  simp only [State.ackPart, hshown, bne_self_eq_false, Bool.false_eq_true, if_false, hphase]

theorem ackPart_of_last_part (hphase : e.phase = .formed [p]) :
    s.ackPart m (p.tag.setWidth 32) = ((s.setMbx m { s.mailbox m with
      entries := (s.mailbox m).entries.tail, sends := 0, doneXseq := keepXseq (s.mailbox m).doneXseq e.xseq }).pumpMbx m).afterAck m e.opcode p.status := by
  simp only [State.ackPart, hshown, bne_self_eq_false, Bool.false_eq_true, if_false, hphase]

end AckPart

/-- Settles O14: what a word at offset 0 does is a case of the part shown. -/
theorem anAcknowledgementNamesItsPart : Obligations.AnAcknowledgementNamesItsPart := by
  refine fun m offset word s hm => ⟨exec_responseAck_of_offset, fun hshown => exec_responseAck_ignored hm (ackPart_of_empty hshown),
    fun e p hshown hword => exec_responseAck_ignored hm (ackPart_of_other_tag hshown hword), fun e p hshown hawake => ⟨fun q ps hphase => ?_, fun hphase => ?_⟩⟩
  · rw [exec_responseAck_taken hm hawake, ackPart_of_next_part hshown hphase]
  · rw [exec_responseAck_taken hm hawake, ackPart_of_last_part hshown hphase]

end Sys2Proof.Machine
end

section
/-!
How a command's own part passes its checks, and the SYS and UNIT/CANE commands complete.
-/
namespace Sys2Proof.Machine

/-! ## Lists of checks -/

section Checks

variable {l : List Half}

@[simp] theorem checks_nil_ok : checks [] = stOK := rfl

theorem checks_cons_ok (x : Half) : checks (x :: l) = stOK ↔ x = stOK ∧ checks l = stOK := by
  simp only [checks_ok, List.forall_mem_cons]

@[simp] theorem checks_needLen_ok (r : Req) (n : Nat) : checks (needLen r n :: l) = stOK ↔ r.payload.length = n ∧ checks l = stOK := by
  rw [checks_cons_ok, needLen_ok]

@[simp] theorem checks_unless_ok (c : Bool) {st : Half} (hst : st ≠ stOK) : checks (unless' c st :: l) = stOK ↔ c = true ∧ checks l = stOK := by
  rw [checks_cons_ok, unless_ok c hst]

@[simp] theorem checks_rangeOk_ok (first count max size : Nat) :
    checks (rangeOk first count max size :: l) = stOK ↔ (1 ≤ count ∧ count ≤ max ∧ first + count ≤ size) ∧ checks l = stOK := by
  rw [checks_cons_ok, rangeOk_ok]

@[simp] theorem checks_cons_stOK : checks (stOK :: l) = checks l := rfl

theorem checks_cons_of_ok {x : Half} (hx : x = stOK) : checks (x :: l) = checks l := by
  simp [checks, hx]

end Checks

theorem needLen_zero_ok {r : Req} (h : r.payload = []) : needLen r 0 = stOK := (needLen_ok r 0).mpr (congrArg List.length h)

/-! ## SYS and UNIT/CANE -/

/-- Settles O35 (the layouts by logs 116 and 117): where a command's conditions hold, its checks pass. -/
theorem sysAndCaneCommandsComplete : Obligations.SysAndCaneCommandsComplete := by
  refine ⟨completes_of (fun _ _ => rfl) fun s r h => rfl, completes_of (fun _ _ => rfl) fun s r hlen => guarded_ok (needLen_zero_ok hlen) _,
    completes_of (fun _ _ => rfl) fun s r hlen => guarded_ok (needLen_zero_ok hlen) _,
    completes_of (fun _ _ => rfl) fun s r h => ?fence, completes_of (fun _ _ => rfl) fun s r h => ?reset,
    completes_of (fun _ _ => rfl) fun s r h => ?powerSame, completes_of (fun _ _ => rfl) fun s r h => ?powerOther,
    completes_of (fun _ _ => rfl) fun s r hlen => ?info, fun hs depth => completes_of (fun _ _ => rfl) fun s r h => ?define,
    completes_of (fun _ _ => rfl) fun s r h => ?delete, fun c => completes_of (fun _ _ => rfl) fun s r h => ?query,
    fun c => completes_of (fun _ _ => rfl) fun s r h => ?mask, completes_of (fun _ _ => rfl) fun s r hlen => guarded_ok (needLen_zero_ok hlen) _⟩
  case fence =>
    obtain ⟨hlen, hmask, hzeros⟩ := h
    unfold sysFenceBody
    exact guarded_ok (by simp (disch := decide) [*]) _
  case reset =>
    obtain ⟨hlen, hkey, hallowed⟩ := h
    unfold sysResetBody
    exact guarded_ok (by simp (disch := decide) [*]) _
  case powerSame =>
    obtain ⟨hlen, hmin, hmax, hzeros, hsame⟩ := h
    unfold sysPowerBody
    exact (guarded_ok (by simp (disch := decide) [hlen, hmin, hmax, hzeros]) _).trans (if_pos (by simpa using hsame))
  case powerOther =>
    obtain ⟨hlen, hmin, hmax, hzeros, hother, hseq, hcap, htiu, hamp⟩ := h
    unfold sysPowerBody
    refine (guarded_ok (by simp (disch := decide) [*]) _).trans ((if_neg (by simpa using hother)).trans ?_)
    exact guarded_ok (by simp (disch := decide) [*]) _
  case info =>
    unfold unitInfoBody
    exact guarded_ok (needLen_zero_ok hlen) _
  case define =>
    obtain ⟨hmin, hlen, hone, hmax, hclass, hi, hne8, hne9, hcls, hflags, hzeros, hflat, hgang, hrefs, haway, hspan, htwin⟩ := h
    unfold caneDefineBody
    refine (guarded_ok (by simp (disch := decide) [*]) _).trans ?_
    rw [hflat]
    exact guarded_ok (by simp (disch := decide) [*]) _
  case delete =>
    obtain ⟨hcane, hlen, hrefs, hspan⟩ := h
    unfold caneDeleteBody
    exact guarded_ok (by simp (disch := decide) [checks_cons_ok, needLen_ok, unless_ok, *]) _
  case query =>
    obtain ⟨hcane, hlen, hs⟩ := h
    unfold caneQueryBody
    refine (guarded_ok (by simp [checks_cons_ok, needLen_ok, *]) _).trans ?_
    rw [hs]
  case mask =>
    obtain ⟨hs, hcane, hlen, hset, hspan⟩ := h
    simp only [caneMaskBody, hs]
    exact guarded_ok (by simpa (disch := decide) [checks_cons_ok, unless_ok, hcane, hspan, hlen] using hset) _

end Sys2Proof.Machine
end

section
/-!
The STROKE and STREAM/STENCIL commands complete.
-/
namespace Sys2Proof.Machine

/-- Settles O36 (the records over a cane by logs 117, 118 and 119, the refusals' details by log 141). -/
theorem strokeCommandsComplete : Obligations.StrokeCommandsComplete := by
  refine ⟨completes_of (fun _ _ => rfl) fun s r h => ?load, completes_of (fun _ _ => rfl) fun s r h => ?tset,
    completes_of (fun _ _ => rfl) fun s r h => ?start, completes_of (fun _ _ => rfl) fun s r hlen => ?halt,
    completes_of (fun _ _ => rfl) fun s r hlen => ?status, completes_of (fun _ _ => rfl) fun s r h => ?read,
    completes_of (fun _ _ => rfl) fun s r h => ?config⟩
  case load =>
    obtain ⟨hlen, hmin, hmax, hrange, hzeros, hentries, hidle⟩ := h
    unfold strokeLoadBody
    refine (guarded_ok (by simp (disch := decide) [*]) _).trans ?_
    simp only [hentries]
    exact guarded_ok (gathersIdle_ok hidle) _
  case tset =>
    obtain ⟨hlen, hix, hzeros, hmax, hmin, hfmt, hreserved, hedges, hidle⟩ := h
    unfold tsetLoadBody
    have hcode : (zeros r.payload 1 7 && u64 r.payload 8 < 2 ^ 46 && 64 ≤ u64 r.payload 8 / 65536) = true := by
      simp only [hzeros, hmax, hmin, decide_true, Bool.and_self]
    exact guarded_ok (by simp (disch := decide) only [checks_needLen_ok, checks_unless_ok, checks_cons_of_ok (gathersIdle_ok hidle), checks_nil_ok,
      hlen, hix, hcode, hfmt, hreserved, hedges, decide_true, Bool.and_self, and_self]) _
  case start =>
    obtain ⟨hlen, hidx, hmode, hzeros, hidle, hwalk, hrelease⟩ := h
    obtain ⟨u, hu⟩ := Option.isSome_iff_exists.mp hrelease
    unfold strokeStartBody
    refine (guarded_ok (by simp (disch := decide) [checks_cons_of_ok (gathersIdle_ok hidle), checks_cons_of_ok ((firstStatus_ok _ _).mpr hwalk), *]) _).trans ?_
    simp only [hu, Option.getD_some]
  case halt =>
    unfold strokeHaltBody
    exact guarded_ok (needLen_zero_ok hlen) _
  case status =>
    unfold strokeStatusBody
    exact guarded_ok (needLen_zero_ok hlen) _
  case read =>
    obtain ⟨hlen, hmin, hmax, hrange⟩ := h
    unfold strokeReadBody
    exact guarded_ok (by simp [*]) _
  case config =>
    obtain ⟨hlen, hzeros, hstates, hidle⟩ := h
    unfold seqConfigBody
    exact guarded_ok (by simp (disch := decide) [-List.all_eq_true, checks_cons_of_ok (gathersIdle_ok hidle), *]) _

/-- Settles O37 (the records over a cane by logs 117 and 118, a context that is not open and the sources of events by log 143). -/
theorem streamCommandsComplete : Obligations.StreamCommandsComplete := by
  refine ⟨completes_of (fun _ _ => rfl) fun s r h => ?vmemWrite, completes_of (fun _ _ => rfl) fun s r h => ?vmemRead,
    completes_of (fun _ _ => rfl) fun s r h => ?vmemPin, completes_of (fun _ _ => rfl) fun s r h => ?streamOpen,
    completes_of (fun _ _ => rfl) fun s r h => ?streamClose, completes_of (fun _ _ => rfl) fun s r h => ?streamWrite,
    completes_of (fun _ _ => rfl) fun s r h => ?bcastLoad, fun p => completes_of (fun _ _ => rfl) fun s r h => ?bcastStart,
    fun p => completes_of (fun _ _ => rfl) fun s r h => ?bcastUnload, completes_of (fun _ _ => rfl) fun s r h => ?stencilLoad,
    completes_of (fun _ _ => rfl) fun s r h => ?stencilClear, completes_of (fun _ _ => rfl) fun s r hlen => ?streamStatus⟩
  case vmemWrite =>
    obtain ⟨hlen, hmin, hmax, hrange, hzeros, hsymbols, hidle⟩ := h
    unfold vmemWriteBody
    exact guarded_ok (by simp (disch := decide) [checks_cons_of_ok (gathersIdle_ok hidle), *]) _
  case vmemRead =>
    obtain ⟨hlen, hmin, hmax, hrange, hzeros, hidle⟩ := h
    unfold vmemReadBody
    exact guarded_ok (by simp (disch := decide) [checks_cons_of_ok (gathersIdle_ok hidle), *]) _
  case vmemPin =>
    obtain ⟨hlen, hidle, hfree⟩ := h
    unfold vmemPinBody
    exact guarded_ok (by simp (disch := decide) [-List.all_eq_true, checks_cons_of_ok (gathersIdle_ok hidle), *]) _
  case streamOpen =>
    obtain ⟨hclass, hlen, hc, hmin, hmax, hmode, hstall, hbase, hstride, hregion, hidle, hfree, hband⟩ := h
    unfold streamOpenBody
    exact guarded_ok (by simpa (disch := decide) [-List.all_eq_true, -Bool.or_eq_true, *] using And.intro hstride hregion) _
  case streamClose =>
    obtain ⟨hlen, hc, hzeros, hfree⟩ := h
    unfold streamCloseBody
    exact guarded_ok (by simp (disch := decide) [*]) _
  case streamWrite =>
    obtain ⟨hlen, hmin, hmax, hc, hspan, hzeros, hfree⟩ := h
    unfold streamWriteBody
    exact guarded_ok (by simp (disch := decide) [hlen.symm, hmin, hmax, hc, hspan, hzeros, hfree]) _
  case bcastLoad =>
    obtain ⟨hcane, hlen, hp, hc, hmin, hmax, hrange, hapart, hzeros, hopen, hmode, hentries, hlive, hidle, hothers, hfree⟩ := h
    unfold bcastLoadBody
    refine (guarded_ok (by simp (disch := decide) [-List.all_eq_true, -List.any_filter, *]) _).trans ?_
    simp only [hentries]
    exact guarded_ok (by simp (disch := decide) only [checks_unless_ok, checks_nil_ok, hlive, hidle, hothers, hfree, Bool.not_false, Bool.and_self,
      and_self]) _
  case bcastStart =>
    obtain ⟨hp, hlen, hmin, hmax, hmode, hzeros, hlive, hidle, hprog, hrelease⟩ := h
    obtain ⟨u, hu⟩ := Option.isSome_iff_exists.mp hrelease
    simp only [bcastStartBody, hp]
    refine (guarded_ok (by simp (disch := decide) [checks_cons_of_ok (gathersIdle_ok hidle), *]) _).trans ?_
    simp only [hu, Option.getD_some]
  case bcastUnload =>
    obtain ⟨hp, hlen, hlive⟩ := h
    simp only [bcastUnloadBody, hp]
    exact guarded_ok (by simp (disch := decide) [*]) _
  case stencilLoad =>
    obtain ⟨hlen, hmin, hmax, hrange, hzeros, hentries⟩ := h
    unfold stencilLoadBody
    exact guarded_ok (by simp (disch := decide) only [checks_needLen_ok, checks_rangeOk_ok, checks_unless_ok,
      checks_cons_of_ok ((firstStatus_ok _ _).mpr hentries), checks_nil_ok, hlen, hmin, hmax, hrange, hzeros, and_self]) _
  case stencilClear =>
    obtain ⟨hlen, hmin, hmax, hrange, hzeros⟩ := h
    unfold stencilClearBody
    exact guarded_ok (by simp (disch := decide) [*]) _
  case streamStatus =>
    unfold streamStatusBody
    exact guarded_ok (needLen_zero_ok hlen) _

end Sys2Proof.Machine
end

section
/-!
The UCODE, PIN and sentinel commands and the SMU commands complete.
-/
namespace Sys2Proof.Machine

/-- Settles O38 (the records over a cane by logs 117 and 118, a sentinel before its first dwell by log 144). -/
theorem ucodeAndPinCommandsComplete : Obligations.UcodeAndPinCommandsComplete := by
  refine ⟨completes_of (fun _ _ => rfl) fun s r h => ?ucodeLoad,
    completes_of (fun _ _ => rfl) fun s r h => ?ucodeClear,
    completes_of (fun _ _ => rfl) fun s r hlen => ?ucodeQuery,
    completes_of (fun _ _ => rfl) fun s r hlen => ?ucodeRead,
    completes_of (fun _ _ => rfl) fun s r h => ?pinConfig,
    completes_of (fun _ _ => rfl) fun s r h => ?pinLevels,
    completes_of (fun _ _ => rfl) fun s r h => ?pinLoad,
    completes_of (fun _ _ => rfl) fun s r h => ?pinClearCodes,
    completes_of (fun _ _ => rfl) fun s r h => ?pinComparator,
    completes_of (fun _ _ => rfl) fun s r h => ?pinRelease,
    completes_of (fun _ _ => rfl) fun s r hlen => ?pinStatus,
    completes_of (fun _ _ => rfl) fun s r hlen => ?pinRead,
    completes_of (fun _ _ => rfl) fun s r h => ?sentConfig,
    completes_of (fun _ _ => rfl) fun s r hlen => ?sentStatus,
    completes_of (fun _ _ => rfl) fun s r hlen => ?contactCheck⟩
  case ucodeLoad =>
    obtain ⟨hlen, hpatch, hidle⟩ := h
    unfold ucodeLoadBody
    exact guarded_ok (by simp (disch := decide) [*]) _
  case ucodeClear =>
    obtain ⟨hlen, hidle⟩ := h
    unfold ucodeClearBody
    exact guarded_ok (by simp (disch := decide) [*]) _
  case ucodeQuery =>
    unfold ucodeQueryBody
    exact guarded_ok (needLen_zero_ok hlen) _
  case ucodeRead =>
    unfold ucodeReadBody
    exact guarded_ok (needLen_zero_ok hlen) _
  case pinConfig =>
    obtain ⟨hlen, htop, hmid, hlow, hrate, hidle, hclaim, hpower⟩ := h
    unfold pinConfigBody
    exact guarded_ok (by simpa (disch := decide) [hlen, htop, hmid, hlow, hrate, hidle, hpower, checks_cons_ok, needLen_ok, unless_ok] using hclaim) _
  case pinLevels =>
    obtain ⟨hlen, hzero, hdrive, hcompare, hreach, hclear, hidle, hpower⟩ := h
    unfold pinLevelsBody
    exact guarded_ok (by simp (disch := decide) [*]) _
  case pinLoad =>
    obtain ⟨hlen, htop, hmid, hioh, hiol, hidle, hpower⟩ := h
    unfold pinLoadBody
    exact guarded_ok (by simp (disch := decide) [*]) _
  case pinClearCodes =>
    obtain ⟨hlen, hzero⟩ := h
    unfold pinClearBody
    exact guarded_ok (by simp (disch := decide) [*]) _
  case pinComparator =>
    obtain ⟨hlen, htop, hidle, hpower⟩ := h
    unfold pinComparatorBody
    exact guarded_ok (by simp (disch := decide) [*]) _
  case pinRelease =>
    obtain ⟨hlen, hbits⟩ := h
    unfold pinReleaseBody
    exact guarded_ok (by simp (disch := decide) [*]) _
  case pinStatus =>
    unfold pinStatusBody
    exact guarded_ok (needLen_zero_ok hlen) _
  case pinRead =>
    unfold pinReadBody
    exact guarded_ok (needLen_zero_ok hlen) _
  case sentConfig =>
    obtain ⟨hlen, hfirst, hsecond⟩ := h
    unfold sentConfigBody
    exact guarded_ok (by simp (disch := decide) [*]) _
  case sentStatus =>
    unfold sentStatusBody
    exact guarded_ok (needLen_zero_ok hlen) _
  case contactCheck =>
    unfold contactCheckBody
    exact guarded_ok (needLen_zero_ok hlen) _


/-- Settles O39 (the records over a cane by logs 117 and 118, what a unit does after a write by log 123). -/
theorem smuCommandsComplete : Obligations.SmuCommandsComplete := by
  refine ⟨completes_of (fun _ _ => rfl) fun s r h => ?smuConfig,
    completes_of (fun _ _ => rfl) fun s r h => ?smuForce,
    completes_of (fun _ _ => rfl) fun s r h => ?smuSafe,
    completes_of (fun _ _ => rfl) fun s r h => ?smuTrip,
    completes_of (fun _ _ => rfl) fun s r h => ?smuMeasure,
    completes_of (fun _ _ => rfl) fun s r h => ?smuRelease,
    completes_of (fun _ _ => rfl) fun s r h => ?smuStatus,
    completes_of (fun _ _ => rfl) fun s r hlen => ?smuRead⟩
  case smuConfig =>
    obtain ⟨hlen, htop, hmid, hpair, hlow, hmode, hranging, howned, hpower⟩ := h
    unfold smuConfigBody
    exact guarded_ok (by simpa (disch := decide) [hlen, htop, hmid, hpair, hlow, hmode, hranging, hpower, checks_cons_ok, needLen_ok, unless_ok] using howned) _
  case smuForce =>
    obtain ⟨hlen, hclamps, hv, hhi, hlo, hcode, hclampCode, hcane, hclear, hranging, hpower⟩ := h
    unfold smuForceBody
    exact guarded_ok (by simp (disch := decide) [*]) _
  case smuSafe =>
    obtain ⟨hlen, hclamps, hsafe, hv, hhi, hlo, hsafeCode, hcode, hclampCode, hcane⟩ := h
    unfold smuSafeBody
    exact guarded_ok (by simp (disch := decide) [*]) _
  case smuTrip =>
    obtain ⟨hlen, htop, hlow, hsource, hcane⟩ := h
    unfold smuTripBody
    exact guarded_ok (by simp (disch := decide) only [checks_needLen_ok, checks_unless_ok, checks_cons_of_ok hcane, checks_nil_ok, hlen, htop, hlow, hsource,
      beq_self_eq_true, Bool.and_self, and_self]) _
  case smuMeasure =>
    obtain ⟨hlen, hmode, hsrc, hnow, hzeros, hmin, hmax, hcane, hranging, hfree⟩ := h
    unfold smuMeasureBody
    exact guarded_ok (by simp (disch := decide) [*]) _
  case smuRelease =>
    obtain ⟨hlen, hbits, hcane⟩ := h
    unfold smuReleaseBody
    exact guarded_ok (by simp (disch := decide) [*]) _
  case smuStatus =>
    obtain ⟨hlen, hcane⟩ := h
    unfold smuStatusBody
    exact guarded_ok (by simp (disch := decide) [*]) _
  case smuRead =>
    unfold smuReadBody
    exact guarded_ok (needLen_zero_ok hlen) _


end Sys2Proof.Machine
end

section
/-!
The AMPOULE commands complete.
-/
namespace Sys2Proof.Machine

section Enter

variable {s : State} {r : Req} (hreset : s.amp.inReset = false) (himage : s.amp.noImage = false)
include hreset himage

/-- A command of the Ampoule without a payload that enters its intake (R215). -/
theorem ampEnter_empty_ok (hlen : r.payload = []) (go : Unit → State × Act) : ampEnter s r 0 false go = go () :=
  ampEnter_ok hreset himage (absurd · Bool.false_ne_true) (congrArg List.length hlen) go

theorem ampEnter_guard_ok {len : Nat} {st : Half} (hlen : r.payload.length = len) (hst : st = stOK) (go : Unit → State × Act) :
    (ampEnter s r len false fun _ => ampGuard s st go) = go () :=
  (ampEnter_ok hreset himage (absurd · Bool.false_ne_true) hlen _).trans (ampGuard_ok hst go)

theorem ampEnter_empty_guard_ok {st : Half} (hlen : r.payload = []) (hst : st = stOK) (go : Unit → State × Act) :
    (ampEnter s r 0 false fun _ => ampGuard s st go) = go () :=
  ampEnter_guard_ok hreset himage (congrArg List.length hlen) hst go

end Enter

/-- Settles O40 (the checksums of the identity by log 55, AMP_BRIDGE_STATUS over a cane by logs 117 and 118). -/
theorem ampouleCommandsComplete : Obligations.AmpouleCommandsComplete := by
  refine ⟨completes_of (fun _ _ => rfl) fun s r ⟨hreset, himage, hlen, honline⟩ => ampEnter_empty_guard_ok hreset himage hlen honline _,
    completes_of (fun _ _ => rfl) fun s r h => ?connect,
    completes_of (fun _ _ => rfl) fun s r ⟨hreset, himage, hlen, honline⟩ => ampEnter_empty_guard_ok hreset himage hlen honline _,
    completes_of (fun _ _ => rfl) fun s r h => ?convert, completes_of (fun _ _ => rfl) fun s r h => ?bridge,
    completes_of (fun _ _ => rfl) fun s r h => ?bridgeStatus,
    completes_of (fun _ _ => rfl) fun s r ⟨hreset, himage, hlen⟩ => ampEnter_empty_ok hreset himage hlen _,
    completes_of (fun _ _ => rfl) fun s r h => ?sheetClose, completes_of (fun _ _ => rfl) fun s r h => ?sheetRead,
    completes_of (fun _ _ => rfl) fun s r h => ?adjust,
    completes_of (fun _ _ => rfl) fun s r ⟨hreset, himage, hlen⟩ => ampEnter_empty_ok hreset himage hlen _,
    completes_of (fun _ _ => rfl) fun s r ⟨hreset, himage, hlen, honline⟩ => ampEnter_empty_guard_ok hreset himage hlen honline _⟩
  case connect =>
    obtain ⟨hreset, himage, hlen, hsrc, hzeros, honline, hlive⟩ := h
    unfold ampConnectBody
    exact ampEnter_guard_ok hreset himage hlen (by simp (disch := decide) [*]) _
  case convert =>
    obtain ⟨hreset, himage, hlen, hrange, hrate, hmode, htrig, hmin, hmax, htimeout, hreceipt, hzeros, hsource, honline, hlive, hconn, hstop⟩ := h
    unfold ampConvertBody
    exact ampEnter_guard_ok hreset himage hlen (by simp (disch := decide) [*]) _
  case bridge =>
    obtain ⟨hreset, himage, hlen, hmode, himped, hzeros, hmin, hmax, hlevel, honline, hlive, hclear⟩ := h
    unfold ampBridgeBody
    exact ampEnter_guard_ok hreset himage hlen (by simp (disch := decide) [*]) _
  case bridgeStatus =>
    obtain ⟨hreset, himage, hlen, honline⟩ := h
    unfold ampBridgeStatusBody
    exact ampEnter_empty_guard_ok hreset himage hlen honline _
  case sheetClose =>
    obtain ⟨hreset, himage, hlen, honline, hwhich⟩ := h
    unfold ampSheetCloseBody
    exact ampEnter_empty_guard_ok hreset himage hlen (by simp (disch := decide) only [checks_unless_ok, checks_cons_of_ok honline, checks_nil_ok, hwhich,
      and_self]) _
  case sheetRead =>
    obtain ⟨hreset, himage, hlen, hpart, hcount, hfirst, hlast, hfound⟩ := h
    have hrange : (match u8 r.payload 4 with
        | 0 => u16 r.payload 8 == 0
        | 1 => decide (1 ≤ u16 r.payload 8 ∧ u16 r.payload 8 ≤ 31)
        | _ => true) = true := by
      obtain hzero | hone : u8 r.payload 4 = 0 ∨ u8 r.payload 4 = 1 := by omega
      · simpa [hzero] using hcount
      · simpa [hone] using hcount
    unfold ampSheetReadBody
    refine ampEnter_guard_ok hreset himage hlen ((checks_unless_ok _ (by decide)).mpr ⟨hrange, ?_⟩) _
    simp (disch := decide) only [checks_unless_ok, checks_nil_ok, hpart, hfirst, hlast, hfound, decide_true, Bool.and_self, and_self]
  case adjust =>
    obtain ⟨hreset, himage, hmbx, hlen, hdiscard, hzeros, hcert, honline, hlegal, hcandidate, hbusy, hcounter⟩ := h
    unfold ampAdjustBody
    refine (ampEnter_ok hreset himage (fun _ => hmbx) hlen _).trans (ampGuard_ok ?_ _)
    simpa (disch := decide) [*] using hcert

end Sys2Proof.Machine
end

section
/-!
The TIU and CAPTURE commands complete.
-/
namespace Sys2Proof.Machine

/-- Settles O41 (the read-outs and records over a cane by logs 117 and 118, a record that failed by log 146). -/
theorem tiuAndCaptureCommandsComplete : Obligations.TiuAndCaptureCommandsComplete := by
  refine ⟨completes_of (fun _ _ => rfl) fun s r h => ?tiuConfig,
    completes_of (fun _ _ => rfl) fun s r h => ?tiuStart,
    completes_of (fun _ _ => rfl) fun s r hlen => ?tiuAbort,
    completes_of (fun _ _ => rfl) fun s r h => ?tiuStamps,
    completes_of (fun _ _ => rfl) fun s r hlen => ?tiuStatus,
    completes_of (fun _ _ => rfl) fun s r h => ?tiuSelftest,
    completes_of (fun _ _ => rfl) fun s r hlen => ?tiuRead,
    completes_of (fun _ _ => rfl) fun s r h => ?capConfig,
    completes_of (fun _ _ => rfl) fun s r h => ?capLimits,
    completes_of (fun _ _ => rfl) fun s r h => ?capArm,
    completes_of (fun _ _ => rfl) fun s r hlen => ?capForce,
    completes_of (fun _ _ => rfl) fun s r hlen => ?capAbort,
    completes_of (fun _ _ => rfl) fun s r hlen => ?capStatus,
    completes_of (fun _ _ => rfl) fun s r h => ?capHeader,
    completes_of (fun _ _ => rfl) fun s r h => ?capRead,
    completes_of (fun _ _ => rfl) fun s r hlen => ?capReadCfg⟩
  case tiuConfig =>
    obtain ⟨hlen, hconfig, hidle⟩ := h
    unfold tiuConfigBody
    exact guarded_ok (by simp (disch := decide) [*]) _
  case tiuStart =>
    obtain ⟨hlen, htimeout, hwindow, hlimits, hidle, hlive⟩ := h
    unfold tiuStartBody
    exact guarded_ok (by simp (disch := decide) [*]) _
  case tiuAbort =>
    unfold tiuAbortBody
    exact guarded_ok (needLen_zero_ok hlen) _
  case tiuStamps =>
    obtain ⟨hlen, hstored, hzeros, hidle⟩ := h
    unfold tiuStampsBody
    refine guarded_ok ?_ _
    simp (disch := decide) only [checks_cons_ok, needLen_ok, unless_ok, firstStatus_ok, checks_nil_ok, hlen, hzeros, true_and, and_true]
    exact ⟨fun u hu => unless_true (by simp [hstored u hu]), fun u hu => unless_true (by simp [hidle u hu])⟩
  case tiuStatus =>
    unfold tiuStatusBody
    exact guarded_ok (needLen_zero_ok hlen) _
  case tiuSelftest =>
    obtain ⟨hlen, hidle⟩ := h
    unfold tiuSelftestBody
    exact guarded_ok (by simp (disch := decide) [*]) _
  case tiuRead =>
    unfold tiuReadBody
    exact guarded_ok (needLen_zero_ok hlen) _
  case capConfig =>
    obtain ⟨hlen, hconfig, hidle, hclear⟩ := h
    unfold capConfigBody
    exact guarded_ok (by simp (disch := decide) [*]) _
  case capLimits =>
    obtain ⟨hlen, henable, hzeros, hlimits, hidle⟩ := h
    unfold capLimitsBody
    exact guarded_ok (by simp (disch := decide) [*]) _
  case capArm =>
    obtain ⟨hlen, hmin, hmax, hpre, hone, hrecords, hmaster, hzeros, hbase, hsize, hregion, hapart, hband, hidle, hparked, hmixed, hlive⟩ := h
    unfold capArmBody
    exact guarded_ok (by simp (disch := decide) [*]) _
  case capForce =>
    unfold capForceBody
    exact guarded_ok (needLen_zero_ok hlen) _
  case capAbort =>
    unfold capAbortBody
    exact guarded_ok (needLen_zero_ok hlen) _
  case capStatus =>
    unfold capStatusBody
    exact guarded_ok (needLen_zero_ok hlen) _
  case capHeader =>
    obtain ⟨hlen, hrecords, hzeros⟩ := h
    unfold capHeaderBody
    exact guarded_ok (by simp (disch := decide) [*]) _
  case capRead =>
    obtain ⟨hlen, hrecords, hoff, hn, hmin, hmax, hzeros⟩ := h
    unfold capReadBody
    exact guarded_ok (by simp (disch := decide) [*]) _
  case capReadCfg =>
    unfold capReadCfgBody
    exact guarded_ok (needLen_zero_ok hlen) _


end Sys2Proof.Machine
end

section
/-!
The HATCH commands complete.
-/
namespace Sys2Proof.Machine

/-- Settles O42 (HATCH_STATUS over a cane by logs 117 and 118). -/
theorem hatchCommandsComplete : Obligations.HatchCommandsComplete := by
  refine ⟨fun keys => completes_of (fun _ _ => rfl) fun s r h => ?hatchLineConfig,
    completes_of (fun _ _ => rfl) fun s r h => ?hatchProducer,
    completes_of (fun _ _ => rfl) fun s r h => ?hatchProducer2,
    completes_of (fun _ _ => rfl) fun s r h => ?hatchForward,
    completes_of (fun _ _ => rfl) fun s r h => ?hatchForward2,
    completes_of (fun _ _ => rfl) fun s r h => ?hatchForward3,
    completes_of (fun _ _ => rfl) fun s r h => ?hatchTask,
    completes_of (fun _ _ => rfl) fun s r h => ?hatchBind,
    completes_of (fun _ _ => rfl) fun s r h => ?hatchBind2,
    completes_of (fun _ _ => rfl) fun s r h => ?hatchGroup,
    fun keys => completes_of (fun _ _ => rfl) fun s r h => ?hatchRestore,
    completes_of (fun _ _ => rfl) fun s r h => ?hatchPulse,
    completes_of (fun _ _ => rfl) fun s r h => ?hatchStatus⟩
  case hatchLineConfig =>
    obtain ⟨hlen, hkeys, hzeros, htop, hsync, hstorm, hhalt, hloop⟩ := h
    unfold hatchLineBody
    refine (guarded_ok ((needLen_ok _ _).mpr hlen) _).trans ?_
    simp only [hkeys]
    exact guarded_ok (by simp (disch := decide) [-List.any_eq_true, -List.all_eq_true, *]) _
  case hatchProducer =>
    obtain ⟨hcls, hlen, hzeros, hi, hcond, hmask, hdrives⟩ := h
    unfold hatchProducerBody
    exact (if_pos (beq_iff_eq.mpr hcls)).trans (guarded_ok (by simp (disch := decide) [*]) _)
  case hatchProducer2 =>
    obtain ⟨hcls, hlen, hzeros, hi, hcond, hmask⟩ := h
    unfold hatchProducerBody
    exact (if_neg (mt beq_iff_eq.mp hcls)).trans (guarded_ok (by simp (disch := decide) [*]) _)
  case hatchForward =>
    obtain ⟨hlen, hcls, hup, hzeros⟩ := h
    unfold hatchForwardBody
    exact (guarded_ok ((needLen_ok _ _).mpr hlen) _).trans <| (if_pos (beq_iff_eq.mpr hcls)).trans (guarded_ok (unless_true (by simp [*])) _)
  case hatchForward2 =>
    obtain ⟨hlen, hcls, htile, hup, hzeros⟩ := h
    unfold hatchForwardBody
    exact (guarded_ok ((needLen_ok _ _).mpr hlen) _).trans <| (if_neg (mt beq_iff_eq.mp hcls)).trans <| (if_pos (beq_iff_eq.mpr htile)).trans (guarded_ok (unless_true (by simp [*])) _)
  case hatchForward3 =>
    obtain ⟨hlen, hcls, htile, hin, hout⟩ := h
    unfold hatchForwardBody
    exact (guarded_ok ((needLen_ok _ _).mpr hlen) _).trans <| (if_neg (mt beq_iff_eq.mp hcls)).trans <| (if_neg (mt beq_iff_eq.mp htile)).trans (guarded_ok (unless_true (by simp [*])) _)
  case hatchTask =>
    obtain ⟨hlen, htask, hloop⟩ := h
    unfold hatchTaskBody
    exact guarded_ok (by simp (disch := decide) [*]) _
  case hatchBind =>
    obtain ⟨hcls, hlen, hsel, hacc, hzeros⟩ := h
    unfold hatchBindBody
    exact (if_pos (beq_iff_eq.mpr hcls)).trans (guarded_ok (by simp (disch := decide) [*]) _)
  case hatchBind2 =>
    obtain ⟨hcls, hlen, hsel, hacc, hzeros⟩ := h
    unfold hatchBindBody
    exact (if_neg (mt beq_iff_eq.mp hcls)).trans (guarded_ok (by simp (disch := decide) [*]) _)
  case hatchGroup =>
    obtain ⟨hlen, hapart⟩ := h
    unfold hatchGroupBody
    exact guarded_ok (by simp (disch := decide) [*]) _
  case hatchRestore =>
    obtain ⟨hlen, hkeys, hzeros⟩ := h
    unfold hatchRestoreBody
    refine (guarded_ok ((needLen_ok _ _).mpr hlen) _).trans ?_
    simp only [hkeys]
    exact guarded_ok (unless_true hzeros) _
  case hatchPulse =>
    obtain ⟨hlen, hd, hhalt, hzeros⟩ := h
    unfold hatchPulseBody
    exact guarded_ok (by simp (disch := decide) [*]) _
  case hatchStatus =>
    obtain ⟨hlen, hflag, hzeros⟩ := h
    unfold hatchStatusBody
    exact guarded_ok (by simp (disch := decide) [*]) _


end Sys2Proof.Machine
end

section
/-!
The CAL and TIME/NET commands complete.
-/
namespace Sys2Proof.Machine

/-- Settles O43 (TIME_STATUS by logs 131 and 133, CAL_STORE by log 148, CAL_STATUS and CAL_QUALITY over a cane by logs 117 and 118). -/
theorem calTimeAndNetCommandsComplete : Obligations.CalTimeAndNetCommandsComplete := by
  refine ⟨completes_of (fun _ _ => rfl) fun s r h => ?calConfig,
    completes_of (fun _ _ => rfl) fun s r h => ?calPinmask,
    completes_of (fun _ _ => rfl) fun s r h => ?calRun,
    completes_of (fun _ _ => rfl) fun s r hlen => ?calStatus,
    completes_of (fun _ _ => rfl) fun s r hlen => ?calQuality,
    completes_of (fun _ _ => rfl) fun s r hlen => guarded_ok (needLen_zero_ok hlen) _,
    completes_of (fun _ _ => rfl) fun s r hlen => guarded_ok (needLen_zero_ok hlen) _,
    completes_of (fun _ _ => rfl) fun s r h => ?netConfig,
    completes_of (fun _ _ => rfl) fun s r hlen => guarded_ok (needLen_zero_ok hlen) _,
    completes_of (fun _ _ => rfl) fun s r h => ?ptpConfig,
    completes_of (fun _ _ => rfl) fun s r hlen => ?timeStatus,
    completes_of (fun _ _ => rfl) fun s r h => ?timeAdjust,
    completes_of (fun _ _ => rfl) fun s r h => ?timeStep,
    completes_of (fun _ _ => rfl) fun s r h => ?timeStep2,
    completes_of (fun _ _ => rfl) fun s r h => ?tcmpArm,
    completes_of (fun _ _ => rfl) fun s r hlen => guarded_ok (needLen_zero_ok hlen) _,
    completes_of (fun _ _ => rfl) fun s r h => ?exportOpen,
    completes_of (fun _ _ => rfl) fun s r hlen => ?exportClose,
    completes_of (fun _ _ => rfl) fun s r hlen => ?exportStatus,
    completes_of (fun _ _ => rfl) fun s r h => ?exportResend⟩
  case calConfig =>
    obtain ⟨hlen, htop, hmin, hmax⟩ := h
    unfold calConfigBody
    exact guarded_ok (by simp (disch := decide) [*]) _
  case calPinmask =>
    obtain ⟨hlen, hmask⟩ := h
    unfold calPinmaskBody
    exact guarded_ok (by simp (disch := decide) [*]) _
  case calRun =>
    obtain ⟨hlen, hforce, hzeros⟩ := h
    unfold calRunBody
    exact guarded_ok (by simp (disch := decide) [*]) _
  case calStatus =>
    unfold calStatusBody
    exact guarded_ok (needLen_zero_ok hlen) _
  case calQuality =>
    unfold calQualityBody
    exact guarded_ok (needLen_zero_ok hlen) _
  case netConfig =>
    obtain ⟨hlen, hport, hflags, hmin, hmax, hprefix, hprefixMax, hzeros, hreserved, hegress, hingress, hmailbox⟩ := h
    unfold netConfigBody
    exact guarded_ok (by simp (disch := decide) [*]) _
  case ptpConfig =>
    obtain ⟨hlen, hport, hdomain, hmode, htransport, hzeros, hbit, hmin, hmax⟩ := h
    unfold ptpConfigBody
    exact guarded_ok (by simp (disch := decide) [*]) _
  case timeStatus =>
    unfold timeStatusBody
    exact guarded_ok (needLen_zero_ok hlen) _
  case timeAdjust =>
    obtain ⟨hlen, hincr⟩ := h
    unfold timeAdjustBody
    exact guarded_ok (by simp (disch := decide) [*]) _
  case timeStep =>
    obtain ⟨hlen, hflags, hzeros, hbeyond, hforce⟩ := h
    unfold timeStepBody
    exact (guarded_ok (by simp (disch := decide) [*]) _).trans (if_pos (by simp [hbeyond, hforce]))
  case timeStep2 =>
    obtain ⟨hlen, hflags, hzeros, hwithin⟩ := h
    unfold timeStepBody
    exact (guarded_ok (by simp (disch := decide) [*]) _).trans (if_neg (by simp only [hwithin, Bool.false_eq_true, not_false_eq_true]))
  case tcmpArm =>
    obtain ⟨hlen, hn, hmode, hzeros, hperiod⟩ := h
    unfold tcmpArmBody
    exact guarded_ok (by simpa (disch := decide) [*] using hperiod) _
  case exportOpen =>
    obtain ⟨hlen, hport, hzeros, hclasses, hmin, hmax, hmtu, hflush, hone, hreserve, hrto, hrtoMax, hreserved, hclosed, hband⟩ := h
    unfold exportOpenBody
    exact guarded_ok (by simp (disch := decide) [*]) _
  case exportClose =>
    unfold exportCloseBody
    exact guarded_ok (needLen_zero_ok hlen) _
  case exportStatus =>
    unfold exportStatusBody
    exact guarded_ok (needLen_zero_ok hlen) _
  case exportResend =>
    obtain ⟨hlen, hone, hmax, hheld, hall⟩ := h
    unfold exportResendBody
    exact guarded_ok (by simpa (disch := decide) [*] using hall) _

end Sys2Proof.Machine
end

section
/-!
The TWIN/JOURNAL and FAULT commands and the SEC/LIFECYCLE commands complete.
-/
namespace Sys2Proof.Machine

/-- Settles O44 (a marker record that was never written by log 81, the pins after FLT_RELEASE by log 61). -/
theorem twinAndFaultCommandsComplete : Obligations.TwinAndFaultCommandsComplete := by
  refine ⟨completes_of (fun _ _ => rfl) fun s r h => ?twinConfig,
    completes_of (fun _ _ => rfl) fun s r hlen => ?twinStatus,
    completes_of (fun _ _ => rfl) fun s r h => ?twinHalf,
    completes_of (fun _ _ => rfl) fun s r h => ?twinRelease,
    completes_of (fun _ _ => rfl) fun s r h => ?jrnConfig,
    fun c => completes_of (fun _ _ => rfl) fun s r h => ?jrnCheckpoint,
    completes_of (fun _ _ => rfl) fun s r h => ?jrnMarkers,
    completes_of (fun _ _ => rfl) fun s r hlen => ?jrnReport,
    completes_of (fun _ _ => rfl) fun s r h => ?fltRead,
    completes_of (fun _ _ => rfl) fun s r h => ?fltAck,
    completes_of (fun _ _ => rfl) fun s r h => ?fltForce,
    completes_of (fun _ _ => rfl) fun s r h => ?fltConfig,
    completes_of (fun _ _ => rfl) fun s r h => ?fltLog,
    completes_of (fun _ _ => rfl) fun s r hlen => ?fltRelease⟩
  case twinConfig =>
    obtain ⟨hlen, hsolo, hzeros, hsettle, hsettleMax, hturn, hturnMax⟩ := h
    unfold twinConfigBody
    exact guarded_ok (by simp (disch := decide) [*]) _
  case twinStatus =>
    unfold twinStatusBody
    exact guarded_ok (needLen_zero_ok hlen) _
  case twinHalf =>
    obtain ⟨hlen, hhalf, hzeros⟩ := h
    unfold twinHalfBody
    exact guarded_ok (by simp (disch := decide) [*]) _
  case twinRelease =>
    obtain ⟨hlen, hstate, hlink, hpartner⟩ := h
    unfold twinReleaseBody
    exact guarded_ok (by simp (disch := decide) [*]) _
  case jrnConfig =>
    obtain ⟨hlen, hvalue⟩ := h
    unfold jrnConfigBody
    exact guarded_ok (by simp (disch := decide) [*]) _
  case jrnCheckpoint =>
    obtain ⟨hlen, hsite, hwhich, hzeros, hnewest⟩ := h
    unfold jrnCheckpointBody
    refine (guarded_ok (by simp (disch := decide) [hlen, hsite, hwhich, hzeros]) _).trans ?_
    simp only [hnewest]
  case jrnMarkers =>
    obtain ⟨hlen, hmin, hmax, hrange⟩ := h
    unfold jrnMarkersBody
    exact guarded_ok (by simp (disch := decide) [*]) _
  case jrnReport =>
    unfold jrnReportBody
    exact guarded_ok (needLen_zero_ok hlen) _
  case fltRead =>
    obtain ⟨hlen, hmin, hmax, hfirst, hzeros⟩ := h
    unfold fltReadBody
    exact guarded_ok (by simp (disch := decide) [*]) _
  case fltAck =>
    obtain ⟨hlen, horder, hlast⟩ := h
    unfold fltAckBody
    exact guarded_ok (by simp (disch := decide) [*]) _
  case fltForce =>
    obtain ⟨hlen, hsrc, hmode, hzeros, hclass, hkey, hhandle, hself, hlocal, hlife⟩ := h
    unfold fltForceBody
    exact guarded_ok (by simpa (disch := decide) [*] using hself) _
  case fltConfig =>
    obtain ⟨hlen, htop, hmin, hmax⟩ := h
    unfold fltConfigBody
    exact guarded_ok (by simp (disch := decide) [*]) _
  case fltLog =>
    obtain ⟨hlen, hmin, hmax, hfirst, hzeros⟩ := h
    unfold fltLogBody
    exact guarded_ok (by simp (disch := decide) [*]) _
  case fltRelease =>
    unfold fltReleaseBody
    exact guarded_ok (needLen_zero_ok hlen) _


/-- Settles O45 (logs 8, 74, 75 and 76; the last index of the ring by log 135). -/
theorem securityCommandsComplete : Obligations.SecurityCommandsComplete := by
  refine ⟨completes_of (fun _ _ => rfl) fun s r h => ?secCert,
    completes_of (fun _ _ => rfl) fun s r hlen => guarded_ok ((needLen_ok _ _).mpr hlen) _,
    completes_of (fun _ _ => rfl) fun s r h => ?imgWrite,
    completes_of (fun _ _ => rfl) fun s r h => ?imgCommit,
    completes_of (fun _ _ => rfl) fun s r h => ?imgActivate,
    completes_of (fun _ _ => rfl) fun s r hlen => ?imgStatus,
    completes_of (fun _ _ => rfl) fun s r hlen => ?lcChallenge,
    completes_of (fun _ _ => rfl) fun s r h => ?lcCsr,
    completes_of (fun _ _ => rfl) fun s r h => ?lcInstall,
    completes_of (fun _ _ => rfl) fun s r h => ?lcTransition,
    completes_of (fun _ _ => rfl) fun s r h => ?lcTransition2⟩
  case secCert =>
    obtain ⟨hlen, hzeros, hrole⟩ := h
    unfold secCertBody
    exact guarded_ok (by simp (disch := decide) [*]) _
  case imgWrite =>
    obtain ⟨hmin, hmax, haligned, hrange, htarget, hzeros, hoff, hopen, howner, hslot, hlife, hamp⟩ := h
    unfold imgWriteBody
    exact guarded_ok (by simpa (disch := decide) [*] using hslot) _
  case imgCommit =>
    obtain ⟨hlen, htarget, hzeros, hlife, howner, hopen, hamp⟩ := h
    unfold imgCommitBody
    exact guarded_ok (by simp (disch := decide) [*]) _
  case imgActivate =>
    obtain ⟨hlen, htarget, hslot, hflag, hzeros, hvalid, hlife, hamp, hseal, hcounter, hidle⟩ := h
    unfold imgActivateBody
    exact guarded_ok (by simpa (disch := decide) [*] using And.intro hseal hcounter) _
  case imgStatus =>
    unfold imgStatusBody
    exact guarded_ok (needLen_zero_ok hlen) _
  case lcChallenge =>
    unfold lcChallengeBody
    exact guarded_ok (needLen_zero_ok hlen) _
  case lcCsr =>
    obtain ⟨hlen, hrole, hzeros, hlife, hamp⟩ := h
    unfold lcCsrBody
    exact guarded_ok (by simp (disch := decide) [*]) _
  case lcInstall =>
    obtain ⟨hlen, hitem, hzeros, hlife, hamp, hcert⟩ := h
    unfold lcInstallBody
    refine guarded_ok ?_ _
    simp (disch := decide) only [checks_unless_ok, checks_nil_ok, hitem, hzeros, hlife, hamp, beq_self_eq_true, decide_true, Bool.and_self,
      and_true, true_and]
    exact ⟨by simpa [hitem] using hlen, hcert⟩
  case lcTransition =>
    obtain ⟨hlen, hzeros, hst⟩ := h
    unfold lcTransitionBody
    exact (guarded_ok (by simp (disch := decide) only [checks_unless_ok, checks_nil_ok, hlen, hzeros, and_self]) _).trans (if_pos (bne_iff_ne.mpr hst))
  case lcTransition2 =>
    obtain ⟨hlen, hzeros, hst⟩ := h
    unfold lcTransitionBody
    refine (guarded_ok (by simp (disch := decide) only [checks_unless_ok, checks_nil_ok, hlen, hzeros, and_self]) _).trans (if_neg ?_)
    simpa only [bne_iff_ne, not_not] using hst

end Sys2Proof.Machine
end

section
/-!
What a firmware command leaves of the device, whatever becomes of its request (R402, R404, R411): the parts it may change are laid over the state
before, and what lies outside them is as it was. The doorbell, the response and the request for a turn change little (`State.withReply`); the return
from IDLE (R543) and the shadow (R458) more, for the commands that have them.
-/
namespace Sys2Proof.Machine

/-! ## Overlays -/

/-- `w s t` is `s` with some parts of `t`, always the same. -/
structure Overlay (w : State → State → State) : Prop where
  self : ∀ s, w s s = s
  again : ∀ s t u, w (w s t) u = w s u

/-- `t` differs from `s` at most in the parts that `w` lays over it. -/
def Within (w : State → State → State) (s t : State) : Prop := t = w s t

section Within

variable {w : State → State → State} {s t u : State}

theorem Within.refl (hw : Overlay w) (s : State) : Within w s s := (hw.self s).symm

theorem Within.trans (hw : Overlay w) (h : Within w s t) (k : Within w t u) : Within w s u :=
  Eq.trans k ((congrArg (w · u) h).trans (hw.again s t u))

/-- More parts may change. -/
theorem Within.mono {v : State → State → State} (hvw : ∀ s t, w s (v s t) = v s t) (h : Within v s t) : Within w s t := by
  rw [Within, h, hvw]

theorem Within.ite {c : Prop} [Decidable c] (ht : Within w s t) (hu : Within w s u) : Within w s (if c then t else u) := by
  split
  · exact ht
  · exact hu

theorem Within.foldl {α : Type} (hw : Overlay w) {f : State → α → State} (hf : ∀ u x, Within w u (f u x)) (xs : List α) (s : State) :
    Within w s (xs.foldl f s) :=
  List.foldlRecOn (motive := Within w s) xs f (.refl hw s) fun _ hu x _ => hu.trans hw (hf _ x)

theorem Within.forAll {α : Type} (hw : Overlay w) {f : State → α → State} (hf : ∀ u x, Within w u (f u x)) (xs : List α) (s : State) :
    Within w s (forAll xs f s) :=
  .foldl hw hf xs s

/-- A loop that collects beside the state. -/
theorem Within.foldl_fst {α β : Type} (hw : Overlay w) {f : State × β → α → State × β} (hf : ∀ acc x, Within w acc.1 (f acc x).1) (xs : List α)
    (acc : State × β) : Within w acc.1 (xs.foldl f acc).1 :=
  List.foldlRecOn (motive := fun a : State × β => Within w acc.1 a.1) xs f (.refl hw _) fun _ ha x _ => ha.trans hw (hf _ x)

end Within

/-! ## Responses -/

/-- `s` with the parts of `t` by which requests are taken, refused and answered. -/
def State.withReply (s t : State) : State :=
  { s with amp := { s.amp with refusals := t.amp.refusals }, faults := t.faults, freeCount := t.freeCount, mbx := t.mbx, ports := t.ports
           twin := { s.twin with turnWanted := t.twin.turnWanted, turnDueNs := t.twin.turnDueNs, out := t.twin.out } }

theorem overlay_reply : Overlay State.withReply := ⟨fun _ => rfl, fun _ _ _ => rfl⟩

/-- `t` is `s` after doorbells, responses and messages of the link. -/
def Replied (s t : State) : Prop := Within State.withReply s t

section Replies

variable {s0 s : State}

theorem replied_refl (s : State) : Replied s s := Within.refl overlay_reply s

theorem Replied.trans {t u : State} (h : Replied s t) (k : Replied t u) : Replied s u := Within.trans overlay_reply h k

theorem replied_pumpMbx (s : State) (m : Nat) : Replied s (s.pumpMbx m) := by
  unfold State.pumpMbx
  refine .ite ?_ (replied_refl s)
  dsimp only
  split
  · split
    · rfl
    · exact replied_refl s
  · exact replied_refl s

theorem replied_respondOne (s : State) (m bound : Nat) (rep : Reply) : Replied s (s.respondOne m bound rep) := by
  unfold State.respondOne
  extract_lets x
  split
  · exact replied_refl s
  · split
    · extract_lets b late y formed posted
      have hformed : Replied s formed := rfl
      have hposted : Replied formed posted := .ite rfl (replied_refl formed)
      exact (hformed.trans hposted).trans (replied_pumpMbx posted m)
    · exact replied_refl s

theorem replied_fenceTry (s : State) (m : Nat) : Replied s (s.fenceTry m) := by
  unfold State.fenceTry
  split
  · exact .ite (replied_respondOne s _ _ _) (replied_refl s)
  · exact replied_refl s

theorem replied_fencesDone (s : State) : Replied s s.fencesDone :=
  .ite (replied_refl s) (.foldl overlay_reply (fun u _ => .foldl overlay_reply replied_fenceTry _ u) _ s)

theorem replied_respond (s : State) (m bound : Nat) (rep : Reply) : Replied s (s.respond m bound rep) :=
  (replied_respondOne s m bound rep).trans (replied_fencesDone _)

theorem replied_refuseLast (s : State) (m : Nat) (rep : Reply) : Replied s (s.refuseLast m rep) := by
  unfold State.refuseLast
  dsimp only
  split
  · exact replied_refl s
  · refine Replied.trans ?_ (replied_pumpMbx _ m)
    rfl

theorem replied_requestTurn (s : State) : Replied s s.requestTurn := .ite (replied_refl s) rfl

theorem replied_countRefused (s : State) (m : Nat) (st : Half) : Replied s (s.countRefused m st) := .ite rfl (replied_refl s)

theorem replied_ring (s : State) (op : Half) (r : Req) (x : Option Word) : Replied s (s.ring op r x).1 := by
  unfold State.ring
  dsimp only
  split
  · exact replied_refl s
  · split
    · exact rfl
    · split
      · refine Replied.trans ?_ (replied_pumpMbx _ _)
        rfl
      · split
        · split
          · exact rfl
          · exact replied_refl s
        · split
          · split
            · exact rfl
            · exact replied_refl s
          · exact rfl

end Replies

/-! ## Commands -/

/-- What a command with this opcode and request may change by being answered, and what its own part may change, lies within `w`. -/
structure Answerable (w : State → State → State) (op : Half) (r : Req) : Prop extends Overlay w where
  reply : ∀ s t, w s (s.withReply t) = s.withReply t
  wake : ∀ s m, Within w s (s.wakeFor op m)
  shadow : ∀ s, Within w s (s.shadowWrite op r)
  other : shadowed op r = true → ∀ s, Within w s (s.otherWrite op r)

section Answerable

variable {w : State → State → State} {op : Half} {r : Req} (hw : Answerable w op r) {s t : State}
include hw

theorem Answerable.stays (s : State) : Within w s s := .refl hw.toOverlay s

theorem Answerable.replied (h : Replied s t) : Within w s t := Within.mono hw.reply h

theorem Answerable.trans {u : State} (h : Within w s t) (k : Within w t u) : Within w s u := Within.trans hw.toOverlay h k

/-- What follows a command's own part in its own half (R404, R411, R458, R467, R543). -/
theorem within_finish (s : State) (bound : Nat) (g : Tgt) (span : Option Tgt) (a : Act) : Within w s (s.finish op bound r g span a) := by
  unfold State.finish
  extract_lets m written ok sent bounded
  have hwritten : Within w s written := .ite (hw.trans (hw.wake s m) (hw.shadow _)) (hw.stays s)
  have hsent : Replied written sent := by
    refine .ite rfl (.ite (replied_requestTurn written) (replied_refl written))
  have hbounded : Within w s bounded := hw.trans hwritten (hw.replied (hsent.trans rfl))
  refine hw.trans hbounded (hw.replied ?_)
  split
  · rfl
  · split
    · rfl
    · exact replied_respond _ _ _ _
  · exact .ite (replied_respond _ _ _ _) (.ite rfl rfl)

/-- What follows a command's own part, which has left `u`, in both halves (R44, R45). -/
theorem within_conclude (bound : Nat) {u : State} (hu : Within w s u) (a : Act) : Within w s (s.conclude op bound r u a) := by
  unfold State.conclude
  extract_lets span
  split
  · exact hw.replied rfl
  · split
    next hother =>
      have hshadowed : shadowed op r = true := by
        simp only [Bool.and_eq_true] at hother
        exact hother.2
      exact hw.trans hu (hw.trans (hw.other hshadowed u) (within_finish hw _ _ _ _ _))
    · exact hw.trans hu (within_finish hw _ _ _ _ _)

variable {body : State → Req → State × Act} (hbody : ∀ u, Within w u (body u r).1)
include hbody

theorem within_verdict (s : State) (accept : List Nat) : Within w s (s.verdict op accept r body).1 := by
  unfold State.verdict
  dsimp only
  split
  · exact hw.stays s
  · split
    · exact hw.replied (replied_countRefused s _ _)
    · split
      · exact hw.stays s
      · split
        · exact hbody s
        · exact hw.stays s

/-- The checks at the doorbell (R402, R403). -/
theorem within_bellCheck (s : State) (bound : Nat) (accept : List Nat) : Within w s (s.bellCheck op bound accept r body) := by
  unfold State.bellCheck
  extract_lets m x
  split
  · exact hw.stays s
  · split
    · exact hw.stays s
    · have hverdict := within_verdict hw hbody s accept
      split
      next u rep hu =>
        rw [hu] at hverdict
        have hmailboxes : Replied u { u with mbx := s.mbx } := rfl
        exact hw.trans hverdict (hw.replied (hmailboxes.trans (replied_refuseLast _ m rep)))
      next => exact hw.replied rfl

/-- How every firmware command runs (R402 to R404), for what it may change. -/
theorem within_firmware (s : State) (bound : Nat) (accept : List Nat) : Within w s (s.firmware op bound accept r body) := by
  unfold State.firmware
  extract_lets m matchHead free
  split
  rename_i rung taken hrung
  have hring : Within w s rung := by
    have hrings : Replied s (if matchHead then (s, true) else s.ring op r).1 := by
      split
      · exact replied_refl s
      · exact replied_ring s op r none
    rw [hrung] at hrings
    exact hw.replied hrings
  refine hw.trans hring ?_
  extract_lets atHead started st
  have hstarted : Replied rung started := rfl
  have hbell := within_bellCheck hw hbody rung bound accept
  refine .ite (hw.stays _) (.ite hbell (.ite (.ite (hw.stays _) (hw.replied (replied_requestTurn _))) (.ite (.ite (hw.stays _) hbell) ?_)))
  refine .ite (hw.replied (hstarted.trans (replied_respond _ _ _ _))) (.ite ?_ (.ite (hw.replied (hstarted.trans (replied_respond _ _ _ _))) ?_))
  · exact hw.replied (hstarted.trans ((replied_countRefused _ _ _).trans (replied_respond _ _ _ _)))
  · exact hw.trans (hw.replied hstarted) (within_conclude hw bound (hbody started) _)

end Answerable

/-! ## Which parts the answer of a command changes -/

/-- A command that takes the device from IDLE to ACTIVE (R543). -/
def wakesIdle (op : Half) : Bool := [0x0303, 0x0408, 0x0802, 0x0806, 0x0901, 0x0903].contains op.toNat

theorem wakeIdle_of_not_wakes {op : Half} (h : wakesIdle op = false) (s : State) : s.wakeIdle op = s :=
  if_neg (by simp only [wakesIdle] at h; rw [h, Bool.and_false]; exact Bool.false_ne_true)

section Answers

variable {w : State → State → State} {op : Half} {r : Req} (hw : Overlay w) (hreply : ∀ s t, w s (s.withReply t) = s.withReply t)
include hw hreply

theorem within_wakeFor (hwake : wakesIdle op = false ∨ ∀ s p, Within w s (s.setPstate p)) (s : State) (m : Nat) : Within w s (s.wakeFor op m) := by
  have hidle : Within w s (s.wakeIdle op) := by
    obtain hop | hpstate := hwake
    · rw [wakeIdle_of_not_wakes hop]
      exact .refl hw s
    · exact .ite (hpstate s 1) (.refl hw s)
  have hnoted : Replied (s.wakeIdle op) (s.wakeFor op m) := rfl
  exact hidle.trans hw (.mono hreply hnoted)

theorem within_shadowWrite (hshadow : shadowed op r = false ∨ ∀ s t, Within w s (s.setTwin t)) (s : State) : Within w s (s.shadowWrite op r) := by
  obtain hop | htwin := hshadow
  · rw [State.shadowWrite, hop]
    exact .refl hw s
  · exact .ite (.refl hw s) (.ite ((htwin s _).trans hw (.mono hreply rfl)) (.ite (htwin s _) (htwin s _)))

/-- The parts that a command's answer changes: PSTATE only for one that wakes the device, the twin's shadow only for one that is shadowed. -/
theorem answerable (hwake : wakesIdle op = false ∨ ∀ s p, Within w s (s.setPstate p))
    (hshadow : shadowed op r = false ∨ ∀ s t, Within w s (s.setTwin t)) : Answerable w op r where
  toOverlay := hw
  reply := hreply
  wake := within_wakeFor hw hreply hwake
  shadow := within_shadowWrite hw hreply hshadow
  other hop s := by
    have htwin := hshadow.resolve_left (by rw [hop]; decide)
    exact .ite (htwin s _) (htwin s _)

end Answers

/-- Every next state that a command answers lies within `w`. -/
def KeepsTo (w : State → State → State) (command : Req → Instr) : Prop := ∀ r s t, exec (command r) s = .next t → Within w s t

theorem KeepsTo.of_body {w : State → State → State} {command : Req → Instr} {op : Half} {bound : State → Req → Nat} {accept : List Nat}
    {body : State → Req → State × Act} (hw : ∀ r, Answerable w op r) (hbody : ∀ s r, Within w s (body s r).1)
    (he : ∀ r s, exec (command r) s = .next (s.firmware op (bound s r) accept r body)) : KeepsTo w command := by
  intro r s t ht
  obtain rfl : s.firmware op (bound s r) accept r body = t := by simpa [he] using ht
  exact within_firmware (hw r) (fun u => hbody u r) s _ _

/-! ## Guards -/

section Guards

variable {w : State → State → State} {s : State} {st : Half} {go : Unit → State × Act}

theorem within_guarded (hw : Overlay w) (h : Within w s (go ()).1) : Within w s (guarded s st go).1 := by
  unfold guarded
  split
  · exact .refl hw s
  · exact h

theorem within_ampGuard (hcount : Within w s s.countRefusal) (h : Within w s (go ()).1) : Within w s (ampGuard s st go).1 := by
  unfold ampGuard
  split
  · exact hcount
  · exact h

theorem within_ampEnter (hw : Overlay w) {r : Req} {len : Nat} {legalOnly : Bool} (hcount : Within w s s.countRefusal) (h : Within w s (go ()).1) :
    Within w s (ampEnter s r len legalOnly go).1 := by
  unfold ampEnter
  dsimp only
  split
  · exact .refl hw s
  · split
    · exact .refl hw s
    · exact within_ampGuard hcount h

end Guards

end Sys2Proof.Machine
end

section
/-!
The commands that only read change nothing but what every command may (R402, R404, R411).
-/
namespace Sys2Proof.Machine

/-- A reading command: its own part leaves the state, but for a counter or a free value. -/
theorem KeepsTo.of_reading {command : Req → Instr} {op : Half} {bound : State → Req → Nat} {accept : List Nat}
    {body : State → Req → State × Act} (hbody : ∀ s r, Replied s (body s r).1) (hwake : wakesIdle op = false) (hshadow : ∀ r, shadowed op r = false)
    (he : ∀ r s, exec (command r) s = .next (s.firmware op (bound s r) accept r body)) : KeepsTo State.withReply command :=
  .of_body (fun r => answerable overlay_reply (fun _ _ => rfl) (.inl hwake) (.inl (hshadow r))) hbody he

theorem replied_guarded {s : State} {st : Half} {go : Unit → State × Act} (h : Replied s (go ()).1) : Replied s (guarded s st go).1 :=
  within_guarded overlay_reply h

theorem replied_ampEnter {s : State} {r : Req} {len : Nat} {legalOnly : Bool} {go : Unit → State × Act} (h : Replied s (go ()).1) :
    Replied s (ampEnter s r len legalOnly go).1 :=
  within_ampEnter overlay_reply rfl h

theorem replied_ampGuard {s : State} {st : Half} {go : Unit → State × Act} (h : Replied s (go ()).1) : Replied s (ampGuard s st go).1 :=
  within_ampGuard rfl h

theorem replied_sysPingBody (s : State) (r : Req) : Replied s (sysPingBody s r).1 := replied_refl s

theorem replied_sysInfoBody (s : State) (r : Req) : Replied s (sysInfoBody s r).1 := replied_guarded (replied_refl s)

theorem replied_sysMbxInfoBody (s : State) (r : Req) : Replied s (sysMbxInfoBody s r).1 := replied_guarded (replied_refl s)

theorem replied_sysFenceBody (s : State) (r : Req) : Replied s (sysFenceBody s r).1 := by
  unfold sysFenceBody
  refine replied_guarded ?_
  dsimp only
  split
  · exact replied_refl s
  · exact replied_refl s

theorem replied_unitInfoBody (s : State) (r : Req) : Replied s (unitInfoBody s r).1 := by
  unfold unitInfoBody
  exact replied_guarded (replied_refl s)

theorem replied_caneQueryBody (s : State) (r : Req) : Replied s (caneQueryBody s r).1 := by
  unfold caneQueryBody
  refine replied_guarded ?_
  dsimp only
  split
  · exact replied_refl s
  · exact replied_refl s

theorem replied_caneListBody (s : State) (r : Req) : Replied s (caneListBody s r).1 := replied_guarded (replied_refl s)

theorem replied_strokeStatusBody (s : State) (r : Req) : Replied s (strokeStatusBody s r).1 := by
  unfold strokeStatusBody
  exact replied_guarded (replied_refl s)

theorem replied_strokeReadBody (s : State) (r : Req) : Replied s (strokeReadBody s r).1 := by
  unfold strokeReadBody
  exact replied_guarded (replied_refl s)

theorem replied_vmemReadBody (s : State) (r : Req) : Replied s (vmemReadBody s r).1 := by
  unfold vmemReadBody
  exact replied_guarded (replied_refl s)

theorem replied_streamStatusBody (s : State) (r : Req) : Replied s (streamStatusBody s r).1 := by
  unfold streamStatusBody
  refine replied_guarded ?_
  dsimp only
  split
  · refine Within.foldl_fst overlay_reply (fun acc c => ?_) (List.range 4) (s, [])
    rfl
  · exact replied_refl s

theorem replied_ucodeQueryBody (s : State) (r : Req) : Replied s (ucodeQueryBody s r).1 := by
  unfold ucodeQueryBody
  exact replied_guarded (replied_refl s)

theorem replied_ucodeReadBody (s : State) (r : Req) : Replied s (ucodeReadBody s r).1 := by
  unfold ucodeReadBody
  exact replied_guarded (replied_refl s)

theorem replied_pinStatusBody (s : State) (r : Req) : Replied s (pinStatusBody s r).1 := by
  unfold pinStatusBody
  refine replied_guarded ?_
  dsimp only
  split
  · exact replied_refl s
  · exact replied_refl s

theorem replied_pinReadBody (s : State) (r : Req) : Replied s (pinReadBody s r).1 := by
  unfold pinReadBody
  exact replied_guarded (replied_refl s)

theorem replied_contactCheckBody (s : State) (r : Req) : Replied s (contactCheckBody s r).1 := by
  unfold contactCheckBody
  exact replied_guarded (replied_refl s)

theorem replied_smuStatusBody (s : State) (r : Req) : Replied s (smuStatusBody s r).1 := by
  unfold smuStatusBody
  exact replied_guarded (replied_refl s)

theorem replied_smuReadBody (s : State) (r : Req) : Replied s (smuReadBody s r).1 := by
  unfold smuReadBody
  exact replied_guarded (replied_refl s)

theorem replied_ampIdentBody (s : State) (r : Req) : Replied s (ampIdentBody s r).1 := replied_ampEnter (replied_ampGuard (replied_refl s))

theorem replied_ampBridgeStatusBody (s : State) (r : Req) : Replied s (ampBridgeStatusBody s r).1 := by
  unfold ampBridgeStatusBody
  exact replied_ampEnter (replied_ampGuard (replied_refl s))

theorem replied_ampStatusBody (s : State) (r : Req) : Replied s (ampStatusBody s r).1 := replied_ampEnter (replied_refl s)

theorem replied_ampSheetReadBody (s : State) (r : Req) : Replied s (ampSheetReadBody s r).1 := by
  unfold ampSheetReadBody
  refine replied_ampEnter (replied_ampGuard ?_)
  split
  · exact replied_refl s
  · exact replied_refl s

theorem replied_ampCounterBody (s : State) (r : Req) : Replied s (ampCounterBody s r).1 := replied_ampEnter (replied_refl s)

theorem replied_tiuStampsBody (s : State) (r : Req) : Replied s (tiuStampsBody s r).1 := by
  unfold tiuStampsBody
  exact replied_guarded (replied_refl s)

theorem replied_tiuStatusBody (s : State) (r : Req) : Replied s (tiuStatusBody s r).1 := by
  unfold tiuStatusBody
  refine replied_guarded ?_
  split
  · exact replied_refl s
  · exact replied_refl s

theorem replied_tiuReadBody (s : State) (r : Req) : Replied s (tiuReadBody s r).1 := replied_guarded (replied_refl s)

theorem replied_capStatusBody (s : State) (r : Req) : Replied s (capStatusBody s r).1 := by
  unfold capStatusBody
  exact replied_guarded (replied_refl s)

theorem replied_capHeaderBody (s : State) (r : Req) : Replied s (capHeaderBody s r).1 := by
  unfold capHeaderBody
  exact replied_guarded (replied_refl s)

theorem replied_capReadBody (s : State) (r : Req) : Replied s (capReadBody s r).1 := by
  unfold capReadBody
  exact replied_guarded (replied_refl s)

theorem replied_capReadCfgBody (s : State) (r : Req) : Replied s (capReadCfgBody s r).1 := by
  unfold capReadCfgBody
  exact replied_guarded (replied_refl s)

theorem replied_calStatusBody (s : State) (r : Req) : Replied s (calStatusBody s r).1 := by
  unfold calStatusBody
  refine replied_guarded ?_
  dsimp only
  split
  · exact replied_refl s
  · exact replied_refl s

theorem replied_calQualityBody (s : State) (r : Req) : Replied s (calQualityBody s r).1 := by
  unfold calQualityBody
  exact replied_guarded (replied_refl s)

theorem replied_calTempsBody (s : State) (r : Req) : Replied s (calTempsBody s r).1 := replied_guarded (replied_refl s)

theorem replied_netStatusBody (s : State) (r : Req) : Replied s (netStatusBody s r).1 := replied_guarded (replied_refl s)

theorem replied_exportStatusBody (s : State) (r : Req) : Replied s (exportStatusBody s r).1 := by
  unfold exportStatusBody
  exact replied_guarded (replied_refl s)

theorem replied_timeStatusBody (s : State) (r : Req) : Replied s (timeStatusBody s r).1 := by
  unfold timeStatusBody
  exact replied_guarded (replied_refl s)

theorem replied_tcmpStatusBody (s : State) (r : Req) : Replied s (tcmpStatusBody s r).1 := replied_guarded (replied_refl s)

theorem replied_jrnCheckpointBody (s : State) (r : Req) : Replied s (jrnCheckpointBody s r).1 := by
  unfold jrnCheckpointBody
  refine replied_guarded ?_
  split
  · exact replied_refl s
  · exact replied_refl s

theorem replied_jrnMarkersBody (s : State) (r : Req) : Replied s (jrnMarkersBody s r).1 := by
  unfold jrnMarkersBody
  exact replied_guarded (replied_refl s)

theorem replied_fltReadBody (s : State) (r : Req) : Replied s (fltReadBody s r).1 := by
  unfold fltReadBody
  exact replied_guarded (replied_refl s)

theorem replied_fltLogBody (s : State) (r : Req) : Replied s (fltLogBody s r).1 := by
  unfold fltLogBody
  exact replied_guarded (replied_refl s)

theorem replied_secCertBody (s : State) (r : Req) : Replied s (secCertBody s r).1 := by
  unfold secCertBody
  refine replied_guarded ?_
  split
  · exact replied_refl s
  · exact replied_refl s

theorem replied_imgStatusBody (s : State) (r : Req) : Replied s (imgStatusBody s r).1 := replied_guarded (replied_refl s)

/-- Settles O27: what a reading command changes is what its doorbell, its checks and its response change. -/
theorem readingCommandsChangeNothingElse : Obligations.ReadingCommandsChangeNothingElse := by
  show ∀ command ∈ _, KeepsTo State.withReply command
  simp only [List.forall_mem_cons, List.not_mem_nil, false_imp_iff, implies_true, and_true]
  exact ⟨
    .of_reading replied_sysPingBody rfl (fun _ => rfl) fun _ _ => rfl,
    .of_reading replied_sysInfoBody rfl (fun _ => rfl) fun _ _ => rfl,
    .of_reading replied_sysMbxInfoBody rfl (fun _ => rfl) fun _ _ => rfl,
    .of_reading replied_sysFenceBody rfl (fun _ => rfl) fun _ _ => rfl,
    .of_reading replied_unitInfoBody rfl (fun _ => rfl) fun _ _ => rfl,
    .of_reading replied_caneQueryBody rfl (fun _ => rfl) fun _ _ => rfl,
    .of_reading replied_caneListBody rfl (fun _ => rfl) fun _ _ => rfl,
    .of_reading replied_strokeStatusBody rfl (fun _ => rfl) fun _ _ => rfl,
    .of_reading replied_strokeReadBody rfl (fun _ => rfl) fun _ _ => rfl,
    .of_reading replied_vmemReadBody rfl (fun _ => rfl) fun _ _ => rfl,
    .of_reading replied_streamStatusBody rfl (fun _ => rfl) fun _ _ => rfl,
    .of_reading replied_ucodeQueryBody rfl (fun _ => rfl) fun _ _ => rfl,
    .of_reading replied_ucodeReadBody rfl (fun _ => rfl) fun _ _ => rfl,
    .of_reading replied_pinStatusBody rfl (fun _ => rfl) fun _ _ => rfl,
    .of_reading replied_pinReadBody rfl (fun _ => rfl) fun _ _ => rfl,
    .of_reading replied_contactCheckBody rfl (fun _ => rfl) fun _ _ => rfl,
    .of_reading replied_smuStatusBody rfl (fun _ => rfl) fun _ _ => rfl,
    .of_reading replied_smuReadBody rfl (fun _ => rfl) fun _ _ => rfl,
    .of_reading replied_ampIdentBody rfl (fun _ => rfl) fun _ _ => rfl,
    .of_reading replied_ampBridgeStatusBody rfl (fun _ => rfl) fun _ _ => rfl,
    .of_reading replied_ampStatusBody rfl (fun _ => rfl) fun _ _ => rfl,
    .of_reading replied_ampSheetReadBody rfl (fun _ => rfl) fun _ _ => rfl,
    .of_reading replied_ampCounterBody rfl (fun _ => rfl) fun _ _ => rfl,
    .of_reading replied_tiuStampsBody rfl (fun _ => rfl) fun _ _ => rfl,
    .of_reading replied_tiuStatusBody rfl (fun _ => rfl) fun _ _ => rfl,
    .of_reading replied_tiuReadBody rfl (fun _ => rfl) fun _ _ => rfl,
    .of_reading replied_capStatusBody rfl (fun _ => rfl) fun _ _ => rfl,
    .of_reading replied_capHeaderBody rfl (fun _ => rfl) fun _ _ => rfl,
    .of_reading replied_capReadBody rfl (fun _ => rfl) fun _ _ => rfl,
    .of_reading replied_capReadCfgBody rfl (fun _ => rfl) fun _ _ => rfl,
    .of_reading replied_calStatusBody rfl (fun _ => rfl) fun _ _ => rfl,
    .of_reading replied_calQualityBody rfl (fun _ => rfl) fun _ _ => rfl,
    .of_reading replied_calTempsBody rfl (fun _ => rfl) fun _ _ => rfl,
    .of_reading replied_netStatusBody rfl (fun _ => rfl) fun _ _ => rfl,
    .of_reading replied_exportStatusBody rfl (fun _ => rfl) fun _ _ => rfl,
    .of_reading replied_timeStatusBody rfl (fun _ => rfl) fun _ _ => rfl,
    .of_reading replied_tcmpStatusBody rfl (fun _ => rfl) fun _ _ => rfl,
    .of_reading replied_jrnCheckpointBody rfl (fun _ => rfl) fun _ _ => rfl,
    .of_reading replied_jrnMarkersBody rfl (fun _ => rfl) fun _ _ => rfl,
    .of_reading replied_fltReadBody rfl (fun _ => rfl) fun _ _ => rfl,
    .of_reading replied_fltLogBody rfl (fun _ => rfl) fun _ _ => rfl,
    .of_reading replied_secCertBody rfl (fun _ => rfl) fun _ _ => rfl,
    .of_reading replied_imgStatusBody rfl (fun _ => rfl) fun _ _ => rfl⟩

end Sys2Proof.Machine
end

section
/-!
The commands on tables, pins, units and instruments of gathers change the gathers, with what the Marver was calibrating there and the conversions that
they disturb (R219, R353, R458, R543).
-/
namespace Sys2Proof.Machine

/-! ## Gathers -/

/-- `s` with the gathers of `t`. -/
def State.onGathers (s t : State) : State := { s with gathers := t.gathers }

theorem overlay_onGathers : Overlay State.onGathers := ⟨fun _ => rfl, fun _ _ _ => rfl⟩

theorem onGathers_forAll_modG {α : Type} (g : α → Nat) (f : State → α → Gather → Gather) (xs : List α) (s : State) :
    Within State.onGathers s (forAll xs (fun s x => s.modG (g x) (f s x)) s) :=
  .forAll overlay_onGathers (fun _ _ => by rfl) xs s

theorem onGathers_forAll_modPlay (f : Play → Play) (us : List Nat) (s : State) : Within State.onGathers s (forAll us (fun s g => s.modPlay g f) s) :=
  .forAll overlay_onGathers (fun _ _ => by rfl) us s

theorem onGathers_pinAll (s : State) (t : Tgt) (bcast : Bool) (tbl : State → Nat → Nat → Ent) (ix : List Nat) :
    Within State.onGathers s (s.pinAll t bcast tbl ix).1 := by
  refine Within.foldl_fst overlay_onGathers (fun acc pu => ?_) t.here (s, [])
  rfl

theorem onGathers_registerTrigger (s : State) (g d kind time : Nat) : Within State.onGathers s (s.registerTrigger g d kind time) := by
  unfold State.registerTrigger
  dsimp only
  split
  · split
    · rfl
    · split
      · exact .refl overlay_onGathers s
      · rfl
  · rfl
  · rfl
  · exact .refl overlay_onGathers s

theorem onGathers_gangPlaces (s : State) (t : Tgt) (all : Bool) : Within State.onGathers s (s.gangPlaces t all) := by
  have hstays := Within.refl overlay_onGathers
  unfold State.gangPlaces
  refine .ite (hstays s) (.forAll overlay_onGathers (fun u up => ?_) _ s)
  split
  · exact .ite rfl (hstays u)
  · exact hstays u

/-! ## The Marver -/

/-- `s` with the Marver of `t`. -/
def State.onCal (s t : State) : State := { s with cal := t.cal }

theorem overlay_onCal : Overlay State.onCal := ⟨fun _ => rfl, fun _ _ _ => rfl⟩

theorem onCal_startStore (s : State) : Within State.onCal s s.startStore := by
  unfold State.startStore
  split
  · rfl
  · rfl

theorem onCal_setCalTile (s : State) (t : Nat) (x : CalTile) : Within State.onCal s (s.setCalTile t x) := rfl

theorem onCal_forAll_setCalG {α : Type} (g : State → α → Nat) (x : State → α → CalG) (xs : List α) (s : State) :
    Within State.onCal s (forAll xs (fun s a => s.setCalG (g s a) (x s a)) s) :=
  .forAll overlay_onCal (fun _ _ => by rfl) xs s

theorem onCal_runComplete (s : State) (t : Nat) : Within State.onCal s (s.runComplete t) := by
  unfold State.runComplete
  dsimp only
  split
  · exact .refl overlay_onCal s
  · exact (onCal_setCalTile s t _).trans overlay_onCal ((onCal_forAll_setCalG _ _ _ _).trans overlay_onCal (onCal_startStore _))

theorem onCal_endStep (s : State) (g n : Nat) (out : CalOut) : Within State.onCal s (s.endStep g n out) := by
  unfold State.endStep
  extract_lets
  refine Within.trans overlay_onCal ?_ (onCal_runComplete _ _)
  rfl

theorem onCal_makeDue (s : State) (t : Nat) (ball : Bool) : Within State.onCal s (s.makeDue t ball) := by
  unfold State.makeDue
  dsimp only
  split
  · exact onCal_setCalTile s t _
  · exact (onCal_setCalTile s t _).trans overlay_onCal (onCal_forAll_setCalG _ _ _ _)

theorem onCal_tempDue (s : State) (t : Nat) : Within State.onCal s (s.tempDue t) :=
  .ite (onCal_makeDue s t false) (.refl overlay_onCal s)

/-- `s` with the gathers and the Marver of `t`. -/
def State.onMarver (s t : State) : State := { s with gathers := t.gathers, cal := t.cal }

theorem overlay_onMarver : Overlay State.onMarver := ⟨fun _ => rfl, fun _ _ _ => rfl⟩

theorem Within.onMarver {s t : State} (h : Within State.onGathers s t) : Within State.onMarver s t := .mono (fun _ _ => rfl) h

theorem onGathers_freeService (s : State) (g : Nat) (us : List Nat) : Within State.onGathers s (s.freeService g us) :=
  .forAll overlay_onGathers (fun u _ => .ite (by rfl) (.refl overlay_onGathers u)) us s

/-- A command on what the Marver calibrates ends the step (R353). -/
theorem onMarver_preempt (s : State) (g : Nat) (hits : Nat → Bool) : Within State.onMarver s (s.preempt g hits) := by
  refine .forAll overlay_onMarver (fun u n => ?_) _ s
  have hended : Within State.onMarver u (u.endStep g n .preempt) := .mono (fun _ _ => rfl) (onCal_endStep u g n .preempt)
  exact hended.trans overlay_onMarver (onGathers_freeService _ _ _).onMarver

theorem onMarver_forAll_preempt (g : Nat → Nat) (hits : Nat → Nat → Bool) (us : List Nat) (s : State) :
    Within State.onMarver s (forAll us (fun s u => s.preempt (g u) (hits u)) s) :=
  .forAll overlay_onMarver (fun s u => onMarver_preempt s (g u) (hits u)) us s

/-! ## Conversions -/

/-- `s` with the Ampoule of `t`. -/
def State.onAmp (s t : State) : State := { s with amp := t.amp }

theorem overlay_onAmp : Overlay State.onAmp := ⟨fun _ => rfl, fun _ _ _ => rfl⟩

theorem onAmp_flagRun (s : State) (g c flags : Nat) : Within State.onAmp s (s.flagRun g c flags) := by
  have hstays := Within.refl overlay_onAmp s
  unfold State.flagRun
  dsimp only
  split
  · exact .ite hstays (by rfl)
  · exact hstays

/-- The conversions under way on a gather are flagged (R219). -/
theorem onAmp_flagRuns (s : State) (g flags : Nat) : Within State.onAmp s (s.flagRuns g flags) :=
  .forAll overlay_onAmp (fun u c => .ite (onAmp_flagRun u g c _) (.refl overlay_onAmp u)) _ s

theorem onAmp_disturb (s : State) (g u : Nat) : Within State.onAmp s (s.disturb g u) :=
  .ite (onAmp_flagRuns s g afDisturbed) (.refl overlay_onAmp s)

end Sys2Proof.Machine
end

section
/-!
The commands on tables, pins, units and instruments of gathers (R102, R142, R186, R279, R313): their own parts, and the commands.
-/
namespace Sys2Proof.Machine

/-! ## Their own parts: gathers -/

section GatherBodies

variable (s : State) (r : Req)

theorem onGathers_guarded {s : State} {st : Half} {go : Unit → State × Act} (h : Within State.onGathers s (go ()).1) :
    Within State.onGathers s (guarded s st go).1 :=
  within_guarded overlay_onGathers h

theorem onGathers_strokeLoadBody : Within State.onGathers s (strokeLoadBody s r).1 := by
  unfold strokeLoadBody
  refine onGathers_guarded ?_
  dsimp only
  split
  · exact .refl overlay_onGathers s
  · exact onGathers_guarded (onGathers_forAll_modPlay _ _ s)

theorem onGathers_tsetLoadBody : Within State.onGathers s (tsetLoadBody s r).1 := by
  unfold tsetLoadBody
  exact onGathers_guarded (onGathers_forAll_modPlay _ _ s)

theorem onGathers_seqConfigBody : Within State.onGathers s (seqConfigBody s r).1 := by
  unfold seqConfigBody
  exact onGathers_guarded (onGathers_forAll_modPlay _ _ s)

theorem onGathers_vmemWriteBody : Within State.onGathers s (vmemWriteBody s r).1 := by
  unfold vmemWriteBody
  exact onGathers_guarded (onGathers_forAll_modPlay _ _ s)

theorem onGathers_vmemPinBody : Within State.onGathers s (vmemPinBody s r).1 := by
  unfold vmemPinBody
  exact onGathers_guarded ((onGathers_forAll_modPlay _ _ s).trans overlay_onGathers (onGathers_pinAll _ _ _ _ _))

theorem onGathers_stencilLoadBody : Within State.onGathers s (stencilLoadBody s r).1 := by
  unfold stencilLoadBody
  exact onGathers_guarded (onGathers_forAll_modPlay _ _ s)

theorem onGathers_stencilClearBody : Within State.onGathers s (stencilClearBody s r).1 := by
  unfold stencilClearBody
  exact onGathers_guarded (onGathers_forAll_modPlay _ _ s)

theorem onGathers_sentStatusBody : Within State.onGathers s (sentStatusBody s r).1 := by
  unfold sentStatusBody
  exact onGathers_guarded (.forAll overlay_onGathers (fun u g => onGathers_forAll_modG (fun _ => g) _ _ u) _ s)

theorem onGathers_smuMeasureBody : Within State.onGathers s (smuMeasureBody s r).1 := by
  unfold smuMeasureBody
  exact onGathers_guarded (onGathers_forAll_modG _ _ _ s)

theorem onGathers_tiuStartBody : Within State.onGathers s (tiuStartBody s r).1 := by
  unfold tiuStartBody
  refine onGathers_guarded ?_
  dsimp only
  split
  · exact .refl overlay_onGathers s
  · exact .forAll overlay_onGathers (fun u _ => by rfl) _ s

end GatherBodies

/-! ## Their own parts: gathers and what the Marver calibrates -/

section MarverBodies

variable (s : State) (r : Req)

theorem onMarver_guarded {s : State} {st : Half} {go : Unit → State × Act} (h : Within State.onMarver s (go ()).1) :
    Within State.onMarver s (guarded s st go).1 :=
  within_guarded overlay_onMarver h

theorem onMarver_preemptPins (us : List Nat) : Within State.onMarver s (s.preemptPins us) := onMarver_forAll_preempt _ _ us s

theorem onMarver_preemptSmus (us : List Nat) : Within State.onMarver s (preemptSmus s us) := onMarver_forAll_preempt _ _ us s

/-- Steps of the Marver end, and then gathers are written. -/
theorem Within.thenGathers {s t u : State} (h : Within State.onMarver s t) (k : Within State.onGathers t u) : Within State.onMarver s u :=
  h.trans overlay_onMarver k.onMarver

theorem onMarver_modPins (us : List Nat) (f : Pin → Pin) : Within State.onMarver s (modPins (s.preemptPins us) us f) :=
  (onMarver_preemptPins s us).thenGathers (onGathers_forAll_modG _ _ us _)

theorem onMarver_pinLevelsBody : Within State.onMarver s (pinLevelsBody s r).1 := by
  unfold pinLevelsBody
  refine onMarver_guarded ?_
  extract_lets s0 set rep changed
  have hset : Within State.onMarver s set := (onMarver_preemptPins s _).thenGathers (onGathers_forAll_modG _ _ _ s0)
  split
  · exact hset
  · exact hset

theorem onMarver_pinLoadBody : Within State.onMarver s (pinLoadBody s r).1 := by
  unfold pinLoadBody
  refine onMarver_guarded ?_
  dsimp only
  exact onMarver_modPins s _ _

theorem onMarver_pinClearBody : Within State.onMarver s (pinClearBody s r).1 := by
  unfold pinClearBody
  refine onMarver_guarded ?_
  dsimp only
  exact onMarver_modPins s _ _

theorem onMarver_smuSafeBody : Within State.onMarver s (smuSafeBody s r).1 := by
  unfold smuSafeBody
  exact onMarver_guarded ((onMarver_preemptSmus s _).thenGathers (onGathers_forAll_modG _ _ _ _))

theorem onMarver_tiuConfigBody : Within State.onMarver s (tiuConfigBody s r).1 := by
  unfold tiuConfigBody
  exact onMarver_guarded (onGathers_forAll_modG _ _ _ s).onMarver

theorem onMarver_capConfigBody : Within State.onMarver s (capConfigBody s r).1 := by
  unfold capConfigBody
  refine onMarver_guarded ?_
  extract_lets ended set cold
  have hset : Within State.onMarver s set := (onMarver_forAll_preempt _ _ _ s).thenGathers (onGathers_forAll_modG _ _ _ ended)
  split
  · exact hset
  · exact hset

theorem onMarver_capLimitsBody : Within State.onMarver s (capLimitsBody s r).1 := by
  unfold capLimitsBody
  exact onMarver_guarded ((onMarver_forAll_preempt _ _ _ s).thenGathers (onGathers_forAll_modG _ _ _ _))

theorem onMarver_capArmBody : Within State.onMarver s (capArmBody s r).1 := by
  unfold capArmBody
  refine onMarver_guarded (.forAll overlay_onMarver (fun u pu => ?_) _ s)
  refine (onMarver_preempt u (pu.2 / 2) (· == 4 + pu.2 % 2)).thenGathers ?_
  rfl

end MarverBodies

/-! ## What the commands may change -/

/-- `s` with what the answer of a command may change, and the gathers of `t`. -/
def State.withGathers (s t : State) : State := { s.withAnswer t with gathers := t.gathers }

theorem overlay_withGathers : Overlay State.withGathers := ⟨fun _ => rfl, fun _ _ _ => rfl⟩

/-- The same with the Marver of `t`. -/
def State.withMarver (s t : State) : State := { s.withGathers t with cal := t.cal }

theorem overlay_withMarver : Overlay State.withMarver := ⟨fun _ => rfl, fun _ _ _ => rfl⟩

/-- The same with the Ampoule of `t`. -/
def State.withConversions (s t : State) : State :=
  { s with amp := t.amp, faults := t.faults, freeCount := t.freeCount, mbx := t.mbx, ports := t.ports, gathers := t.gathers, cal := t.cal
           power := { s.power with pstate := t.power.pstate }, twin := t.twin }

theorem overlay_withConversions : Overlay State.withConversions := ⟨fun _ => rfl, fun _ _ _ => rfl⟩

theorem withGathers_capForceBody (s : State) (r : Req) : Within State.withGathers s (capForceBody s r).1 := by
  unfold capForceBody
  refine within_guarded overlay_withGathers ?_
  have hfresh : Within State.withGathers s s.fresh.2 := rfl
  refine hfresh.trans overlay_withGathers (.forAll overlay_withGathers (fun u n => ?_) _ _)
  exact .mono (fun _ _ => rfl) (onGathers_registerTrigger u _ _ _ _)

section ConversionBodies

variable {s t u : State} (r : Req)

theorem Within.conversions (h : Within State.onMarver s t) : Within State.withConversions s t := .mono (fun _ _ => rfl) h

theorem Within.thenAmp (h : Within State.withConversions s t) (k : Within State.onAmp t u) : Within State.withConversions s u :=
  h.trans overlay_withConversions (.mono (fun _ _ => rfl) k)

theorem withConversions_pinComparatorBody (s : State) : Within State.withConversions s (pinComparatorBody s r).1 := by
  unfold pinComparatorBody
  refine within_guarded overlay_withConversions ?_
  have hset := fun f => (onMarver_preemptPins s (s.target r).units).thenGathers (onGathers_forAll_modG (· / 16) f (s.target r).units _)
  exact (hset _).conversions.thenAmp (.forAll overlay_onAmp (fun u g => onAmp_flagRuns u g 0) _ _)

theorem withConversions_smuForceBody (s : State) : Within State.withConversions s (smuForceBody s r).1 := by
  unfold smuForceBody
  refine within_guarded overlay_withConversions ?_
  have hdisturbed := (onMarver_preemptSmus s (s.target r).units).conversions.thenAmp
    (.forAll overlay_onAmp (fun u n => onAmp_disturb u (n / 4) (n % 4)) (s.target r).units _)
  refine hdisturbed.trans overlay_withConversions (Within.conversions (Within.onMarver ?_))
  exact (onGathers_forAll_modG _ _ _ _).trans overlay_onGathers (onGathers_gangPlaces _ _ _)

end ConversionBodies

/-! ## The commands -/

/-- A command that may wake the device and change the twin's shadow. -/
theorem KeepsTo.of_waking {w : State → State → State} {command : Req → Instr} {op : Half} {bound : State → Req → Nat} {accept : List Nat}
    {body : State → Req → State × Act} (hw : Overlay w) (hanswer : ∀ s t, AnswerFrame s t → Within w s t) (hbody : ∀ s r, Within w s (body s r).1)
    (he : ∀ r s, exec (command r) s = .next (s.firmware op (bound s r) accept r body)) : KeepsTo w command :=
  .of_body (fun _ => answerable hw (fun s t => (hanswer s (s.withReply t) rfl).symm) (.inr fun s _ => hanswer s _ rfl) (.inr fun s _ => hanswer s _ rfl)) hbody he

section Commands

variable {command : Req → Instr} {op : Half} {bound : State → Req → Nat} {accept : List Nat} {body : State → Req → State × Act}
  (he : ∀ r s, exec (command r) s = .next (s.firmware op (bound s r) accept r body))
include he

theorem KeepsTo.of_gathers (hbody : ∀ s r, Within State.onGathers s (body s r).1) : KeepsTo State.withGathers command :=
  .of_waking overlay_withGathers (fun _ _ => .mono fun _ _ => rfl) (fun s r => .mono (fun _ _ => rfl) (hbody s r)) he

theorem KeepsTo.of_marver (hbody : ∀ s r, Within State.onMarver s (body s r).1) : KeepsTo State.withMarver command :=
  .of_waking overlay_withMarver (fun _ _ => .mono fun _ _ => rfl) (fun s r => .mono (fun _ _ => rfl) (hbody s r)) he

theorem KeepsTo.of_conversions (hbody : ∀ s r, Within State.withConversions s (body s r).1) : KeepsTo State.withConversions command :=
  .of_waking overlay_withConversions (fun _ _ => .mono fun _ _ => rfl) hbody he

end Commands

/-- Settles O28: the frame of a command's answer, with what its own part writes. -/
theorem gatherCommandsChangeGathersOnly : Obligations.GatherCommandsChangeGathersOnly := by
  refine ⟨show ∀ command ∈ _, KeepsTo State.withGathers command from ?gathers, show ∀ command ∈ _, KeepsTo State.withMarver command from ?marver,
    show ∀ command ∈ _, KeepsTo State.withConversions command from ?conversions⟩
  all_goals simp only [List.forall_mem_cons, List.not_mem_nil, false_imp_iff, implies_true, and_true]
  case gathers =>
    exact ⟨.of_gathers (fun _ _ => rfl) onGathers_strokeLoadBody, .of_gathers (fun _ _ => rfl) onGathers_tsetLoadBody,
      .of_gathers (fun _ _ => rfl) onGathers_seqConfigBody, .of_gathers (fun _ _ => rfl) onGathers_vmemWriteBody,
      .of_gathers (fun _ _ => rfl) onGathers_vmemPinBody, .of_gathers (fun _ _ => rfl) onGathers_stencilLoadBody,
      .of_gathers (fun _ _ => rfl) onGathers_stencilClearBody, .of_gathers (fun _ _ => rfl) onGathers_sentStatusBody,
      .of_gathers (fun _ _ => rfl) onGathers_smuMeasureBody, .of_gathers (fun _ _ => rfl) onGathers_tiuStartBody,
      .of_waking overlay_withGathers (fun _ _ => .mono fun _ _ => rfl) withGathers_capForceBody fun _ _ => rfl⟩
  case marver =>
    exact ⟨.of_marver (fun _ _ => rfl) onMarver_pinLevelsBody, .of_marver (fun _ _ => rfl) onMarver_pinLoadBody,
      .of_marver (fun _ _ => rfl) onMarver_pinClearBody, .of_marver (fun _ _ => rfl) onMarver_smuSafeBody,
      .of_marver (fun _ _ => rfl) onMarver_tiuConfigBody, .of_marver (fun _ _ => rfl) onMarver_capConfigBody,
      .of_marver (fun _ _ => rfl) onMarver_capLimitsBody, .of_marver (fun _ _ => rfl) onMarver_capArmBody⟩
  case conversions =>
    exact ⟨.of_conversions (fun _ _ => rfl) fun s r => withConversions_pinComparatorBody r s,
      .of_conversions (fun _ _ => rfl) fun s r => withConversions_smuForceBody r s⟩

end Sys2Proof.Machine
end

section
/-!
The commands on a part of the device (R52, R102, R137, R345, R431, R441) and those on power, twin, faults, Ampoule and security (R412, R420, R454, R467, R512,
R523): beside what the answer and the shadow change, each changes the part that it is about.
-/
namespace Sys2Proof.Machine

/-! ## Parts beside the answer -/

/-- `s` with what the answer of a command that does not wake the device may change: the twin's shadow with it. -/
def State.withTwin (s t : State) : State :=
  { s with amp := { s.amp with refusals := t.amp.refusals }, faults := t.faults, freeCount := t.freeCount, mbx := t.mbx, ports := t.ports, twin := t.twin }

/-- An overlay of the answer's parts and others. -/
structure Beside (w : State → State → State) : Prop extends Overlay w where
  twin : ∀ s t, w s (s.withTwin t) = s.withTwin t

theorem KeepsTo.of_beside {w : State → State → State} {command : Req → Instr} {op : Half} {bound : State → Req → Nat} {accept : List Nat}
    {body : State → Req → State × Act} (hw : Beside w) (hwake : wakesIdle op = false)
    (he : ∀ r s, exec (command r) s = .next (s.firmware op (bound s r) accept r body)) (hbody : ∀ s r, Within w s (body s r).1) : KeepsTo w command :=
  have htwin (s t : State) (h : Within State.withTwin s t) : Within w s t := .mono hw.twin h
  .of_body (fun _ => answerable hw.toOverlay (fun s t => (htwin s (s.withReply t) rfl).symm) (.inl hwake) (.inr fun s _ => htwin s _ rfl)) hbody he

section Beside

variable {w : State → State → State} (hw : Beside w) {s t : State}
include hw

theorem Beside.stays (s : State) : Within w s s := .refl hw.toOverlay s

theorem Beside.guarded {st : Half} {go : Unit → State × Act} (h : Within w s (go ()).1) : Within w s (guarded s st go).1 :=
  within_guarded hw.toOverlay h

theorem Beside.ampEnter {r : Req} {len : Nat} {legalOnly : Bool} {go : Unit → State × Act} (h : Within w s (go ()).1) :
    Within w s (ampEnter s r len legalOnly go).1 :=
  within_ampEnter hw.toOverlay (.mono hw.twin rfl) h

theorem Beside.ampGuard {st : Half} {go : Unit → State × Act} (h : Within w s (go ()).1) : Within w s (ampGuard s st go).1 :=
  within_ampGuard (.mono hw.twin rfl) h

theorem Beside.replied (h : Replied s t) : Within w s t := .mono hw.twin (.mono (fun _ _ => rfl) h)

end Beside

def State.withCanes (s t : State) : State := { s.withTwin t with canes := t.canes }
def State.withGangs (s t : State) : State := { s.withCanes t with gathers := t.gathers }
def State.withCtxs (s t : State) : State := { s.withTwin t with ctxs := t.ctxs }
def State.withDram (s t : State) : State := { s.withTwin t with dram := t.dram }
def State.withBroadcast (s t : State) : State := { s.withTwin t with bcTable := t.bcTable, gathers := t.gathers, progs := t.progs }
def State.withPatches (s t : State) : State := { s.withTwin t with patches := t.patches }
def State.withPatched (s t : State) : State := { s.withPatches t with gathers := t.gathers }
def State.withHatch (s t : State) : State := { s.withTwin t with hatch := t.hatch }
def State.withCal (s t : State) : State := { s.withTwin t with cal := t.cal }
def State.withTime (s t : State) : State := { s.withTwin t with time := t.time }
def State.withExporter (s t : State) : State := { s.withTwin t with exporter := t.exporter }
def State.withJournal (s t : State) : State := { s.withTwin t with journal := t.journal }

theorem beside_twin : Beside State.withTwin := ⟨⟨fun _ => rfl, fun _ _ _ => rfl⟩, fun _ _ => rfl⟩
theorem beside_canes : Beside State.withCanes := ⟨⟨fun _ => rfl, fun _ _ _ => rfl⟩, fun _ _ => rfl⟩
theorem beside_gangs : Beside State.withGangs := ⟨⟨fun _ => rfl, fun _ _ _ => rfl⟩, fun _ _ => rfl⟩
theorem beside_ctxs : Beside State.withCtxs := ⟨⟨fun _ => rfl, fun _ _ _ => rfl⟩, fun _ _ => rfl⟩
theorem beside_dram : Beside State.withDram := ⟨⟨fun _ => rfl, fun _ _ _ => rfl⟩, fun _ _ => rfl⟩
theorem beside_broadcast : Beside State.withBroadcast := ⟨⟨fun _ => rfl, fun _ _ _ => rfl⟩, fun _ _ => rfl⟩
theorem beside_patches : Beside State.withPatches := ⟨⟨fun _ => rfl, fun _ _ _ => rfl⟩, fun _ _ => rfl⟩
theorem beside_patched : Beside State.withPatched := ⟨⟨fun _ => rfl, fun _ _ _ => rfl⟩, fun _ _ => rfl⟩
theorem beside_hatch : Beside State.withHatch := ⟨⟨fun _ => rfl, fun _ _ _ => rfl⟩, fun _ _ => rfl⟩
theorem beside_cal : Beside State.withCal := ⟨⟨fun _ => rfl, fun _ _ _ => rfl⟩, fun _ _ => rfl⟩
theorem beside_time : Beside State.withTime := ⟨⟨fun _ => rfl, fun _ _ _ => rfl⟩, fun _ _ => rfl⟩
theorem beside_exporter : Beside State.withExporter := ⟨⟨fun _ => rfl, fun _ _ _ => rfl⟩, fun _ _ => rfl⟩
theorem beside_journal : Beside State.withJournal := ⟨⟨fun _ => rfl, fun _ _ _ => rfl⟩, fun _ _ => rfl⟩

/-! ## Canes, streams and programs -/

section DeviceBodies

variable (s : State) (r : Req)

theorem withCanes_changeCane (i : Nat) (f : Tab Cane → Tab Cane) : Within State.withCanes s (s.changeCane i f) := by
  unfold State.changeCane
  dsimp only
  split
  · rfl
  · rfl

theorem withCanes_caneDefineBody : Within State.withCanes s (caneDefineBody s r).1 := by
  unfold caneDefineBody
  refine beside_canes.guarded ?_
  dsimp only
  split
  · exact beside_canes.stays s
  · exact beside_canes.guarded rfl

theorem withCanes_caneDeleteBody : Within State.withCanes s (caneDeleteBody s r).1 := by
  unfold caneDeleteBody
  exact beside_canes.guarded (withCanes_changeCane s _ _)

theorem withGangs_caneMaskBody : Within State.withGangs s (caneMaskBody s r).1 := by
  unfold caneMaskBody
  dsimp only
  split
  · exact beside_gangs.stays s
  · refine beside_gangs.guarded ?_
    have hcanes {t : State} (h : Within State.withCanes s t) : Within State.withGangs s t := .mono (fun _ _ => rfl) h
    have hgangs {t u : State} (h : Within State.onGathers t u) : Within State.withGangs t u := .mono (fun _ _ => rfl) h
    exact (hcanes (withCanes_changeCane s _ _)).trans beside_gangs.toOverlay (hgangs (onGathers_gangPlaces _ _ _))

theorem withCtxs_streamOpenBody : Within State.withCtxs s (streamOpenBody s r).1 := by
  unfold streamOpenBody
  exact beside_ctxs.guarded rfl

theorem withCtxs_streamCloseBody : Within State.withCtxs s (streamCloseBody s r).1 := by
  unfold streamCloseBody
  exact beside_ctxs.guarded rfl

theorem withDram_streamWriteBody : Within State.withDram s (streamWriteBody s r).1 := by
  unfold streamWriteBody
  exact beside_dram.guarded rfl

theorem withBroadcast_bcastLoadBody : Within State.withBroadcast s (bcastLoadBody s r).1 := by
  have hgathers {t u : State} (h : Within State.onGathers t u) : Within State.withBroadcast t u := .mono (fun _ _ => rfl) h
  unfold bcastLoadBody
  refine beside_broadcast.guarded ?_
  dsimp only
  split
  · exact beside_broadcast.stays s
  · refine beside_broadcast.guarded ?_
    have hunpinned := hgathers (onGathers_forAll_modPlay (fun y => { y with pinned := y.pinned.filter fun b => !b.bcast, bc := none })
      (s.prog (u8 r.payload 0)).members s)
    refine hunpinned.trans beside_broadcast.toOverlay (.trans beside_broadcast.toOverlay ?_ (hgathers (onGathers_pinAll _ _ _ _ _)))
    rfl

theorem withPatched_ucodeLoadBody : Within State.withPatched s (ucodeLoadBody s r).1 := by
  unfold ucodeLoadBody
  refine beside_patched.guarded (.forAll beside_patched.toOverlay (fun u k => ?_) _ s)
  have hheld := Within.forAll beside_patched.toOverlay (f := State.holdDigs) (fun _ _ => by rfl) (tileGathers k)
  refine .trans beside_patched.toOverlay ?_ (hheld _)
  rfl

theorem withPatches_ucodeClearBody : Within State.withPatches s (ucodeClearBody s r).1 := by
  unfold ucodeClearBody
  exact beside_patches.guarded (.forAll beside_patches.toOverlay (fun _ _ => by rfl) _ s)

/-! ## Hatch, the Marver and the time -/

theorem withHatch_hatchStatusBody : Within State.withHatch s (hatchStatusBody s r).1 := by
  unfold hatchStatusBody
  refine beside_hatch.guarded ?_
  dsimp only
  split
  · split
    · rfl
    · rfl
  · split
    · rfl
    · rfl

theorem Within.besideCal {s t : State} (h : Within State.onCal s t) : Within State.withCal s t := .mono (fun _ _ => rfl) h

theorem withCal_calConfigBody : Within State.withCal s (calConfigBody s r).1 := by
  unfold calConfigBody
  refine beside_cal.guarded (.trans beside_cal.toOverlay ?_ (.forAll beside_cal.toOverlay (fun u t => (onCal_tempDue u t).besideCal) _ _))
  rfl

theorem withCal_calPinmaskBody : Within State.withCal s (calPinmaskBody s r).1 := by
  unfold calPinmaskBody
  exact beside_cal.guarded (onCal_forAll_setCalG _ _ _ s).besideCal

theorem withCal_calRunBody : Within State.withCal s (calRunBody s r).1 := by
  unfold calRunBody
  exact beside_cal.guarded (.forAll beside_cal.toOverlay (fun u t => (onCal_makeDue u t _).besideCal) _ s)

theorem withCal_calStoreBody : Within State.withCal s (calStoreBody s r).1 := by
  unfold calStoreBody
  exact beside_cal.guarded (.ite (onCal_startStore s).besideCal (beside_cal.stays s))

theorem withTime_modTime (f : NetTime → NetTime) : Within State.withTime s (s.modTime f) := rfl

theorem withTime_ptpConfigBody : Within State.withTime s (ptpConfigBody s r).1 := by
  unfold ptpConfigBody
  refine beside_time.guarded ?_
  dsimp only
  exact withTime_modTime s _

theorem withTime_timeAdjustBody : Within State.withTime s (timeAdjustBody s r).1 := by
  unfold timeAdjustBody
  refine beside_time.guarded ?_
  dsimp only
  exact withTime_modTime s _

/-! ## Export and journal -/

theorem withExporter_exportOpenBody : Within State.withExporter s (exportOpenBody s r).1 := by
  unfold exportOpenBody
  exact beside_exporter.guarded rfl

theorem withExporter_sendDgram : Within State.withExporter s s.sendDgram := by
  unfold State.sendDgram
  dsimp only
  split
  · exact beside_exporter.stays s
  · rfl

theorem withExporter_closeExport : Within State.withExporter s s.closeExport := by
  unfold State.closeExport
  refine .trans beside_exporter.toOverlay ?_
    (.forAll beside_exporter.toOverlay (fun u m => beside_exporter.replied (replied_respond u m _ _)) _ _)
  rfl

theorem withExporter_exportCloseBody : Within State.withExporter s (exportCloseBody s r).1 := by
  unfold exportCloseBody
  refine beside_exporter.guarded ?_
  split
  · exact beside_exporter.stays s
  · extract_lets sent closing
    have hclosing : Within State.withExporter s closing := by
      refine (withExporter_sendDgram s).trans beside_exporter.toOverlay ?_
      rfl
    split
    · exact hclosing.trans beside_exporter.toOverlay (withExporter_closeExport closing)
    · exact hclosing

theorem withExporter_resend (seq : Nat) : Within State.withExporter s (s.resend seq) := by
  unfold State.resend
  split
  · exact beside_exporter.stays s
  · rfl

theorem withExporter_exportResendBody : Within State.withExporter s (exportResendBody s r).1 := by
  unfold exportResendBody
  exact beside_exporter.guarded (.forAll beside_exporter.toOverlay (fun u k => withExporter_resend u _) _ s)

theorem withJournal_jrnConfigBody : Within State.withJournal s (jrnConfigBody s r).1 := by
  unfold jrnConfigBody
  exact beside_journal.guarded rfl

theorem withJournal_jrnReportBody : Within State.withJournal s (jrnReportBody s r).1 := by
  unfold jrnReportBody
  exact beside_journal.guarded rfl

end DeviceBodies

/-- Settles O29: the frame of a command's answer, with the part that its own part writes. -/
theorem deviceSettingsChangeTheirOwnPart : Obligations.DeviceSettingsChangeTheirOwnPart := by
  refine ⟨show ∀ command ∈ _, KeepsTo State.withCanes command from ?canes,
    show ∀ command ∈ _, KeepsTo State.withGangs command from ?gangs,
    show ∀ command ∈ _, KeepsTo State.withCtxs command from ?ctxs,
    show ∀ command ∈ _, KeepsTo State.withDram command from ?dram,
    show ∀ command ∈ _, KeepsTo State.withBroadcast command from ?broadcast,
    show ∀ command ∈ _, KeepsTo State.withPatched command from ?patched,
    show ∀ command ∈ _, KeepsTo State.withPatches command from ?patches,
    show ∀ command ∈ _, KeepsTo State.withHatch command from ?hatch,
    show ∀ command ∈ _, KeepsTo State.withCal command from ?cal,
    show ∀ command ∈ _, KeepsTo State.withTime command from ?time,
    show ∀ command ∈ _, KeepsTo State.withExporter command from ?exporter,
    show ∀ command ∈ _, KeepsTo State.withJournal command from ?journal⟩
  all_goals simp only [List.forall_mem_cons, List.not_mem_nil, false_imp_iff, implies_true, and_true]
  case canes =>
    exact ⟨.of_beside beside_canes rfl (fun _ _ => rfl) withCanes_caneDefineBody,
      .of_beside beside_canes rfl (fun _ _ => rfl) withCanes_caneDeleteBody⟩
  case gangs => exact .of_beside beside_gangs rfl (fun _ _ => rfl) withGangs_caneMaskBody
  case ctxs =>
    exact ⟨.of_beside beside_ctxs rfl (fun _ _ => rfl) withCtxs_streamOpenBody,
      .of_beside beside_ctxs rfl (fun _ _ => rfl) withCtxs_streamCloseBody⟩
  case dram => exact .of_beside beside_dram rfl (fun _ _ => rfl) withDram_streamWriteBody
  case broadcast => exact .of_beside beside_broadcast rfl (fun _ _ => rfl) withBroadcast_bcastLoadBody
  case patched => exact .of_beside beside_patched rfl (fun _ _ => rfl) withPatched_ucodeLoadBody
  case patches => exact .of_beside beside_patches rfl (fun _ _ => rfl) withPatches_ucodeClearBody
  case hatch => exact .of_beside beside_hatch rfl (fun _ _ => rfl) withHatch_hatchStatusBody
  case cal =>
    exact ⟨.of_beside beside_cal rfl (fun _ _ => rfl) withCal_calConfigBody,
      .of_beside beside_cal rfl (fun _ _ => rfl) withCal_calPinmaskBody,
      .of_beside beside_cal rfl (fun _ _ => rfl) withCal_calRunBody,
      .of_beside beside_cal rfl (fun _ _ => rfl) withCal_calStoreBody⟩
  case time =>
    exact ⟨.of_beside beside_time rfl (fun _ _ => rfl) withTime_ptpConfigBody,
      .of_beside beside_time rfl (fun _ _ => rfl) withTime_timeAdjustBody⟩
  case exporter =>
    exact ⟨.of_beside beside_exporter rfl (fun _ _ => rfl) withExporter_exportOpenBody,
      .of_beside beside_exporter rfl (fun _ _ => rfl) withExporter_exportCloseBody,
      .of_beside beside_exporter rfl (fun _ _ => rfl) withExporter_exportResendBody⟩
  case journal =>
    exact ⟨.of_beside beside_journal rfl (fun _ _ => rfl) withJournal_jrnConfigBody,
      .of_beside beside_journal rfl (fun _ _ => rfl) withJournal_jrnReportBody⟩

end Sys2Proof.Machine
end

section
/-!
The commands on power, twin, faults, Ampoule and security (R412, R420, R454, R467, R512, R523).
-/
namespace Sys2Proof.Machine

/-! ## Parts beside the answer -/

def State.withPower (s t : State) : State := { s.withTwin t with power := t.power }
def State.withSec (s t : State) : State := { s.withTwin t with sec := t.sec }

/-- With the whole Ampoule. -/
def State.withAmp (s t : State) : State :=
  { s with amp := t.amp, faults := t.faults, freeCount := t.freeCount, mbx := t.mbx, ports := t.ports, twin := t.twin }

def State.withSigning (s t : State) : State := { s.withAmp t with sec := t.sec }
def State.withLife (s t : State) : State := { s.withSigning t with power := t.power }

theorem beside_power : Beside State.withPower := ⟨⟨fun _ => rfl, fun _ _ _ => rfl⟩, fun _ _ => rfl⟩
theorem beside_sec : Beside State.withSec := ⟨⟨fun _ => rfl, fun _ _ _ => rfl⟩, fun _ _ => rfl⟩
theorem beside_amp : Beside State.withAmp := ⟨⟨fun _ => rfl, fun _ _ _ => rfl⟩, fun _ _ => rfl⟩
theorem beside_signing : Beside State.withSigning := ⟨⟨fun _ => rfl, fun _ _ _ => rfl⟩, fun _ _ => rfl⟩
theorem beside_life : Beside State.withLife := ⟨⟨fun _ => rfl, fun _ _ _ => rfl⟩, fun _ _ => rfl⟩

section Bodies

variable (s : State) (r : Req)

/-! ## Power, twin and faults -/

theorem withPower_sysResetBody : Within State.withPower s (sysResetBody s r).1 := by
  unfold sysResetBody
  exact beside_power.guarded rfl

theorem withPower_sysPowerBody : Within State.withPower s (sysPowerBody s r).1 := by
  unfold sysPowerBody
  refine beside_power.guarded ?_
  dsimp only
  split
  · rfl
  · refine beside_power.guarded ?_
    split
    · rfl
    · rfl

theorem withTwin_twinHalfBody : Within State.withTwin s (twinHalfBody s r).1 := by
  unfold twinHalfBody
  exact beside_twin.guarded rfl

theorem withTwin_twinStatusBody : Within State.withTwin s (twinStatusBody s r).1 := by
  unfold twinStatusBody
  exact beside_twin.guarded rfl

theorem withTwin_twinConfigBody : Within State.withTwin s (twinConfigBody s r).1 := by
  unfold twinConfigBody
  exact beside_twin.guarded rfl

theorem withTwin_twinReleaseBody : Within State.withTwin s (twinReleaseBody s r).1 := by
  unfold twinReleaseBody
  exact beside_twin.guarded rfl

theorem withTwin_netConfigBody : Within State.withTwin s (netConfigBody s r).1 := by
  unfold netConfigBody
  exact beside_twin.guarded rfl

theorem withTwin_fltAckBody : Within State.withTwin s (fltAckBody s r).1 := by
  unfold fltAckBody
  exact beside_twin.guarded rfl

theorem withTwin_fltConfigBody : Within State.withTwin s (fltConfigBody s r).1 := by
  unfold fltConfigBody
  exact beside_twin.guarded rfl

/-! ## The Ampoule -/

theorem Within.besideAmp {s t : State} (h : Within State.onAmp s t) : Within State.withAmp s t := .mono (fun _ _ => rfl) h

theorem onAmp_closeSheet (cause : Nat) : Within State.onAmp s (s.closeSheet cause) := by
  unfold State.closeSheet
  split
  · exact .refl overlay_onAmp s
  · rfl

theorem withAmp_ampRefcheckBody : Within State.withAmp s (ampRefcheckBody s r).1 := by
  unfold ampRefcheckBody
  refine beside_amp.ampEnter (beside_amp.ampGuard ?_)
  extract_lets free idle checked
  have hchecked : Within State.withAmp s checked := .forAll beside_amp.toOverlay (fun _ _ => by rfl) _ s
  split
  · exact hchecked
  · exact hchecked

theorem withAmp_ampSheetCloseBody : Within State.withAmp s (ampSheetCloseBody s r).1 := by
  unfold ampSheetCloseBody
  exact beside_amp.ampEnter (beside_amp.ampGuard (onAmp_closeSheet s 1).besideAmp)

theorem withAmp_ampAdjustBody : Within State.withAmp s (ampAdjustBody s r).1 := by
  unfold ampAdjustBody
  refine beside_amp.ampEnter (beside_amp.ampGuard ?_)
  split
  · rfl
  · rfl

/-! ## Security -/

theorem withSec_secAttestBody : Within State.withSec s (secAttestBody s r).1 := by
  unfold secAttestBody
  exact beside_sec.guarded rfl

theorem withSec_imgWriteBody : Within State.withSec s (imgWriteBody s r).1 := by
  unfold imgWriteBody
  refine beside_sec.guarded ?_
  dsimp only
  split
  · rfl
  · rfl

theorem withSec_imgCommitBody : Within State.withSec s (imgCommitBody s r).1 := by
  unfold imgCommitBody
  refine beside_sec.guarded ?_
  dsimp only
  split
  · rfl
  · rfl

theorem withSec_lcChallengeBody : Within State.withSec s (lcChallengeBody s r).1 := by
  unfold lcChallengeBody
  exact beside_sec.guarded rfl

theorem withSec_lcInstallBody : Within State.withSec s (lcInstallBody s r).1 := by
  unfold lcInstallBody
  exact beside_sec.guarded rfl

theorem withLife_lifeSet (target m : Nat) : Within State.withLife s (s.lifeSet target m) := by
  unfold State.lifeSet
  extract_lets went
  have hwent : Within State.withLife s went := rfl
  split
  · exact hwent.trans beside_life.toOverlay (.mono (fun _ _ => rfl) (onAmp_closeSheet went 2))
  · exact hwent

theorem withLife_lcTransitionBody : Within State.withLife s (lcTransitionBody s r).1 := by
  unfold lcTransitionBody
  refine beside_life.guarded ?_
  extract_lets st _ answered
  have hanswered : Within State.withLife s answered := rfl
  split
  · exact hanswered
  · split
    · exact hanswered
    · exact hanswered.trans beside_life.toOverlay (withLife_lifeSet answered _ _)

theorem withSigning_imgActivateBody : Within State.withSigning s (imgActivateBody s r).1 := by
  unfold imgActivateBody
  refine beside_signing.guarded ?_
  dsimp only
  split
  · rfl
  · rfl

theorem onAmp_takeIndex : Within State.onAmp s s.takeIndex.2 := by
  unfold State.takeIndex
  extract_lets a _ out taken
  have htaken : Within State.onAmp s taken := rfl
  exact .ite (htaken.trans overlay_onAmp (onAmp_closeSheet taken 2)) htaken

theorem withSigning_lcCsrBody : Within State.withSigning s (lcCsrBody s r).1 := by
  unfold lcCsrBody
  refine beside_signing.guarded ?_
  split
  · rfl
  · exact .mono (fun _ _ => rfl) (onAmp_takeIndex s)

end Bodies

/-- Settles O30: the frame of a command's answer, with the part that its own part writes. -/
theorem powerAmpouleAndSecurityCommandsKeepTheRest : Obligations.PowerAmpouleAndSecurityCommandsKeepTheRest := by
  refine ⟨show ∀ command ∈ _, KeepsTo State.withPower command from ?power,
    show ∀ command ∈ _, KeepsTo State.withTwin command from ?twinRead,
    show ∀ command ∈ _, KeepsTo State.withTwin command from ?twin,
    show ∀ command ∈ _, KeepsTo State.withTwin command from ?net,
    show ∀ command ∈ _, KeepsTo State.withTwin command from ?fault,
    show ∀ command ∈ _, KeepsTo State.withAmp command from ?amp,
    show ∀ command ∈ _, KeepsTo State.withSec command from ?sec,
    show ∀ command ∈ _, KeepsTo State.withLife command from ?life,
    show ∀ command ∈ _, KeepsTo State.withSigning command from ?signing⟩
  all_goals simp only [List.forall_mem_cons, List.not_mem_nil, false_imp_iff, implies_true, and_true]
  case power =>
    exact ⟨.of_beside beside_power rfl (fun _ _ => rfl) withPower_sysResetBody,
      .of_beside beside_power rfl (fun _ _ => rfl) withPower_sysPowerBody⟩
  case twinRead =>
    exact ⟨.of_beside beside_twin rfl (fun _ _ => rfl) withTwin_twinHalfBody,
      .of_beside beside_twin rfl (fun _ _ => rfl) withTwin_twinStatusBody⟩
  case twin =>
    exact ⟨.of_beside beside_twin rfl (fun _ _ => rfl) withTwin_twinConfigBody,
      .of_beside beside_twin rfl (fun _ _ => rfl) withTwin_twinReleaseBody⟩
  case net => exact .of_beside beside_twin rfl (fun _ _ => rfl) withTwin_netConfigBody
  case fault =>
    exact ⟨.of_beside beside_twin rfl (fun _ _ => rfl) withTwin_fltAckBody,
      .of_beside beside_twin rfl (fun _ _ => rfl) withTwin_fltConfigBody⟩
  case amp =>
    exact ⟨.of_beside beside_amp rfl (fun _ _ => rfl) withAmp_ampRefcheckBody,
      .of_beside beside_amp rfl (fun _ _ => rfl) withAmp_ampSheetCloseBody,
      .of_beside beside_amp rfl (fun _ _ => rfl) withAmp_ampAdjustBody⟩
  case sec =>
    exact ⟨.of_beside beside_sec rfl (fun _ _ => rfl) withSec_secAttestBody,
      .of_beside beside_sec rfl (fun _ _ => rfl) withSec_imgWriteBody,
      .of_beside beside_sec rfl (fun _ _ => rfl) withSec_imgCommitBody,
      .of_beside beside_sec rfl (fun _ _ => rfl) withSec_lcChallengeBody,
      .of_beside beside_sec rfl (fun _ _ => rfl) withSec_lcInstallBody⟩
  case life => exact .of_beside beside_life rfl (fun _ _ => rfl) withLife_lcTransitionBody
  case signing =>
    exact ⟨.of_beside beside_signing rfl (fun _ _ => rfl) withSigning_imgActivateBody,
      .of_beside beside_signing rfl (fun _ _ => rfl) withSigning_lcCsrBody⟩

end Sys2Proof.Machine
end


section
/-!
The parts of the device by which it speaks with its host and its twin: what the master's time reaches (R431, R435, R437) leaves the mailboxes, the Ampoule
and the twin as they are. A step of network time fires compare units, whose pulses go through Hatch and may halt gathers: for each operation on that way one
equation, which as a `simp` lemma carries the next operation's.
-/
namespace Sys2Proof.Machine

/-- The mailboxes, the Ampoule and the twin. -/
def State.dialogue (s : State) : Tab Mailbox × Amp × Twin := (s.mbx, s.amp, s.twin)

/-- A write of any of the other parts. -/
@[simp] theorem State.dialogue_update (s : State) {pe g pr pa bc cx cn ob ch h f un fc dr cl tr ti tc po ex ca j pw se jt} :
    State.dialogue ⟨pe, g, bc, cx, pr, pa, cn, s.mbx, ob, ch, h, f, un, fc, dr, cl, tr, ti, tc, po, ex, s.amp, ca, s.twin, j, pw, se, jt⟩
      = s.dialogue := by
  simp only [State.dialogue]

@[simp] theorem State.dialogue_ite {c : Prop} [Decidable c] (a b : State) :
    (if c then a else b).dialogue = if c then a.dialogue else b.dialogue :=
  apply_ite State.dialogue _ _ _

@[simp] theorem State.dialogue_ite_fst {α : Type} {c : Prop} [Decidable c] (a b : State × α) :
    (if c then a else b).1.dialogue = if c then a.1.dialogue else b.1.dialogue :=
  apply_ite (fun p : State × α => p.1.dialogue) _ _ _

@[simp] theorem dialogue_foldl {α : Type} {f : State → α → State} (hf : ∀ u x, (f u x).dialogue = u.dialogue) (s : State) (xs : List α) :
    (xs.foldl f s).dialogue = s.dialogue :=
  List.foldlRecOn (motive := fun u : State => u.dialogue = s.dialogue) xs f rfl fun u hu x _ => (hf u x).trans hu

@[simp] theorem dialogue_foldl_fst {α β : Type} {f : State × β → α → State × β}
    (hf : ∀ acc x, (f acc x).1.dialogue = acc.1.dialogue) (acc : State × β) (xs : List α) :
    (xs.foldl f acc).1.dialogue = acc.1.dialogue :=
  List.foldlRecOn (motive := fun u : State × β => u.1.dialogue = acc.1.dialogue) xs f rfl fun u hu x _ => (hf u x).trans hu

@[simp] theorem dialogue_forAll {α : Type} {f : State → α → State} (hf : ∀ u x, (f u x).dialogue = u.dialogue) (s : State) (xs : List α) :
    (forAll xs f s).dialogue = s.dialogue :=
  dialogue_foldl hf s xs

section Operations

variable (s : State)

/-! ## Writes of one part -/

@[simp] theorem State.dialogue_setG (g : Nat) (G : Gather) : (s.setG g G).dialogue = s.dialogue := by simp [State.setG]
@[simp] theorem State.dialogue_modG (g : Nat) (f : Gather → Gather) : (s.modG g f).dialogue = s.dialogue := by simp [State.modG]
@[simp] theorem State.dialogue_modPlay (g : Nat) (f : Play → Play) : (s.modPlay g f).dialogue = s.dialogue := by simp [State.modPlay]
@[simp] theorem State.dialogue_setSent (g n : Nat) (x : Sent) : (s.setSent g n x).dialogue = s.dialogue := by simp [State.setSent]
@[simp] theorem State.dialogue_setPin (g p : Nat) (x : Pin) : (s.setPin g p x).dialogue = s.dialogue := by simp [State.setPin]
@[simp] theorem State.dialogue_setTiu (g u : Nat) (x : Tiu) : (s.setTiu g u x).dialogue = s.dialogue := by simp [State.setTiu]
@[simp] theorem State.dialogue_setProg (p : Nat) (x : Prog) : (s.setProg p x).dialogue = s.dialogue := by simp [State.setProg]
@[simp] theorem State.dialogue_setHatch (h : Hatch) : (s.setHatch h).dialogue = s.dialogue := by simp [State.setHatch]
@[simp] theorem State.dialogue_setLine (key : Nat) (l : Line) : (s.setLine key l).dialogue = s.dialogue := by simp [State.setLine]
@[simp] theorem State.dialogue_setGroup (g : Nat) (on : Bool) : (s.setGroup g on).dialogue = s.dialogue := by simp [State.setGroup]
@[simp] theorem State.dialogue_setFaults (f : Faults) : (s.setFaults f).dialogue = s.dialogue := by simp [State.setFaults]
@[simp] theorem State.dialogue_setJournal (j : Journal) : (s.setJournal j).dialogue = s.dialogue := by simp [State.setJournal]
@[simp] theorem State.dialogue_setCalTile (t : Nat) (x : CalTile) : (s.setCalTile t x).dialogue = s.dialogue := by simp [State.setCalTile]
@[simp] theorem State.dialogue_setCalG (g : Nat) (x : CalG) : (s.setCalG g x).dialogue = s.dialogue := by simp [State.setCalG]
@[simp] theorem State.dialogue_setPort (p : Nat) (x : Port) : (s.setPort p x).dialogue = s.dialogue := by simp [State.setPort]
@[simp] theorem State.dialogue_modTime (f : NetTime → NetTime) : (s.modTime f).dialogue = s.dialogue := by simp [State.modTime]
@[simp] theorem State.dialogue_setTcmp (n : Nat) (x : Tcmp) : (s.setTcmp n x).dialogue = s.dialogue := by simp [State.setTcmp]
@[simp] theorem State.dialogue_setPstate (p : Nat) : (s.setPstate p).dialogue = s.dialogue := by simp [State.setPstate]
@[simp] theorem State.dialogue_choose : s.choose.2.dialogue = s.dialogue := by simp [State.choose]
@[simp] theorem State.dialogue_fresh : s.fresh.2.dialogue = s.dialogue := by simp [State.fresh]

/-! ## Records, reports and messages -/

@[simp] theorem State.dialogue_record (src scope : Half) (detail : Word) (real react : Bool) :
    (s.record src scope detail real react).dialogue = s.dialogue := by
  simp [State.record]

@[simp] theorem State.dialogue_advise (src scope : Half) (detail : Word) : (s.advise src scope detail).dialogue = s.dialogue := by simp [State.advise]
@[simp] theorem State.dialogue_report (r : Report) : (s.report r).dialogue = s.dialogue := by simp [State.report]
@[simp] theorem State.dialogue_note (e : List Byte) : (s.note e).dialogue = s.dialogue := by simp [State.note]
@[simp] theorem State.dialogue_send (p : Nat) (x : Sent1) : (s.send p x).dialogue = s.dialogue := by simp [State.send]
@[simp] theorem State.dialogue_sendDgram : s.sendDgram.dialogue = s.dialogue := by simp [State.sendDgram]
@[simp] theorem State.dialogue_ringRecord (r : List Byte) : (s.ringRecord r).dialogue = s.dialogue := by simp [State.ringRecord]

@[simp] theorem State.dialogue_emitRec (type site : Nat) (body : List Byte) : (s.emitRec type site body).dialogue = s.dialogue := by
  simp [State.emitRec]

/-! ## Sentinels -/

@[simp] theorem State.dialogue_sentWakes (g n : Nat) : (s.sentWakes g n).dialogue = s.dialogue := by simp [State.sentWakes]
@[simp] theorem State.dialogue_setDwelled (g n : Nat) (act : Bool) : (s.setDwelled g n act).dialogue = s.dialogue := by simp [State.setDwelled]
@[simp] theorem State.dialogue_startDwell (g n : Nat) : (s.startDwell g n).dialogue = s.dialogue := by simp [State.startDwell]
@[simp] theorem State.dialogue_probe (g n : Nat) : (s.probe g n).dialogue = s.dialogue := by simp [State.probe]
@[simp] theorem State.dialogue_probes (g : Nat) : (s.probes g).dialogue = s.dialogue := by simp [State.probes]

/-! ## The Marver -/

@[simp] theorem State.dialogue_startStore : s.startStore.dialogue = s.dialogue := by simp [State.startStore]
@[simp] theorem State.dialogue_runComplete (t : Nat) : (s.runComplete t).dialogue = s.dialogue := by simp [State.runComplete]
@[simp] theorem State.dialogue_endStep (g n : Nat) (out : CalOut) : (s.endStep g n out).dialogue = s.dialogue := by simp [State.endStep]
@[simp] theorem State.dialogue_freeService (g : Nat) (us : List Nat) : (s.freeService g us).dialogue = s.dialogue := by simp [State.freeService]
@[simp] theorem State.dialogue_preempt (g : Nat) (hits : Nat → Bool) : (s.preempt g hits).dialogue = s.dialogue := by simp [State.preempt]
@[simp] theorem State.dialogue_calStrokeEnd (g : Nat) : (s.calStrokeEnd g).dialogue = s.dialogue := by simp [State.calStrokeEnd]

/-! ## Lines and waves of Hatch -/

@[simp] theorem State.dialogue_collect (acc : State × Tab Nat) (g : Nat) (pulses : List Nat) :
    (State.collect acc g pulses).1.dialogue = acc.1.dialogue := by
  simp [State.collect]

@[simp] theorem State.dialogue_mergesEvent (key : Nat) (l : Line) (rises : Bool) : (s.mergesEvent key l rises).1.dialogue = s.dialogue := by
  simp [State.mergesEvent]

@[simp] theorem State.dialogue_noteLine (key : Nat) (assert : Bool) : (s.noteLine key assert).dialogue = s.dialogue := by simp [State.noteLine]
@[simp] theorem State.dialogue_settleLine (key n : Nat) : (s.settleLine key n).1.dialogue = s.dialogue := by simp [State.settleLine]

@[simp] theorem dialogue_relayStep (fired changed : List Nat) (acc : State × Tab Nat) (ir : Nat × Relay) :
    (relayStep fired changed acc ir).1.dialogue = acc.1.dialogue := by
  simp [relayStep]

@[simp] theorem dialogue_counterStep (fired : List Nat) (acc : State × Tab Nat) (ic : Nat × Counter) :
    (counterStep fired acc ic).1.dialogue = acc.1.dialogue := by
  simp [counterStep]

@[simp] theorem dialogue_switchStep (fired : List Nat) (acc : State × Tab Nat) (g : Nat) : (switchStep fired acc g).1.dialogue = acc.1.dialogue := by
  simp [switchStep]

@[simp] theorem State.dialogue_wave (w : Tab Nat) : (s.wave w).1.dialogue = s.dialogue := by simp [State.wave]

@[simp] theorem State.dialogue_waves (n : Nat) (w : Tab Nat) : (s.waves n w).dialogue = s.dialogue := by
  induction n generalizing s w with
  | zero => rfl
  | succ n ih => simp [State.waves, ih]

@[simp] theorem State.dialogue_propagate (w : Tab Nat) : (s.propagate w).dialogue = s.dialogue := by simp [State.propagate]
@[simp] theorem State.dialogue_follow (w : Tab Nat) : (s.follow w).dialogue = s.dialogue := by simp [State.follow]
@[simp] theorem State.dialogue_syncDevice (pulses : List Nat) : (s.syncDevice pulses).dialogue = s.dialogue := by simp [State.syncDevice]
@[simp] theorem State.dialogue_syncProducers (gs : List Nat) : (s.syncProducers gs).dialogue = s.dialogue := by simp [State.syncProducers]

/-! ## Halts -/

@[simp] theorem State.dialogue_closeResult (g flags : Nat) : (s.closeResult g flags).dialogue = s.dialogue := by simp [State.closeResult]
@[simp] theorem State.dialogue_cutFree (g : Nat) : (s.cutFree g).dialogue = s.dialogue := by simp [State.cutFree]
@[simp] theorem State.dialogue_smuReselect (before : State) (g : Nat) : (s.smuReselect before g).dialogue = s.dialogue := by simp [State.smuReselect]

@[simp] theorem State.dialogue_haltG (g src reason : Nat) (flags : Nat) : (s.haltG g src reason flags).dialogue = s.dialogue := by
  unfold State.haltG
  extract_lets closed reported live halted
  have hreported : reported.dialogue = s.dialogue := by
    simp only [reported]
    split
    · split <;> simp [closed]
    · simp [closed]
  simp [halted, hreported]

@[simp] theorem State.dialogue_keepPosition (p g : Nat) : (s.keepPosition p g).dialogue = s.dialogue := by simp [State.keepPosition]

@[simp] theorem State.dialogue_haltProgram (p src reason : Nat) (flags : Nat) : (s.haltProgram p src reason flags).dialogue = s.dialogue := by
  simp [State.haltProgram]

@[simp] theorem State.dialogue_leaveProgram (g src reason : Nat) : (s.leaveProgram g src reason).dialogue = s.dialogue := by
  simp only [State.leaveProgram]
  split <;> simp

@[simp] theorem State.dialogue_checkHalts : s.checkHalts.dialogue = s.dialogue := by simp [State.checkHalts]

/-! ## What follows a change -/

@[simp] theorem State.dialogue_syncAfter : s.syncAfter.dialogue = s.dialogue := by simp [State.syncAfter]
@[simp] theorem State.dialogue_syncAll (w : Tab Nat) (pulses : List Nat) : (s.syncAll w pulses).dialogue = s.dialogue := by simp [State.syncAll]
/-! ## Network time -/

@[simp] theorem State.dialogue_refuseStep : s.refuseStep.dialogue = s.dialogue := by simp [State.refuseStep]
@[simp] theorem State.dialogue_fireTcmp (n : Nat) (late stepped : Bool) : (s.fireTcmp n late stepped).dialogue = s.dialogue := by simp [State.fireTcmp]
@[simp] theorem State.dialogue_stepTime (adj : Int) (forced : Bool) : (s.stepTime adj forced).dialogue = s.dialogue := by simp [State.stepTime]

end Operations

end Sys2Proof.Machine
end

section
/-!
What an event leaves of the device (R389, R408, R416, R430, R452, R494, R563): each writes one part or a few, laid over the state before. A message of the
time service (R435 to R437) may step the time and so set off compare units, Hatch and halts: what it leaves are the dialogue and the standing parts.
-/
namespace Sys2Proof.Machine

/-! ## The parts -/

/-- `s` with the chain port of `t`. -/
def State.onChain (s t : State) : State := { s with chain := t.chain }
/-- `s` with the TAP of `t`. -/
def State.onJtag (s t : State) : State := { s with jtag := t.jtag }
/-- `s` with the level of CLEAR_N of `t`. -/
def State.onClear (s t : State) : State := { s with clearLow := t.clearLow }
/-- `s` with the power state of `t`. -/
def State.onPower (s t : State) : State := { s with power := t.power }
/-- `s` with the network time of `t`. -/
def State.onTime (s t : State) : State := { s with time := t.time }
/-- `s` with mailbox 7 of `t`. -/
def State.onOutbox (s t : State) : State := { s with outbox := t.outbox }
/-- `s` with Hatch of `t`. -/
def State.onHatch (s t : State) : State := { s with hatch := t.hatch }
/-- `s` with the twin of `t`. -/
def State.onTwin (s t : State) : State := { s with twin := t.twin }
/-- `s` with the fault records of `t`. -/
def State.onFaults (s t : State) : State := { s with faults := t.faults }
/-- `s` with the reference input of `t`. -/
def State.onTref (s t : State) : State := { s with tref := t.tref }
/-- `s` with the fault records, the model's counter of free values and the ports of `t`. -/
def State.onPortFaults (s t : State) : State := { s with faults := t.faults, freeCount := t.freeCount, ports := t.ports }
/-- `s` with the fault records, the model's counter of free values and the twin of `t`. -/
def State.onTwinFaults (s t : State) : State := { s with faults := t.faults, freeCount := t.freeCount, twin := t.twin }

section Events

variable {w : State → State → State} {s t u : State}

/-- An event whose next state lies within `w`. -/
theorem Within.of_next (hnext : (.next u : Host.Outcome State Fault Refusal) = .next t) (h : Within w s u) : t = w s t := by
  injection hnext with hu
  exact hu ▸ h

/-! ## The chain port -/

theorem overlay_onChain : Overlay State.onChain := ⟨fun _ => rfl, fun _ _ _ => rfl⟩

theorem onChain_readWord (s : State) (p : Path) (a : Nat) : Within State.onChain s (s.readWord p a).1 := by
  unfold State.readWord
  dsimp only
  repeat' split
  all_goals rfl

theorem onChain_single {r : State × Access} (h : Within State.onChain s r.1) : Within State.onChain s (s.single r) := by
  refine .ite ?_ (h.trans overlay_onChain ?_)
  all_goals rfl

theorem onChain_holdingWordRead (p : Path) (a : BitVec 12) (h : exec (.holdingWordRead p a) s = .next t) : t = { s with chain := t.chain } := by
  refine Within.of_next (w := State.onChain) h (onChain_single ?_)
  split
  · rfl
  · exact onChain_readWord s p _

theorem onChain_timeSnapRead (p : Path) (h : exec (.timeSnapRead p) s = .next t) : t = { s with chain := t.chain } :=
  Within.of_next (w := State.onChain) h (onChain_single (onChain_readWord s p 0x100))

/-! ## The TAP, the power state and the time -/

theorem onJtag_updateDr (cells : BitVec 39) (h : exec (.jtagUpdateDr cells) s = .next t) : t = { s with jtag := t.jtag } := by
  refine Within.of_next (w := State.onJtag) h (.ite ?_ ?_)
  all_goals rfl

theorem onPower_mpTick (h : exec .mpTick s = .next t) : t = { s with power := t.power } := by
  refine Within.of_next (w := State.onPower) h (.ite ?_ ?_)
  all_goals rfl

theorem onTime_syncTimeout (h : exec .syncTimeout s = .next t) : t = { s with time := t.time } := by
  refine Within.of_next (w := State.onTime) h (.ite ?_ ?_)
  all_goals rfl

theorem onTref_tuclkWrap (h : exec .tuclkWrap s = .next t) : t = { s with tref := t.tref } := by
  simp only [exec, execTuclkWrap] at h
  split at h
  all_goals exact Within.of_next (w := State.onTref) h rfl

/-! ## Ports, notifications and the event queue -/

theorem onPortFaults_ethLinkLoss (p : Two) (h : exec (.ethLinkLoss p) s = .next t) :
    t = { s with faults := t.faults, freeCount := t.freeCount, ports := t.ports } := by
  refine Within.of_next (w := State.onPortFaults) h (.ite ?_ ?_)
  all_goals rfl

theorem onOutbox_ackBatch (s : State) (word : Word) : Within State.onOutbox s (s.ackBatch word) := by
  refine .ite ?_ ?_
  all_goals rfl

theorem onOutbox_notifyBatchAck (o : BitVec 12) (word : Word) (h : exec (.notifyBatchAck o word) s = .next t) : t = { s with outbox := t.outbox } :=
  Within.of_next (w := State.onOutbox) h (.ite rfl (onOutbox_ackBatch s word))

theorem overlay_onHatch : Overlay State.onHatch := ⟨fun _ => rfl, fun _ _ _ => rfl⟩

theorem onHatch_setHatch (s : State) (x : Hatch) : Within State.onHatch s (s.setHatch x) := rfl

theorem onHatch_note (s : State) (e : List Byte) : Within State.onHatch s (s.note e) := .ite rfl rfl

theorem onHatch_evqLostPost (h : exec .evqLostPost s = .next t) : t = { s with hatch := t.hatch } := by
  simp only [exec, execEvqLostPost] at h
  split at h
  · exact Within.of_next (w := State.onHatch) h rfl
  · exact Within.of_next (w := State.onHatch) h ((onHatch_setHatch s _).trans overlay_onHatch (onHatch_note _ _))

/-! ## The twin and the fault records -/

theorem onTwin_hosBeacon (h : exec .hosBeacon s = .next t) : t = { s with twin := t.twin } := by
  refine Within.of_next (w := State.onTwin) h (.ite ?_ ?_)
  all_goals rfl

theorem onTwin_heartbeatSend (h : exec .heartbeatSend s = .next t) : t = { s with twin := t.twin } := by
  refine Within.of_next (w := State.onTwin) h (.ite ?_ ?_)
  all_goals rfl

theorem onTwinFaults_twinAbsentTimeout (h : exec .twinAbsentTimeout s = .next t) :
    t = { s with faults := t.faults, freeCount := t.freeCount, twin := t.twin } := by
  refine Within.of_next (w := State.onTwinFaults) h (.ite ?_ ?_)
  all_goals rfl

theorem onFaults_logFault (s : State) : Within State.onFaults s s.logFault := by
  unfold State.logFault
  dsimp only
  split
  all_goals rfl

/-! ## The Marver's store and the Ampoule -/

theorem onCal_storeDataDone (h : exec .calStoreDataDone s = .next t) : t = { s with cal := t.cal } := by
  simp only [exec, execCalStoreDataDone] at h
  split at h
  all_goals exact Within.of_next (w := State.onCal) h rfl

theorem onAmp_level1TreeDone (h : exec .level1TreeDone s = .next t) : t = { s with amp := t.amp } := by
  simp only [exec, execLevel1TreeDone] at h
  split at h
  all_goals exact Within.of_next (w := State.onAmp) h rfl

/-- The Ampoule's opening: its sheet is closed and a candidate begun. -/
theorem onAmp_newSheet (s : State) (a : Amp) : Within State.onAmp s ((s.setAmp a).closeSheet 3).newCandidate := by
  have hset : Within State.onAmp s (s.setAmp a) := rfl
  have hclosed : Within State.onAmp s ((s.setAmp a).closeSheet 3) := hset.trans overlay_onAmp (onAmp_closeSheet _ 3)
  refine hclosed.trans overlay_onAmp ?_
  rfl

theorem onAmp_sealOpen (h : exec .sealOpen s = .next t) : t = { s with amp := t.amp } := by
  simp only [exec, execSealOpen] at h
  split at h
  · exact Within.of_next (w := State.onAmp) h rfl
  · split at h
    · exact Within.of_next (w := State.onAmp) h rfl
    · exact Within.of_next (w := State.onAmp) h (onAmp_newSheet s _)

/-! ## A message of the time service -/

/-- A step of the servo writes the time and what a compare unit that is passed sets off. -/
theorem servoStep_keeps (s : State) (offset : Int) :
    (s.servoStep offset).dialogue = s.dialogue ∧ (s.servoStep offset).standing = s.standing := by
  unfold State.servoStep
  split
  · simp
  · split <;> simp

theorem servo_keeps (s : State) (offset : Int) : (s.servo offset).dialogue = s.dialogue ∧ (s.servo offset).standing = s.standing := by
  unfold State.servo
  split
  · exact ⟨rfl, rfl⟩
  · dsimp only
    split <;> simp [servoStep_keeps]

theorem synced_keeps (s : State) (diff : Int) : (s.synced diff).dialogue = s.dialogue ∧ (s.synced diff).standing = s.standing := by
  simp [State.synced, servo_keeps]

theorem delayed_keeps (s : State) (p2p : Bool) (twice : Int) :
    (s.delayed p2p twice).dialogue = s.dialogue ∧ (s.delayed p2p twice).standing = s.standing := by
  simp [State.delayed]

/-- Each kind of message sets off its own part of the servo, where what it answers is known. -/
theorem ptpMessage_keeps (p : Two) (m : PtpMsg) (h : exec (.ptpMessage p m) s = .next t) : t.dialogue = s.dialogue ∧ t.standing = s.standing := by
  simp only [exec, execPtpMessage] at h
  split at h
  · injection h with h
    exact h ▸ ⟨rfl, rfl⟩
  · injection h with h
    subst h
    cases m with
    | announce gm better => dsimp only; split <;> simp
    | followUp origin corr =>
      dsimp only
      split
      · exact synced_keeps s _
      · exact ⟨rfl, rfl⟩
    | delayResp egress received corr =>
      dsimp only
      split
      · exact delayed_keeps s _ _
      · exact ⟨rfl, rfl⟩
    | pdelayResp egress quarter turn => exact delayed_keeps s _ _
    | pdelayReq quarter egress => simp

end Events

/-- Settles O32: each event's own writes, laid over the state before; for a message of the time service (R431: its step is a step of network time) the
mailboxes, the Ampoule and the twin, and of the standing parts mailbox 7, the chain port, the canes, the DRAM and the security state. -/
theorem eventsKeepWhatTheyDoNotName : Obligations.EventsKeepWhatTheyDoNotName := by
  intro s t
  refine ⟨onChain_holdingWordRead, onChain_timeSnapRead, onJtag_updateDr, fun _ h => Within.of_next (w := State.onJtag) h rfl,
    fun h => Within.of_next (w := State.onJtag) h rfl,
    fun h => Within.of_next (w := State.onClear) h rfl, fun h => Within.of_next (w := State.onPower) h rfl, onPower_mpTick, onTime_syncTimeout, fun p m h => ?_,
    onPortFaults_ethLinkLoss, onOutbox_notifyBatchAck, onHatch_evqLostPost, onTwin_hosBeacon, onTwin_heartbeatSend, onTwinFaults_twinAbsentTimeout,
    fun h => Within.of_next (w := State.onFaults) h (onFaults_logFault s), onCal_storeDataDone, onTref_tuclkWrap, onAmp_level1TreeDone, onAmp_sealOpen⟩
  obtain ⟨hdialogue, hstanding⟩ := ptpMessage_keeps p m h
  simp only [State.dialogue, State.standing, Prod.mk.injEq] at hdialogue hstanding ⊢
  simp only [hdialogue, hstanding, and_self]

end Sys2Proof.Machine
end

section
/-!
The parts that outlast what a reset of the Ampoule sets going (R210, R349): the ends of its claims reach pins, units, sentinels and the Marver, and through
Hatch may halt gathers. For each operation on that way one equation, which as a `simp` lemma carries the next operation's.
-/
namespace Sys2Proof.Machine

/-- The Ampoule, the twin, the security state, the fault log, the class D latch and the etch marker ring. -/
def State.lasting (s : State) : Amp × Twin × Sec × (List Rec × List Rec) × (Tab Marker × Nat) :=
  (s.amp, s.twin, s.sec, (s.faults.log, s.faults.dLatch), (s.journal.markers, s.journal.nextMarker))

/-- A write of any of the other parts. -/
@[simp] theorem State.lasting_update (s : State) {pe g bc cx pr pa cn mb ob ch h f un fc dr cl tr ti tc po ex ca j pw jt}
    (hf : (f.log, f.dLatch) = (s.faults.log, s.faults.dLatch)) (hj : (j.markers, j.nextMarker) = (s.journal.markers, s.journal.nextMarker)) :
    State.lasting ⟨pe, g, bc, cx, pr, pa, cn, mb, ob, ch, h, f, un, fc, dr, cl, tr, ti, tc, po, ex, s.amp, ca, s.twin, j, pw, s.sec, jt⟩
      = s.lasting := by
  simp only [State.lasting, hf, hj]

@[simp] theorem State.lasting_ite {c : Prop} [Decidable c] (a b : State) :
    (if c then a else b).lasting = if c then a.lasting else b.lasting :=
  apply_ite State.lasting _ _ _

@[simp] theorem State.lasting_ite_fst {α : Type} {c : Prop} [Decidable c] (a b : State × α) :
    (if c then a else b).1.lasting = if c then a.1.lasting else b.1.lasting :=
  apply_ite (fun p : State × α => p.1.lasting) _ _ _

@[simp] theorem lasting_foldl {α : Type} {f : State → α → State} (hf : ∀ u x, (f u x).lasting = u.lasting) (s : State) (xs : List α) :
    (xs.foldl f s).lasting = s.lasting :=
  List.foldlRecOn (motive := fun u : State => u.lasting = s.lasting) xs f rfl fun u hu x _ => (hf u x).trans hu

@[simp] theorem lasting_foldl_fst {α β : Type} {f : State × β → α → State × β}
    (hf : ∀ acc x, (f acc x).1.lasting = acc.1.lasting) (acc : State × β) (xs : List α) :
    (xs.foldl f acc).1.lasting = acc.1.lasting :=
  List.foldlRecOn (motive := fun u : State × β => u.1.lasting = acc.1.lasting) xs f rfl fun u hu x _ => (hf u x).trans hu

@[simp] theorem lasting_forAll {α : Type} {f : State → α → State} (hf : ∀ u x, (f u x).lasting = u.lasting) (s : State) (xs : List α) :
    (forAll xs f s).lasting = s.lasting :=
  lasting_foldl hf s xs

/-! ## Fault records -/

theorem Faults.keep_log (f : Faults) (r : Rec) : ((f.keep r).log, (f.keep r).dLatch) = (f.log, f.dLatch) := by
  unfold Faults.keep
  dsimp only
  split
  · rfl
  · split
    all_goals rfl

theorem Faults.enter_log (f : Faults) (src scope : Half) (detail : Word) (real react : Bool) (tick : Word) (ns : Nat) :
    ((f.enter src scope detail real react tick ns).log, (f.enter src scope detail real react tick ns).dLatch) = (f.log, f.dLatch) := by
  unfold Faults.enter
  extract_lets noted
  have hnoted : (noted.log, noted.dLatch) = (f.log, f.dLatch) := by
    unfold noted
    split
    all_goals rfl
  split
  · exact hnoted
  · exact (Faults.keep_log noted _).trans hnoted

section Operations

variable (s : State)

/-! ## Writes of one part -/

@[simp] theorem State.lasting_setG (g : Nat) (G : Gather) : (s.setG g G).lasting = s.lasting := s.lasting_update rfl rfl
@[simp] theorem State.lasting_modG (g : Nat) (f : Gather → Gather) : (s.modG g f).lasting = s.lasting := s.lasting_update rfl rfl
@[simp] theorem State.lasting_modPlay (g : Nat) (f : Play → Play) : (s.modPlay g f).lasting = s.lasting := s.lasting_update rfl rfl
@[simp] theorem State.lasting_setSent (g n : Nat) (x : Sent) : (s.setSent g n x).lasting = s.lasting := s.lasting_update rfl rfl
@[simp] theorem State.lasting_setPin (g p : Nat) (x : Pin) : (s.setPin g p x).lasting = s.lasting := s.lasting_update rfl rfl
@[simp] theorem State.lasting_setTiu (g u : Nat) (x : Tiu) : (s.setTiu g u x).lasting = s.lasting := s.lasting_update rfl rfl
@[simp] theorem State.lasting_setSmu (g u : Nat) (x : Smu) : (s.setSmu g u x).lasting = s.lasting := s.lasting_update rfl rfl
@[simp] theorem State.lasting_setProg (p : Nat) (x : Prog) : (s.setProg p x).lasting = s.lasting := s.lasting_update rfl rfl
@[simp] theorem State.lasting_setHatch (h : Hatch) : (s.setHatch h).lasting = s.lasting := s.lasting_update rfl rfl
@[simp] theorem State.lasting_setLine (key : Nat) (l : Line) : (s.setLine key l).lasting = s.lasting := s.lasting_update rfl rfl
@[simp] theorem State.lasting_setGroup (g : Nat) (on : Bool) : (s.setGroup g on).lasting = s.lasting := s.lasting_update rfl rfl
@[simp] theorem State.lasting_setCalTile (t : Nat) (x : CalTile) : (s.setCalTile t x).lasting = s.lasting := s.lasting_update rfl rfl
@[simp] theorem State.lasting_setCalG (g : Nat) (x : CalG) : (s.setCalG g x).lasting = s.lasting := s.lasting_update rfl rfl
@[simp] theorem State.lasting_holdDigs (g : Nat) : (s.holdDigs g).lasting = s.lasting := s.lasting_update rfl rfl
@[simp] theorem State.lasting_keepPosition (p g : Nat) : (s.keepPosition p g).lasting = s.lasting := s.lasting_update rfl rfl
@[simp] theorem State.lasting_smuReselect (before : State) (g : Nat) : (s.smuReselect before g).lasting = s.lasting := s.lasting_update rfl rfl

/-! ## Records, reports and exports -/

@[simp] theorem State.lasting_advise (src scope : Half) (detail : Word) : (s.advise src scope detail).lasting = s.lasting :=
  s.lasting_update (Faults.enter_log _ _ _ _ _ _ _ _) rfl

@[simp] theorem State.lasting_report (r : Report) : (s.report r).lasting = s.lasting := by simp [State.report, State.setJournal]
@[simp] theorem State.lasting_note (e : List Byte) : (s.note e).lasting = s.lasting := by simp [State.note]
@[simp] theorem State.lasting_sendDgram : s.sendDgram.lasting = s.lasting := by simp [State.sendDgram, State.send, State.setPort]
@[simp] theorem State.lasting_ringRecord (r : List Byte) : (s.ringRecord r).lasting = s.lasting := by simp [State.ringRecord]
@[simp] theorem State.lasting_emitRec (type site : Nat) (body : List Byte) : (s.emitRec type site body).lasting = s.lasting := by simp [State.emitRec]

/-! ## Sentinels and the Marver -/

@[simp] theorem State.lasting_setDwelled (g n : Nat) (act : Bool) : (s.setDwelled g n act).lasting = s.lasting := by
  simp [State.setDwelled, State.sentWakes]

@[simp] theorem State.lasting_startDwell (g n : Nat) : (s.startDwell g n).lasting = s.lasting := by simp [State.startDwell]
@[simp] theorem State.lasting_probes (g : Nat) : (s.probes g).lasting = s.lasting := by simp [State.probes, State.probe]
@[simp] theorem State.lasting_startStore : s.startStore.lasting = s.lasting := by simp [State.startStore]
@[simp] theorem State.lasting_runComplete (t : Nat) : (s.runComplete t).lasting = s.lasting := by simp [State.runComplete]
@[simp] theorem State.lasting_endStep (g n : Nat) (out : CalOut) : (s.endStep g n out).lasting = s.lasting := by simp [State.endStep]
@[simp] theorem State.lasting_freeService (g : Nat) (us : List Nat) : (s.freeService g us).lasting = s.lasting := by simp [State.freeService]
@[simp] theorem State.lasting_preempt (g : Nat) (hits : Nat → Bool) : (s.preempt g hits).lasting = s.lasting := by simp [State.preempt]
@[simp] theorem State.lasting_calStrokeEnd (g : Nat) : (s.calStrokeEnd g).lasting = s.lasting := by simp [State.calStrokeEnd]

/-! ## Hatch -/

@[simp] theorem State.lasting_collect (acc : State × Tab Nat) (g : Nat) (pulses : List Nat) : (State.collect acc g pulses).1.lasting = acc.1.lasting := by
  simp [State.collect]

@[simp] theorem State.lasting_mergesEvent (key : Nat) (l : Line) (rises : Bool) : (s.mergesEvent key l rises).1.lasting = s.lasting := by
  simp [State.mergesEvent, State.choose]

@[simp] theorem State.lasting_settleLine (key n : Nat) : (s.settleLine key n).1.lasting = s.lasting := by
  simp [State.settleLine, State.noteLine]

@[simp] theorem State.lasting_wave (w : Tab Nat) : (s.wave w).1.lasting = s.lasting := by
  simp [State.wave, relayStep, counterStep, switchStep]

@[simp] theorem State.lasting_waves (n : Nat) (w : Tab Nat) : (s.waves n w).lasting = s.lasting := by
  induction n generalizing s w with
  | zero => rfl
  | succ n ih => simp [State.waves, ih]

@[simp] theorem State.lasting_propagate (w : Tab Nat) : (s.propagate w).lasting = s.lasting := by simp [State.propagate]
@[simp] theorem State.lasting_follow (w : Tab Nat) : (s.follow w).lasting = s.lasting := by simp [State.follow]
@[simp] theorem State.lasting_present (gs : List Nat) : (s.present gs).lasting = s.lasting := by simp [State.present, State.presentAt]
@[simp] theorem State.lasting_syncDevice (pulses : List Nat) : (s.syncDevice pulses).lasting = s.lasting := by simp [State.syncDevice]
@[simp] theorem State.lasting_syncProducers (gs : List Nat) : (s.syncProducers gs).lasting = s.lasting := by simp [State.syncProducers]

/-! ## Halts -/

@[simp] theorem State.lasting_closeResult (g flags : Nat) : (s.closeResult g flags).lasting = s.lasting := by simp [State.closeResult]
@[simp] theorem State.lasting_cutFree (g : Nat) : (s.cutFree g).lasting = s.lasting := by simp [State.cutFree, State.fresh]

@[simp] theorem State.lasting_haltG (g src reason flags : Nat) : (s.haltG g src reason flags).lasting = s.lasting := by
  unfold State.haltG
  extract_lets closed reported live halted
  have hreported : reported.lasting = s.lasting := by
    simp only [reported]
    split
    · split <;> simp [closed]
    · simp [closed]
  simp [halted, hreported]

@[simp] theorem State.lasting_haltProgram (p src reason flags : Nat) : (s.haltProgram p src reason flags).lasting = s.lasting := by
  simp [State.haltProgram]

@[simp] theorem State.lasting_leaveProgram (g src reason : Nat) : (s.leaveProgram g src reason).lasting = s.lasting := by
  simp only [State.leaveProgram]
  split <;> simp

@[simp] theorem State.lasting_checkHalts : s.checkHalts.lasting = s.lasting := by simp [State.checkHalts]
@[simp] theorem State.lasting_sync (g : Nat) (pulses : List Nat) : (s.sync g pulses).lasting = s.lasting := by simp [State.sync, State.syncAfter]

/-! ## Pins and claims -/

@[simp] theorem State.lasting_pinsChanged (g : Nat) : (s.pinsChanged g).lasting = s.lasting := by simp [State.pinsChanged, State.checkTrips]
@[simp] theorem State.lasting_syncClaims (g : Nat) : (s.syncClaims g).lasting = s.lasting := by simp [State.syncClaims]

end Operations

end Sys2Proof.Machine
end

section
/-!
What a power-on reset with VDDAO kept leaves as it was and what it clears (R430, R439, R454, R455, R470, R493, R516, R536).
-/
namespace Sys2Proof.Machine

/-- What a device reset keeps of the Ampoule, the twin, the faults, the journal and the security state, beside the Ampoule's ring of signing indices. -/
def State.retained (s : State) : (Nat × Bool) × (List Rec × List Rec) × (Tab Marker × Nat) × (Tab Nat × List Nat × Tab Slot × Nat) :=
  ((s.amp.lec, s.twin.solo), (s.faults.log, s.faults.dLatch), (s.journal.markers, s.journal.nextMarker),
    (s.sec.hssRing, s.sec.floors, s.sec.slots, s.sec.life))

theorem State.retained_of_lasting {s t : State} (h : t.lasting = s.lasting) : t.retained = s.retained := by
  simp only [State.lasting, Prod.mk.injEq] at h
  simp only [State.retained, h]

theorem State.hssRing_of_lasting {s t : State} (h : t.lasting = s.lasting) : t.amp.hssRing = s.amp.hssRing := congrArg (·.1.hssRing) h

theorem State.ampReset_retained (s : State) : s.ampReset.retained = s.retained :=
  (State.retained_of_lasting (lasting_forAll State.lasting_syncClaims _ _)).trans rfl

theorem State.ampReset_hssRing (s : State) : s.ampReset.amp.hssRing = s.amp.hssRing :=
  (State.hssRing_of_lasting (lasting_forAll State.lasting_syncClaims _ _)).trans rfl

theorem State.endReservation_torn_retained (s : State) : (s.endReservation true).retained = s.retained := by
  unfold State.endReservation
  split
  all_goals rfl

theorem State.endReservation_of_not_reserving {s : State} (h : s.reserving = false) (torn : Bool) : s.endReservation torn = s := if_pos (by simp [h])

theorem State.netNs_of_net_zero {s : State} (h : s.time.net = 0) : s.netNs = 0 := by simp [State.netNs, h]

/-- Settles O10 (R516, R536; log 83): the reset of the Ampoule lets these parts stand, and the device reset takes them over or writes the value named.
A reservation under way is torn, which lowers no index of a ring in order (log 140). -/
theorem aResetKeepsWhatItMust : Obligations.AResetKeepsWhatItMust := by
  intro s
  have hretained := (State.ampReset_retained _).trans (State.endReservation_torn_retained s)
  have hring := State.ampReset_hssRing (s.endReservation true)
  obtain ⟨-, hgrows, -⟩ : s.neverFalls (s.powerOnReset false) := (State.powerOnReset_keeps (.refl s) false).up
  simp only [State.retained, Prod.mk.injEq] at hretained
  obtain ⟨⟨hlec, hsolo⟩, ⟨hlog, hlatch⟩, ⟨hmarkers, hnext⟩, hsecRing, hfloors, hslots, hlife⟩ := hretained
  refine ⟨s.powerOnReset false, rfl, hsolo, congrArg (fun solo : Bool => if solo then 0 else 1) hsolo, hlog, hlatch, rfl, hmarkers, hnext, hlec,
    fun hfree => hring.trans (congrArg (·.amp.hssRing) (State.endReservation_of_not_reserving hfree true)), hgrows,
    hsecRing, hfloors, hslots, hlife, State.netNs_of_net_zero rfl, rfl, fun _ => rfl, rfl, rfl, rfl⟩

end Sys2Proof.Machine
end

section
/-!
One edge of the timestamp clock (R430, R431) leaves the mailboxes and Hatch as they are, so that where nothing waits for it the edge is the whole step.
-/
namespace Sys2Proof.Machine

theorem State.tick_waiters (s : State) (k : WaitKind) : s.tick.waiters k = s.waiters k := by
  unfold State.tick
  split
  all_goals rfl

theorem State.tick_hatch (s : State) : s.tick.hatch = s.hatch := by
  unfold State.tick
  split
  all_goals rfl

theorem State.selftestsDone_of_no_waiter {s : State} (h : s.waiters .selftest = []) : s.selftestsDone = s := by
  rw [State.selftestsDone, h]
  rfl

/-- Settles O2 (log 2): in DORMANT and awake the edge takes its one branch or the other. -/
theorem anEmptyQueueCountsOneEdge : Obligations.AnEmptyQueueCountsOneEdge := by
  intro s hpending
  refine ⟨?step, fun hwaiters hinflight => ?idle, fun hdormant => ?dormant, fun hawake => ?awake⟩
  case step => simp only [step, hpending]
  case idle =>
    have hdone : s.tick.selftestsDone = s.tick := State.selftestsDone_of_no_waiter ((s.tick_waiters .selftest).trans hwaiters)
    simp only [State.idle, hdone, State.tick_hatch, hinflight, List.isEmpty_nil, if_true]
  case dormant => exact if_pos (by simp [hdormant])
  case awake => exact if_neg (by simp [hawake])

end Sys2Proof.Machine
end

section
/-!
A TIME_ADJUST that executes (R431): its response is formed in an entry that carries the command's completion bound (R411, R419).
-/
namespace Sys2Proof.Machine

/-- A whole TIME_ADJUST on mailbox 0 with the nominal increment, 4 ns. -/
def nominalAdjust : Req := { mbx := 0, tag := 7, target := 0x8000, flags := 0, rsv := 0, payload := toLE 8 0x4_0000_0000 }

/-- Refutes O21: by the counterexample TIME_ADJUST with 4 ns. It is answered OK, as R431 has it; but `State.finish` has noted its completion bound of 20 µs in
its entry (R411, `State.boundBy`) before the response, where the statement's response leaves there the 0 of a request just rung, whatever bound it is formed
with. -/
theorem not_anIncrementTakesEffectAtTheNextEdge : ¬ Obligations.AnIncrementTakesEffectAtTheNextEdge := by
  rintro ⟨hadjust, -⟩
  have hready : activeDevice.ready 0x0C05 [8] nominalAdjust = true := by decide +kernel
  have hwithin : 3998 * 2 ^ 32 ≤ 1000 * u64 nominalAdjust.payload 0 ∧ 1000 * u64 nominalAdjust.payload 0 ≤ 4002 * 2 ^ 32 := by decide +kernel
  obtain ⟨haccepted, -⟩ := hadjust activeDevice nominalAdjust hready rfl
  obtain ⟨bound, t, hnext, rfl, -⟩ := haccepted hwithin
  have hran : (activeDevice.firmware 0x0C05 (us 20) [8] nominalAdjust timeAdjustBody).entryBounds 0 = [us 20] := by decide +kernel
  have hbegun : (activeDevice.begun 0x0C05 nominalAdjust).entryBounds 0 = [0] := by decide +kernel
  refine next_ne_respond_begun (op := 0x0C05) (fun _ => rfl) ?_ (hran.trans_ne (by rw [hbegun]; decide)) _ _ _ hnext
  rfl

end Sys2Proof.Machine
end

section
/-!
The events of network time and Hatch (R19, R328, R332, R333, R335, R337, R339, R435 to R437): where the condition of an event holds, its `exec` takes the
branch that has its effect.
-/
namespace Sys2Proof.Machine

/-- Settles O48 (logs 21, 28, 50, 51, 127, 130, 131): each event's condition decides its tests, and the branch they leave is the effect; HALT_N's two events
have no condition. -/
theorem timeAndHatchEventsComplete : Obligations.TimeAndHatchEventsComplete := by
  refine ⟨fun port m => ?ptpSync, ?syncTimeout, fun n => ?tcmpFire, fun j level => ?trigInEdge, fun j level => ?trigInEdge2, fun r => ?relayPulse,
    fun line k => ?stormLimit, fun line k => ?ringDetect, fun line k => ?notifyCoalesceEnd, ?evqLostPost, fun s _ => rfl, fun s _ => rfl,
    fun port m => ?ptpMessage⟩
  case ptpSync | ptpMessage =>
    intro s hon
    exact if_neg (by simp [show s.ptpOn port.val = true from hon])
  case syncTimeout =>
    rintro s ⟨hport, hsynced, hpassed⟩
    exact congrArg _ (if_neg (by simp [hport, hsynced, hpassed]))
  case tcmpFire =>
    rintro s ⟨harmed, hreached, hawake⟩
    exact congrArg _ (if_pos (by simp [harmed, hreached, hawake]))
  case trigInEdge | trigInEdge2 =>
    rintro s rfl
    rfl
  case relayPulse =>
    rintro s ⟨hpending, hdelay⟩
    exact if_neg (by simpa [hpending] using hdelay)
  case stormLimit =>
    rintro s ⟨hline, hlimit, hevents, halive⟩
    simp only [exec, execStormLimit, hline]
    exact if_neg (by simpa [hlimit, halive] using hevents)
  case ringDetect =>
    rintro s ⟨hline, hasync, halive⟩
    simp only [exec, execRingDetect, hline]
    exact if_neg (by simp [hasync, halive])
  case notifyCoalesceEnd =>
    rintro s ⟨hline, hbusy, hpassed⟩
    simp only [exec, execNotifyCoalesceEnd, hline]
    exact (if_neg (by simp [hbusy, hpassed])).trans (apply_ite Host.Outcome.next _ _ _).symm
  case evqLostPost =>
    rintro s ⟨hlost, hspace⟩
    exact if_neg (by simpa [hlost] using hspace)

end Sys2Proof.Machine
end

section
/-!
How a step runs a command, what it leaves of the queue, and the invariant of the block: the state after reset meets it and every step keeps it (R19, R396,
R397, R459, R468, R470, R478, R492, R493). The parts of `Keeps` are those of the invariant and the queue.
-/
namespace Sys2Proof.Machine

/-- Settles O1 (log 1). -/
theorem stepRunsTheFrontCommand : Obligations.StepRunsTheFrontCommand :=
  fun _ _ _ => rfl

/-- Settles O3 (log 1): of what `Keeps` speaks of, the queue stays as it is. -/
theorem execLeavesTheQueue : Obligations.ExecLeavesTheQueue :=
  fun c s _ hexec => ((exec_keeps (.refl s) c).keeps hexec).pend

theorem Keeps.wf {s t : State} (h : Keeps s t) (hs : s.wf) : t.wf := by
  obtain ⟨hfaults, hhatch, hjournal, htwin, hdram, hmbx⟩ := hs
  exact ⟨h.flt hfaults, h.note hhatch, h.jrn hjournal, h.twin htwin, h.mem hdram, h.mbx hmbx⟩

/-- Settles O6: `Keeps` carries each part of the invariant over the step, and the command taken off the queue is no part of it. -/
theorem everyStepKeepsWellFormed : Obligations.EveryStepKeepsWellFormed := by
  intro s t hwf hstep
  obtain ⟨rest, hkeeps⟩ := keeps_of_step hstep
  exact hkeeps.wf hwf

/-- Settles O5: every list and table of the invariant is empty after reset, and SETTLE and TURN_LIMIT stand at their defaults. -/
theorem resetIsWellFormed : Obligations.ResetIsWellFormed := by
  have hfaults : State.reset.faults.orderly := ⟨Nat.zero_le _, Nat.zero_le _, .nil, .nil, List.forall_mem_nil _⟩
  have hjournal : State.reset.journal.bounded := ⟨Nat.zero_le _, fun _ => Nat.zero_le _⟩
  have htwin : State.reset.twin.inRange := by unfold Twin.inRange; decide
  have hmbx : credits State.reset.mbx := fun _ => ⟨Nat.zero_le _, Nat.zero_le _, rfl⟩
  exact ⟨hfaults, Nat.zero_le _, hjournal, htwin, rfl, hmbx⟩

end Sys2Proof.Machine
end

section
/-!
The collector's records (R492): which record a new one takes the place of, and where an occurrence forms one.
-/
namespace Sys2Proof.Machine

section Drop
variable {a b : List Rec} {x : Rec}

theorem dropOldestA_eq_none (h : ∀ r ∈ a, srcClass r.src ≠ 0xA) : dropOldestA a = none := by
  induction a with
  | nil => rfl
  | cons r a ih =>
    obtain ⟨hr, ha⟩ := List.forall_mem_cons.mp h
    simp [dropOldestA, hr, ih ha]

theorem dropOldestA_append_cons (ha : ∀ r ∈ a, srcClass r.src ≠ 0xA) (hx : srcClass x.src = 0xA) : dropOldestA (a ++ x :: b) = some (a ++ b) := by
  induction a with
  | nil => simp [dropOldestA, hx]
  | cons r a ih =>
    obtain ⟨hr, ha⟩ := List.forall_mem_cons.mp ha
    simp [dropOldestA, hr, ih ha]

end Drop

section Keep
variable {f : Faults}

theorem Faults.keep_of_room (h : f.recs.length < 256) (r : Rec) :
    f.keep r = { f with recs := f.recs ++ [{ r with seq := f.nextSeq }], nextSeq := f.nextSeq + 1 } := if_pos h

theorem Faults.keep_of_dropped (h : 256 ≤ f.recs.length) {rs : List Rec} (hrs : dropOldestA f.recs = some rs) (r : Rec) :
    f.keep r = { f with recs := rs ++ [{ r with seq := f.nextSeq }], nextSeq := f.nextSeq + 1 } := by
  rw [Faults.keep, if_neg (Nat.not_lt.mpr h), hrs]

theorem Faults.keep_of_none (h : 256 ≤ f.recs.length) (hnone : dropOldestA f.recs = none) (r : Rec) : f.keep r = { f with lost := sat16 f.lost } := by
  rw [Faults.keep, if_neg (Nat.not_lt.mpr h), hnone]

/-- A record that is kept stands last, or it is counted. -/
theorem Faults.mem_keep_or_lost (f : Faults) (r : Rec) : { r with seq := f.nextSeq } ∈ (f.keep r).recs ∨ (f.keep r).lost = sat16 f.lost := by
  rcases Nat.lt_or_ge f.recs.length 256 with hroom | hfull
  · simp [Faults.keep_of_room hroom]
  · cases hdrop : dropOldestA f.recs with
    | some rs => simp [Faults.keep_of_dropped hfull hdrop]
    | none => simp [Faults.keep_of_none hfull hdrop]

end Keep

/-- The collector with the source of an occurrence as its last, which a class A source is not (`Faults.enter`). -/
def Faults.noted (f : Faults) (src : Half) : Faults := if srcClass src == 0xA then f else { f with lastSrc := src }

section Noted
variable (f : Faults) (src : Half)

@[simp] theorem Faults.noted_recs : (f.noted src).recs = f.recs := by
  unfold Faults.noted
  split
  all_goals rfl

@[simp] theorem Faults.noted_lost : (f.noted src).lost = f.lost := by
  unfold Faults.noted
  split
  all_goals rfl

@[simp] theorem Faults.noted_nextSeq : (f.noted src).nextSeq = f.nextSeq := by
  unfold Faults.noted
  split
  all_goals rfl

end Noted

section Enter
variable {f : Faults} {src scope : Half} (detail : Word) (real react : Bool) (tick : Word) (ns : Nat)

/-- What an occurrence of a source and SCOPE makes of a record that stands. -/
def Rec.occurred (src scope : Half) (detail : Word) (real react : Bool) (tick : Word) (r : Rec) : Rec :=
  if r.names src scope then r.hit real react tick detail else r

theorem Rec.occurred_names (r : Rec) : (r.occurred src scope detail real react tick).names src scope = r.names src scope := by
  unfold Rec.occurred
  split
  · simp [Rec.names]
  · rfl

/-- The record that an occurrence of a source and SCOPE forms. -/
def Rec.formed (src scope : Half) (detail : Word) (real react : Bool) (tick : Word) (ns : Nat) : Rec :=
  { ({ src := src, scope := scope } : Rec).hit real react tick detail with time := ns }

@[simp] theorem Rec.formed_src : (Rec.formed src scope detail real react tick ns).src = src := Rec.hit_src _ real react tick detail

@[simp] theorem Rec.formed_scope : (Rec.formed src scope detail real react tick ns).scope = scope := Rec.hit_scope _ real react tick detail

theorem Faults.enter_eq : f.enter src scope detail real react tick ns =
    if (f.noted src).recs.any (·.names src scope) then
      { f.noted src with recs := (f.noted src).recs.map (Rec.occurred src scope detail real react tick) }
    else (f.noted src).keep (.formed src scope detail real react tick ns) := rfl

theorem Faults.enter_of_named (h : f.recs.any (·.names src scope) = true) :
    f.enter src scope detail real react tick ns
      = { f.noted src with recs := (f.noted src).recs.map (Rec.occurred src scope detail real react tick) } :=
  (Faults.enter_eq ..).trans (if_pos (by rwa [Faults.noted_recs]))

theorem Faults.enter_of_new (h : f.recs.any (·.names src scope) = false) :
    f.enter src scope detail real react tick ns = (f.noted src).keep (.formed src scope detail real react tick ns) :=
  (Faults.enter_eq ..).trans (if_neg (by rw [Faults.noted_recs, h]; exact Bool.false_ne_true))

/-- After an occurrence a record of its source and SCOPE stands, or it is counted. -/
theorem Faults.enter_names_or_lost (f : Faults) (src scope : Half) :
    (f.enter src scope detail real react tick ns).recs.any (·.names src scope) = true
      ∨ (f.enter src scope detail real react tick ns).lost = sat16 f.lost := by
  cases hnamed : f.recs.any (·.names src scope) with
  | true =>
    left
    rw [Faults.enter_of_named detail real react tick ns hnamed, ← hnamed]
    simp [List.any_map, Function.comp_def, Rec.occurred_names]
  | false =>
    rw [Faults.enter_of_new detail real react tick ns hnamed]
    refine (Faults.mem_keep_or_lost _ _).imp (fun hlast => ?_) fun hlost => by rw [hlost, Faults.noted_lost]
    exact List.any_eq_true.mpr ⟨_, hlast, by simp [Rec.names]⟩

end Enter

/-- Settles O24: a record of the pair is updated in its place; a new one is kept by the room there is and the class A records that stand. -/
theorem aFullCollectorReplacesOrCounts : Obligations.AFullCollectorReplacesOrCounts := by
  intro f src scope detail real react tick ns
  refine ⟨fun hnamed => ?named, fun hnew hroom => ?room, fun hnew hfull hnone => ?counted, fun a b x hsplit ha hx hnew hfull => ?replaced⟩
  case named =>
    rw [Faults.enter_of_named detail real react tick ns hnamed]
    exact ⟨by simp, f.noted_lost src, f.noted_nextSeq src⟩
  case room =>
    rw [Faults.enter_of_new detail real react tick ns hnew, Faults.keep_of_room (by simpa using hroom), Faults.noted_recs, Faults.noted_nextSeq]
    exact ⟨_, rfl, by simp, by simp, rfl, rfl⟩
  case counted =>
    have hdrop : dropOldestA (f.noted src).recs = none := by rw [Faults.noted_recs, dropOldestA_eq_none hnone]
    rw [Faults.enter_of_new detail real react tick ns hnew, Faults.keep_of_none (by simpa using hfull) hdrop]
    exact ⟨f.noted_recs src, congrArg sat16 (f.noted_lost src), f.noted_nextSeq src⟩
  case replaced =>
    have hdrop : dropOldestA (f.noted src).recs = some (a ++ b) := by rw [Faults.noted_recs, hsplit, dropOldestA_append_cons ha hx]
    rw [Faults.enter_of_new detail real react tick ns hnew, Faults.keep_of_dropped (by simpa using hfull) hdrop]
    exact ⟨_, rfl, by simp, by simp, f.noted_nextSeq src, f.noted_lost src⟩

end Sys2Proof.Machine
end

section
/-!
TWIN_ABSENT (R456): the timeout acts once in PAIRING, and its advisory is recorded or counted.
-/
namespace Sys2Proof.Machine

theorem State.advise_names_or_lost (s : State) (src scope : Half) (detail : Word) :
    (s.advise src scope detail).faults.recs.any (·.names src scope) = true ∨ (s.advise src scope detail).faults.lost = sat16 s.faults.lost :=
  Faults.enter_names_or_lost _ _ _ _ _ _ _ _

theorem exec_twinAbsentTimeout_posts {s : State} (h : When.twinAbsentTimeout s) :
    exec .twinAbsentTimeout s = .next ((s.setTwin { s.twin with absent := true }).advise fTwinAbsent hDevice) := by
  obtain ⟨hpairing, habsent, hpassed⟩ := h
  exact congrArg _ (if_pos (by simp only [hpairing, habsent, hpassed, beq_self_eq_true, Bool.not_false, Bool.and_self]))

theorem exec_twinAbsentTimeout_stays {s : State} (h : ¬ When.twinAbsentTimeout s) : exec .twinAbsentTimeout s = .next s :=
  next_stays_unless_pos h fun hc => by simpa [When.twinAbsentTimeout, and_assoc] using hc

/-- Settles O19 (logs 3 and 130): the post ends the condition of the next. -/
theorem twinAbsentOnce : Obligations.TwinAbsentOnce := by
  intro s
  refine ⟨fun hpairing habsent hsecond => ?posts, fun hearly => exec_twinAbsentTimeout_stays ?_⟩
  case posts =>
    have hpassed : s.passed s.power.resetNs (10 ^ 9) = true := decide_eq_true (Nat.le_of_lt hsecond)
    exact ⟨_, exec_twinAbsentTimeout_posts ⟨hpairing, habsent, hpassed⟩, rfl, State.advise_names_or_lost _ _ _ _,
      exec_twinAbsentTimeout_stays fun ⟨_, habsent, _⟩ => Bool.false_ne_true habsent.symm⟩
  · rintro ⟨hpairing, -, hpassed⟩
    have hsecond : s.power.resetNs + 10 ^ 9 ≤ s.upNs := of_decide_eq_true hpassed
    omega

end Sys2Proof.Machine
end

section
/-!
An LC_TRANSITION that is refused (R512): its response is formed in an entry that carries the command's completion bound (R411, R419).
-/
namespace Sys2Proof.Machine

/-- A whole LC_TRANSITION on mailbox 0 toward state 0, which follows none, without CONFIRM and TOKEN. -/
def backwardTransition : Req := { mbx := 0, tag := 7, target := 0x8000, flags := 0, rsv := 0, payload := List.replicate 8 0#8 }

/-- Refutes O23: by the counterexample LC_TRANSITION toward state 0. It is refused with LIFECYCLE, as R512 has it; but `State.finish` has noted its completion
bound of 300 µs in its entry (R411, `State.boundBy`) before the response, where the statement's response leaves there the 0 of a request just rung, whatever
bound it is formed with. -/
theorem not_onlyTheTransitionsOfTheTable : ¬ Obligations.OnlyTheTransitionsOfTheTable := by
  intro h
  have hready : activeDevice.ready 0x0F0A [8] backwardTransition = true := by decide +kernel
  obtain ⟨hrefused, -⟩ := h activeDevice backwardTransition hready (.inl rfl) (by decide +kernel)
  obtain ⟨bound, hnext⟩ := hrefused (.inl (by decide +kernel))
  have hran : (activeDevice.firmware 0x0F0A (us 300) [8] backwardTransition lcTransitionBody).entryBounds 0 = [us 300] := by decide +kernel
  have hbegun : (activeDevice.begun 0x0F0A backwardTransition).entryBounds 0 = [0] := by decide +kernel
  refine next_ne_respond_begun (op := 0x0F0A) (fun _ => rfl) ?_ (hran.trans_ne (by rw [hbegun]; decide)) _ _ _ hnext
  rfl

end Sys2Proof.Machine
end

section
/-!
The fault, safe state, journal and power events (R475, R477, R484, R487, R488, R490, R491, R493, R495, R528, R533, R537, R544): where the condition of an
event holds, its `exec` takes the branch that has its effect.
-/
namespace Sys2Proof.Machine

/-- Settles O54 (logs 13, 16, 57, 58, 59, 60, 62, 63, 66, 67, 70, 99, 111 and 130; the pins at a release by log 61, the loader's port by log 69, the replays
by log 91): each event's condition decides its tests, and the branch they leave is the effect; the others have no condition. -/
theorem faultAndPowerEventsComplete : Obligations.FaultAndPowerEventsComplete := by
  refine ⟨fun sensor reading s hhot => congrArg _ (if_neg hhot), fun src scope detail => ?faultOccurrence, fun s _ => rfl, ?safeReleaseCheck,
    fun site c => ?replaySpan, fun site c => ?replayMembers, fun site => ?replayAlone, fun site => ?replayJoin, fun g => ?vfyOutcomeWrite,
    fun s hruns => congrArg _ (if_pos hruns), fun s _ => rfl, fun s _ => rfl, fun s _ => rfl, fun pll s _ => rfl, fun r mv s _ => rfl,
    fun pulseNs => ?pfailAssert, ?pfailHighExpiry, fun pulseNs s _ => rfl, fun vddaoLost s _ => rfl, fun d => ?resetTimer,
    fun chainPos chainLast twinId slotA slotB calNewer calOlder clocks => ?startup, fun s _ => rfl, ?dormantEntryDone,
    fun restored dormantNs => ?wakeDormant, fun restored dormantNs => ?wakeEntering, fun src scope s _ => rfl⟩
  case faultOccurrence =>
    rintro s ⟨hdefined, hclass, hhandle, hraised⟩
    exact congrArg _ (if_neg (by simp [hdefined, hclass, hhandle, hraised]))
  case safeReleaseCheck =>
    rintro s ⟨hparked, hheld⟩
    exact congrArg _ (if_neg (by simp [hparked, hheld]))
  case replaySpan =>
    rintro s ⟨hhalf, hkind, hfree, hckpt, hmode⟩
    simp [exec, execReplayStart, hhalf, hkind, hfree, hckpt, hmode]
  case replayMembers =>
    rintro s ⟨hhalf, hkind, hfree, hckpt, hmode, hlive⟩
    simp [exec, execReplayStart, hhalf, hkind, hfree, hckpt, hmode, hlive]
  case replayAlone =>
    rintro s ⟨hhalf, hkind, hfree, hckpt⟩
    simp [exec, execReplayStart, hhalf, hkind, hfree, hckpt]
  case replayJoin =>
    rintro s ⟨hhalf, howes, hfrozen, hswapping⟩
    exact (if_neg (by simp [hhalf])).trans ((if_neg (by simp only [howes, Bool.false_eq_true, not_false_eq_true])).trans
      (congrArg _ (if_neg (by simp [hfrozen, hswapping]))))
  case vfyOutcomeWrite =>
    intro s _
    simp only [exec, execVfyOutcomeWrite]
    cases ((s.vfySettle g).gather g).replay with
    | none => rfl
    | some r =>
      dsimp only
      cases r.etch with
      | none => rfl
      | some e =>
        cases r.vfyDone with
        | none => rfl
        | some v => rfl
  case pfailAssert =>
    intro s hfirst
    exact if_neg (Bool.eq_false_iff.mp hfirst)
  case pfailHighExpiry =>
    rintro s ⟨hparked, hpassed⟩
    exact congrArg _ (if_pos (by simp only [hparked, hpassed, Bool.and_self]))
  case resetTimer =>
    intro s hdue
    simp only [exec, execResetTimer, show s.power.resetDue.find? _ = some d from hdue]
  case startup =>
    rintro s ⟨hoff, hparked⟩
    exact if_neg (by simp [hoff, hparked])
  case dormantEntryDone =>
    rintro s ⟨hentering, hready⟩
    exact if_neg (by simp [hentering, hready])
  case wakeDormant =>
    intro s hdormant
    exact congrArg _ (if_pos (beq_iff_eq.mpr hdormant))
  case wakeEntering =>
    rintro s ⟨hawake, hentering⟩
    exact congrArg _ ((if_neg (mt beq_iff_eq.mp hawake)).trans (if_pos hentering))

end Sys2Proof.Machine
end

section
/-!
The events of the twin link and the hand-over bus (R450, R452, R455 to R458, R460, R461, R463, R465, R468, R469, R480): where the condition of an event
holds, its `exec` takes the branch that has its effect.
-/
namespace Sys2Proof.Machine

/-- Settles O55 (logs 84, 86, 88, 89, 91, 92, 93, 95, 97, 98 and 130; what LINK_PAIRED and the hand-back leave of the shadow by log 87): each event's condition
decides its tests, and the branch they leave is the effect; ANNEAL_FRAME and HOS_EDGE_SEEN have no condition. -/
theorem twinEventsComplete : Obligations.TwinEventsComplete := by
  refine ⟨fun matching shadows => ?pairClash, fun matching shadows => ?paired, fun s => exec_twinAbsentTimeout_posts, ?heartbeatSend, ?heartbeatTimeout,
    fun s hlate => congrArg _ (if_pos hlate), ?linkLoss, fun s _ => rfl, fun seq s hlink => congrArg _ (if_pos hlink), fun m => ?twinLinkFrame,
    fun s hpaired => congrArg _ (if_pos (beq_iff_eq.mpr hpaired)), ?wakeLinkTimeout, ?hosOwnerWaitExpiry, ?hosSilenceExpiry, fun s _ => rfl,
    fun s howner => congrArg _ (if_pos howner), ?hosRefresh, ?hosBeacon, ?turnRelease, ?turnSwap, ?turnSwapDone, ?turnLimitExpiry,
    fun state mirrorSeq ownsBus => ?heartbeatReceive, fun s hawake => congrArg _ (if_neg (mt beq_iff_eq.mp hawake))⟩
  case pairClash =>
    rintro s ⟨hpairing, hlink, hanneal, hmatching⟩
    exact (if_neg (by simp [hpairing, hlink, hanneal])).trans (if_pos (by simp [hmatching]))
  case paired =>
    rintro s ⟨hpairing, hlink, hanneal, hmatching, hshadows⟩
    exact (if_neg (by simp [hpairing, hlink, hanneal])).trans ((if_neg (by simp [hmatching])).trans (if_neg (by simp [hshadows])))
  case heartbeatSend =>
    rintro s ⟨hpaired, hlink, hawake, hdue⟩
    exact congrArg _ (if_pos (by simp only [Bool.and_eq_true, bne_iff_ne]; exact ⟨⟨⟨hpaired, hlink⟩, hawake⟩, hdue⟩))
  case heartbeatTimeout =>
    rintro s ⟨htold, hpassed⟩
    exact congrArg _ (if_neg (by simp [htold, hpassed]))
  case linkLoss | heartbeatReceive =>
    intro s hlink
    exact if_neg (by simp [show s.twin.link = true from hlink])
  case twinLinkFrame =>
    rintro s ⟨hlink, hanneal, hstarted, hawake⟩
    exact if_neg (by simp [hlink, hanneal, hstarted, hawake])
  case wakeLinkTimeout =>
    rintro s ⟨hwaking, hlink, hpassed⟩
    exact congrArg _ (if_pos (by simp [hwaking, hlink, hpassed]))
  case hosOwnerWaitExpiry | hosSilenceExpiry | hosBeacon =>
    rintro s ⟨hholds, hbus, hpassed⟩
    exact congrArg _ (if_pos (by simp [hholds, hbus, hpassed]))
  case hosRefresh =>
    rintro s ⟨hbus, hawake, hpassed⟩
    exact congrArg _ (if_pos (by simp [hbus, hawake, hpassed]))
  case turnRelease =>
    rintro s ⟨hdouble, hswapping, howner, hfrozen, hready, hrelease⟩
    exact (if_neg (by simp [hdouble, hswapping, howner, hfrozen, hready])).trans (if_pos (by simp [hrelease]))
  case turnSwap =>
    rintro s ⟨hdouble, hswapping, howner, hfrozen, hready, hrelease, hwanted⟩
    exact (if_neg (by simp [hdouble, hswapping, howner, hfrozen, hready])).trans
      ((if_neg (by simp [hrelease])).trans (if_neg (by simpa only [Bool.not_eq_true', Bool.not_eq_false] using hwanted)))
  case turnSwapDone =>
    rintro s ⟨hswapping, hpassed⟩
    exact if_neg (by simp [hswapping, hpassed])
  case turnLimitExpiry =>
    rintro s ⟨hdouble, hwanted, hswapping, hforced, hready, hpassed⟩
    exact if_neg (by simp [hdouble, hwanted, hswapping, hforced, hready, hpassed])

end Sys2Proof.Machine
end
